-- ==== Sys2Proof/Word.lean ====
section
/-! DEFINITION. Words, bytes and their plainest arithmetic. -/

namespace Sys2Proof

/-- A byte. -/
abbrev Byte := BitVec 8
/-- A 32-bit field of a register, command, image or record. -/
abbrev U32 := BitVec 32
/-- A 16-bit field. -/
abbrev U16 := BitVec 16
/-- A 64-bit field or register. -/
abbrev U64 := BitVec 64
/-- A 56-bit device address (R168). -/
abbrev DA := BitVec 56
/-- The 32-byte payload of a TCS 3 command (R401), byte 0 least significant. -/
abbrev Payload := BitVec 256

/-- A sparse table: key and value pairs, keys strictly rising. -/
abbrev Table (α : Type) := List (Nat × α)

/-- The value at key `k`; where the table lists none, the type's default. -/
def Table.get {α : Type} [Inhabited α] : Table α → Nat → α
  | [], _ => default
  | (k', v) :: r, k => if k = k' then v else Table.get r k

/-- Writes key `k`, keeping the keys in rising order. -/
def Table.put {α : Type} : Table α → Nat → α → Table α
  | [], k, v => [(k, v)]
  | (k', v') :: r, k, v =>
      if k < k' then (k, v) :: (k', v') :: r
      else if k = k' then (k, v) :: r
      else (k', v') :: Table.put r k v

/-- Drops key `k`. -/
def Table.del {α : Type} (t : Table α) (k : Nat) : Table α :=
  t.filter (fun e => e.1 != k)

/-- Applies `f` to the value at key `k`. -/
def Table.upd {α : Type} [Inhabited α] (t : Table α) (k : Nat) (f : α → α) : Table α :=
  t.put k (f (t.get k))

/-- The listed value at key `k`, if any. -/
def Table.find {α : Type} : Table α → Nat → Option α
  | [], _ => none
  | (k', v) :: r, k => if k = k' then some v else Table.find r k

/-- Saturating addition in `w` bits. -/
def satAdd {w : Nat} (a : BitVec w) (n : Nat) : BitVec w :=
  if a.toNat + n < 2 ^ w then a + BitVec.ofNat w n else BitVec.allOnes w

end Sys2Proof
end

