-- ==== Sys2Proof/Syntax.lean ====
section
/-! DEFINITION. The commands the block takes: one constructor per row of the opcode table, with its operands. -/

namespace Sys2Proof

/-- A tile position: die, and region-major index 36 × region + tile (R1, R138). -/
structure TileRef where
  die : Fin 4
  pos : Fin 288
  deriving DecidableEq, Repr

/-- The 11-bit tile ID: (die << 9) | (region << 6) | tile. -/
def TileRef.id (t : TileRef) : Nat := t.die.val * 512 + t.pos.val / 36 * 64 + t.pos.val % 36

/-- The fields of an instruction word other than OP (R66). -/
structure Fields where
  mod : BitVec 8 := 0
  qa : BitVec 6 := 0
  qb : BitVec 6 := 0
  wi : BitVec 4 := 0
  wn : BitVec 4 := 0
  si : BitVec 4 := 0
  se : BitVec 1 := 0
  ag : BitVec 3 := 0
  agm : BitVec 2 := 0
  td : BitVec 6 := 0
  ta : BitVec 6 := 0
  tb : BitVec 6 := 0
  sa : BitVec 5 := 0
  sb : BitVec 5 := 0
  lc : BitVec 2 := 0
  tc : BitVec 6 := 0
  cnt : BitVec 14 := 0
  imm : BitVec 32 := 0
  deriving DecidableEq, Repr, Inhabited

/-- The sender of a command: a host mailbox, a side-band mailbox, or a tenant session of a partition (R406, R429). -/
inductive Src where
  | host (m : BitVec 4) | side (m : BitVec 2) | tenant (p : BitVec 2)
  deriving DecidableEq, Repr, Inhabited

/-- The header of a mailbox command, its opcode being the row's (R401). -/
structure Hdr where
  src : Src := .host 0
  tag : U32 := 0
  /-- tenant session ID -/
  sid : U32 := 0
  /-- the header's reserved bytes 1 and 12–31 are all 0 -/
  rsvZero : Bool := true
  deriving DecidableEq, Repr, Inhabited

/-- Who waits for a line of a home slice: a line of a tile's request slot, or another requester (R149, R152). -/
inductive ReqSrc where
  | tile (t : TileRef) (slot : Fin 64) | port (tag : U32)
  deriving DecidableEq, Repr

/-- One direction of one dowel group (R141): stack, column, upper group, and away from the compute die. -/
structure DowelRef where
  stack : Fin 4
  col : Fin 288
  upper : Bool
  up : Bool
  deriving DecidableEq, Repr

/-- Link modes of a CXL port (R307). -/
inductive LinkMode where
  | down | cxl31 | cxl30 | cxl20 | cxl11 | pcie6 | pcie5 | pcie4
  deriving DecidableEq, Repr, Inhabited

/-- Host-to-device snoops (R304). -/
inductive SnoopOp where
  | inv | data | cur
  deriving DecidableEq, Repr, Inhabited

/-- What a bring-up finds at a Tenon port (R274, R278, R300). -/
structure BringUp where
  /-- lanes that train in step B1 -/
  lanes : BitVec 8 := 0
  /-- the peer's variant code -/
  part : BitVec 8 := 0
  /-- the peer's node ID, 2^15 or more where it has none -/
  node : U16 := 0
  port : BitVec 8 := 0
  /-- the peer's certificate chain verifies -/
  auth : Bool := true
  deriving DecidableEq, Repr, Inhabited

/-- How the accesses of a copy descriptor end (R312, R326). -/
inductive CopyEnd where
  | ok | poison | timedOut
  deriving DecidableEq, Repr, Inhabited

/-- Collective data that arrives for a job (R280, R292): the header's fields and the payload. -/
structure CollData where
  job : U32 := 0
  epoch : U32 := 0
  seq : U32 := 0
  step : U32 := 0
  hop : U16 := 0
  void : Bool := false
  /-- rank whose shard the data belongs to, for a rank-ring collective -/
  owner : U16 := 0
  /-- first block of 32 parameters, or first tensor of an exact collective -/
  first : U32 := 0
  data : List Byte := []
  /-- the tenant-encrypted payload's tag verifies, where the packet is tenant-encrypted (R439) -/
  tagOk : Bool := true
  deriving DecidableEq, Repr, Inhabited

/-- Activity counters of the last 4 µs (R353): rows 1–11 per die, then rows 12 and 13; row 14 counts what State shows. -/
structure Activity where
  dies : List (List Nat) := []
  hbms : Nat := 0
  ports : Nat := 0
  deriving DecidableEq, Repr, Inhabited

/-- A word of a protected store (R474, R479). -/
inductive WordRef where
  | hbm (word : BitVec 38)
  | sram (word : BitVec 30)
  | store (t : TileRef) (word : BitVec 16)
  deriving DecidableEq, Repr

/-- What a start-up stage finds (R496): what stage 2 reads, and the failing units of stages 6 to 9. -/
structure StageResult where
  /-- stage 2: the selected bank reads back whole from flash, and ROM finds no fault of its own -/
  good : Bool := true
  /-- stage 6: tiles that fail their test, and columns that lack spares -/
  tiles : List TileRef := []
  cols : List (Fin 4 × Fin 288) := []
  /-- stage 7: channels that do not train at 12.0 Gb/s -/
  chans : List (Fin 10 × Fin 32) := []
  /-- stage 7: data lanes that training repairs -/
  lanes : List (Fin 10 × Fin 32 × Nat) := []
  /-- stage 9: memory devices found below port B, capacity in GiB -/
  devs : List Nat := []
  /-- boot time in ms, reported at ready -/
  ms : U32 := 0
  deriving DecidableEq, Repr, Inhabited


/-- The commands and events of the Oakar: one constructor per row of the opcode table, in its order. -/
inductive Instr where
  /-- NOP (R69). A spindle issues NOP, which does nothing apart from its queue, wait and signal fields and completes at issue. -/
  | nop (t : TileRef) (k : Fin 8) (f : Fields)
  /-- HALT (R59). A spindle issues HALT, waits for its issued operations to complete, ends, and closes any accumulation group it holds open. -/
  | halt (t : TileRef) (k : Fin 8) (f : Fields)
  /-- BR (R69). A spindle jumps to an instruction index; a target outside the program faults the blank. -/
  | br (t : TileRef) (k : Fin 8) (f : Fields)
  /-- BRC (R69). A spindle jumps conditionally on a comparison of two scalar registers. -/
  | brc (t : TileRef) (k : Fin 8) (f : Fields)
  /-- LOOP (R69). A spindle sets a loop counter to an immediate value. -/
  | loop (t : TileRef) (k : Fin 8) (f : Fields)
  /-- ENDL (R69). A spindle decrements a loop counter and jumps while the counter is non-zero; ENDL on a counter at zero faults the blank. -/
  | endl (t : TileRef) (k : Fin 8) (f : Fields)
  /-- SMOVI (R69). A spindle writes a sign-extended immediate to a scalar register. -/
  | smovi (t : TileRef) (k : Fin 8) (f : Fields)
  /-- SALU (R69). A spindle performs a scalar ALU operation on two scalar registers. -/
  | salu (t : TileRef) (k : Fin 8) (f : Fields)
  /-- FENCE (R95). A spindle waits until its own requests reach the point of visibility of the fence's scope, then optionally invalidates the tile cache. -/
  | fence (t : TileRef) (k : Fin 8) (f : Fields)
  /-- CINV (R96). A spindle invalidates all 256 lines of the tile cache in 4 beats. -/
  | cinv (t : TileRef) (k : Fin 8) (f : Fields)
  /-- GETID (R69). A spindle reads the tile ID, spindle index, step number, epoch, a loop counter or a stall counter into a scalar register. -/
  | getid (t : TileRef) (k : Fin 8) (f : Fields)
  /-- FLAGRD (R69). A spindle reads a flag slot into a scalar register and clears the slot. -/
  | flagrd (t : TileRef) (k : Fin 8) (f : Fields)
  /-- LDT (R69). A spindle loads 4 KiB from the local store into a tensor register. -/
  | ldt (t : TileRef) (k : Fin 8) (f : Fields)
  /-- STT (R69). A spindle stores a tensor register into 4 KiB of the local store. -/
  | stt (t : TileRef) (k : Fin 8) (f : Fields)
  /-- LDG (R88). A spindle issues a load of 1 to 32 lines from a device address into a tensor register, taking request slots. -/
  | ldg (t : TileRef) (k : Fin 8) (f : Fields)
  /-- STG (R94). A spindle issues a write-through store of 1 to 32 lines from a tensor register to a device address. -/
  | stg (t : TileRef) (k : Fin 8) (f : Fields)
  /-- LDS (R69). A spindle loads 8 bytes of the local store into a scalar register. -/
  | lds (t : TileRef) (k : Fin 8) (f : Fields)
  /-- STS (R69). A spindle stores a scalar register into 8 bytes of the local store. -/
  | sts (t : TileRef) (k : Fin 8) (f : Fields)
  /-- REDG (R157). A spindle issues an exact reduction of 1 to 32 lines into reduction-mode memory-stack lines. -/
  | redg (t : TileRef) (k : Fin 8) (f : Fields)
  /-- QPOP (R69). A spindle moves the head token of an input queue into a segment of a tensor register and returns its credit. -/
  | qpop (t : TileRef) (k : Fin 8) (f : Fields)
  /-- QSEND (R114). A spindle sends a register segment as a token on an output binding, holding the spindle until a credit is available. -/
  | qsend (t : TileRef) (k : Fin 8) (f : Fields)
  /-- MMA (R70). A spindle issues a matrix multiply-accumulate into an accumulation group, opening or closing the group as its mode says. -/
  | mma (t : TileRef) (k : Fin 8) (f : Fields)
  /-- AMOV (R79). A spindle moves part of a closed accumulation group to a tensor register, recording flags and the group's saturation count. -/
  | amov (t : TileRef) (k : Fin 8) (f : Fields)
  /-- ALOAD (R78). A spindle loads an FP32 quarter of an accumulation group from a tensor register, leaving the group Closed and of type FP32. -/
  | aload (t : TileRef) (k : Fin 8) (f : Fields)
  /-- ACLOSE (R74). The owning spindle closes an accumulation group once the MMAs on it have completed. -/
  | aclose (t : TileRef) (k : Fin 8) (f : Fields)
  /-- VADD (R83). A spindle issues an element-wise vector addition. -/
  | vadd (t : TileRef) (k : Fin 8) (f : Fields)
  /-- VSUB (R83). A spindle issues an element-wise vector subtraction. -/
  | vsub (t : TileRef) (k : Fin 8) (f : Fields)
  /-- VMUL (R83). A spindle issues an element-wise vector multiplication. -/
  | vmul (t : TileRef) (k : Fin 8) (f : Fields)
  /-- VFMA (R83). A spindle issues an element-wise fused multiply-add with one rounding. -/
  | vfma (t : TileRef) (k : Fin 8) (f : Fields)
  /-- VMAX (R69). A spindle issues an element-wise maximum. -/
  | vmax (t : TileRef) (k : Fin 8) (f : Fields)
  /-- VMIN (R69). A spindle issues an element-wise minimum. -/
  | vmin (t : TileRef) (k : Fin 8) (f : Fields)
  /-- VDIV (R83). A spindle issues an element-wise division. -/
  | vdiv (t : TileRef) (k : Fin 8) (f : Fields)
  /-- VSQRT (R83). A spindle issues an element-wise square root. -/
  | vsqrt (t : TileRef) (k : Fin 8) (f : Fields)
  /-- VEXP (R83). A spindle issues an element-wise correctly rounded exponential. -/
  | vexp (t : TileRef) (k : Fin 8) (f : Fields)
  /-- VLOG (R83). A spindle issues an element-wise correctly rounded natural logarithm. -/
  | vlog (t : TileRef) (k : Fin 8) (f : Fields)
  /-- VMOV (R69). A spindle copies, negates or takes the absolute value of a vector run. -/
  | vmov (t : TileRef) (k : Fin 8) (f : Fields)
  /-- VOPS (R69). A spindle combines a vector run with an FP32 scalar by add, multiply, max or min. -/
  | vops (t : TileRef) (k : Fin 8) (f : Fields)
  /-- VROW (R69). A spindle combines each row of a run with one element per row. -/
  | vrow (t : TileRef) (k : Fin 8) (f : Fields)
  /-- VRED (R82). A spindle reduces each row of a run by sum, max or amax in the fixed lane order. -/
  | vred (t : TileRef) (k : Fin 8) (f : Fields)
  /-- VCVT (R84). A spindle converts a run between formats with RNE or stochastic rounding, handling block and tensor scales. -/
  | vcvt (t : TileRef) (k : Fin 8) (f : Fields)
  /-- VCVTL (R69). A spindle converts a run between FP32 and VLOG16. -/
  | vcvtl (t : TileRef) (k : Fin 8) (f : Fields)
  /-- VSCALE (R69). A spindle multiplies a run by the product of two FP32 tensor scales, rounding once. -/
  | vscale (t : TileRef) (k : Fin 8) (f : Fields)
  /-- VCMP (R69). A spindle compares two runs element-wise and writes a mask. -/
  | vcmp (t : TileRef) (k : Fin 8) (f : Fields)
  /-- VSEL (R69). A spindle selects between two runs element-wise under a mask. -/
  | vsel (t : TileRef) (k : Fin 8) (f : Fields)
  /-- INSTRUCTION_ISSUE_SELECT (R61). In each beat the sequencer issues the next instruction of the ready spindle that has gone longest without issuing. -/
  | instructionIssueSelect (t : TileRef)
  /-- MMA_COMPLETE (R73). An MMA's last block sum reaches its group, the MMA completes, signals its counter, and a pending close makes the group Closed. -/
  | mmaComplete (t : TileRef)
  /-- VECTOR_OP_COMPLETE (R63). A vector, register-move or local-store operation completes and signals its completion counter. -/
  | vectorOpComplete (t : TileRef) (loc : Bool)
  /-- MEMORY_RESPONSE (R88). A response to a memory request arrives at the tile, frees its slot, and completes the instruction once all its requests are done. -/
  | memoryResponse (t : TileRef) (slot : Fin 64) (err : Bool)
  /-- SLOT_RESERVATION (R90). A memory instruction that has waited 512 beats for slots takes the tile's reservation. -/
  | slotReservation (t : TileRef)
  /-- TILE_IDLE_ON_ONE_SLICE (R91). After every active spindle has waited on slots for 16,384 beats the tile raises an advisory event naming the slice. -/
  | tileIdleOnOneSlice (t : TileRef)
  /-- ACCUMULATION_GROUP_CYCLE (R77). The sequencer reports a cycle of group waits to the Chatter Detector within 64 beats, and the blank faults. -/
  | accumulationGroupCycle (t : TileRef)
  /-- TOKEN_DELIVERED (R114). A token arrives at a queue or steering unit, and it is either queued or, if stale, discarded, counted and reported. -/
  | tokenDelivered (d : Fin 4) (i : Nat)
  /-- STEERING_UNIT_FIRING (R118). A steering unit with both a control token and a data token present drops or copies the data token under its routing word. -/
  | steeringUnitFiring (t : TileRef) (u : Fin 4)
  /-- CHATTER_WINDOW_EXPIRY (R130). A die's no-progress window expires, and the Chatter Detector spills queues or faults the blank. -/
  | chatterWindowExpiry (d : Fin 4)
  /-- SPILL_REFILL (R131). A place freed in a spilled physical queue is refilled from the head of its spill FIFO. -/
  | spillRefill (t : TileRef) (q : Fin 20)
  /-- STAGE_BLANK (R109). Command 0x0210 reads a blank image, checks it, and appends it to the die's staging queue or rejects it with a reason. -/
  | stageBlank (h : Hdr) (p : Payload)
  /-- FORCED_RECHUCK (R126). Command 0x0211 stops, drains and discards the sections of the masked dies and goes on with the next staged blank or to Idle. -/
  | forcedRechuck (h : Hdr) (p : Payload)
  /-- FORCED_RECHUCK_REQUEST_TIMEOUT (R126). A memory request still outstanding 20 µs into a forced rechuck is abandoned and its slot freed. -/
  | forcedRechuckRequestTimeout (d : Fin 4)
  /-- DIE_STATUS (R121). Command 0x0212 returns a die's state, phase, epoch, job, section, staged count and last codes. -/
  | dieStatus (h : Hdr) (p : Payload)
  /-- WITHDRAW_STAGED_BLANKS (R108). Command 0x0213 removes the staged blanks of the masked dies that are not yet past step 6. -/
  | withdrawStagedBlanks (h : Hdr) (p : Payload)
  /-- SET_SHAVINGS_AREA (R133). Command 0x0214 sets a die's shavings area for fault snapshots and spill FIFOs. -/
  | setShavingsArea (h : Hdr) (p : Payload)
  /-- SECTION_END (R122). Every spindle of a die has halted and its operations completed, and the die enters Ending and joins the peer-group barrier. -/
  | sectionEnd (d : Fin 4)
  /-- NORMAL_RECHUCK (R122). Once the section has ended on every die of the peer group, the Chuck settles, collects flag slots and loads the next blank. -/
  | normalRechuck (d : Fin 4)
  /-- PEER_GROUP_EXCHANGE (R123). Once every named die holds a head blank, the dies compare head blanks and proceed or drop them on disagreement. -/
  | peerGroupExchange (d : Fin 4)
  /-- VERSION_GATE_OPEN (R202). The Chuck releases a head blank held at its version gate once the named layers meet the version rules, or faults the peer group. -/
  | versionGateOpen (d : Fin 4)
  /-- BLANK_LOAD (R122). The Chuck writes programs, initial values, preloads, the numerics page and pinned regions, then releases the spindles. -/
  | blankLoad (d : Fin 4)
  /-- PEER_DIE_FAULTED (R128). A die receives a peer's fault signal and faults in the same way. -/
  | peerDieFaulted (d : Fin 4)
  /-- PHASE_COLLECTIVE_WAIT (R136). After 4,096 beats with no MMA or vector completion during an open collective, the Chuck reports the collective-wait phase. -/
  | phaseCollectiveWait (d : Fin 4)
  /-- STEP_OPEN (R411). Command 0x0203 opens a step of a job on the module. -/
  | stepOpen (h : Hdr) (p : Payload)
  /-- VERDICT_CONTRIBUTION (R19). Once local readiness holds, the controller contributes the module's verdict word to the verdict reduction. -/
  | verdictContribution (j : U32)
  /-- STEP_END_TIMEOUT (R21). Readiness has not held within the step-end timeout, so the module contributes discard and logs the open condition. -/
  | stepEndTimeout (j : U32)
  /-- STEP_LIMIT_EXPIRY (R21). The step limit expires before the verdict word is contributed, so the module contributes discard. -/
  | stepLimitExpiry (j : U32)
  /-- VERDICT_APPLY (R241). The decided verdict reaches the module, which commits or discards through steps C1 to C7. -/
  | verdictApply (j : U32) (word : U64)
  /-- BACKGROUND_RESOLVE (R241). The Burnishers resolve every cached PRT entry of the decided step in the background. -/
  | backgroundResolve (n : Fin 10)
  /-- REDERIVATION_COMPLETE (R200). Single-version re-derivation after a discard completes and the layer returns to Reading. -/
  | rederivationComplete (j : U32) (l : U16)
  /-- GENERATOR_PROBE (R49). Command 0x0931 returns the stochastic-rounding draw for the given inputs. -/
  | generatorProbe (h : Hdr) (p : Payload)
  /-- SET_PINNED_POOL (R147). Command 0x0320 checks and applies new pinned sizes for a compute stack, passing its slices through write-back and rebuild. -/
  | setPinnedPool (h : Hdr) (p : Payload)
  /-- STACKED_SRAM_STATUS (R146). Command 0x0321 returns a stack's pool sizes, retirements, spares and reduction lines. -/
  | stackedSramStatus (h : Hdr) (p : Payload)
  /-- SLICE_READ (R152). A read reaches its home slice and hits, attaches to a fill, starts a fill, or finalises a reduction line. -/
  | sliceRead (src : ReqSrc) (da : DA)
  /-- SLICE_WRITE (R151). A write reaches its home slice and updates the line's state, waiting on any outstanding fill. -/
  | sliceWrite (src : ReqSrc) (da : DA) (d : BitVec 1024) (words : BitVec 16)
  /-- SLICE_REDG (R159). A REDG contribution reaches its home slice and is added exactly to the line's accumulators. -/
  | sliceRedg (src : ReqSrc) (da : DA) (fp32 : Bool) (d : BitVec 1024)
  /-- FILL_RETURN (R152). A fill returns from the memory stack and is multicast to every attached requester, and the line becomes Clean. -/
  | fillReturn (da : DA)
  /-- REDUCTION_FILL_RETURN (R160). A reduction fill returns a base-die record or the memory value, which is added, and SEEDED is set. -/
  | reductionFillReturn (da : DA)
  /-- BASE_DIE_ACCESS (R154). A base-die engine accesses a memory stack directly while the home slice snoops it. -/
  | baseDieAccess (j : U32) (da : DA) (w : Option (BitVec 1024))
  /-- INPUT_BUFFER_AGING (R153). A request that has waited 4 µs in a slice input buffer enters its bank queue ahead of younger requests. -/
  | inputBufferAging (s : Fin 4) (i : Fin 64)
  /-- CACHE_SLICE_THRASHING (R155). At the end of a 1 ms window with refills above 25 %, the slice raises an advisory event. -/
  | cacheSliceThrashing (s : Fin 4) (i : Fin 64)
  /-- DOWEL_BEAT_RECEIVE (R142). A dowel group receives a beat, checks its CRC and acknowledges it or withholds the acknowledge for replay. -/
  | dowelBeatReceive (g : DowelRef) (d : BitVec 1024) (crc : U16)
  /-- DOWEL_MARGIN_CHECK (R164). Every 10 s the controller reads the dowel margin monitors and starts sparing for dowels below threshold. -/
  | dowelMarginCheck (g : DowelRef) (below : List (Fin 538))
  /-- DOWEL_SPARING (R164). The controller locates failed dowels and maps free spares in their place. -/
  | dowelSparing (g : DowelRef) (failed : List (Fin 538))
  /-- SET_STATE_REGION (R179). Command 0x0302 places or removes a state region in a memory stack. -/
  | setStateRegion (h : Hdr) (p : Payload)
  /-- READ_STATE_REGION (R178). Command 0x0303 returns the offset and size of a state region. -/
  | readStateRegion (h : Hdr) (p : Payload)
  /-- SET_MEMORY_REGULATORS (R185). Command 0x0310 checks and applies the whole regulator setting of one stack. -/
  | setMemoryRegulators (h : Hdr) (p : Payload)
  /-- REGULATOR_COMMIT (R184). A write of COMMIT to the regulator control register applies every staged regulator setting, or none. -/
  | regulatorCommit (v : U64)
  /-- REGULATOR_SNAPSHOT (R183). A write of SNAP to the regulator control register captures every statistics register. -/
  | regulatorSnapshot (v : U64)
  /-- REGULATOR_WINDOW (R182). Each 1 µs regulator window starts afresh and its guarantees are reset. -/
  | regulatorWindow (n : Fin 10) (waits : BitVec 4)
  /-- MEMORY_STACK_TEMP_SAMPLE (R186). A memory stack's diode and core readout are sampled, the governing temperature is formed and thermal stages are applied. -/
  | memoryStackTempSample (n : Fin 10) (diode : Int) (readout : Option Int)
  /-- MEMORY_THERMAL_STEP_DOWN (R188). Every 10 ms in stage 3 the controller steps each home compute stack down one operating point. -/
  | memoryThermalStepDown (n : Fin 10)
  /-- MEMORY_THERMAL_STEP_UP (R189). Every 100 ms after stage 3 ends the controller raises each compute stack one operating point. -/
  | memoryThermalStepUp (d : Fin 4)
  /-- SET_WEIGHT_LAYER (R197). Command 0x0340 registers or removes a weight layer. -/
  | setWeightLayer (h : Hdr) (p : Payload)
  /-- SET_VERSION_MODE (R197). Command 0x0341 selects dual- or single-version mode for a job. -/
  | setVersionMode (h : Hdr) (p : Payload)
  /-- WEIGHT_LAYER_STATUS (R197). Command 0x0342 returns a layer's version state, holders and landing progress. -/
  | weightLayerStatus (h : Hdr) (p : Payload)
  /-- SET_OPTIMISER_PROFILE (R222). Command 0x0350 reads and checks an optimiser profile record. -/
  | setOptimiserProfile (h : Hdr) (p : Payload)
  /-- SET_UPDATE_DISCIPLINE (R237). Command 0x0351 sets a job's update discipline and committed-update count. -/
  | setUpdateDiscipline (h : Hdr) (p : Payload)
  /-- ASSIGN_BLOCKS (R226). Command 0x0352 assigns or removes consecutive PRT entries for a run of panels. -/
  | assignBlocks (h : Hdr) (p : Payload)
  /-- MOVE_BLOCK_STATE (R228). Command 0x0353 moves the live master and moments of blocks to a new placement. -/
  | moveBlockState (h : Hdr) (p : Payload)
  /-- LOAD_BLOCK_STATE (R227). Command 0x0354 loads a block-state image into live slots and derives the working copies. -/
  | loadBlockState (h : Hdr) (p : Payload)
  /-- SAVE_BLOCK_STATE (R227). Command 0x0355 writes the live slots of blocks as a block-state image. -/
  | saveBlockState (h : Hdr) (p : Payload)
  /-- DRIFT_AUDIT (R244). Command 0x0356 re-derives working copies from masters and reports mismatches. -/
  | driftAudit (h : Hdr) (p : Payload)
  /-- LOAD_WORKING_WEIGHTS (R228). Command 0x0357 writes both orders of the current version of non-owned panels of a Landing layer. -/
  | loadWorkingWeights (h : Hdr) (p : Payload)
  /-- BURNISHER_STATUS (R224). Command 0x0358 returns a stack's Burnisher discipline, counts and verdict state. -/
  | burnisherStatus (h : Hdr) (p : Payload)
  /-- BLOCK_LANDING (R229). A reduced block lands at its Burnisher and is folded into the pending store, and any slow-tier fetch is issued. -/
  | blockLanding (j : U32) (l : U16) (panel : BitVec 20) (g : List U32)
  /-- BLOCK_APPLY (R232). A Burnisher applies a block's update to master, moments and working copies once its waits have ended. -/
  | blockApply (n : Fin 10) (i : BitVec 24)
  /-- SLOW_TIER_FETCH_RETURN (R240). A slow-tier fetch for a block returns, and the block becomes ready to apply or fails on poison or error. -/
  | slowTierFetchReturn (n : Fin 10) (i : BitVec 24) (bad : Bool)
  /-- SLOW_TIER_FETCH_TIMEOUT (R240). A slow-tier fetch not returned within 50 ms fails, and the module will contribute discard. -/
  | slowTierFetchTimeout (n : Fin 10) (i : BitVec 24)
  /-- SET_JOB_NUMERICS (R252). Command 0x0230 sets guard enables, the carry area and guard thresholds of a job. -/
  | setJobNumerics (h : Hdr) (p : Payload)
  /-- SET_LAYER_NUMERICS (R252). Command 0x0231 sets a layer's gradient class, margin, grades, sampling and carry offset. -/
  | setLayerNumerics (h : Hdr) (p : Payload)
  /-- SAVE_NUMERICS_STATE (R261). Command 0x0232 writes the numerics table, histories and grades to memory. -/
  | saveNumericsState (h : Hdr) (p : Payload)
  /-- LOAD_NUMERICS_STATE (R261). Command 0x0233 checks and loads a numerics state image. -/
  | loadNumericsState (h : Hdr) (p : Payload)
  /-- NUMERICS_STATUS (R252). Command 0x0234 returns watched-tensor counts and the last verdict word. -/
  | numericsStatus (h : Hdr) (p : Payload)
  /-- PORT_STATUS (R302). Command 0x0801 returns a Tenon port's state, lanes, neighbour and error counts. -/
  | portStatus (h : Hdr) (p : Payload)
  /-- PORT_CONTROL (R302). Command 0x0802 brings masked Tenon ports down or up. -/
  | portControl (h : Hdr) (p : Payload)
  /-- ARBITRATION_WEIGHTS (R287). Command 0x0803 sets the deficit-round-robin weights of the three classes. -/
  | arbitrationWeights (h : Hdr) (p : Payload)
  /-- PORT_BRING_UP (R278). A cabled Tenon port runs link training, FEC lock, flit lock, identity exchange and authentication to come up. -/
  | portBringUp (p : Fin 9) (r : BringUp)
  /-- PORT_BRING_UP_STEP_TIMEOUT (R278). A bring-up step that exceeds its bound leaves the port down. -/
  | portBringUpStepTimeout (p : Fin 9) (b : Fin 6)
  /-- FLIT_RECEIVE (R276). A flit arrives, is checked and delivered or discarded with a NAK, and its ACK and credits are taken. -/
  | flitReceive (p : Fin 9) (flit : BitVec 2048)
  /-- LINK_REPLAY_TIMEOUT (R276). With no ACK progress for 2 µs the sender replays from ACK + 1. -/
  | linkReplayTimeout (p : Fin 9)
  /-- ACTIVE_LINK_FAILURE (R279). An active link fails and, where a standby joins the modules, its traffic moves to the standby. -/
  | activeLinkFailure (p : Fin 9)
  /-- PACKET_RECEIVE (R280). A packet arrives at a module, has its tag checked, and is forwarded or consumed locally. -/
  | packetReceive (p : Fin 9) (hdr : BitVec 256) (body : List Byte) (tag : BitVec 128)
  /-- PEER_RESPONSE (R289). A response to a peer request reaches the requester, and a non-zero status faults the blank. -/
  | peerResponse (tag : U16) (status : Byte) (body : List Byte)
  /-- LINK_REKEY (R300). After 2^36 packets or 24 hours the link ends derive a new key and flip the key phase. -/
  | linkRekey (p : Fin 9)
  /-- OLD_KEY_EXPIRY (R300). The old link key stops being valid 1 ms after re-keying. -/
  | oldKeyExpiry (p : Fin 9)
  /-- COLLECTIVE_ISSUE (R292). The I/O dies issue the next collective of the fixed order once its condition holds. -/
  | collectiveIssue (j : U32)
  /-- COLLECTIVE_DATA_RECEIVE (R294). Collective data arrives and is combined, held in the hold area, dropped, or answered with a step mismatch. -/
  | collectiveDataReceive (c : CollData)
  /-- ALL_GATHER_PANEL_RECEIVE (R24). An all-gather panel is written in both orders, and a layer whose panels have all landed enters Reading. -/
  | allGatherPanelReceive (j : U32) (l : U16) (panel : BitVec 20) (d : List Byte)
  /-- MEMBERSHIP_CHANGE (R298). Command 0x0810 installs a new membership epoch, aborting collectives that include departed members. -/
  | membershipChange (h : Hdr) (p : Payload)
  /-- RANK_MAP (R290). Command 0x0811 sets a job's rank map. -/
  | rankMap (h : Hdr) (p : Payload)
  /-- COLLECTIVE_PLAN (R290). Command 0x0812 sets a job's collective plan and hold area. -/
  | collectivePlan (h : Hdr) (p : Payload)
  /-- COLLECTIVE_STATUS (R299). Command 0x0813 returns the epoch, next sequence number, collectives in flight and last abort. -/
  | collectiveStatus (h : Hdr) (p : Payload)
  /-- REISSUE_REDUCTION (R299). Command 0x0814 re-issues an aborted scale, Calipers or verdict reduction under the new epoch. -/
  | reissueReduction (h : Hdr) (p : Payload)
  /-- SET_INBOUND_MAP_ENTRY (R288). Command 0x0820 sets an entry of the peer-window inbound map. -/
  | setInboundMapEntry (h : Hdr) (p : Payload)
  /-- CXL_PORT_LINK_UP (R307). A CXL port trains to its highest common mode and width and logs its mode. -/
  | cxlPortLinkUp (b : Bool) (m : LinkMode) (x16 : Bool)
  /-- CXL_PORT_LINK_DOWN (R309). A CXL port goes down and every request outstanding on it ends with an error. -/
  | cxlPortLinkDown (b : Bool)
  /-- HOST_SNOOP (R306). A host-to-device snoop arrives on port A and is answered without data, tearing any leased region it invalidates. -/
  | hostSnoop (op : SnoopOp) (hpa : U64)
  /-- SLOW_TIER_TRANSACTION_COMPLETE (R312). A CXL.mem transaction on port B completes, delivering data or poison to its requester. -/
  | slowTierTransactionComplete (t : TileRef) (slot : Fin 64) (poison : Bool)
  /-- SLOW_TIER_TRANSACTION_TIMEOUT (R312). A port B transaction not completed after 10 ms ends with an error. -/
  | slowTierTransactionTimeout (t : TileRef) (slot : Fin 64)
  /-- SET_SLOW_TIER_MAP (R311). Command 0x0360 sets the slow-tier range map and programs the HDM decoders. -/
  | setSlowTierMap (h : Hdr) (p : Payload)
  /-- SLOW_TIER_DEVICE (R311). Command 0x0361 reports a port B device and optionally enumerates the hierarchy again. -/
  | slowTierDevice (h : Hdr) (p : Payload)
  /-- SET_HOST_RANGE (R310). Command 0x0362 maps or removes a host-memory range. -/
  | setHostRange (h : Hdr) (p : Payload)
  /-- SET_TAILSTOCK_AREA (R319). Command 0x0363 sets a job's Tailstock tag area. -/
  | setTailstockArea (h : Hdr) (p : Payload)
  /-- TAILSTOCK_STATUS (R327). Command 0x0364 returns Tailstock lease, tear, refetch and signal counts. -/
  | tailstockStatus (h : Hdr) (p : Payload)
  /-- TAILSTOCK_RECORD_START (R315). A waiting Tailstock record starts once fewer than 16 run and no earlier record of its region runs. -/
  | tailstockRecordStart (i : Nat)
  /-- OFFLOAD_WRITES_COMPLETE (R320). The last write of an off-load becomes globally visible and the lease read-back starts. -/
  | offloadWritesComplete (r : BitVec 12)
  /-- LEASE_READBACK_COMPLETE (R320). The RdShared read-back of a host copy ends and the region becomes Leased. -/
  | leaseReadbackComplete (r : BitVec 12)
  /-- TAILSTOCK_FETCH_COMPLETE (R321). A fetch's data has arrived, and it completes, refetches once, or faults on a second tear or a tag mismatch. -/
  | tailstockFetchComplete (r : BitVec 12)
  /-- COPY_ENGINE_COMMIT (R325). A write of COMMIT to the copy-engine control register applies the staged registers of all eight engines, or none. -/
  | copyEngineCommit (v : U64)
  /-- COPY_ENGINE_TAIL_WRITE (R325). A write to an engine's TAIL register starts the engine on the new descriptors. -/
  | copyEngineTailWrite (e : Fin 8) (v : U64)
  /-- COPY_DESCRIPTOR_COMPLETE (R326). A copy descriptor completes and writes its status, halting the engine on an error. -/
  | copyDescriptorComplete (e : Fin 8) (how : CopyEnd)
  /-- SET_PREFERRED_POINTS (R337). Command 0x0401 sets the preferred operating point per phase and the dwell for masked dies. -/
  | setPreferredPoints (h : Hdr) (p : Payload)
  /-- READ_CHARACTERISED_TABLE (R333). Command 0x0403 returns a tile's or a die's minimum characterised rates and coefficients. -/
  | readCharacterisedTable (h : Hdr) (p : Payload)
  /-- READ_WEAR_LEDGER (R340). Command 0x0404 returns a die's operating and boost seconds, balance and cap state. -/
  | readWearLedger (h : Hdr) (p : Payload)
  /-- SET_STEADY_REST (R347). Command 0x0405 checks and applies one die's Steady Rest setting. -/
  | setSteadyRest (h : Hdr) (p : Payload)
  /-- PACE_COMMIT (R347). A write of COMMIT to the beat and pace control register applies the staged Steady Rest settings of all dies, or none. -/
  | paceCommit (v : U64)
  /-- BEAT_SNAPSHOT (R346). A write of SNAP to the beat and pace control register captures every beat and skip counter. -/
  | beatSnapshot (v : U64)
  /-- POINT_SELECTION (R335). Every 100 µs the controller selects each die's target point from preference, Flywheel floor and ceilings, or the paced point. -/
  | pointSelection (proj : List (List Nat))
  /-- PACED_POINT_LOWER (R342). After the rule has allowed a lower point for 1 s without interruption, the paced die's point is lowered. -/
  | pacedPointLower (d : Fin 4)
  /-- PHASE_DWELL_EXPIRY (R336). A new phase that has held for the dwell time makes its preferred point take effect. -/
  | phaseDwellExpiry (d : Fin 4)
  /-- BEAT_MONITOR_CHECK (R334). Every 100 ms each region's beat monitor is compared with its characterised floor. -/
  | beatMonitorCheck (d : Fin 4) (r : Fin 8) (rate : Nat)
  /-- WEAR_LEDGER_TICK (R338). Each millisecond the wear ledger counts operating and boost time and applies or lifts the P4 cap. -/
  | wearLedgerTick (boost : BitVec 4)
  /-- WEAR_LEDGER_SAVE (R340). Every 60 s the controller writes each wear ledger to flash. -/
  | wearLedgerSave
  /-- FAST_POWER_LOOP (R353). Every 4 µs the controller forms the activity estimate and cuts or restores firing ratios against the limits. -/
  | fastPowerLoop (act : Activity)
  /-- TELEMETRY_CROSS_CHECK (R354). Every 100 µs the controller compares the mean estimate with regulator telemetry and moves between Agree, Disagree and Fallback. -/
  | telemetryCrossCheck (meas : Nat) (mean : Nat)
  /-- ESTIMATE_FALLBACK_TIMER (R355). Disagreement held for 10 s enters Fallback, and agreement held for 100 ms or 60 s returns to Agree. -/
  | estimateFallbackTimer
  /-- ACTIVITY_REFIT_COMPLETE (R355). At the end of a refit second the fitted activity weights take effect. -/
  | activityRefitComplete (w : List Nat)
  /-- REGION_PARK_TICK (R352). At most once per millisecond the controller parks or unparks one region for the cap. -/
  | regionParkTick (unpark : Bool)
  /-- ELECTRICAL_LIMIT_TIMER (R359). After 20 ms above 2,600 W the ceiling steps down to the highest point projected at or below 2,600 W. -/
  | electricalLimitTimer (proj : List Nat)
  /-- BOOST_WINDOW_EXHAUSTED (R359). The boost budget empties and the ceiling steps to the highest point at or below rated draw. -/
  | boostWindowExhausted (proj : List Nat)
  /-- THERMAL_LOOP (R360). Each thermal period the controller advances the column model, checks diodes and forms governing temperatures. -/
  | thermalLoop (d : Fin 4) (read : List Int) (act : List Nat)
  /-- HEAT_TOKEN_PLAN (R363). Every 10 µs the planner computes heat-token grants and region firing limits from margins and activity. -/
  | heatTokenPlan (d : Fin 4) (busy : List Nat)
  /-- DIE_THERMAL_CEILING_STEP (R364). Every 10 ms of throttling lowers the die's thermal ceiling, and every 100 ms of margin raises it. -/
  | dieThermalCeilingStep (d : Fin 4)
  /-- REGION_PARKED_AT_CRITICAL_TEMPERATURE (R364). A governing temperature 5 °C over its limit for 1 ms parks the region at once. -/
  | regionParkedAtCriticalTemperature (d : Fin 4) (r : Fin 8)
  /-- HARDWARE_THERMAL_TRIP (R364). The independent comparator removes VDD_CORE from a die whose diode reads 115 °C. -/
  | hardwareThermalTrip (d : Fin 4)
  /-- FLYWHEEL_PERIOD (R366). Every 100 µs the Flywheel computes its bounds and adjusts ballast and floor points. -/
  | flywheelPeriod (a1 : Nat) (aw : Nat) (full : Bool)
  /-- START_OFFSET_EXPIRY (R367). The start offset ends and d_high may rise along the ramp. -/
  | startOffsetExpiry
  /-- STOP_RAMP (R367). Every die idle for 100 µs in an open job, or job close, begins the stop ramp. -/
  | stopRamp
  /-- POWER_COMMIT (R369). A write of COMMIT to the power and load control register applies the staged Flywheel, cap and die-cap values, or none. -/
  | powerCommit (v : U64)
  /-- POWER_SNAPSHOT (R368). A write of SNAP to the power and load control register captures both snapshot registers. -/
  | powerSnapshot (v : U64)
  /-- SET_POWER_LIMITS (R370). Command 0x0402 sets the requester's cap, boost bit and die caps. -/
  | setPowerLimits (h : Hdr) (p : Payload)
  /-- POWER_STATUS (R370). Command 0x0406 returns the power snapshot registers, disagreement and ballast levels. -/
  | powerStatus (h : Hdr) (p : Payload)
  /-- THERMAL_STATUS (R370). Command 0x0407 returns readings, model values or governing temperatures and trust states. -/
  | thermalStatus (h : Hdr) (p : Payload)
  /-- SET_FLYWHEEL (R370). Command 0x0410 applies a whole Flywheel setting. -/
  | setFlywheel (h : Hdr) (p : Payload)
  /-- METER_UPDATE (R372). Every 1 ms the meter updates its energy register and drives a verification pulse at each 100 mWh crossing. -/
  | meterUpdate (imported : Nat) (power volt curr : U32)
  /-- VERIFICATION_PULSE_END (R382). The verification pulse output switches off 10 ms after it switched on. -/
  | verificationPulseEnd
  /-- METER_START (R374). The 54 V input enters 40–60 V, the meter starts, counts a power cycle and checks its cover. -/
  | meterStart (broken : Bool) (selfTest : Bool)
  /-- METER_SUPPLY_LOSS (R374). The 54 V input falls below 40 V, and the meter saves its register and stops. -/
  | meterSupplyLoss
  /-- COVER_OPENED (R376). The break-wire breaks, and the meter logs it and flags every later record. -/
  | coverOpened
  /-- READ_ENERGY_RECORD (R379). Meter request 0x01 returns a signed energy record carrying the reader's nonce. -/
  | readEnergyRecord (nonce : BitVec 256)
  /-- READ_LOG (R378). Meter request 0x02 returns signed metrological log entries. -/
  | readLog (nonce : BitVec 256) (first : U16) (count : Byte)
  /-- METER_IDENTITY (R378). Meter request 0x03 returns the meter serial and firmware identity. -/
  | meterIdentity (nonce : BitVec 256)
  /-- METER_SPDM_REQUEST (R377). The meter answers an SPDM request with its own certificate chain and measurement. -/
  | meterSpdmRequest (code : Byte) (body : List Byte)
  /-- MIRROR_FRAME (R383). Every 10 ms a mirror frame reaches the controller and is taken or dropped for CRC. -/
  | mirrorFrame (seq : U32) (power volt curr : U32) (good : Bool)
  /-- MIRROR_LOST (R384). Ten missing frames in a row mark the mirror lost and abandon any refit. -/
  | mirrorLost
  /-- METER_MIRROR_STATUS (R385). Command 0x0420 returns the values of the last good mirror frame. -/
  | meterMirrorStatus (h : Hdr) (p : Payload)
  /-- CORE_HEARTBEAT_MISS (R388). A core that misses 5 heartbeats is restarted by the watchdog, and repeated restarts enter degraded state. -/
  | coreHeartbeatMiss (c : Fin 4)
  /-- CORE_RESTARTED (R388). A restarted core resumes from the settings in force after its restart. -/
  | coreRestarted (c : Fin 4)
  /-- SETTINGS_COPY_CHECK (R388). Every 1 ms the watchdog compares each core's settings CRC with the master copy and reloads on two mismatches. -/
  | settingsCopyCheck (c : Fin 4) (same : Bool)
  /-- MAILBOX_GO (R398). A host write of GO hands a mailbox's latched command to the controller. -/
  | mailboxGo (m : BitVec 4) (v : U64)
  /-- COMMAND_COMPLETION (R398). The controller writes a command's response, optionally to host memory, sets DONE and sends MSI-X. -/
  | commandCompletion (visible : Bool)
  /-- SIDEBAND_MAILBOX_REQUEST (R400). An MCTP side-band request hands a command to a side-band mailbox or is answered busy or invalid. -/
  | sidebandMailboxRequest (eid : Byte) (body : List Byte)
  /-- REGISTER_WRITE (R12). A write to a BAR0 register without a row of its own updates, stages or clears its fields, or is logged as malformed. -/
  | registerWrite (off : BitVec 22) (size : BitVec 7) (v : BitVec 512)
  /-- INTERRUPT_COMMIT (R393). A write of COMMIT to the interrupt control register applies the staged vector map. -/
  | interruptCommit (v : U64)
  /-- MULTI_COMMIT (R395). A write to MCOMMIT commits every named staged block together, or none. -/
  | multiCommit (v : U64)
  /-- GLOBAL_SNAPSHOT (R396). A write of SNAP to the snapshot block captures every SN field of BAR0. -/
  | globalSnapshot (v : U64)
  /-- DEVICE_IDENTITY (R408). Command 0x0101 returns the part number, serial, variant, command sets and manifest version. -/
  | deviceIdentity (h : Hdr) (p : Payload)
  /-- DEVICE_STATUS (R408). Command 0x0102 returns the status-block registers or the last-fault register. -/
  | deviceStatus (h : Hdr) (p : Payload)
  /-- JOB_OPEN (R409). Command 0x0201 assigns dies to a job with its ranks, seed, timeouts and first step. -/
  | jobOpen (h : Hdr) (p : Payload)
  /-- JOB_CLOSE (R410). Command 0x0202 closes a job, forcing its dies idle, resolving entries and releasing Tailstock regions. -/
  | jobClose (h : Hdr) (p : Payload)
  /-- RESTORE_JOB (R412). Command 0x0204 begins or ends the restore of a job's state from a checkpoint. -/
  | restoreJob (h : Hdr) (p : Payload)
  /-- IDENTIFY (R414). TCS 2 command 0x01 executes as device identity. -/
  | identify (h : Hdr) (p : BitVec 384)
  /-- STATUS (R414). TCS 2 command 0x02 executes as device status. -/
  | status (h : Hdr) (p : BitVec 384)
  /-- OPEN_JOB (R414). TCS 2 command 0x10 opens a Vane job that runs only format 2 blanks. -/
  | openJob (h : Hdr) (p : BitVec 384)
  /-- LOAD_IMAGE (R414). TCS 2 command 0x11 stages a format 2 blank. -/
  | loadImage (h : Hdr) (p : BitVec 384)
  /-- RESET_DIE (R414). TCS 2 command 0x12 executes as a forced rechuck. -/
  | resetDie (h : Hdr) (p : BitVec 384)
  /-- CLOSE_JOB (R414). TCS 2 command 0x13 executes as job close. -/
  | closeJob (h : Hdr) (p : BitVec 384)
  /-- STEP (R414). TCS 2 command 0x14 executes as step open. -/
  | step (h : Hdr) (p : BitVec 384)
  /-- SET_POWER_LIMIT (R414). TCS 2 command 0x20 sets the cap only, with boost allowed. -/
  | setPowerLimit (h : Hdr) (p : BitVec 384)
  /-- READ_POWER (R414). TCS 2 command 0x21 executes as power status. -/
  | readPower (h : Hdr) (p : BitVec 384)
  /-- TCS2_READ_LOG (R414). TCS 2 command 0x30 executes as a ring-log read. -/
  | tcs2ReadLog (h : Hdr) (p : BitVec 384)
  /-- TCS2_UNSUPPORTED_OPCODE (R414). Any other TCS 2 opcode returns unsupported status. -/
  | tcs2UnsupportedOpcode (h : Hdr) (op : Byte) (p : BitVec 384)
  /-- ENTDAA (R415). The board controller assigns the endpoint's dynamic I3C address. -/
  | entdaa (a : BitVec 7)
  /-- SMBUS_FALLBACK (R415). Addressing the static address as an I2C target makes the endpoint run SMBus. -/
  | smbusFallback
  /-- SET_ENDPOINT_ID (R415). MCTP control message Set Endpoint ID assigns the endpoint ID. -/
  | setEndpointId (from_ : Byte) (op : Byte) (eid : Byte)
  /-- GET_ENDPOINT_ID (R415). MCTP control message Get Endpoint ID returns the endpoint ID. -/
  | getEndpointId
  /-- GET_ENDPOINT_UUID (R415). MCTP control message Get Endpoint UUID returns the UUID. -/
  | getEndpointUuid
  /-- GET_MCTP_VERSION_SUPPORT (R415). MCTP control message returns supported MCTP versions. -/
  | getMctpVersionSupport (ty : Byte)
  /-- GET_MESSAGE_TYPE_SUPPORT (R415). MCTP control message returns supported message types. -/
  | getMessageTypeSupport
  /-- GET_VENDOR_DEFINED_MESSAGE_SUPPORT (R415). MCTP control message returns vendor-defined message support. -/
  | getVendorDefinedMessageSupport (sel : Byte)
  /-- GETTID (R416). PLDM GetTID returns the terminus ID. -/
  | gettid
  /-- GETPLDMVERSION (R416). PLDM GetPLDMVersion returns supported versions. -/
  | getpldmversion (ty : Byte)
  /-- GETPLDMTYPES (R416). PLDM GetPLDMTypes returns the three supported types. -/
  | getpldmtypes
  /-- GETPLDMCOMMANDS (R416). PLDM GetPLDMCommands returns supported commands of a type. -/
  | getpldmcommands (ty : Byte)
  /-- GETPDR (R416). PLDM GetPDR returns platform descriptor records. -/
  | getpdr (rec_ : U32)
  /-- GETSENSORREADING (R417). PLDM GetSensorReading returns a numeric sensor of R417. -/
  | getsensorreading (id : U16)
  /-- GETSTATESENSORREADINGS (R417). PLDM GetStateSensorReadings returns the STATE sensor. -/
  | getstatesensorreadings (id : U16)
  /-- SETEVENTRECEIVER (R416). PLDM SetEventReceiver sets where platform events go. -/
  | seteventreceiver (enable : Byte) (eid : Byte)
  /-- POLLFORPLATFORMEVENTMESSAGE (R416). PLDM PollForPlatformEventMessage returns a pending event record. -/
  | pollforplatformeventmessage
  /-- QUERYDEVICEIDENTIFIERS (R416). PLDM QueryDeviceIdentifiers returns the device identifiers. -/
  | querydeviceidentifiers
  /-- GETFIRMWAREPARAMETERS (R416). PLDM GetFirmwareParameters returns the firmware component parameters. -/
  | getfirmwareparameters
  /-- REQUESTUPDATE (R453). PLDM RequestUpdate starts a firmware update from the side-band. -/
  | requestupdate (comps : U16)
  /-- PASSCOMPONENTTABLE (R416). PLDM PassComponentTable passes the single manifest component. -/
  | passcomponenttable (comp : U16)
  /-- UPDATECOMPONENT (R416). PLDM UpdateComponent starts transfer of the manifest package. -/
  | updatecomponent (comp : U16) (size : U32)
  /-- REQUESTFIRMWAREDATA_RESPONSE (R453). A chunk of the package arrives in answer to RequestFirmwareData and is applied. -/
  | requestfirmwaredataResponse (d : List Byte)
  /-- ACTIVATEFIRMWARE (R453). PLDM ActivateFirmware executes as Activate. -/
  | activatefirmware
  /-- GETSTATUS (R416). PLDM GetStatus returns the update status. -/
  | getstatus
  /-- CANCELUPDATE (R455). PLDM CancelUpdate cancels the update as Cancel update does. -/
  | cancelupdate
  /-- GET_VERSION (R423). SPDM GET_VERSION returns versions 1.2 and 1.3. -/
  | getVersion
  /-- GET_CAPABILITIES (R423). SPDM GET_CAPABILITIES returns the supported capabilities. -/
  | getCapabilities (caps : U32)
  /-- NEGOTIATE_ALGORITHMS (R423). SPDM NEGOTIATE_ALGORITHMS settles the supported algorithms. -/
  | negotiateAlgorithms (ok : Bool)
  /-- GET_DIGESTS (R423). SPDM GET_DIGESTS returns the digest of certificate slot 0. -/
  | getDigests
  /-- GET_CERTIFICATE (R421). SPDM GET_CERTIFICATE returns the root, model, unit and alias chain. -/
  | getCertificate (slot : Byte) (off len : U16)
  /-- CHALLENGE (R422). SPDM CHALLENGE returns a response signed by the alias key. -/
  | challenge (slot : Byte) (nonce : BitVec 256)
  /-- GET_MEASUREMENTS (R424). SPDM GET_MEASUREMENTS returns the measurement blocks, signed. -/
  | getMeasurements (index : Byte) (sign : Bool) (nonce : BitVec 256)
  /-- KEY_EXCHANGE (R423). SPDM KEY_EXCHANGE starts a session, or fails beyond 8 sessions. -/
  | keyExchange (doe : Bool) (exch : BitVec 768)
  /-- FINISH (R423). SPDM FINISH completes a session handshake. -/
  | finish (sid : U32) (mac : BitVec 512)
  /-- HEARTBEAT (R423). SPDM HEARTBEAT keeps a session alive. -/
  | heartbeat (sid : U32)
  /-- SPDM_HEARTBEAT_TIMEOUT (R435). Missed heartbeats end a session while any sealed partition stays sealed. -/
  | spdmHeartbeatTimeout (sid : U32)
  /-- KEY_UPDATE (R423). SPDM KEY_UPDATE updates session keys. -/
  | keyUpdate (sid : U32)
  /-- END_SESSION (R435). SPDM END_SESSION ends a session, leaving any sealed partition sealed. -/
  | endSession (sid : U32)
  /-- CLAIM (R433). Tenant request 0x10 seals a partition: it clears resources, scrubs, loads keys and binds mailboxes. -/
  | claim (sid : U32) (part : Byte) (idle : U32) (pub : BitVec 456) (key : BitVec 256) (area : U64)
  /-- ATTACH (R435). Tenant request 0x11 reattaches a session to a sealed partition. -/
  | attach (sid : U32) (part : Byte) (sig : BitVec 912)
  /-- RELEASE (R436). Tenant request 0x12 releases the partition, closing jobs, destroying keys and scrubbing. -/
  | release (sid : U32) (part : Byte)
  /-- TENANT_COMMAND (R432). Tenant request 0x13 carries a TCS 3 command inside the session and returns its response. -/
  | tenantCommand (sid : U32) (cmd : BitVec 512)
  /-- INACTIVITY_TIMEOUT (R435). No session attached for the inactivity timeout releases the partition. -/
  | inactivityTimeout (p : Fin 4)
  /-- SET_PARTITIONING (R425). Command 0x0501 switches partitioning on or off. -/
  | setPartitioning (h : Hdr) (p : Payload)
  /-- SET_PARTITION_RESOURCES (R428). Command 0x0502 sets a partition's host ranges and slow-tier share. -/
  | setPartitionResources (h : Hdr) (p : Payload)
  /-- PARTITION_STATUS (R441). Command 0x0503 returns a partition's state, session, claim count and IDE state. -/
  | partitionStatus (h : Hdr) (p : Payload)
  /-- FORCED_RELEASE (R436). Command 0x0504 lets the operator release a sealed partition. -/
  | forcedRelease (h : Hdr) (p : Payload)
  /-- DEBUG_LOCK (R444). Command 0x0510 locks the debug block until AUX is next removed. -/
  | debugLock (h : Hdr) (p : Payload)
  /-- DEBUG_WINDOW_ACCESS (R444). An access to a debug window is served or refused by DSTATE. -/
  | debugWindowAccess (off : BitVec 20) (w : Option U64)
  /-- SEALED_IMPORT (R440). Command 0x0520 decrypts and checks host ciphertext into the partition. -/
  | sealedImport (h : Hdr) (p : Payload)
  /-- SEALED_EXPORT (R440). Command 0x0521 encrypts partition data into host memory. -/
  | sealedExport (h : Hdr) (p : Payload)
  /-- IDE_STREAM_LOST (R441). A required IDE stream leaves the secure state while a partition is sealed, and its sealed traffic fails. -/
  | ideStreamLost (b : Bool) (mem : Bool)
  /-- START_UPDATE (R454). Command 0x0601 checks a package manifest and starts the background update. -/
  | startUpdate (h : Hdr) (p : Payload)
  /-- UPDATE_BACKGROUND (R454). Core 3 erases the inactive bank, applies delta blocks, checks hashes and marks the bank verified. -/
  | updateBackground
  /-- UPDATE_STATUS (R453). Command 0x0602 returns the update state and bank versions. -/
  | updateStatus (h : Hdr) (p : Payload)
  /-- ACTIVATE (R456). Command 0x0603 writes the boot selector to a verified bank as trial, optionally resetting. -/
  | activate (h : Hdr) (p : Payload)
  /-- CANCEL_UPDATE (R455). Command 0x0604 stops the update at the next block and invalidates the inactive bank. -/
  | cancelUpdate (h : Hdr) (p : Payload)
  /-- MODULE_RESET (R501). Command 0x0605 resets the module, with or without force. -/
  | moduleReset (h : Hdr) (p : Payload)
  /-- COMMIT_SECURITY_VERSION (R458). Command 0x0606 raises the fused minimum security version. -/
  | commitSecurityVersion (h : Hdr) (p : Payload)
  /-- READ_RECORD (R468). Command 0x0701 returns one ring-log record. -/
  | readRecord (h : Hdr) (p : Payload)
  /-- RING_LOG_STATUS (R468). Command 0x0702 returns ring-log counts and flags. -/
  | ringLogStatus (h : Hdr) (p : Payload)
  /-- CLEAR (R471). Command 0x0703 checks a signed authorisation and erases the ring log. -/
  | clear (h : Hdr) (p : Payload)
  /-- GET_NONCE (R470). Command 0x0704 returns a fresh nonce and clears the staging buffer. -/
  | getNonce (h : Hdr) (p : Payload)
  /-- NONCE_EXPIRY (R470). A nonce expires 60 s after issue. -/
  | nonceExpiry
  /-- STAGE_AUTHORISATION (R470). Command 0x0705 writes one chunk of a signed authorisation. -/
  | stageAuthorisation (h : Hdr) (p : Payload)
  /-- SET_LOG_CLEAR_KEY (R470). Command 0x0706 checks a signed authorisation and sets the log-clear key. -/
  | setLogClearKey (h : Hdr) (p : Payload)
  /-- LOG_FLASH_PROGRAM (R462). A ring-log record is programmed into flash within 10 ms. -/
  | logFlashProgram
  /-- DEGRADATION_MAP (R489). Command 0x0910 returns retirement counts, bitmaps and channel or port state. -/
  | degradationMap (h : Hdr) (p : Payload)
  /-- CLEAR_PORT_RETIREMENT (R488). Command 0x0912 reinstates retired Tenon lanes and ports for the next bring-up. -/
  | clearPortRetirement (h : Hdr) (p : Payload)
  /-- CHECKER_ACCESS (R483). Command 0x0932 reads or writes a word's data and side field, or a page check byte, raw. -/
  | checkerAccess (h : Hdr) (p : Payload)
  /-- PATROL_SCRUB (R479). Patrol scrub reads, corrects and writes back each word of a store in its pass period. -/
  | patrolScrub (w : WordRef)
  /-- CORRECTED_WORDS_ADVISORY (R480). Once per hour a risen corrected-word count logs an advisory event. -/
  | correctedWordsAdvisory (w : WordRef)
  /-- AUX_UP (R496). AUX comes up, the power-cycle count rises, straps are read and start-up runs from stage 1. -/
  | auxUp (recov tlock : Bool) (sbaddr : BitVec 3)
  /-- AUX_LOSS (R492). AUX is lost and a hardware sequencer removes every MAIN-fed rail in reverse order. -/
  | auxLoss
  /-- MAIN_PRESENT (R493). MAIN has stood within 48–58 V for 100 ms and start-up resumes at MAIN enable. -/
  | mainPresent
  /-- MAIN_INPUT_LOST (R493). A dip longer than 100 µs or an input below 45 V stops the dies and removes the MAIN-fed rails. -/
  | mainInputLost
  /-- RAIL_OUT_OF_TOLERANCE (R495). A MAIN-fed rail out of tolerance for 50 µs removes every MAIN-fed rail. -/
  | railOutOfTolerance (rail : Fin 12)
  /-- START_UP_STAGE_COMPLETE (R496). A start-up stage completes and the next one begins, ending at ready. -/
  | startUpStageComplete (r : StageResult)
  /-- START_UP_STAGE_OVER_BOUND (R496). A stage that passes its bound is a boot failure. -/
  | startUpStageOverBound
  /-- PERST_ASSERT (R499). PERST# asserted holds port A in reset and tears leased regions. -/
  | perstAssert
  /-- PERST_DEASSERT (R498). PERST# deasserted with the reference running lets port A train. -/
  | perstDeassert (refclk : Bool)
  /-- FUNCTION_RESET (R499). An FLR of port A's function resets it as PERST# does without loss of the link. -/
  | functionReset
  /-- COOLANT_CHECK (R502). An inlet above 45 °C or an outlet rise above 25 K for 1 s logs a coolant advisory. -/
  | coolantCheck (inlet outlet : Int) (secs : Nat)
  /-- POINT_MOVE (R331). The regulator completes a move of a die's VDD_CORE to the next operating point, so POINT in force changes and any pace raise waiting on the point may proceed. -/
  | pointMove (d : Fin 4)
  /-- IDE_KM (R441). Host software programs IDE keys through IDE_KM over its SPDM session, so an IDE stream enters, or returns to, the secure state and sealed traffic on that port resumes. -/
  | ideKm (b : Bool) (mem : Bool)
  /-- OPERATING_SECONDS_SAVE (R465). Every 60 s the controller saves the operating-seconds count to flash, which fixes the value that OPSEC resumes from after a power loss. -/
  | operatingSecondsSave
  deriving DecidableEq, Repr

end Sys2Proof
end

