-- ==== Sys2Proof/Config.lean ====
section
/-! DEFINITION. What an implementation or a unit fixes, and the free values: opaque constants, no value of which can be proved. -/

namespace Sys2Proof.Config

/-- An undefined byte of memory: stamp of its run, address (R179, R228; log 7). -/
opaque freeByte : Nat → Nat → Byte
/-- Which tile-cache line a fill replaces when all 256 are in use, by draw (R93; log 6). -/
opaque cacheVictim : Nat → Nat
/-- Column that stores a line of a home slice: stack, slice, way, set (R165; log 13). -/
opaque lineColumn : Nat → Nat → Nat → Nat → Nat
/-- Fresh random bits from the controller's random source, by draw (R323, R470). -/
opaque random : Nat → BitVec 256
/-- SHAKE256 output of the given length (R420). -/
opaque shake256 : List Byte → Nat → List Byte
/-- SHA3-512 (R423). -/
opaque sha3 : List Byte → List Byte
/-- Ed448 verification of a message under a public key (R451, R470). -/
opaque edVerify : BitVec 456 → List Byte → BitVec 912 → Bool
/-- AES-256-GCM tag: key, nonce, additional data, ciphertext or authenticated data (R300, R323). -/
opaque gcmTag : List Byte → List Byte → List Byte → List Byte → BitVec 128
/-- AES-256-GCM keystream byte: key, nonce, position (R324, R440). -/
opaque gcmStream : List Byte → List Byte → Nat → Byte
/-- TH2 transcript hash of a session (R432). -/
opaque th2 : U32 → List Byte
/-- What an open debug window reads, by draw and offset, and whether a window reaches a partition of a mask (R444). -/
opaque debugRead : Nat → Nat → U64
opaque debugReaches : Nat → Nat → Bool
/-- Session finish MAC check (R423). -/
opaque finishOk : U32 → BitVec 512 → Bool
/-- The unique device secret (R419). -/
opaque uds : List Byte
/-- Hash of the ROM (R420). -/
opaque romHash : List Byte
/-- ROM key list: hashes 0–3 of the signer keys (R451). -/
opaque romKey : Nat → List Byte
/-- The Vilnen service key (R451, R469). -/
opaque serviceKey : BitVec 456
/-- The certificate chain of slot 0, given the part number and the serial that the unit certificate carries, and the alias public data (R3,
R421). -/
opaque certChain : U64 → BitVec 128 → List Byte → List Byte
/-- The meter's own certificate chain (R377). -/
opaque meterChain : List Byte
/-- Serial, firmware name, version and firmware hash of the meter (R378, R379). -/
opaque meterSerial : BitVec 128
opaque meterName : BitVec 128
opaque meterVersion : U32
opaque meterHash : List Byte
/-- Vilnen's enterprise number (R378, R400). -/
opaque enterprise : U32
/-- The endpoint's UUID (R415). -/
opaque uuid : BitVec 128
/-- The endpoint's PDR records (R416), by record handle. -/
opaque pdr : U32 → Option (List Byte)
/-- Part numbers in ASCII (R408) are those of R1; the unit's device identifiers for PLDM (R416). -/
opaque pldmIds : List Byte
/-- Versions reported for a PLDM type and for an MCTP message type (R415, R416). -/
opaque pldmVersion : Nat → U32
opaque mctpVersion : Nat → U32
/-- Place in the list of R417 of the sensor with a PLDM sensor ID (R416, R417). -/
opaque sensorPlace : U16 → Nat
/-- Characterised rate in M beats/s and coefficient in 10⁻⁶ per °C of a tile ID at a point (R332, R333). -/
opaque charRate : Nat → Nat → Nat
opaque charCoef : Nat → Nat → Nat
/-- Fused leakage of a die in µW at a voltage in mV and a temperature in 0.001 °C (R353). -/
opaque leakage : Nat → Nat → Int → Nat
/-- Fused regulator efficiency in parts per million at a power in mW (R353). -/
opaque eta : Nat → Nat
/-- Fused activity weights of rows 1–14 (R353). -/
opaque fusedWeight : Nat → Nat
/-- Predicted floor draw in W with the given number of ports up (R358, R370). -/
opaque predictedFloor : Nat → U16
/-- The advanced column thermal model at a sensor: die, sensor, model value, counters, inlet (R360). -/
opaque modelStep : Nat → Nat → Int → List Nat → Int → Int
/-- The model's difference between a column and its diode's site: die, column, layer (R362). -/
opaque modelDiff : Nat → Nat → Nat → Int
/-- Beats that a die's region-0 monitor counted and that the die skipped since the last snapshot, by draw and die (R346). -/
opaque beatsIn : Nat → Nat → Nat
opaque skipsIn : Nat → Nat → Nat
/-- Draw of the module with every die idle, mW, where the stop ramp ends (R367). -/
opaque idleDraw : Nat
/-- Whether core 0 was executing the oldest handed-over command when it stopped, by draw (R388). -/
opaque executing : Nat → Bool
/-- Whether a scrub meets an uncorrectable write fault, by draw (R434). -/
opaque scrubFault : Nat → Bool
/-- Capacities in GiB of the memory devices that an enumeration of port B finds, by draw (R311). -/
opaque devices : Nat → List Nat

/-- Element index that the Calipers give to element `i` of an AMOV or VCVTL, which no rule numbers, by draw (R262, R263). -/
opaque elemIndex : Nat → Nat → Nat

end Sys2Proof.Config
end

