-- ==== Sys2Proof/Machine/Codes.lean ====
section
/-! DEFINITION. The codes of the spec: CRC-32C, the dowel CRCs, the word code and the page code (R101, R141, R474–R477). -/

namespace Sys2Proof.Machine

/-- One step of a reflected CRC on one bit. -/
def crcStep (poly : U32) (c : U32) : U32 := if c.getLsbD 0 then (c >>> 1) ^^^ poly else c >>> 1

def crcBits (poly : U32) : Nat → U32 → U32
  | 0, c => c
  | k + 1, c => crcBits poly k (crcStep poly c)

/-- CRC-32C over bytes: reflected polynomial 0x1EDC6F41, initial value and final XOR all ones
(PRESUMED: the spec names CRC-32C and leaves its parameters to the name; log 10). -/
def crc32c (l : List Byte) : U32 :=
  ~~~(l.foldl (fun c b => crcBits 0x82F63B78 8 (c ^^^ b.zeroExtend 32)) 0xFFFFFFFF)

/-- A most-significant-bit-first CRC of `w` bits over bits taken in order (R141). -/
def crcMsb {w : Nat} (poly init : BitVec w) (bits : List Bool) : BitVec w :=
  bits.foldl (fun c b => let t := c.msb != b; let s := c <<< 1; if t then s ^^^ poly else s) init

/-- The data bits of a beat in dowel order, dowel 0 first and its lower bit first (R141). -/
def beatBits (n : Nat) (d : BitVec 1024) : List Bool := (List.range n).map d.getLsbD

/-- CRC-16 of a lower-group beat (R141). -/
def crcLower (d : BitVec 1024) : BitVec 16 := crcMsb 0x1021 0xFFFF (beatBits 1024 d)

/-- CRC-8 of an upper-group beat (R141). -/
def crcUpper (d : BitVec 1024) : BitVec 8 := crcMsb 0x2F 0xFF (beatBits 512 d)

/-- The generator of the word code, m₁(x) × m₃(x) without its leading term x¹⁴ (R474). -/
def bchGen : BitVec 14 := 0x0377

/-- Multiplies a residue by x modulo the generator. -/
def bchX (r : BitVec 14) : BitVec 14 := if r.msb then (r <<< 1) ^^^ bchGen else r <<< 1

/-- x^k modulo the generator. -/
def bchPow : Nat → BitVec 14
  | 0 => 1
  | k + 1 => bchX (bchPow k)

/-- Residue of Σ bit(k) x^k over the first `n` bits, by Horner's rule from the top. -/
def bchRes {w : Nat} (x : BitVec w) : Nat → BitVec 14 → BitVec 14
  | 0, r => r
  | k + 1, r => bchRes x k (bchX r ^^^ (if x.getLsbD k then 1 else 0))

/-- Check bits of 64 data bits with poison and spare (R474). -/
def bchCheck (data : U64) (poison spare : Bool) : BitVec 14 :=
  let i : BitVec 66 := (BitVec.ofBool spare ++ BitVec.ofBool poison) ++ data
  bchRes (i ++ (0 : BitVec 14)) 80 0

/-- The side field of a clean word: spare bit 0 (R474). -/
def cleanSide (data : U64) (poison : Bool) : U16 :=
  ((0 : BitVec 1) ++ BitVec.ofBool poison) ++ bchCheck data poison false

/-- Decoder outcomes (R475). -/
inductive Outc where
  | none | one | two | bad
  deriving DecidableEq, Repr

/-- The 80 bits of a stored word as a code polynomial: check bits below, then data, poison, spare. -/
def codeWord (data : U64) (side : U16) : BitVec 80 :=
  (side.extractLsb' 15 1 ++ side.extractLsb' 14 1) ++ data ++ side.extractLsb' 0 14

/-- The error pattern of at most two bits that a syndrome names, by position (R475). -/
def bchLocate (s : BitVec 14) : Option (List Nat) :=
  if s = 0 then some []
  else
    let tab := (List.range 80).map (fun p => (p, bchPow p))
    match tab.find? (fun e => e.2 == s) with
    | some e => some [e.1]
    | none =>
      match tab.findSome? (fun a => (tab.find? (fun b => a.1 < b.1 && a.2 ^^^ b.2 == s)).map (fun b => [a.1, b.1])) with
      | some l => some l
      | none => none

/-- Decodes a stored word: outcome, corrected data and corrected poison bit (R475). -/
def bchDecode (data : U64) (side : U16) : Outc × U64 × Bool :=
  let c := codeWord data side
  match bchLocate (bchRes c 80 0) with
  | none => (.bad, data, false)
  | some l =>
    let c := l.foldl (fun c p => c ^^^ ((1 : BitVec 80) <<< p)) c
    (match l with | [] => .none | [_] => .one | _ => .two, c.extractLsb' 14 64, c.getLsbD 78)

/-- Multiplication by α = 0x02 in GF(2⁸) with x⁸ + x⁴ + x³ + x² + 1 (R476). -/
def gfX (b : Byte) : Byte := if b.msb then (b <<< 1) ^^^ 0x1D else b <<< 1

/-- α^k times `b`. -/
def gfPow (b : Byte) : Nat → Byte
  | 0 => b
  | k + 1 => gfX (gfPow b k)

/-- Syndromes at 1 and α of one interleave: message symbols b₀… and the check bytes c0, c1 (R476). -/
def rsSyn (msg : List Byte) (c0 c1 : Byte) : Byte × Byte :=
  let s0 := msg.foldl (· ^^^ ·) (c0 ^^^ c1)
  let h := msg.foldr (fun b r => gfX r ^^^ b) 0
  (s0, gfX (gfX h) ^^^ gfX c1 ^^^ c0)

/-- Division by 1 + α = 0x03 in GF(2⁸), by search. -/
def gfDiv3 (b : Byte) : Byte :=
  ((List.range 256).map (BitVec.ofNat 8)).find? (fun x => gfX x ^^^ x == b) |>.getD 0

/-- Check bytes of one interleave: p(1) and p(α) equal the message part's values there (R476). -/
def rsCheck (msg : List Byte) : Byte × Byte :=
  let (s0, s1) := rsSyn msg 0 0
  let c1 := gfDiv3 (s0 ^^^ s1)
  (s0 ^^^ c1, c1)

/-- Position of the single byte error that the syndromes name, among 130 symbols (R476). -/
def rsLocate (s0 s1 : Byte) : Option Nat :=
  if s0 = 0 || s1 = 0 then none
  else (List.range 130).find? (fun k => gfPow s0 k == s1)

/-- Decodes one interleave: the corrected message, or none where the page code fails (R476, R477). -/
def rsDecode (msg : List Byte) (c0 c1 : Byte) : Option (List Byte) :=
  let (s0, s1) := rsSyn msg c0 c1
  if s0 = 0 && s1 = 0 then some msg
  else
    match rsLocate s0 s1 with
    | none => none
    | some k => if k < 2 then some msg else some (msg.mapIdx (fun m b => if m = k - 2 then b ^^^ s0 else b))

end Sys2Proof.Machine
end

