-- ==== Sys2Proof/Machine/StateTile.lean ====
section
/-! DEFINITION. The state of memories, tiles, dies and the stacked SRAM, as plain data. -/

namespace Sys2Proof.Machine

/-- A byte-addressed store of words protected by the word code of R474. -/
structure Mem where
  /-- stored data bytes, addresses strictly rising, none equal to 0; unlisted bytes read 0 | R496 R168 -/
  cells : List (Nat × Byte) := []
  /-- side fields that differ from the clean encoding of the stored word, keyed by word number (address / 8) | R474 R483 -/
  side : Table U16 := []
  /-- difference between the stored page check bytes and those of the stored data, keyed by page number | R476 R483 -/
  pageErr : Table (BitVec 256) := []
  /-- (base, size, stamp) runs whose unlisted bytes are undefined and read as the free bytes of Config under that stamp | R179 R228 -/
  undef : List (Nat × Nat × Nat) := []
  deriving DecidableEq, Repr, Inhabited

/-- Why a spindle has not issued its next instruction (R60, R97). -/
inductive WaitKind where
  | none | queue (q : BitVec 4) | counter | hazard | group (a : BitVec 3) | unitFull | slotTotal | slotSlice (s : Nat) | reserved | credit (b : BitVec 6) | fence
  deriving DecidableEq, Repr, Inhabited

/-- The four conditions of a spindle. -/
inductive SpState where
  | noEntry | running | halting | halted
  deriving DecidableEq, Repr, Inhabited

/-- A token: its tag and its 512 payload bytes (R112). -/
structure Token where
  /-- section epoch of the sending die | R112 -/
  epoch : BitVec 2 := 0
  /-- 0 data, 1 control | R112 -/
  control : Bool := false
  /-- tile ID of the sending tile | R112 -/
  src : BitVec 11 := 0
  /-- sequence number on its binding | R112 -/
  seq : U16 := 0
  /-- payload, byte 0 least significant | R112 -/
  data : BitVec 4096 := 0
  /-- source index of the binding that carries it (0x00–0x3F spindle output, 0x40–0x4F steering output) | R113 -/
  sidx : BitVec 8 := 0
  /-- the credit of the token is still held | R114 R131 -/
  held : Bool := true
  deriving DecidableEq, Repr, Inhabited

/-- One spindle of a tile. -/
structure Spindle where
  /-- program counter, an instruction index | R58 R59 -/
  pc : U16 := 0
  /-- scalar registers s0–s31 | R58 R104 -/
  s : Table U64 := []
  /-- loop counters c0–c3 | R58 R104 -/
  c : Table U16 := []
  /-- no entry point, running, waiting in HALT, or halted | R59 -/
  st : SpState := .noEntry
  /-- beat after the last issue, for the choice of the longest-waiting spindle | R61 -/
  last : Nat := 0
  /-- beat before which a taken branch holds the spindle | R69 -/
  hold : Nat := 0
  /-- what the next instruction waits for | R60 R97 -/
  wait : WaitKind := .none
  /-- beat at which the present wait began | R90 R132 -/
  since : Nat := 0
  /-- a QSEND that holds the spindle until its binding has a credit: binding and payload | R114 -/
  sending : Option (BitVec 6 × BitVec 4096) := none
  /-- completion counter that the held QSEND or HALT signals | R63 -/
  sendSig : Option (BitVec 4) := none
  /-- a FENCE in progress: scope, and whether it keeps the tile cache | R95 -/
  fence : Option (BitVec 2 × Bool) := none
  /-- completion counter that the FENCE in progress signals | R63 -/
  fenceSig : Option (BitVec 4) := none
  /-- instruction index of the FENCE in progress | R97 -/
  fencePc : U16 := 0
  /-- slices that its waiting memory instruction targets, one entry per request | R90 R91 -/
  want : List Nat := []
  deriving DecidableEq, Repr, Inhabited

/-- States of an accumulation group (R74). -/
inductive GroupSt where
  | idle | opened | closed
  deriving DecidableEq, Repr, Inhabited

/-- One accumulation group (R74, R78). -/
structure Group where
  /-- Idle, Open or Closed | R74 -/
  st : GroupSt := .idle
  /-- owning spindle while Open | R74 -/
  owner : BitVec 3 := 0
  /-- a close is pending | R74 -/
  closing : Bool := false
  /-- accumulator type: INT32 when set, else FP32 | R78 -/
  int : Bool := false
  /-- the 64 × 64 elements, row-major, unlisted elements 0 | R58 R74 -/
  val : Table U32 := []
  /-- saturating count of INT32 saturations | R78 R55 -/
  sat : U32 := 0
  deriving DecidableEq, Repr, Inhabited

/-- One flag slot (R44, R85). -/
structure FlagSlot where
  /-- sticky non-finite bit | R44 -/
  nf : Bool := false
  /-- saturating count of saturations | R44 -/
  sat : U32 := 0
  deriving DecidableEq, Repr, Inhabited

/-- The functional unit of an operation in flight (R60(e), R69). -/
inductive UnitK where
  | matrix | vector | local | memory
  deriving DecidableEq, Repr, Inhabited

/-- What remains to be done by an operation in flight. -/
inductive Work where
  /-- an MMA: the instruction's fields, with the bytes of A, B and the scales as sampled at issue -/
  | mma (mod : Byte) (ag : BitVec 3) (agm : BitVec 2) (cnt : Nat) (a b sc : List (Nat × Byte))
  /-- a register writer: tensor-space byte writes, flag slot results, group results -/
  | regs (w : List (Nat × Byte)) (slot : Option (BitVec 4)) (nf : Bool) (sat : Nat) (grp : Option (BitVec 3 × Group))
  | ldt (addr : Nat) (td : BitVec 6)
  | stt (addr : Nat) (d : List (Nat × Byte))
  | lds (addr : Nat) (sb : BitVec 5)
  | sts (addr : Nat) (d : U64)
  | qpop (td : BitVec 6) (seg : BitVec 3) (d : BitVec 4096)
  /-- a memory operation; its requests stand in the request slots -/
  | mem
  deriving DecidableEq, Repr, Inhabited

/-- An operation in flight on a tile. -/
structure Op where
  /-- identity, in issue order | R62 R73 -/
  id : Nat := 0
  /-- issuing spindle | R62 -/
  sp : BitVec 3 := 0
  /-- instruction index | R97 -/
  pc : U16 := 0
  /-- executing unit | R60 -/
  unit : UnitK := .vector
  /-- completion counter it signals, if SE = 1 | R63 -/
  sig : Option (BitVec 4) := none
  /-- tensor registers it reads (an MMA's are released after its array beats) | R60 R73 -/
  readT : List Nat := []
  /-- beat after which the array no longer reads the tensor registers | R73 -/
  readEnd : Nat := 0
  /-- tensor registers it writes | R60 -/
  writeT : List Nat := []
  /-- scalar register of the issuing spindle that it writes | R60 -/
  writeS : Option (BitVec 5) := none
  /-- groups it reads or writes | R60 -/
  grp : List (BitVec 3) := []
  /-- flag slot it names | R69 -/
  slot : Option (BitVec 4) := none
  /-- beat of issue | R73 -/
  beat : Nat := 0
  /-- what remains to be done | R63 -/
  work : Work := .mem
  deriving DecidableEq, Repr, Inhabited

/-- The path of a memory request (R168). -/
inductive Target where
  | slice (stack idx : Nat) | pinned | slow | host | peer (node : Nat) | cache
  deriving DecidableEq, Repr, Inhabited

/-- The three kinds of memory instruction. -/
inductive ReqKind where
  | load | store | reduce (fp32 : Bool)
  deriving DecidableEq, Repr, Inhabited

/-- A memory request holding one request slot (R88). -/
structure Req where
  /-- operation it belongs to | R88 -/
  op : Nat := 0
  /-- load, store or reduction | R88 -/
  kind : ReqKind := .load
  /-- first device address, after version translation | R88 R201 -/
  da : U64 := 0
  /-- number of 128-byte lines | R88 -/
  lines : Nat := 0
  /-- first line of the instruction that it carries | R88 -/
  first : Nat := 0
  /-- distance between its lines: 2 where consecutive lines alternate between two slices | R89 -/
  step : Nat := 1
  /-- issuing spindle | R95 -/
  sp : BitVec 3 := 0
  /-- place in the order of issue on its die | R156 -/
  stamp : Nat := 0
  /-- a write that was carried out as it was issued; its response is outstanding | R156 -/
  put : Bool := false
  /-- destination tensor register of a load | R69 -/
  td : BitVec 6 := 0
  /-- path, with the home slice for a memory-stack address | R89 -/
  target : Target := .pinned
  /-- data carried (store) or gathered (load), keyed by line within the request | R152 -/
  got : Table (BitVec 1024) := []
  /-- lines that have been served at their target | R152 -/
  served : List Nat := []
  /-- a line returned poison or an error | R92 -/
  bad : Bool := false
  /-- event code that the response raises on a store or REDG, 0 for none | R169 R163 R312 -/
  err : U16 := 0
  /-- it installs its lines in the tile cache | R93 R96 -/
  fill : Bool := false
  deriving DecidableEq, Repr, Inhabited

/-- One input queue or control queue of a tile. -/
structure Queue where
  /-- tokens in the physical queue, oldest first | R58 R114 -/
  toks : List Token := []
  /-- tokens of its spill FIFO, oldest first | R131 -/
  spill : List Token := []
  /-- the queue is in spill mode | R131 -/
  spilling : Bool := false
  /-- places that the consumer has freed in spill mode and no refill has taken | R131 -/
  freed : Nat := 0
  deriving DecidableEq, Repr, Inhabited

/-- One steering unit (R117, R118). -/
structure Steer where
  /-- data queue, where the blank gives the unit a record | R117 -/
  dq : Option (BitVec 4) := none
  /-- control queue of 4 places | R118 -/
  ctl : Queue := {}
  /-- remaining count of the control token in use, none before its first firing | R118 -/
  left : Option Byte := none
  /-- beat since which the unit waits | R120 R132 -/
  since : Nat := 0
  deriving DecidableEq, Repr, Inhabited

/-- One output binding of a tile as loaded (R113, R114). -/
structure Bind where
  /-- the binding has a record | R113 -/
  valid : Bool := false
  /-- destination tile ID | R113 -/
  dst : BitVec 11 := 0
  /-- destination queue code | R113 -/
  dq : Byte := 0
  /-- credits held | R114 -/
  credits : Nat := 0
  /-- next sequence number | R112 -/
  seq : U16 := 0
  deriving DecidableEq, Repr, Inhabited

/-- The reservation of a tile's slots (R90): only slots that were free when it was made go to other instructions. -/
structure Resv where
  /-- spindle whose memory instruction holds it | R90 -/
  sp : BitVec 3 := 0
  /-- slices that the instruction needs | R90 -/
  slices : List Nat := []
  /-- free slots of the total budget left for other instructions | R90 -/
  spare : Nat := 0
  /-- free slots of each needed slice left for other instructions | R90 -/
  spareOf : Table Nat := []
  deriving DecidableEq, Repr, Inhabited

/-- One tile. -/
structure Tile where
  /-- spindles 0–7 | R58 -/
  sp : Table Spindle := []
  /-- completion counters w0–w15 | R58 R64 -/
  w : Table U16 := []
  /-- tensor registers t0–t63 as one 256 KiB byte space, unlisted bytes 0 | R58 R122 -/
  treg : List (Nat × Byte) := []
  /-- words of the tensor registers with a parity error | R478 -/
  parity : List Nat := []
  /-- accumulation groups a0–a7 | R58 R74 -/
  grp : Table Group := []
  /-- flag slots f0–f15 | R58 R44 -/
  flag : Table FlagSlot := []
  /-- local store, 512 KiB | R58 R100 -/
  store : Mem := {}
  /-- tile cache: line number (device address / 128) and data, oldest first, at most 256 | R58 R93 -/
  cache : List (Nat × BitVec 1024) := []
  /-- request slots in use, keyed by slot 0–63 | R58 R88 -/
  slots : Table Req := []
  /-- abandoned requests whose responses are to be discarded | R126 -/
  dead : Nat := 0
  /-- input queues q0–q15 | R58 R114 -/
  q : Table Queue := []
  /-- steering units 0–3 | R58 R118 -/
  steer : Table Steer := []
  /-- output bindings by source index 0x00–0x4F | R113 R114 -/
  bind : Table Bind := []
  /-- operations in flight, in issue order | R62 -/
  ops : List Op := []
  /-- identity of the next operation | R62 -/
  nextOp : Nat := 0
  /-- the reservation, if one is held | R90 -/
  resv : Option Resv := none
  /-- beats of the tile since blank load | R61 R97 -/
  beat : Nat := 0
  /-- stall counter slot_total | R97 -/
  slotTotal : U32 := 0
  /-- stall counter slot_slice | R97 -/
  slotSlice : U32 := 0
  /-- stall counter group_wait | R97 -/
  groupWait : U32 := 0
  /-- stall counter queue_wait | R97 -/
  queueWait : U32 := 0
  /-- stall counter all_blocked | R97 -/
  allBlocked : U32 := 0
  /-- event 0x1106 has been raised in this section | R91 -/
  idleRaised : Bool := false
  /-- length of the loaded program, 0 where the running blank does not name the tile | R103 -/
  plen : Nat := 0
  /-- beat before which the tile sends no further token | R116 -/
  sendHold : Nat := 0
  /-- the tile is retired | R484 R485 -/
  retired : Bool := false
  /-- distinct local-store word addresses found uncorrectable within 24 h, with the second of each | R484 -/
  ucAddrs : List (Nat × Nat) := []
  /-- seconds of parity errors within 24 h | R484 -/
  parErr : List Nat := []
  deriving DecidableEq, Repr, Inhabited

/-- A tile-table record with its initial values (R103, R104). -/
structure TileRec where
  /-- tile within the die, region in [8:6] | R103 -/
  tid : BitVec 9 := 0
  /-- program | R103 -/
  prog : List (BitVec 128) := []
  /-- entry points | R103 -/
  entry : List U16 := []
  /-- initial completion counters | R104 -/
  w : List U16 := []
  /-- initial scalar registers and loop counters of each spindle with an entry point | R104 -/
  init : List (List U64 × List U16) := []
  deriving DecidableEq, Repr, Inhabited

/-- A binding record (R113). -/
structure BindRec where
  src : BitVec 9 := 0
  sidx : Byte := 0
  dst : BitVec 11 := 0
  dq : Byte := 0
  deriving DecidableEq, Repr, Inhabited

/-- A steering-table record (R117). -/
structure SteerRec where
  tid : BitVec 9 := 0
  unit : BitVec 2 := 0
  dq : BitVec 4 := 0
  deriving DecidableEq, Repr, Inhabited

/-- A pinned-region record (R105). -/
structure PinRec where
  off : Nat := 0
  len : Nat := 0
  init : Byte := 0
  src : U64 := 0
  deriving DecidableEq, Repr, Inhabited

/-- A preload record (R106). -/
structure PreRec where
  tid : BitVec 9 := 0
  addr : Nat := 0
  len : Nat := 0
  off : Nat := 0
  deriving DecidableEq, Repr, Inhabited

/-- A tensor-table record (R107). -/
structure TensorRec where
  id : U32 := 0
  fmt : BitVec 4 := 0
  kind : BitVec 2 := 0
  chunks : U16 := 0
  slot : Option (BitVec 4) := none
  layer : U16 := 0
  kchunk : U32 := 0
  deriving DecidableEq, Repr, Inhabited

/-- A Tailstock schedule record (R314). -/
structure TailRec where
  region : BitVec 10 := 0
  op : Byte := 0
  release : Bool := false
  signal : Bool := false
  atEnd : Bool := false
  wc : BitVec 4 := 0
  tile : BitVec 9 := 0
  da : DA := 0
  hoff : Nat := 0
  len : Nat := 0
  section_ : U32 := 0
  deriving DecidableEq, Repr, Inhabited

/-- A blank as the Chuck holds it: header and segments (R101–R107). -/
structure Blank where
  /-- image DA | R108 -/
  da : DA := 0
  /-- image length | R101 -/
  len : Nat := 0
  /-- CRC-32C of the image as staged | R101 R110 -/
  crc : U32 := 0
  /-- native format 3 when set, else format 2 | R101 -/
  native : Bool := true
  /-- job ID | R101 -/
  job : U32 := 0
  /-- section number | R101 -/
  section_ : U32 := 0
  /-- phase tag | R101 R135 -/
  phase : BitVec 3 := 0
  /-- section epoch field, none for 0xFF | R101 -/
  epoch : Option (BitVec 2) := none
  /-- peer die mask | R101 -/
  peers : BitVec 4 := 0
  /-- training participant | R101 -/
  training : Bool := false
  /-- uses weight versions | R101 R201 -/
  versioned : Bool := false
  /-- Chatter window exponent | R101 R130 -/
  chatter : Nat := 20
  /-- tile table with programs and initial values | R103 -/
  tiles : List TileRec := []
  /-- bindings | R113 -/
  binds : List BindRec := []
  /-- steering table | R117 -/
  steers : List SteerRec := []
  /-- pinned regions | R105 -/
  pins : List PinRec := []
  /-- preloads | R106 -/
  pres : List PreRec := []
  /-- tensor table | R107 -/
  tensors : List TensorRec := []
  /-- Tailstock schedule | R314 -/
  tails : List TailRec := []
  deriving DecidableEq, Repr, Inhabited

/-- Die states (R121). -/
inductive DieSt where
  | idle | loading | running | ending | forcing | faulted
  deriving DecidableEq, Repr, Inhabited

/-- One compute die: its Chuck and its Chatter Detector. -/
structure Die where
  /-- die state | R121 -/
  st : DieSt := .idle
  /-- the section has ended on this die and steps 1 to 4 of the rechuck have run | R122 -/
  settled : Bool := true
  /-- the die has passed steps 6 and 7's gate and may load its head blank | R122 R202 -/
  gated : Bool := false
  /-- the peer-group exchange has agreed and the head blank waits at its version gate | R123 R202 -/
  agreed : Bool := false
  /-- version tag given when the gate opened | R201 -/
  tag : Bool := false
  /-- blank that runs, is loading, ending, forcing or faulted | R98 R121 -/
  run : Option Blank := none
  /-- staging queue of at most 4 blanks, head first | R109 -/
  staged : List Blank := []
  /-- section epoch | R124 -/
  epoch : BitVec 2 := 0
  /-- phase reported to the controller | R136 -/
  phase : BitVec 3 := 5
  /-- job that the die is assigned to, 0 for none | R409 -/
  job : U32 := 0
  /-- job whose data the local stores hold | R100 -/
  storeJob : U32 := 0
  /-- last event code of the die | R121 -/
  lastEvent : U16 := 0
  /-- last reason code of the die | R121 -/
  lastReason : Byte := 0
  /-- shavings area of the die's job: base and size | R133 -/
  shavings : Option (DA × Nat) := none
  /-- event 0x1205 has been logged in this section | R131 -/
  spillLogged : Bool := false
  /-- a spill has been made since the last progress | R132 -/
  spilled : Bool := false
  /-- progress has been made since the window last restarted | R130 -/
  progress : Bool := false
  /-- tokens discarded and counted | R129 R126 -/
  discarded : Nat := 0
  /-- stale tokens on an Idle die since the last record | R129 -/
  staleIdle : Nat := 0
  /-- beats since load | R134 -/
  beats : Nat := 0
  /-- beat of the last MMA or vector completion | R136 -/
  lastMma : Nat := 0
  /-- regions parked, bit r | R351 -/
  parked : BitVec 8 := 0
  /-- tokens in flight to this die's tiles: destination tile, queue code, token | R116 R122 -/
  flight : List (BitVec 11 × Byte × Token) := []
  /-- tile-store words corrected since the last hourly advisory | R480 -/
  corrected : Nat := 0
  /-- hardware thermal trip: VDD_CORE removed | R364 R495 -/
  tripped : Bool := false
  /-- the forced rechuck in progress ends in Idle | R126 -/
  goIdle : Bool := false
  /-- a forced rechuck is in progress, and F3 to F5 follow F2 | R126 R128 -/
  forced : Bool := false
  /-- a fault whose step F2 is running: event, tile, spindle and instruction index of its snapshot | R128 R134 -/
  fault : Option (Nat × Nat × Nat × Nat) := none
  /-- memory requests issued on the die so far | R156 -/
  reqNo : Nat := 0
  deriving DecidableEq, Repr, Inhabited

/-- Line states of a home slice (R151). -/
inductive LineSt where
  | fillPending | clean | dirty | redPending | reduction
  deriving DecidableEq, Repr, Inhabited

/-- The place of a line in reduction mode, which takes no way: the slice's reduction store (R150). -/
def redWay : Nat := 0x10000

/-- One line held in a home slice. Its words carry the side field of R474, which `Line.side` gives: no command alters a stored bit of
a line, so the field is always that of the word and its poison bit. -/
structure Line where
  /-- state | R151 -/
  st : LineSt := .clean
  /-- way; `redWay` for a line whose accumulators stand in the reduction store | R150 -/
  way : Nat := 0
  /-- stamp of the last use | R150 -/
  used : Nat := 0
  /-- data of a Clean or Dirty line | R151 -/
  data : BitVec 1024 := 0
  /-- words of the line that are poisoned | R478 -/
  poison : BitVec 16 := 0
  /-- reads attached to the outstanding fill, oldest first, at most 64 | R152 -/
  att : List ReqSrc := []
  /-- line format of a reduction line: FP32 when set, else BF16 | R157 -/
  fp32 : Bool := false
  /-- accumulators of a reduction line, one per element | R158 -/
  acc : List (BitVec 256) := []
  /-- partition whose request caused the outstanding fill | R181 R182 -/
  part : Nat := 0
  /-- the slice has added its own copy, so the memory value is not to be returned | R160 -/
  seeded : Bool := false
  /-- bits in error of the stored words, side field above the data: by word of the line, or by word of the storage lines | R138 R474 R478 -/
  flaw : Table (BitVec 80) := []
  deriving DecidableEq, Repr, Inhabited

/-- A request that waits in a slice's input buffer (R152, R153). -/
structure Waiting where
  /-- requester | R152 -/
  src : ReqSrc := .port 0
  /-- kind of request | R152 -/
  kind : ReqKind := .load
  /-- line number | R152 -/
  line : Nat := 0
  /-- data of a write or REDG | R152 -/
  data : BitVec 1024 := 0
  /-- words that a write covers | R152 -/
  words : BitVec 16 := 0xFFFF
  /-- it has waited 4 µs and goes ahead of younger requests for its bank | R153 -/
  aged : Bool := false
  deriving DecidableEq, Repr, Inhabited

/-- One home slice. -/
structure Slice where
  /-- lines held, keyed by line number | R150 R151 -/
  lines : Table Line := []
  /-- input buffer, oldest first, at most 256 | R153 -/
  inbuf : List Waiting := []
  /-- outstanding misses per bank, at most 16 | R153 -/
  bankq : Table Nat := []
  /-- beats that bank queues have spent full, those that are full now aside | R153 -/
  fullBeats : Nat := 0
  /-- beat at which each full bank queue became full | R153 -/
  fullSince : Table Nat := []
  /-- last 4,096 line numbers evicted, newest first | R155 -/
  filter : List Nat := []
  /-- fills in the present 1 ms window | R155 -/
  fills : Nat := 0
  /-- refills in the present 1 ms window | R155 -/
  refills : Nat := 0
  /-- use stamp of the next access | R150 -/
  stamp : Nat := 0
  deriving DecidableEq, Repr, Inhabited

/-- One direction of one dowel group (R141, R164). -/
structure DowelDir where
  /-- spares mapped in: (dowel, spare) | R164 -/
  map : List (Nat × Nat) := []
  /-- beats of the group held during sparing | R164 -/
  sparing : Bool := false
  /-- failed attempts at the beat in progress | R142 -/
  tries : Nat := 0
  /-- beats delivered | R142 -/
  delivered : Nat := 0
  deriving DecidableEq, Repr, Inhabited

/-- What is counted for one dowel group in both directions (R164). -/
structure DowelGroup where
  /-- microseconds of the replays within the last second, newest first | R164 -/
  replays : List Nat := []
  /-- microsecond at which event 0x3103 was last logged, plus 1 | R164 -/
  last : Nat := 0
  deriving DecidableEq, Repr, Inhabited

/-- One compute stack's bonded SRAM and stacked cache. -/
structure Sram where
  /-- pinned size of M1 in bytes | R145 R497 -/
  p1 : Nat := 0
  /-- pinned size of M2 in bytes | R145 R497 -/
  p2 : Nat := 0
  /-- retired columns | R165 -/
  retired : List Nat := []
  /-- home slices 0–63 | R149 -/
  slices : Table Slice := []
  /-- slices are in pass-through | R147 -/
  pass : Bool := false
  /-- dowel groups by 4 × column + 2 × (upper) + direction | R141 -/
  dowels : Table DowelDir := []
  /-- replay counts of the dowel groups by 2 × column + (upper) | R164 -/
  groups : Table DowelGroup := []
  /-- a retirement has left the cache pool below the floor | R166 -/
  below : Bool := false
  /-- distinct words of a column's banks found uncorrectable within 24 h: (column, word, second) | R484 -/
  ucAddrs : List (Nat × Nat × Nat) := []
  /-- words corrected since the last hourly advisory | R480 -/
  corrected : Nat := 0
  deriving DecidableEq, Repr, Inhabited

end Sys2Proof.Machine
end

