-- ==== Sys2Proof/Machine/StateMem.lean ====
section
/-! DEFINITION. The state of memory stacks, jobs, Burnishers, numerics, fabric, CXL ports and copy engines. -/

namespace Sys2Proof.Machine

/-- One regulator configuration (R183). -/
structure RegCfg where
  /-- GUAR, guarantee in 64ths | R183 -/
  guar : BitVec 7 := 0
  /-- CEIL, ceiling in 64ths | R183 -/
  ceil : BitVec 7 := 0x40
  /-- BURST, bucket depth | R183 -/
  burst : Byte := 0x10
  /-- EN | R183 -/
  en : Bool := false
  deriving DecidableEq, Repr, Inhabited

/-- One regulator of a memory stack and partition. -/
structure Regulator where
  /-- staged configuration | R183 -/
  staged : RegCfg := {}
  /-- configuration in force | R183 R184 -/
  force : RegCfg := {}
  /-- bytes served since reset | R183 -/
  served : Nat := 0
  /-- microseconds with an access waiting at the ceiling | R183 -/
  held : Nat := 0
  /-- SERVED at the last snapshot | R183 -/
  snServed : U32 := 0
  /-- HELD at the last snapshot | R183 -/
  snHeld : U16 := 0
  /-- bucket level in bytes, below 0 where one command has moved more | R182 R184 -/
  level : Int := 0
  /-- bytes served in the present 1 µs window | R182 -/
  win : Nat := 0
  deriving DecidableEq, Repr, Inhabited

/-- One channel of a memory stack (R481, R484, R486). -/
structure Channel where
  /-- remap entries: channel line (bits 31:7) by spare 0–31 | R481 -/
  remap : List (Nat × Nat) := []
  /-- the table as copied to flash | R481 -/
  kept : List (Nat × Nat) := []
  /-- 0 in service, 1 marked, 2 retired | R486 R489 -/
  st : BitVec 2 := 0
  /-- data lanes that training has repaired, as the map in flash names them | R174 R448 -/
  repair : List Nat := []
  /-- the map that the base die applies | R174 R496 -/
  lanes : List Nat := []
  /-- lines that qualified for remapping with the table full: (line, second) | R484 -/
  excess : List (Nat × Nat) := []
  /-- pages on which the page code failed: (page, second) | R484 -/
  pageFail : List (Nat × Nat) := []
  /-- patrol passes in a row that corrected one bit, by word | R482 -/
  passes : Table Nat := []
  /-- corrected words by second over the last 24 h | R489 R480 -/
  corrected : List Nat := []
  /-- words corrected since the last hourly advisory | R480 -/
  fresh : Nat := 0
  /-- page corrections since power-up | R489 -/
  pageCorr : U32 := 0
  /-- uncorrectable words since power-up | R489 -/
  uncorr : U32 := 0
  deriving DecidableEq, Repr, Inhabited

/-- A reduction record held in the base die (R161). -/
structure RedRec where
  /-- line format: FP32 when set | R157 -/
  fp32 : Bool := false
  /-- accumulators | R158 -/
  acc : List (BitVec 256) := []
  deriving DecidableEq, Repr, Inhabited

/-- One memory stack with its base die, without its Burnisher. -/
structure Stack where
  /-- channels 0–31 | R172 R481 -/
  ch : Table Channel := []
  /-- offline after a third retired channel | R487 -/
  offline : Bool := false
  /-- channels retired at the last memory initialisation, as a mask | R486 -/
  retired : U32 := 0
  /-- state regions by kind 1–5: offset and size | R177 -/
  region : Table (Nat × Nat) := []
  /-- reduction records by line number | R161 -/
  red : Table RedRec := []
  /-- lines in reduction mode, in slices and records, at most 32,768 | R163 -/
  redLines : Nat := 0
  /-- diode reading, 0.001 °C | R186 -/
  diode : Int := 0
  /-- core-die readout, 0.001 °C | R174 R186 -/
  readout : Int := 0
  /-- thermal stages in force, bits 0–3 for stages 1–4 | R188 -/
  stages : BitVec 4 := 0
  /-- consecutive readouts that differ by more than 6 °C | R187 -/
  differ : Nat := 0
  /-- hour of the last event 0x2405, plus 1 | R187 -/
  hour : Nat := 0
  /-- day of the last event 0x2505 per channel, plus 1 | R482 -/
  day : Table Nat := []
  /-- regulators by partition | R182 R183 -/
  reg : Table Regulator := []
  deriving DecidableEq, Repr, Inhabited

/-- States of a registered layer (R200). -/
inductive LayerSt where
  | reading | updating | landing | restoring
  deriving DecidableEq, Repr, Inhabited

/-- A registered weight layer (R197) with its numerics (R252). -/
structure Layer where
  /-- memory stack | R197 -/
  stack : Nat := 0
  /-- record offset a | R196 -/
  a : Nat := 0
  /-- K / 64 | R197 -/
  kb : Nat := 0
  /-- N / 64 | R197 -/
  nb : Nat := 0
  /-- tensor scale Tw | R194 -/
  tw : U32 := 0x3f800000
  /-- row-mask axis is k | R197 R212 -/
  axisK : Bool := false
  /-- row mask present | R197 -/
  rowMask : Bool := false
  /-- block mask present | R197 -/
  blockMask : Bool := false
  /-- mask-area DA | R197 -/
  mask : DA := 0
  /-- block and row mask bits read when the step opened (bit numbers that are 1) | R213 -/
  blkBits : List Nat := []
  rowBits : List Nat := []
  /-- state | R200 -/
  st : LayerSt := .landing
  /-- panels of the current version written in both orders | R199 R197 -/
  landed : List Nat := []
  /-- panels whose working copies the open step has written for its commit | R199 R204 -/
  next : List Nat := []
  /-- step of the last commit applied | R197 -/
  lastCommit : U32 := 0
  /-- the layer has entered Updating in the open step | R205 -/
  updated : Bool := false
  /-- the layer's reduce-scatter has been issued in the open step | R206 -/
  issued : Bool := false
  /-- gradient class | R252 -/
  cls : Byte := 0
  /-- margin | R252 -/
  margin : Byte := 0
  /-- grades compiled | R252 -/
  grades : Byte := 1
  /-- grade ceiling | R252 -/
  ceil : Byte := 0
  /-- promotion allowed | R252 -/
  promote : Bool := false
  /-- Calipers sampling on | R252 -/
  sample : Bool := false
  /-- sampling exponent k | R252 R262 -/
  kexp : Byte := 0
  /-- error threshold θ, 2⁻⁸ at registration | R252 -/
  theta : U32 := 0x3b800000
  /-- carry offset c | R252 R250 -/
  carry : Nat := 0
  /-- current grade | R264 R265 -/
  grade : Byte := 0
  /-- reduced sum of squares of the layer, once its norm reduction is known | R233 -/
  norm : Option U32 := none
  deriving DecidableEq, Repr, Inhabited

/-- A watched tensor (R254–R263). -/
structure Watched where
  /-- tensor ID | R254 -/
  id : U32 := 0
  /-- format code | R254 -/
  fmt : BitVec 4 := 0
  /-- kind | R254 R266 -/
  kind : BitVec 2 := 0
  /-- layer index | R254 -/
  layer : U16 := 0
  /-- history of reduced step amax values, oldest first, at most 16 | R258 -/
  hist : List U32 := []
  /-- step amax of this module | R256 -/
  amax : U32 := 0
  /-- written in the open step | R256 -/
  written : Bool := false
  /-- non-finite bit of the open step | R256 R257 -/
  nf : Bool := false
  /-- saturation count of the open step | R256 R257 -/
  sat : U32 := 0
  /-- reduced step amax, written bit, non-finite bit and count of the open step | R257 -/
  redAmax : U32 := 0
  redWritten : Bool := false
  redNf : Bool := false
  redSat : U32 := 0
  /-- Calipers accumulators sig and err | R263 -/
  sig : BitVec 384 := 0
  err : BitVec 384 := 0
  /-- Calipers overflow bit | R263 -/
  ovf : Bool := false
  /-- reduced Calipers accumulators and overflow bit | R264 -/
  redSig : BitVec 384 := 0
  redErr : BitVec 384 := 0
  redOvf : Bool := false
  deriving DecidableEq, Repr, Inhabited

/-- A collective plan record (R290). -/
structure PlanRec where
  layer : U16 := 0
  norm : Bool := false
  trigger : U32 := 0
  /-- pieces: die, first panel, pinned-window offset / 64 KiB -/
  pieces : List (Nat × Nat × Nat) := []
  deriving DecidableEq, Repr, Inhabited

/-- Collective codes (R292). -/
inductive CollKind where
  | reduceScatter | norm | scale | calipers | globalNorm | verdict | allGather
  deriving DecidableEq, Repr, Inhabited

/-- A collective in flight (R292–R295). -/
structure Coll where
  /-- sequence number | R292 -/
  seq : U32 := 0
  /-- membership epoch under which it was issued | R292 R298 -/
  epoch : U32 := 0
  /-- kind | R292 -/
  kind : CollKind := .verdict
  /-- layer, for the per-layer kinds | R292 -/
  layer : U16 := 0
  /-- step number | R292 -/
  step : U32 := 0
  /-- this module's contribution is void | R295 -/
  void : Bool := false
  /-- the reduce-scatter reads its plan pieces (a void one reads none) | R211 R295 -/
  reading : Bool := false
  /-- wire blocks read so far of each plan piece, by its place in the plan record | R211 -/
  read : Table Nat := []
  /-- values of an exact reduction received so far above 512 members, combined, and how many modules sent them | R293 -/
  acc : List Byte := []
  heard : Nat := 0
  /-- issued again after an abort | R22 R299 -/
  again : Bool := false
  /-- contributions made so far: wire blocks of each local rank | R211 R293 -/
  done : Nat := 0
  /-- wire blocks of the own shard that have been reduced, void ones empty, until their panel is complete | R291 R295 -/
  part : Table (List U32) := []
  deriving DecidableEq, Repr, Inhabited

/-- Update disciplines (R236). -/
inductive Discipline where
  | eagerShadow | eagerInPlace | stepEnd
  deriving DecidableEq, Repr, Inhabited

/-- One open job (R409) with its step, layers, numerics and collectives. -/
structure Job where
  /-- die mask | R409 -/
  dies : BitVec 4 := 0
  /-- logical rank count L | R409 -/
  ranks : Nat := 1
  /-- job seed | R409 R47 -/
  seed : U64 := 0
  /-- step-end timeout, ms | R409 R21 -/
  timeout : Nat := 10000
  /-- step limit, s | R409 R21 -/
  limit : Nat := 600
  /-- current step number | R409 R411 -/
  step : U32 := 0
  /-- a step is open | R411 -/
  stepOpen : Bool := false
  /-- opened through TCS 2: a Vane job | R414 -/
  vane : Bool := false
  /-- parameter state unrecoverable | R17 -/
  unrec : Bool := false
  /-- a restore is in progress | R412 -/
  restoring : Bool := false
  /-- tenant partition whose tenant opened the job, if any | R432 R437 -/
  tenant : Option (BitVec 2) := none
  /-- single-version mode | R197 -/
  single : Bool := false
  /-- current version is V1 | R199 -/
  version : Bool := false
  /-- registered layers by layer index | R197 -/
  layers : Table Layer := []
  /-- layer index of each holder: (die, version, layers) | R203 -/
  holders : List (Nat × Bool × List Nat) := []
  /-- update discipline | R236 -/
  disc : Discipline := .eagerShadow
  /-- committed-update count | R16 R237 -/
  count : U32 := 0
  /-- committed-update count at step open | R232 R250 -/
  countOpen : U32 := 0
  /-- profiles 0–63 as set, 512 bytes each | R222 -/
  prof : Table (List Byte) := []
  /-- profiles as snapped at step open | R223 -/
  profOpen : Table (List Byte) := []
  /-- verdicts of the last 4 steps, newest first: step and commit | R221 -/
  ring : List (U32 × Bool) := []
  /-- guard enables | R252 -/
  guard : BitVec 6 := 0x3f
  /-- carry area DA and bank size S | R252 R250 -/
  carry : Option (DA × Nat) := none
  /-- G, A, D and S_exp | R252 -/
  gG : Int := 40
  gA : Nat := 16
  gD : Int := 0
  gS : Nat := 24
  /-- numerics table, in table order | R254 -/
  watched : List Watched := []
  /-- guard checks tripped in the open step, bits 0–5 and 8–13 | R266 -/
  tripped : BitVec 14 := 0
  /-- the verdict word has been contributed | R19 R268 -/
  voted : Bool := false
  /-- contributed verdict word | R267 -/
  word : U64 := 0
  /-- verdict word of the last decided step and its step number | R252 -/
  lastWord : U64 := 0
  lastStep : U32 := 0
  /-- decided verdict of the step in hand, kept for a re-issue | R22 -/
  decided : Option (U32 × Bool) := none
  /-- last verdict: 0 none, 1 commit, 2 discard | R224 -/
  lastVerdict : BitVec 2 := 0
  /-- rank map: node ID and rank count, in rank order | R290 -/
  map : List (Nat × Nat) := []
  /-- collective plan | R290 -/
  plan : List PlanRec := []
  /-- hold area DA and size | R290 -/
  hold : Option (DA × Nat) := none
  /-- data held for collectives not yet issued | R294 -/
  held : List CollData := []
  /-- layers of the last commit whose all-gather is still to be issued, in order | R292 R296 -/
  gather : List Nat := []
  /-- next position in the fixed order of the step's collectives | R292 -/
  next : Nat := 0
  /-- collectives in flight, at most 8 | R292 -/
  colls : List Coll := []
  /-- section numbers that have ended in the open step: (die, section) | R292 -/
  ended : List (Nat × U32) := []
  /-- sections that have ended or been discarded on a die and have not loaded there since: (die, section) | R316 -/
  gone : List (Nat × U32) := []
  /-- a training-participant section has ended in the open step | R257 -/
  trained : Bool := false
  /-- the last layer's backward has retired in the open step, ms of AUX time | R21 R203 -/
  lastBack : Option Nat := none
  /-- ms of AUX time at step open | R21 -/
  opened : Nat := 0
  /-- scale and Calipers reductions are complete in the open step | R257 R264 -/
  scaled : Bool := false
  calipered : Bool := false
  /-- reduced sum of squares of the job, once the global norm is known | R233 -/
  norm : Option U32 := none
  /-- collectives of the open step that were aborted and not yet issued again: sequence number and code | R269 R299 -/
  aborted : List (U32 × Nat) := []
  /-- reductions that host software has issued again and that wait for a place among the 8 in flight | R292 R299 -/
  redo : List (CollKind × U32) := []
  /-- steps under which the job's collectives of the present epoch were issued, by sequence number | R28 -/
  issued : Table U32 := []
  /-- the module contributes as soon as the fixed order reaches the verdict | R21 R292 -/
  due : Bool := false
  /-- the verdict reduction's result, once it has reached this module: the reduced word, and whether the step commits | R22 R268 -/
  reduced : Option (U64 × Bool) := none
  /-- collective data that found the hold area full, with the port, the channel and the flits of its input buffer that they hold | R294 -/
  stuck : List (Option (Nat × Nat × Nat) × CollData) := []
  /-- blocks applied in the open step | R224 -/
  applied : Nat := 0
  /-- blocks applied in the open step, by memory stack | R224 -/
  appliedIn : Table Nat := []
  /-- panels of the open step that R19 (b) no longer waits for: layer and panel | R19 R226 R240 R245 R295 -/
  settled : List (Nat × Nat) := []
  /-- blocks of the open step that cannot be applied | R226 R240 R245 -/
  failed : Nat := 0
  /-- once-per-step events already logged in the open step | R154 R204 R206 R231 R266 R321 -/
  once : List (U16 × Nat) := []
  /-- non-finite gradients that each Burnisher replaced in the open step | R231 -/
  replaced : Table Nat := []
  /-- Tailstock area | R319 -/
  area : Option DA := none
  /-- Tailstock signals dropped | R316 R327 -/
  dropped : U32 := 0
  /-- regions torn since job open | R327 -/
  tears : U32 := 0
  /-- refetches in the open step | R321 R327 -/
  refetches : U32 := 0
  /-- Tailstock signals held: tile, counter, section | R316 -/
  signals : List (BitVec 11 × BitVec 4 × U32) := []
  /-- stamp of the job's Tailstock key, or its partition's job-open count for a tenant's job, none when destroyed | R323 R437 -/
  key : Option Nat := none
  deriving DecidableEq, Repr, Inhabited

/-- A run of consecutive panels of a layer in consecutive PRT entries of a stack (R220). -/
structure PanelRun where
  layer : Nat := 0
  panel : Nat := 0
  count : Nat := 0
  stack : Nat := 0
  entry : Nat := 0
  deriving DecidableEq, Repr, Inhabited

/-- What outlives a job's close: its assigned blocks and the discipline that fixes their strides (R219, R220, R243). -/
structure Assigned where
  /-- map from runs of panels to entries, at most 65,536 runs per module | R220 -/
  runs : List PanelRun := []
  /-- discipline under which the entries were assigned | R219 R237 -/
  disc : Discipline := .eagerShadow
  deriving DecidableEq, Repr, Inhabited

/-- A block reference in a landing queue (R239). -/
structure Landed where
  job : U32 := 0
  step : U32 := 0
  layer : U16 := 0
  panel : Nat := 0
  /-- reduced gradient values, 4,096 FP32; empty for a void block -/
  g : List U32 := []
  deriving DecidableEq, Repr, Inhabited

/-- One Burnisher (R216–R245). -/
structure Burn where
  /-- landing queue of blocks that wait for the verdict of the step before | R239 R242 -/
  queue : List Landed := []
  /-- entries folded into the pending store and waiting to be applied, in landing order | R239 -/
  wait : List Nat := []
  /-- entries with a slow-tier fetch outstanding, at most 64, with the ms of issue | R240 -/
  fetch : List (Nat × Nat) := []
  /-- cached PRT entries, by index, at most 65,536 | R220 -/
  cache : List Nat := []
  /-- entries whose fetched slots have arrived and wait for their update | R240 -/
  fetched : List Nat := []
  /-- entries that wait until one of the 64 fetches is free | R240 -/
  toFetch : List Nat := []
  /-- entries waiting for a version | R224 R204 -/
  waitVer : List Nat := []
  /-- entries whose outstanding fetch belongs to a step already decided | R240 R242 -/
  stale : List Nat := []
  /-- stopped by memory-stack thermal stage 4 | R188 -/
  stopped : Bool := false
  deriving DecidableEq, Repr, Inhabited

/-- Tenon port states (R302). -/
inductive PortSt where
  | down | training | up | standby | held
  deriving DecidableEq, Repr, Inhabited

/-- A packet inside the module (R280, R287). -/
structure Pkt where
  /-- header with which it leaves on this hop -/
  hdr : BitVec 256 := 0
  /-- header with which it entered the module | R283 R285 -/
  hdr0 : BitVec 256 := 0
  /-- payload, decrypted on the link -/
  body : List Byte := []
  /-- port on which it came in, none for local injection | R287 -/
  inp : Option Nat := none
  /-- flits of that port's input buffer that it holds | R277 -/
  flits : Nat := 0
  deriving DecidableEq, Repr, Inhabited

/-- One Tenon port (R271–R279, R300–R302). -/
structure Port where
  /-- state | R302 -/
  st : PortSt := .down
  /-- bring-up step in progress, 1–6, 0 for none | R278 -/
  step : Nat := 0
  /-- lanes trained | R274 -/
  lanes : Byte := 0
  /-- retired lanes | R488 -/
  laneRet : Byte := 0
  /-- consecutive bring-ups in which each lane failed step B1 | R484 -/
  laneFail : Table Nat := []
  /-- the port is retired | R488 -/
  retired : Bool := false
  /-- neighbour node ID and port | R302 -/
  node : U16 := 0
  nport : Byte := 0
  /-- SEQ of the last flit sent and of the last acknowledged | R276 -/
  txSeq : BitVec 12 := 0
  txAck : BitVec 12 := 0
  /-- SEQ of the last flit received in order | R275 R276 -/
  rxSeq : BitVec 12 := 0
  /-- discarding until the replay | R276 -/
  dropping : Bool := false
  /-- unacknowledged flits in the replay buffer, oldest first, at most 2,048 | R276 -/
  replay : List (BitVec 2048) := []
  /-- packets whose last flit is not acknowledged: SEQ of that flit, and the packet | R276 R279 -/
  sent : List (BitVec 12 × Pkt) := []
  /-- a NAK is to be sent | R276 -/
  nak : Bool := false
  /-- send credits per virtual channel | R277 -/
  credit : Table Nat := []
  /-- replays, by µs of AUX time, within the last second | R276 R302 -/
  replays : List Nat := []
  /-- FEC-corrected and uncorrected codewords in the last second | R302 -/
  nCorr : U32 := 0
  nUncorr : U32 := 0
  /-- the port carries the traffic of this failed port | R279 -/
  standsFor : Option Nat := none
  /-- stamp of the link key in force and key phase bit | R300 -/
  key : Nat := 0
  phase : Bool := false
  /-- the old key is still valid | R300 -/
  oldKey : Bool := false
  /-- re-keyings since bring-up | R300 -/
  gen : Nat := 0
  /-- packet counters of the two directions | R300 -/
  packets : Nat := 0
  rxPackets : Nat := 0
  /-- tag failures, by ms of AUX time, within 1 s | R301 -/
  tagFail : List Nat := []
  /-- held down until host software brings it up | R301 -/
  lockedDown : Bool := false
  /-- retraining with its traffic held | R276 -/
  hold : Bool := false
  /-- packets that wait for credits, for the replay buffer or for the link, oldest first | R276 R277 -/
  wait : List Pkt := []
  /-- bytes received of a packet not yet complete and the flits of the input buffer that they hold, by virtual channel | R275 R277 -/
  rx : Table (Nat × List Byte) := []
  /-- flits in the input buffer, by virtual channel, at most 512 each | R277 -/
  inbuf : Table Nat := []
  /-- flits of the input buffer freed and not yet returned as CREDITS, by virtual channel | R275 R277 -/
  freed : Table Nat := []
  /-- deficits of classes 0–2, the class whose turn it is, and the input served last by class | R287 -/
  deficit : Table Nat := []
  turn : Nat := 0
  served : Table Nat := []
  deriving DecidableEq, Repr, Inhabited

/-- One inbound-map entry (R288). -/
structure InEntry where
  valid : Bool := false
  write : Bool := false
  redg : Bool := false
  part : BitVec 2 := 0
  base : DA := 0
  deriving DecidableEq, Repr, Inhabited

/-- The Tenon fabric state of the module. -/
structure Fabric where
  /-- ports 0–8 | R271 -/
  port : Table Port := []
  /-- membership epoch | R297 R497 -/
  epoch : U32 := 0
  /-- own node ID, unset after reset | R297 R497 -/
  node : Option (BitVec 15) := none
  /-- ring sizes Dx, Dy, Dz | R297 -/
  dim : Nat × Nat × Nat := (1, 1, 1)
  /-- membership table: 1 forwarder, 2 member, by node ID | R297 -/
  member : Table (BitVec 2) := []
  /-- next collective sequence number | R292 -/
  seq : U32 := 0
  /-- inbound map entries 0–15 | R288 -/
  inmap : Table InEntry := []
  /-- arbitration weights of classes 0–2 | R287 -/
  weight : BitVec 4 × BitVec 4 × BitVec 4 := (2, 2, 4)
  /-- last aborted sequence number of the module and its code | R299 -/
  lastAbort : U32 × Nat := (0, 0)
  /-- collective data dropped under an older epoch | R294 -/
  dropped : Nat := 0
  /-- collective data of which packets are missing: source node, length of the whole, and what has arrived | R280 R293 -/
  asm : List (Nat × Nat × CollData) := []
  /-- outstanding peer requests of tiles: tag, tile, slot, first line and lines | R289 -/
  peer : List (U16 × BitVec 11 × BitVec 6 × Nat × Nat) := []
  /-- request tags of copy engines that wait for their response | R281 R326 -/
  copies : List U16 := []
  /-- per-partition counters of tenant-encrypted payloads | R439 -/
  tenCtr : Table Nat := []
  deriving DecidableEq, Repr, Inhabited

/-- One CXL port. -/
structure CxlPort where
  /-- mode in force | R307 -/
  mode : LinkMode := .down
  /-- width, 16 or 8 | R307 -/
  width : Byte := 0
  /-- IDE: CXL.io selective stream (or PCIe stream) and CXL.cachemem in the secure state | R441 -/
  ideIo : Bool := false
  ideMem : Bool := false
  deriving DecidableEq, Repr, Inhabited

/-- A slow-tier map range (R311). -/
structure SlowRange where
  gib : Nat := 0
  ways : Nat := 1
  dev : List Nat := []
  deriving DecidableEq, Repr, Inhabited

/-- A requester of port B with one request of at most 4 KiB at a time: a slot of a tile, a Burnisher's fetch of an entry, or a descriptor
of a copy engine by its place in the ring (R312). -/
inductive SlowUser where
  | tile (id slot : Nat) | burn (n i : Nat) | copy (e i : Nat)
  deriving DecidableEq, Repr, Inhabited

/-- The CXL ports, the host ranges and the slow-tier map. -/
structure Cxl where
  /-- port A | R304 R307 -/
  a : CxlPort := {}
  /-- port B | R304 R307 -/
  b : CxlPort := {}
  /-- PERST# is asserted | R498 R499 -/
  perst : Bool := true
  /-- the 100 MHz reference runs | R498 -/
  refclk : Bool := false
  /-- host ranges 0–3: HPA base and size | R310 -/
  host : Table (Nat × Nat) := []
  /-- memory devices found below port B: capacity in GiB | R311 -/
  devs : List Nat := []
  /-- slow-tier map in force | R311 -/
  map : List SlowRange := []
  /-- requesters whose transactions are outstanding on port B | R312 -/
  live : List SlowUser := []
  /-- the requester at which the round robin of port B goes on | R312 -/
  turn : Nat := 0
  deriving DecidableEq, Repr, Inhabited

/-- Tailstock region states (R320); `stored` is a region off-loaded under plain PCIe, where leases do not exist (R308; log 87). -/
inductive RegionSt where
  | free | writing | leased | torn | fetching | refetching | stored
  deriving DecidableEq, Repr, Inhabited

/-- One Tailstock region (R320). -/
structure Region where
  /-- state | R320 -/
  st : RegionSt := .free
  /-- torn at the start of or during the present fetch | R321 -/
  tornNow : Bool := false
  /-- off-load generation | R323 -/
  gen : Nat := 0
  /-- host offset and length of the host copy | R320 -/
  hoff : Nat := 0
  len : Nat := 0
  /-- the region's last record ended with an error status | R169 R180 -/
  err : Bool := false
  deriving DecidableEq, Repr, Inhabited

/-- A Tailstock record triggered and waiting or in flight (R315). -/
structure TailRun where
  die : Nat := 0
  job : U32 := 0
  step : U32 := 0
  rec_ : TailRec := {}
  /-- started | R315 -/
  started : Bool := false
  /-- writes of an off-load are globally visible and the read-back runs | R320 -/
  written : Bool := false
  /-- its blank takes part in training | R31 -/
  training : Bool := false
  deriving DecidableEq, Repr, Inhabited

/-- One copy engine (R325). -/
structure Engine where
  /-- staged BASE, SIZE, EN, VEC | R325 -/
  stBase : BitVec 44 := 0
  stSize : BitVec 4 := 0
  stEn : Bool := false
  stVec : BitVec 6 := 0
  /-- BASE, SIZE, EN, VEC in force | R325 -/
  base : BitVec 44 := 0
  size : BitVec 4 := 0
  en : Bool := false
  vec : BitVec 6 := 0
  /-- TAIL | R325 -/
  tail : U16 := 0
  /-- HEAD | R325 -/
  head : U16 := 0
  /-- HALT | R325 -/
  halt : Bool := false
  /-- descriptors in flight (IDLE is 1 when 0), at most 4 | R325 R326 -/
  inflight : Nat := 0
  /-- descriptors in flight that a port going down has ended with an error, by their place in the ring | R309 R313 -/
  cut : List Nat := []
  /-- LAST | R325 -/
  last : Byte := 0
  deriving DecidableEq, Repr, Inhabited

/-- The control fields of a staged block: REJ, GEN and the two reason fields (R183, R325, R346, R368). -/
structure BlockCtl where
  /-- REJ | R183 R325 R346 R368 -/
  rej : Bool := false
  /-- GEN | R183 R325 R346 R368 -/
  gen : Byte := 0
  /-- RSTK, RENG or RDIE | R183 R325 R346 -/
  who : BitVec 4 := 0
  /-- RSN | R346 R368 -/
  rsn : Byte := 0
  deriving DecidableEq, Repr, Inhabited

/-- Host memory, the slow tier, the memory stacks and pinned SRAM as byte stores. -/
structure Mems where
  /-- memory stacks, keyed by DA of the range 0 to 2⁴¹ − 1 | R168 R170 -/
  hbm : Mem := {}
  /-- pinned windows, keyed by DA − 0x00_0400_0000_0000 | R144 R168 -/
  pin : Mem := {}
  /-- slow tier, keyed by slow-tier offset | R168 R311 -/
  slow : Mem := {}
  /-- host memory, keyed by host physical address | R310 -/
  host : Mem := {}
  /-- next stamp of an undefined run | R179 -/
  stamp : Nat := 0
  deriving DecidableEq, Repr, Inhabited

end Sys2Proof.Machine
end

