-- ==== Sys2Proof/Machine/StateCtl.lean ====
section
/-! DEFINITION. The state of the beat, power and heat, meter, controller, identity, firmware, ring log and supplies. -/

namespace Sys2Proof.Machine

/-- Lowest ceiling of a die (R346 CSRC). -/
inductive Csrc where
  | none | cap | dieTemp | memTemp | wear | boost | fallback
  deriving DecidableEq, Repr, Inhabited

/-- Beat, point and pace state of one die (R329–R347), with its power and wear state. -/
structure DiePow where
  /-- point in force | R346 -/
  point : BitVec 3 := 0
  /-- point selected | R346 -/
  target : BitVec 3 := 0
  /-- lowest ceiling | R346 -/
  csrc : Csrc := .none
  /-- preferred points of phases 0–5 | R337 -/
  pref : Table (BitVec 3) := [(0, 3), (1, 3), (2, 3), (3, 3), (4, 2), (5, 0)]
  /-- dwell in units of 100 µs | R337 -/
  dwell : Nat := 10
  /-- phase whose preference is in effect | R336 -/
  eff : BitVec 3 := 5
  /-- staged EN and PACE | R346 -/
  stEn : Bool := false
  stPace : Byte := 0
  /-- EN and PACE in force | R346 -/
  en : Bool := false
  pace : Byte := 0
  /-- pace released now, in units of 12.5 M beats/s, 0 when not paced | R346 -/
  paceF : Byte := 0
  /-- pace to be released once the point allows it | R344 -/
  paceNext : Option Byte := none
  /-- pace lowered | R343 R346 -/
  plow : Bool := false
  /-- consecutive selections (100 µs) in which the rule allowed a lower point | R342 -/
  lowerFor : Nat := 0
  /-- beats counted since MAIN came up | R346 -/
  beats : U64 := 0
  /-- beats skipped since MAIN came up | R346 -/
  skips : BitVec 48 := 0
  /-- BEATS and SKIPS at the last snapshot | R346 -/
  snBeats : U64 := 0
  snSkips : BitVec 48 := 0
  /-- ceiling set by the cap, the electrical limit, the boost window | R357 R359 -/
  ceilCap : BitVec 3 := 6
  ceilElec : BitVec 3 := 6
  ceilBoost : BitVec 3 := 6
  /-- thermal ceiling of the die | R364 -/
  ceilTherm : BitVec 3 := 6
  /-- ceiling set by the memory-stack temperature stages | R188 R189 -/
  ceilMem : BitVec 3 := 6
  /-- Flywheel floor point | R335 R366 -/
  floor : BitVec 3 := 0
  /-- firing ratio of the cap and fast loop, sixteenths | R350 R357 -/
  fire : BitVec 5 := 16
  /-- firing ratio of the fast power loop, sixteenths | R353 R359 R366 -/
  fast : BitVec 5 := 16
  /-- firing ratio limit of memory-stack stage 3 past P0 | R188 -/
  fireMem : BitVec 5 := 16
  /-- firing limit of each region from its thermal factor, sixteenths | R363 -/
  fireReg : Table (BitVec 5) := []
  /-- a region's thermal factor below 1, by region | R363 -/
  throttled : BitVec 8 := 0
  /-- hours of the last event 0x4304 and 0x4505 by region, plus 1 | R363 R334 -/
  hour4304 : Table Nat := []
  hour4505 : Table Nat := []
  /-- floor of a region taken from its beat monitor, M beats/s | R334 -/
  monitor : Table Nat := []
  /-- heat-token grants of the lower and upper groups by column | R363 -/
  grantLo : Table (BitVec 5) := []
  grantHi : Table (BitVec 5) := []
  /-- ballast level | R365 -/
  ballast : BitVec 5 := 0
  /-- staged and in-force die cap, W | R368 -/
  stCap : BitVec 12 := 0
  cap : BitVec 12 := 0
  /-- regions parked for the cap, at critical temperature and by memory stage 4 | R352 R364 R188 -/
  parkCap : BitVec 8 := 0
  parkHot : BitVec 8 := 0
  parkMem : BitVec 8 := 0
  /-- operating and boost milliseconds | R338 -/
  opMs : Nat := 0
  boostMs : Nat := 0
  /-- wear ledger cap | R339 -/
  wcap : Bool := false
  /-- last saved ledger: operating ms, boost ms, boost in use, orderly | R340 -/
  saved : Nat × Nat × Bool × Bool := (0, 0, false, true)
  /-- diode episodes, distrust and retirement by sensor 3 × region + layer, consecutive failures by 3 × sensor + check | R361 -/
  episodes : Table Nat := []
  distrust : BitVec 24 := 0
  diodeRet : BitVec 24 := 0
  fails : Table Nat := []
  /-- µs of AUX time, plus 1, since which every check has passed, by sensor; 0 for a sensor that has just failed one | R361 -/
  passes : Table Nat := []
  /-- readings, model values and governing temperatures, 0.001 °C, by sensor | R370 R360 R362 -/
  reading : Table Int := []
  model : Table Int := []
  govern : Table Int := []
  /-- model offsets by region, in units of 10⁻⁷ °C (stored settings) | R360 R459 -/
  offset : Table Int := []
  /-- highest governing temperatures of the last 100 ms: µs of AUX time, 0.001 °C | R342 -/
  hot : List (Nat × Int) := []
  /-- firing ratio by which a paced die obeys its thermal ceiling, sixteenths | R343 R364 -/
  fireTherm : BitVec 5 := 16
  deriving DecidableEq, Repr, Inhabited

/-- Activity-estimate states (R355). -/
inductive XState where
  | agree | disagree | fallback
  deriving DecidableEq, Repr, Inhabited

/-- The Flywheel register (R368), staged or in force. -/
structure FlyCfg where
  en : Bool := true
  bal : Bool := true
  ramp : Byte := 0x19
  floor : BitVec 7 := 0x46
  win : Byte := 0x14
  start : Byte := 0x14
  stop : Byte := 0x14
  offm : Bool := false
  offv : BitVec 10 := 0
  deriving DecidableEq, Repr, Inhabited

/-- The cap of one master (R356, R368); none stands for the rated draw of the variant. -/
structure CapCfg where
  cap : Option (BitVec 12) := none
  boost : Bool := true
  deriving DecidableEq, Repr, Inhabited

/-- Flywheel ramps (R367). -/
inductive Ramp where
  | none | offset | start | stop
  deriving DecidableEq, Repr, Inhabited

/-- Module-wide power and load state. -/
structure Power where
  /-- staged and in-force Flywheel register | R368 -/
  stFly : FlyCfg := {}
  fly : FlyCfg := {}
  /-- host's cap: staged and in force | R356 R368 -/
  stHost : CapCfg := {}
  host : CapCfg := {}
  /-- board controller's cap: staged and in force | R356 R368 -/
  stBoard : CapCfg := {}
  board : CapCfg := {}
  /-- control register of the power and load block | R368 -/
  ctl : BlockCtl := {}
  /-- control register of the beat and pace block | R346 -/
  bctl : BlockCtl := {}
  /-- activity estimate E of the last 4 µs, mW | R353 -/
  est : Nat := 0
  /-- estimates and capping powers of the last 1 ms, newest first, at most 250 | R353 R357 R368 -/
  hist : List (Nat × Nat) := []
  /-- 1 ms average of capping power, mW | R357 -/
  avg : Nat := 0
  /-- measurement M and mean estimate Ē of the last window, mW | R354 -/
  meas : Nat := 0
  mean : Nat := 0
  /-- estimate state | R355 -/
  x : XState := .agree
  /-- the last window disagreed by more than 12 % | R355 -/
  xBad : Bool := false
  /-- µs for which the present agreement or disagreement has held | R355 -/
  xFor : Nat := 0
  /-- µs since entry of the present state | R355 -/
  xSince : Nat := 0
  /-- a refit is in progress | R355 R384 -/
  refit : Bool := false
  /-- event 0xA005 has been logged in this state | R384 -/
  refitSkipped : Bool := false
  /-- activity weights of rows 1–14, pJ or mW, 0 for the fused value (stored settings) | R353 R459 -/
  weight : Table Nat := []
  /-- boost budget in µs, 2 s when full | R359 -/
  budget : Nat := 2000000
  /-- boost window exhausted | R359 -/
  exhausted : Bool := false
  /-- samples above 2,600 W in the last 100 ms, by µs of AUX time: the electrical timer | R359 -/
  elec : List Nat := []
  /-- µs of AUX time of the last step of the electrical ceiling | R359 -/
  elecStep : Nat := 0
  /-- regions parked at the last record of a parked count | R352 -/
  parkCount : Nat := 0
  /-- d_low and d_high, mW | R366 -/
  dlow : Nat := 0
  dhigh : Nat := 0
  /-- ramp in progress | R367 -/
  ramp : Ramp := .none
  /-- draw at the start of the ramp, mW, and µs since its start | R367 -/
  rampDraw : Nat := 0
  rampFor : Nat := 0
  /-- µs for which every die has been in the idle phase | R367 -/
  idleFor : Nat := 0
  /-- µs for which d_low has not been held | R366 -/
  lowFor : Nat := 0
  /-- second of the last event 0x4403, plus 1 | R366 -/
  sec4403 : Nat := 0
  /-- snapshot registers at 0x118 and 0x120 | R368 -/
  snA : U64 := 0x320000000
  snB : U64 := 0x0008421000000000
  /-- I/O dies whose injection is halved | R364 -/
  ioHalf : BitVec 3 := 0
  /-- I/O-die and coolant readings, 0.001 °C | R362 R502 -/
  ioTemp : Table Int := []
  inlet : Int := 0
  outlet : Int := 0
  /-- minute of the last event 0x4703, plus 1 | R502 -/
  minCool : Nat := 0
  deriving DecidableEq, Repr, Inhabited

/-- One entry of the metrological log (R381). -/
structure MLog where
  code : U16 := 0
  pcyc : BitVec 24 := 0
  secs : U32 := 0
  energy : U64 := 0
  deriving DecidableEq, Repr, Inhabited

/-- A message that leaves the meter. -/
inductive MOut where
  /-- a vendor-defined response: bytes before the signature, and whether an Ed448 signature follows -/
  | vendor (body : List Byte) (signed : Bool)
  /-- an SPDM answer: response code, body, and whether a signature follows -/
  | spdm (code : Byte) (body : List Byte) (signed : Bool)
  /-- no answer: the request is not supported -/
  | spdmError
  deriving DecidableEq, Repr, Inhabited

/-- The Jarzesa meter: a separate part that no main-side command reaches (R375). -/
structure Meter where
  /-- the 54 V input is within 40–60 V and the meter runs | R374 -/
  running : Bool := false
  /-- energy register, mWh | R372 -/
  energy : U64 := 0
  /-- energy below 1 mWh not yet registered, µJ | R372 -/
  part : Nat := 0
  /-- power-cycle count | R374 -/
  pcyc : BitVec 24 := 0
  /-- operating seconds, with the milliseconds below one second | R374 -/
  secs : U32 := 0
  ms : Nat := 0
  /-- record sequence number | R379 -/
  seq : U32 := 0
  /-- flags [0] voltage, [1] current, [3] supply interruption since the last record, [4] self-test failure | R379 -/
  fVolt : Bool := false
  fCurr : Bool := false
  fSupply : Bool := false
  fTest : Bool := false
  /-- the break-wire is broken: flag [2] | R376 -/
  cover : Bool := false
  /-- mean power mW, voltage mV and current mA of the last update | R379 -/
  power : U32 := 0
  volt : U32 := 0
  curr : U32 := 0
  /-- ms for which the voltage or the current has been out of range | R381 -/
  voltFor : Nat := 0
  currFor : Nat := 0
  /-- metrological log, first entry first, at most 1,024 | R381 -/
  log : List MLog := []
  /-- metrological log entries written, including those not kept | R379 R381 -/
  written : U32 := 0
  /-- verification pulse output is on | R382 -/
  pulse : Bool := false
  /-- verification pulses given | R382 -/
  pulses : Nat := 0
  /-- energy register at the last mirror frame | R383 -/
  framed : U64 := 0
  /-- messages sent, newest first | R377 R378 -/
  out : List MOut := []
  deriving DecidableEq, Repr, Inhabited

/-- The mirror of the meter on the main side (R383–R385). -/
structure Mirror where
  energy : U64 := 0
  power : U32 := 0
  volt : U32 := 0
  curr : U32 := 0
  flags : U16 := 0
  seq : U32 := 0
  /-- energy of the last 10 ms in mWh, as the last good frame carried it | R383 -/
  gain : U32 := 0
  /-- mirror lost | R384 -/
  lost : Bool := false
  /-- frames dropped for CRC since MAIN came up | R385 -/
  dropped : U32 := 0
  /-- drops at the last hourly advisory, and its hour, plus 1 | R386 -/
  advised : Nat := 0
  hour : Nat := 0
  /-- meter flags recorded in this power cycle | R386 -/
  logged : BitVec 6 := 0
  deriving DecidableEq, Repr, Inhabited

/-- One controller core (R387, R388). -/
structure CoreSt where
  /-- runs | R392 CORES R388 -/
  runs : Bool := false
  /-- settings-copy mismatches in a row | R388 -/
  bad : Nat := 0
  /-- seconds of its restarts within the last hour | R389 -/
  restarts : List Nat := []
  deriving DecidableEq, Repr, Inhabited

/-- A command response before it is written to its mailbox (R402, R413). -/
structure Resp where
  src : Src := .host 0
  tcs2 : Bool := false
  op : U16 := 0
  tag : U32 := 0
  status : Byte := 0
  payload : Payload := 0
  rec_ : U32 := 0xFFFFFFFF
  /-- µs of AUX time at which the controller took the command | R402 -/
  since : Nat := 0
  /-- compute stack whose pool change this response completes | R147 -/
  stack : Option Nat := none
  deriving DecidableEq, Repr, Inhabited

/-- A command handed over and waiting in the queue of R405. -/
structure Queued where
  src : Src := .host 0
  cmd : BitVec 512 := 0
  deriving DecidableEq, Repr, Inhabited

/-- One host mailbox (R397). -/
structure Mailbox where
  /-- command buffer | R397 -/
  cmd : BitVec 512 := 0
  /-- response buffer | R397 -/
  resp : BitVec 512 := 0
  /-- OWN | R397 -/
  own : Bool := false
  /-- DONE | R397 -/
  done : Bool := false
  /-- CIE and CMEM | R397 -/
  cie : Bool := false
  cmem : Bool := false
  /-- VEC, m + 1 after reset: offset from that value | R397 -/
  vec : Option (BitVec 6) := none
  /-- SEQ | R397 -/
  seq : U32 := 0
  /-- OFFS bits [43:6] | R397 -/
  offs : BitVec 38 := 0
  /-- CIE, CMEM, VEC and OFFS as latched by GO | R397 R399 -/
  lCie : Bool := false
  lCmem : Bool := false
  lVec : BitVec 6 := 0
  lOffs : BitVec 38 := 0
  /-- bound to a tenant, and the partition | R397 R430 -/
  bound : Bool := false
  part : BitVec 2 := 0
  deriving DecidableEq, Repr, Inhabited

/-- One side-band mailbox (R400). -/
structure SideBox where
  /-- executes a command | R400 -/
  busy : Bool := false
  seq : U32 := 0
  resp : BitVec 512 := 0
  deriving DecidableEq, Repr, Inhabited

/-- A ring-log record (R463). -/
structure LogRec where
  bits : BitVec 256 := 0
  deriving DecidableEq, Repr, Inhabited

/-- The ring log (R462–R471). -/
structure RingLog where
  /-- records, record 0 first, at most 32,768 | R462 -/
  recs : List LogRec := []
  /-- NEXTSEQ | R465 R392 -/
  next : U32 := 0
  /-- FULL | R466 -/
  full : Bool := false
  /-- lost count | R466 -/
  lost : U32 := 0
  /-- clears over the unit's life | R468 -/
  clears : U32 := 0
  /-- records programmed into flash | R462 -/
  flashed : Nat := 0
  /-- events waiting in core 3's buffer, oldest first, at most 256 | R387 R462 -/
  buf : List (List LogRec) := []
  /-- events lost from the buffer during the restart | R388 -/
  bufLost : Nat := 0
  /-- FCODE and FSEQ | R392 -/
  fcode : U16 := 0
  fseq : U32 := 0
  /-- log-clear key | R470 -/
  key : Option (BitVec 456) := none
  /-- nonce in force | R470 -/
  nonce : Option (BitVec 128) := none
  /-- staging buffers of the host and side-band mailboxes, 264 bytes each | R470 -/
  stageH : List (Nat × Byte) := []
  stageS : List (Nat × Byte) := []
  /-- µs of AUX time of the last rate-limited events by code and unit, plus 1 | R129 R285 R391 R444 -/
  rate : Table Nat := []
  deriving DecidableEq, Repr, Inhabited

/-- The interrupt block and the MSI-X table (R393). -/
structure Intr where
  /-- cause bits | R393 -/
  cause : Byte := 0
  /-- EN | R393 -/
  en : Byte := 0
  /-- staged and in-force VMAP | R393 -/
  stVmap : BitVec 48 := 0
  vmap : BitVec 48 := 0
  /-- GEN | R393 -/
  gen : Byte := 0
  /-- MSI-X table, 1 KiB, and pending bits | R390 -/
  table : List (Nat × Byte) := []
  pba : U64 := 0
  deriving DecidableEq, Repr, Inhabited

/-- The snapshot block (R396). -/
structure Snap where
  sseq : U32 := 0
  sopsec : U32 := 0
  stick : U32 := 0
  scmds : U32 := 0
  snext : U32 := 0
  deriving DecidableEq, Repr, Inhabited

/-- Transports of the side-band endpoint (R415, R416). -/
structure SideBand where
  /-- I3C dynamic address | R415 -/
  dyn : Option (BitVec 7) := none
  /-- runs SMBus | R415 -/
  smbus : Bool := false
  /-- MCTP endpoint ID, and the endpoint that assigned it | R415 R400 -/
  eid : Byte := 0
  owner : Byte := 0
  /-- PLDM terminus ID | R416 -/
  tid : Byte := 0
  /-- event receiver, none until set | R416 -/
  recv : Option Byte := none
  /-- platform events pending for poll, oldest first: the 32-byte record | R416 -/
  events : List (BitVec 256) := []
  /-- SBADDR strap in force | R505 -/
  sbaddr : BitVec 3 := 0
  deriving DecidableEq, Repr, Inhabited

/-- An SPDM session (R423). -/
structure Session where
  id : U32 := 0
  /-- FINISH has completed -/
  est : Bool := false
  /-- partition it is attached to | R435 -/
  part : Option (BitVec 2) := none
  /-- transport: DOE when set, else MCTP -/
  doe : Bool := true
  /-- key updates made -/
  updates : Nat := 0
  deriving DecidableEq, Repr, Inhabited

/-- The SPDM responder (R423). -/
structure Spdm where
  /-- version, capabilities and algorithms negotiated -/
  version : Bool := false
  caps : Bool := false
  algs : Bool := false
  /-- sessions, at most 8 | R423 -/
  sess : List Session := []
  /-- session ID of the next session -/
  next : U32 := 1
  deriving DecidableEq, Repr, Inhabited

/-- Partition states (R441). -/
inductive PartSt where
  | opened | claiming | sealed | releasing
  deriving DecidableEq, Repr, Inhabited

/-- One tenant partition (R425–R441). -/
structure Part where
  /-- state | R441 -/
  st : PartSt := .opened
  /-- claim count | R424 R441 -/
  claims : U32 := 0
  /-- tenant public key | R432 -/
  pub : BitVec 456 := 0
  /-- stamp of the data key in the key store, none when destroyed | R437 -/
  key : Option (BitVec 256) := none
  /-- session attached | R435 -/
  sess : Option U32 := none
  /-- inactivity timeout, s, 0 for none | R432 -/
  idle : U32 := 0
  /-- seal-area DA | R432 -/
  area : DA := 0
  /-- host-range mask | R428 -/
  hostMask : BitVec 4 := 0
  /-- slow-tier share base and size | R428 -/
  base : Nat := 0
  size : Nat := 0
  /-- result of the last scrub | R434 -/
  scrub : Bool := false
  /-- export stream counter | R440 -/
  stream : U32 := 0
  /-- job-open count | R437 -/
  opens : U64 := 0
  /-- cause of the release in progress: 0 tenant, 1 operator, 2 timeout, 3 start-up | R436 -/
  cause : Byte := 0
  /-- response of the forced release in progress | R436 -/
  waiting : Option Resp := none
  deriving DecidableEq, Repr, Inhabited

/-- One flash bank (R448). -/
structure Bank where
  /-- manifest bytes, empty where none | R448 -/
  manifest : List Byte := []
  /-- images by component type 1–4 | R448 R450 -/
  image : Table (List Byte) := []
  /-- marked verified | R454 R457 -/
  verified : Bool := false
  deriving DecidableEq, Repr, Inhabited

/-- Firmware, flash banks and the update (R448–R461). -/
structure Firm where
  /-- banks A and B | R448 -/
  bankA : Bank := {}
  bankB : Bank := {}
  /-- boot selector: bank B, trial flag | R456 -/
  selB : Bool := false
  trial : Bool := false
  /-- last confirmed bank, if any (B when true) | R457 R461 -/
  confirmed : Option Bool := some false
  /-- failures in a row of the selected bank | R457 -/
  fails : Nat := 0
  /-- ROM has turned to the other bank after three failures | R457 -/
  tried : Bool := false
  /-- active bank is B | R392 -/
  active : Bool := false
  /-- a manifest is booted | R408 -/
  booted : Bool := false
  /-- fused minimum security version | R458 -/
  minsec : Nat := 0
  /-- settings format of the stored settings | R459 -/
  setFmt : U16 := 0
  /-- update state: 0 none, 1 running, 2 verified, 3 failed | R453 -/
  st : BitVec 2 := 0
  /-- update step U1–U5 | R453 -/
  step : Nat := 0
  /-- starting master is the side-band | R453 -/
  side : Bool := false
  /-- package DA and length | R453 -/
  pkg : DA := 0
  plen : Nat := 0
  /-- manifest in hand | R454 -/
  man : List Byte := []
  /-- blocks applied, and the output built so far of the component in hand | R453 R454 -/
  blocks : U32 := 0
  comp : Nat := 0
  outp : List Byte := []
  /-- PLDM update: bytes of the package received | R453 -/
  pldm : Option (List Byte) := none
  /-- PLDM firmware-update state machine: 0 idle, 1 learn, 2 ready, 3 download, 4 verify, 5 apply, 6 activate | R416 -/
  fd : Nat := 0
  deriving DecidableEq, Repr, Inhabited

/-- STATE (R392). -/
inductive DevState where
  | romBoot | auxOnly | starting | ready | degraded | recovery | halted
  deriving DecidableEq, Repr, Inhabited

/-- Supplies, straps, start-up and the status block (R392, R491–R505). -/
structure Supply where
  /-- STATE | R392 -/
  state : DevState := .romBoot
  /-- STAGE | R392 -/
  stage : BitVec 4 := 0
  /-- AUX is present | R491 -/
  aux : Bool := false
  /-- MAIN is present | R493 -/
  main : Bool := false
  /-- MAIN-fed rails are up | R494 -/
  rails : Bool := false
  /-- a rail fault keeps the rails off until a module or cold reset | R495 -/
  railFault : Bool := false
  /-- straps read: RECOV#, TLOCK | R505 -/
  recov : Bool := false
  tlock : Bool := false
  /-- the degraded state holds until a module or cold reset | R389 -/
  degraded : Bool := false
  /-- coolant check failing for MAIN enable | R502 -/
  hot : Bool := false
  /-- the module has reached ready in this boot | R457 -/
  wasReady : Bool := false
  deriving DecidableEq, Repr, Inhabited

/-- CXL.cache requests of port A to the host (R304). -/
inductive D2H where
  | rdCurr | rdShared | wrCur | cleanEvictNoData
  deriving DecidableEq, Repr, Inhabited

/-- Messages and signals that leave the module on its main side. -/
inductive Out where
  | msix (vec : BitVec 6)
  | line (tag : U32) (data : BitVec 1024) (bad : Bool)
  | side (box : Byte) (code : Byte) (body : BitVec 512)
  | mctp (body : List Byte)
  | pldm (code : Byte) (body : List Byte)
  | spdm (code : Byte) (body : List Byte) (signed : Bool)
  | tenant (body : List Byte)
  | bar0 (data : BitVec 512)
  /-- a packet enters a link: port, header, ciphertext and tag (R280, R300) -/
  | packet (port : Nat) (hdr : BitVec 256) (body : List Byte) (tag : BitVec 128)
  /-- a flit leaves on a port (R275) -/
  | flit (port : Nat) (bits : BitVec 2048)
  | snoop (code : Byte)
  /-- a CXL.cache request for every line of a run of host memory, by its HPA (R304) -/
  | cache (op : D2H) (hpa bytes : Nat)
  | mismatch (job seq step : U32)
  | i3c (addr : BitVec 7)
  | thermtrip
  deriving DecidableEq, Repr, Inhabited

end Sys2Proof.Machine
end

