-- ==== Sys2Proof/Machine/State.lean ====
section
/-! DEFINITION. The state of the block: the main side, the meter, and the queue of waiting commands. -/

namespace Sys2Proof.Machine

/-- Which of the three part numbers the unit is (R1). -/
inductive Variant where
  | oa82 | oa101 | oa63
  deriving DecidableEq, Repr, Inhabited

/-- The main side of the module: everything but the meter. -/
structure Main where
  /-- part number of the unit | R1 R3 -/
  variant : Variant := .oa82
  /-- unit serial, 16 ASCII bytes padded with 0 | R408 -/
  serial : BitVec 128 := 0
  /-- clock of the AUX supply: µs since AUX came up | R392 -/
  us : Nat := 0
  /-- OPSEC | R392 R465 -/
  opsec : U32 := 0
  /-- operating seconds as last saved | R465 -/
  opSaved : U32 := 0
  /-- PCYC | R392 R465 -/
  pcyc : BitVec 24 := 0
  /-- CMDS | R392 -/
  cmds : U32 := 0
  /-- draws made of opaque free values so far (the model's own counter) | R179 -/
  draws : Nat := 0
  /-- supplies, start-up and STATE | R392 R496 -/
  sup : Supply := {}
  /-- tiles by tile ID | R58 -/
  tile : Table Tile := []
  /-- dies 0–3 | R121 -/
  die : Table Die := []
  /-- compute stacks 0–3 | R138 -/
  sram : Table Sram := []
  /-- memory stacks 0–9 | R170 -/
  hbm : Table Stack := []
  /-- Burnishers by memory stack | R217 -/
  burn : Table Burn := []
  /-- byte stores | R168 -/
  mem : Mems := {}
  /-- jobs by job ID | R409 -/
  jobs : Table Job := []
  /-- assigned blocks by job ID, kept when the job closes | R220 R243 -/
  assigned : Table Assigned := []
  /-- forced job closes that wait for a verdict, by job ID, with their response to come | R410 -/
  closing : Table Resp := []
  /-- regulator block control | R183 -/
  rctl : BlockCtl := {}
  /-- fabric | R271 -/
  fab : Fabric := {}
  /-- CXL ports | R304 -/
  cxl : Cxl := {}
  /-- Tailstock regions 0–4,095 | R320 -/
  region : Table Region := []
  /-- Tailstock records triggered, oldest first | R315 -/
  tail : List TailRun := []
  /-- copy engines 0–7 | R325 -/
  eng : Table Engine := []
  /-- copy-engine block control | R325 -/
  ectl : BlockCtl := {}
  /-- beat, pace, power and wear state of dies 0–3 | R346 R338 -/
  dp : Table DiePow := []
  /-- module-wide power state | R368 -/
  pow : Power := {}
  /-- meter mirror | R383 -/
  mir : Mirror := {}
  /-- controller cores 0–3 | R387 -/
  core : Table CoreSt := []
  /-- cores restarted since the boot began, until ready | R457 -/
  restartedAll : BitVec 4 := 0
  /-- host mailboxes 0–15 | R397 -/
  box : Table Mailbox := []
  /-- side-band mailboxes 0–3 | R400 -/
  side : Table SideBox := []
  /-- commands handed over and not yet executed, in queue order | R405 -/
  queue : List Queued := []
  /-- responses of executed commands, not yet written, oldest first | R398 -/
  resps : List Resp := []
  /-- interrupt block | R393 -/
  intr : Intr := {}
  /-- snapshot block | R396 -/
  snap : Snap := {}
  /-- ring log | R462 -/
  log : RingLog := {}
  /-- side-band transports | R415 -/
  sb : SideBand := {}
  /-- SPDM responder | R423 -/
  spdm : Spdm := {}
  /-- partitioning is on | R425 -/
  partOn : Bool := false
  /-- partitions 0–3 | R425 -/
  part : Table Part := []
  /-- CLOCK of the debug block | R444 -/
  clock : Bool := false
  /-- firmware | R448 -/
  fw : Firm := {}
  /-- what has left the module, newest first | R398 R400 -/
  out : List Out := []
  deriving DecidableEq, Repr, Inhabited

/-- The named operations never raise a fault of their own: this model's faults. -/
inductive Fault where
  /-- an access outside every store the spec gives; no meaning raises it today. Safe: the block stops. -/
  | noSuchUnit
  deriving DecidableEq, Repr

/-- Why a command has no meaning in the state it meets. -/
inductive Refusal where
  /-- an arm of exec that has no meaning yet. Safe: nothing is claimed of it. -/
  | notModelled (mnemonic : String)
  deriving DecidableEq, Repr

/-- The whole block. -/
structure State where
  /-- the main side -/
  main : Main := {}
  /-- the Jarzesa meter | R372 -/
  meter : Meter := {}
  /-- commands waiting, first in first out -/
  pending : List Instr := []
  deriving DecidableEq, Repr, Inhabited

/-- The unit before its first AUX up: every field at the reset value of its field table (R392, R500), nothing stored. -/
def State.reset : State := {}

end Sys2Proof.Machine
end

