-- ==== Sys2Proof/Machine/Ops.lean ====
section
/-! DEFINITION. The named operations over bytes, memories, units, the ring log and the interrupt block. -/

namespace Sys2Proof.Machine

/-! ### Bytes -/

/-- The `n` bytes of a value, least significant first (R10). -/
def toBytes (n : Nat) (v : Nat) : List Byte :=
  match n with
  | 0 => []
  | k + 1 => BitVec.ofNat 8 v :: toBytes k (v / 256)

/-- A little-endian value (R10). -/
def ofBytes : List Byte → Nat
  | [] => 0
  | b :: r => b.toNat + 256 * ofBytes r

/-- `n` bytes at offset `o` of a byte list, 0 beyond its end. -/
def bytesAt (l : List Byte) (o n : Nat) : List Byte := (List.range n).map (fun i => l.getD (o + i) 0)

/-- A little-endian value at offset `o`. -/
def natAt (l : List Byte) (o n : Nat) : Nat := ofBytes (bytesAt l o n)

/-- All bytes of a run are 0. -/
def zeroAt (l : List Byte) (o n : Nat) : Bool := (bytesAt l o n).all (· == 0)

/-- Byte `o` of a wide value. -/
def bvByte {w : Nat} (p : BitVec w) (o : Nat) : Byte := p.extractLsb' (8 * o) 8

/-- `n` bytes of a wide value from byte `o` as a number (R401). -/
def bvAt {w : Nat} (p : BitVec w) (o n : Nat) : Nat := (p.extractLsb' (8 * o) (8 * n)).toNat

/-- The bytes of a wide value. -/
def bvBytes {w : Nat} (p : BitVec w) (n : Nat) : List Byte := (List.range n).map (bvByte p)

/-- A wide value from bytes. -/
def bvOf (w : Nat) (l : List Byte) : BitVec w := BitVec.ofNat w (ofBytes l)

/-- A payload from (offset, size, value) fields. -/
def payload (l : List (Nat × Nat × Nat)) : Payload :=
  l.foldl (fun p f => p ||| (BitVec.ofNat 256 (f.2.2 % 256 ^ f.2.1)) <<< (8 * f.1)) 0

/-- The payload bytes named by (offset, size) runs are the only ones that may be non-zero (R11). -/
def reservedZero (p : Payload) (fields : List (Nat × Nat)) : Bool :=
  (List.range 32).all (fun i => bvByte p i == 0 || fields.any (fun f => f.1 ≤ i && i < f.1 + f.2))

/-! ### Byte stores -/

/-- The undefined run that covers an address, if any: its stamp. -/
def Mem.undefAt (m : Mem) (a : Nat) : Option Nat :=
  (m.undef.find? (fun u => u.1 ≤ a && a < u.1 + u.2.1)).map (·.2.2)

/-- The listed byte at an address. -/
def cellGet : List (Nat × Byte) → Nat → Option Byte
  | [], _ => none
  | (k, v) :: r, a => if a = k then some v else if a < k then none else cellGet r a

/-- Writes a byte into a canonical cell list: 0 is not listed. -/
def cellPut : List (Nat × Byte) → Nat → Byte → List (Nat × Byte)
  | [], a, b => if b = 0 then [] else [(a, b)]
  | (k, v) :: r, a, b =>
      if a < k then (if b = 0 then (k, v) :: r else (a, b) :: (k, v) :: r)
      else if a = k then (if b = 0 then r else (k, b) :: r)
      else (k, v) :: cellPut r a b

/-- The stored data byte at an address. -/
def Mem.raw (m : Mem) (a : Nat) : Byte :=
  match cellGet m.cells a with
  | some b => b
  | none =>
    match m.undefAt a with
    | some st => Config.freeByte st a
    | none => 0

/-- The stored data word with number `w`. -/
def Mem.rawWord (m : Mem) (w : Nat) : U64 :=
  bvOf 64 ((List.range 8).map (fun i => m.raw (8 * w + i)))

/-- Decoder outcome, corrected data and poison of word `w` (R475). -/
def Mem.decode (m : Mem) (w : Nat) : Outc × U64 × Bool :=
  match m.side.find w with
  | none => (.none, m.rawWord w, false)
  | some s => bchDecode (m.rawWord w) s

/-- The delivered byte: corrected under the word code (R475). -/
def Mem.byte (m : Mem) (a : Nat) : Byte :=
  match m.side.find (a / 8) with
  | none => m.raw a
  | some _ => bvByte (m.decode (a / 8)).2.1 (a % 8)

/-- Delivered bytes. -/
def Mem.read (m : Mem) (a n : Nat) : List Byte := (List.range n).map (fun i => m.byte (a + i))

/-- A word of the run is poisoned or uncorrectable (R478). -/
def Mem.bad (m : Mem) (a n : Nat) : Bool :=
  m.side.any (fun e => a / 8 ≤ e.1 && e.1 * 8 < a + n &&
    (let r := m.decode e.1; r.1 == .bad || r.2.2))

/-- Words that are uncorrectable or poisoned in a run. -/
def Mem.badWords (s : Mem) (a n : Nat) : List Nat :=
  (s.side.filter (fun e => a / 8 ≤ e.1 && e.1 * 8 < a + n && (let r := s.decode e.1; r.1 == .bad || r.2.2))).map (·.1)

/-- Words of a run that the word code corrects. -/
def Mem.corrWords (s : Mem) (a n : Nat) : Nat :=
  (s.side.filter (fun e => a / 8 ≤ e.1 && e.1 * 8 < a + n && (let r := s.decode e.1; r.1 == .one || r.1 == .two))).length

/-- Words of a run whose stored bits are uncorrectable. -/
def Mem.ucWords (s : Mem) (a n : Nat) : List Nat :=
  (s.side.filter (fun e => a / 8 ≤ e.1 && e.1 * 8 < a + n && (s.decode e.1).1 == .bad)).map (·.1)

/-- Takes the addresses [b, b + n) out of an undefined run. -/
def cutRun (b n : Nat) (u : Nat × Nat × Nat) : List (Nat × Nat × Nat) :=
  if b + n ≤ u.1 || u.1 + u.2.1 ≤ b then [u]
  else
    (if u.1 < b then [(u.1, b - u.1, u.2.2)] else []) ++
    (if b + n < u.1 + u.2.1 then [(b + n, u.1 + u.2.1 - (b + n), u.2.2)] else [])

/-- Replaces one data byte and leaves its word's check bits. -/
def Mem.putData (m : Mem) (a : Nat) (b : Byte) : Mem :=
  { m with cells := cellPut m.cells a b, undef := m.undef.flatMap (cutRun a 1) }

/-- Writes one byte with fresh check bits (R478: a write clears poison). -/
def Mem.set (m : Mem) (a : Nat) (b : Byte) : Mem := { m.putData a b with side := m.side.del (a / 8) }

/-- Writes consecutive bytes. -/
def Mem.write (m : Mem) (a : Nat) : List Byte → Mem
  | [] => m
  | b :: r => Mem.write (m.set a b) (a + 1) r

/-- Writes zeros over [a, a + n) (R434, R496). -/
def Mem.zero (m : Mem) (a n : Nat) : Mem :=
  { m with
    cells := m.cells.filter (fun c => c.1 < a || a + n ≤ c.1)
    side := m.side.filter (fun e => e.1 < a / 8 || a + n ≤ e.1 * 8)
    undef := m.undef.flatMap (cutRun a n) }

/-- Leaves [a, a + n) undefined under a stamp (R179). -/
def Mem.forget (m : Mem) (a n stamp : Nat) : Mem :=
  let z := m.zero a n
  if n = 0 then z else { z with undef := (a, n, stamp) :: z.undef }

/-- Stores data 0 with the poison bit set in every word of the run (R477, R478). -/
def Mem.poison (m : Mem) (a n : Nat) : Mem :=
  let z := m.zero (a / 8 * 8) ((a + n + 7) / 8 * 8 - a / 8 * 8)
  let ws := List.range ((a + n + 7) / 8 - a / 8)
  { z with side := ws.foldl (fun t i => t.put (a / 8 + i) (cleanSide 0 true)) z.side }

/-- Stores a raw word: data and side field unchanged by any code (R483). -/
def Mem.rawPut (m : Mem) (w : Nat) (d : U64) (s : U16) : Mem :=
  let m1 := m.write (8 * w) (bvBytes d 8)
  if s = cleanSide d false then m1 else { m1 with side := m1.side.put w s }

/-- The canonical form of a byte store: addresses strictly rising, no byte equal to 0. -/
def cellsWf : List (Nat × Byte) → Bool
  | [] => true
  | [(_, v)] => v != 0
  | (a, v) :: (b, w) :: r => v != 0 && decide (a < b) && cellsWf ((b, w) :: r)

/-- The canonical form of a store. -/
def Memory.wf (m : Mem) : Bool := cellsWf m.cells

/-! ### Units by number -/

def Main.tileAt (m : Main) (id : Nat) : Tile := m.tile.get id
def Main.setTile (m : Main) (id : Nat) (t : Tile) : Main := { m with tile := m.tile.put id t }
def Main.updTile (m : Main) (id : Nat) (f : Tile → Tile) : Main := m.setTile id (f (m.tileAt id))
def Main.dieAt (m : Main) (d : Nat) : Die := m.die.get d
def Main.setDie (m : Main) (d : Nat) (v : Die) : Main := { m with die := m.die.put d v }
def Main.updDie (m : Main) (d : Nat) (f : Die → Die) : Main := m.setDie d (f (m.dieAt d))
def Main.sramAt (m : Main) (s : Nat) : Sram := m.sram.get s
def Main.updSram (m : Main) (s : Nat) (f : Sram → Sram) : Main := { m with sram := m.sram.upd s f }
def Main.hbmAt (m : Main) (n : Nat) : Stack := m.hbm.get n
def Main.updHbm (m : Main) (n : Nat) (f : Stack → Stack) : Main := { m with hbm := m.hbm.upd n f }
def Main.burnAt (m : Main) (n : Nat) : Burn := m.burn.get n
def Main.updBurn (m : Main) (n : Nat) (f : Burn → Burn) : Main := { m with burn := m.burn.upd n f }
def Main.job? (m : Main) (j : Nat) : Option Job := m.jobs.find j
def Main.setJob (m : Main) (j : Nat) (v : Job) : Main := { m with jobs := m.jobs.put j v }
def Main.updJob (m : Main) (j : Nat) (f : Job → Job) : Main :=
  match m.jobs.find j with
  | some v => m.setJob j (f v)
  | none => m
def Main.portAt (m : Main) (p : Nat) : Port := m.fab.port.get p
def Main.updPort (m : Main) (p : Nat) (f : Port → Port) : Main :=
  { m with fab := { m.fab with port := m.fab.port.upd p f } }
def Main.dpAt (m : Main) (d : Nat) : DiePow := m.dp.get d
def Main.updDp (m : Main) (d : Nat) (f : DiePow → DiePow) : Main := { m with dp := m.dp.upd d f }
def Main.partAt (m : Main) (p : Nat) : Part := m.part.get p
def Main.updPart (m : Main) (p : Nat) (f : Part → Part) : Main := { m with part := m.part.upd p f }
def Main.send (m : Main) (o : Out) : Main := { m with out := o :: m.out }

/-- Milliseconds and seconds of AUX time (R392 TICK, R465). -/
def Main.ms (m : Main) : Nat := m.us / 1000
def Main.sec (m : Main) : Nat := m.us / 1000000

/-- Memory stacks at the variant's sites (R170). -/
def Variant.stacks : Variant → Nat
  | .oa82 => 8 | .oa101 => 10 | .oa63 => 6

/-- Tenon ports (R271). -/
def Variant.ports : Variant → Nat
  | .oa82 => 6 | .oa101 => 3 | .oa63 => 9

/-- I/O dies (R1). -/
def Variant.ioDies : Variant → Nat
  | .oa82 => 2 | .oa101 => 1 | .oa63 => 3

/-- Rated draw in W (R356). -/
def Variant.rated : Variant → Nat
  | .oa82 => 2200 | .oa101 => 2170 | .oa63 => 2230

/-- Variant code (R408). -/
def Variant.code : Variant → Nat
  | .oa82 => 0 | .oa101 => 1 | .oa63 => 2

/-- Partition that owns a memory stack (R181). -/
def Variant.stackPart (v : Variant) (n : Nat) : Nat :=
  match v with
  | .oa82 => n / 2
  | .oa63 => if n < 4 then n / 2 else n - 2
  | .oa101 => if n < 4 || n = 8 then 0 else 2

/-- Partition that owns a compute stack (R181). -/
def Variant.diePart (v : Variant) (d : Nat) : Nat :=
  match v with
  | .oa101 => d / 2 * 2
  | _ => d

/-- Partitions of the variant (R181, R425). -/
def Variant.parts : Variant → List Nat
  | .oa101 => [0, 2]
  | _ => [0, 1, 2, 3]

/-- Partition that owns a copy engine (R326, R426). -/
def Variant.engPart (v : Variant) (e : Nat) : Nat := v.diePart (e % 4)

/-- Partition `p` is Sealed, Claiming or Releasing (R443, R444). -/
def Main.masked (m : Main) (p : Nat) : Bool := (m.partAt p).st != .opened

/-- Partition `p` is sealed. -/
def Main.sealed (m : Main) (p : Nat) : Bool := (m.partAt p).st == .sealed

/-! ### Interrupts and the ring log -/

/-- Sets a cause bit; a change from 0 to 1 with its enable set sends one MSI-X message (R394). -/
def Main.setCause (m : Main) (i : Nat) : Main :=
  if m.intr.cause.getLsbD i then m
  else
    let m1 := { m with intr := { m.intr with cause := m.intr.cause ||| (1 <<< i) } }
    if m.intr.en.getLsbD i then m1.send (.msix (m.intr.vmap.extractLsb' (6 * i) 6)) else m1

/-- Event classes (R464). -/
inductive Cls where
  | rec_ | adv | flt
  deriving DecidableEq, Repr

def Cls.num : Cls → Nat
  | .rec_ => 0 | .adv => 1 | .flt => 2

/-- An event before it is stored (R463). -/
structure Ev where
  code : Nat
  cls : Cls
  die : Option Nat := none
  stack : Option Nat := none
  step : U32 := 0xFFFFFFFF
  par : List Byte := []

/-- The partition whose record this is, by its die or stack. -/
def Main.evMasked (m : Main) (e : Ev) : Bool :=
  m.partOn &&
  ((match e.die with | some d => m.masked (m.variant.diePart d) | none => false) ||
   (match e.stack with | some n => m.masked (m.variant.stackPart n) | none => false))

/-- Bits [127:0] of a record (R463). -/
def Main.recHead (m : Main) (e : Ev) (masked cont : Bool) (seq : U32) : BitVec 128 :=
  BitVec.ofNat 128 (e.code + e.cls.num * 2 ^ 16 + (if masked then 2 ^ 18 else 0) + (if cont then 2 ^ 19 else 0)
    + e.stack.getD 15 * 2 ^ 24 + e.die.getD 0 * 2 ^ 28 + (if e.die.isSome then 2 ^ 30 else 0)
    + seq.toNat * 2 ^ 32 + m.opsec.toNat * 2 ^ 64 + m.pcyc.toNat * 2 ^ 96)

/-- The one to three records of an event, the first taking sequence number `seq` (R463). -/
def Main.records (m : Main) (e : Ev) (seq : U32) : List LogRec :=
  let k := m.evMasked e
  let par := if k then List.replicate e.par.length 0 else e.par
  let first : LogRec :=
    ⟨(bvOf 64 (bytesAt par 0 8)) ++ (e.step ++ m.fab.epoch) ++ m.recHead e k false seq⟩
  let more (i : Nat) : LogRec :=
    ⟨(bvOf 128 (bytesAt par (8 + 16 * i) 16)) ++ m.recHead e k true (seq + BitVec.ofNat 32 (i + 1))⟩
  if par.length ≤ 8 then [first]
  else if par.length ≤ 24 then [first, more 0]
  else [first, more 0, more 1]

/-- Stores records, or marks the log full (R466). Answers whether they were stored. -/
def Main.store (m : Main) (rs : List LogRec) : Main × Bool :=
  let l := m.log
  if !l.full && l.recs.length + rs.length + 1 ≤ 32768 then
    ({ m with log := { l with recs := l.recs ++ rs, next := l.next + BitVec.ofNat 32 rs.length } }, true)
  else if l.full then
    ({ m with log := { l with lost := satAdd l.lost 1 } }, false)
  else
    let r := m.records { code := 0xF012, cls := .rec_ } l.next
    let m1 := { m with log := { l with recs := l.recs ++ r, next := l.next + 1, full := true, lost := satAdd l.lost 1 } }
    (m1.setCause 5, false)

/-- A cause bit set where a condition holds (R394). -/
def Main.causeIf (m : Main) (c : Bool) (i : Nat) : Main := if c then m.setCause i else m

/-- The last-fault register takes a class 2 event and its sequence number (R392, R394). -/
def Main.noteFault (m : Main) (code : U16) (cls : BitVec 2) (seq : U32) : Main :=
  if cls = 2 then { m with log := { m.log with fcode := code, fseq := seq } } else m

/-- Records go to the receiver of platform events, or wait for one (R416, R466). -/
def Main.platformEvents (m : Main) (out : List (BitVec 256)) : Main :=
  match m.sb.recv with
  | some _ => out.foldl (fun m r => m.send (.pldm 0x0A ([2, 0xFA] ++ bvBytes r 32))) m
  | none => { m with sb := { m.sb with events := m.sb.events ++ out } }

/-- Last-fault register and cause bits of an event that has been stored (R392, R394). -/
def Main.postCauses (m : Main) (code : U16) (cls : BitVec 2) (seq : U32) : Main :=
  ((((((m.noteFault code cls seq).causeIf (cls = 2) 0).causeIf (cls = 1) 1).causeIf (code = 0x4306 || code = 0x4307) 3).causeIf
    (code = 0xF001) 4).causeIf (code = 0xA001) 7)

/-- Stores an event's records and does what follows: last-fault register, cause bits, platform event (R392, R394, R416, R462–R466). -/
def Main.post (m : Main) (code : U16) (cls : BitVec 2) (rs : U32 → List LogRec) : Main :=
  let r := m.store (rs m.log.next)
  let seq : U32 := if r.2 then m.log.next else 0xFFFFFFFF
  let m1 := r.1.postCauses code cls seq
  if cls = 0 then m1 else m1.platformEvents ((if r.2 then rs seq else (rs seq).take 1).map (·.bits))

/-- A record formed with sequence number `k` of its event takes `seq` + `k`. -/
def LogRec.renumber (r : LogRec) (seq : U32) : LogRec :=
  ⟨r.bits.extractLsb' 64 192 ++ (r.bits.extractLsb' 32 32 + seq) ++ r.bits.extractLsb' 0 32⟩

/-- Logs an event; while core 3 is stopped the event waits in its buffer of 256 records (R387, R388). -/
def Main.log! (m : Main) (e : Ev) : Main :=
  let m := match e.die with
    | some d => m.updDie d (fun v => { v with lastEvent := BitVec.ofNat 16 e.code })
    | none => m
  if !(m.core.get 3).runs && m.sup.state != .recovery then
    let rs := m.records e 0
    if (m.log.buf.map List.length).sum + rs.length ≤ 256
    then { m with log := { m.log with buf := m.log.buf ++ [rs] } }
    else { m with log := { m.log with bufLost := m.log.bufLost + rs.length } }
  else m.post (BitVec.ofNat 16 e.code) (BitVec.ofNat 2 e.cls.num) (m.records e)

/-- The events that waited in core 3's buffer are stored, oldest first (R387, R462). -/
def Main.flushBuf (m : Main) : Main :=
  let b := m.log.buf
  b.foldl (fun m rs =>
    let h := (rs.headD {}).bits
    m.post (h.extractLsb' 0 16) (h.extractLsb' 16 2) (fun seq => rs.map (fun r => r.renumber seq)))
    { m with log := { m.log with buf := [] } }

/-- Logs an event at most once per `period` seconds for one unit (R129, R285, R391, R444). -/
def Main.logRate (m : Main) (period key : Nat) (e : Ev) : Main :=
  let k := e.code * 65536 + key
  let last := m.log.rate.get k
  if last != 0 && m.us + 1 < last + 1000000 * period then m
  else { m with log := { m.log with rate := m.log.rate.put k (m.us + 1) } }.log! e

/-- Logs an event at most once in the open step of a job, for one unit. -/
def Main.logOnce (m : Main) (j key : Nat) (e : Ev) : Main :=
  match m.job? j with
  | none => m.log! e
  | some v =>
    if v.once.contains (BitVec.ofNat 16 e.code, key) then m
    else (m.setJob j { v with once := (BitVec.ofNat 16 e.code, key) :: v.once }).log!
      { e with step := if v.stepOpen then v.step else e.step }

/-- Ends the span of once-only events outside an open step: each command is a span of its own there (R154). -/
def Main.onceOver (m : Main) (j : Nat) : Main := m.updJob j (fun v => if v.stepOpen then v else { v with once := [] })

/-- Parameter bytes of R464's widths. -/
def p1 (n : Nat) : List Byte := toBytes 1 n
def p2 (n : Nat) : List Byte := toBytes 2 n
def p4 (n : Nat) : List Byte := toBytes 4 n
def p8 (n : Nat) : List Byte := toBytes 8 n

/-- A free bit vector of the model: the next draw (log 7). -/
def Main.draw (m : Main) : Main := { m with draws := m.draws + 1 }

/-- A change of STATE raises STATECHG (R393). -/
def Main.setState (m : Main) (st : DevState) : Main :=
  if m.sup.state = st then m
  else { m with sup := { m.sup with state := st } }.setCause 2

/-- Marks the module's verdict input with a bit of R266 for a job's open step. -/
def Main.trip (m : Main) (j bit : Nat) : Main :=
  m.updJob j (fun v => if v.stepOpen then { v with tripped := v.tripped ||| (1 <<< bit) } else v)

/-- Capping power (R355). -/
def Power.capping (w : Power) (e : Nat) : Nat :=
  if w.x = .agree then e else max e (w.meas * e / max 1 w.mean)

/-! ### Lifting -/

/-- A command that acts on the main side alone: the meter and the queue are unchanged (R375). -/
def onMain (f : Main → Main) (s : State) : Host.Outcome State Fault Refusal :=
  .next { s with main := f s.main }

/-- An event of the meter alone: the main side and the queue are unchanged (R375). -/
def onMeter (f : Meter → Meter) (s : State) : Host.Outcome State Fault Refusal :=
  .next { s with meter := f s.meter }

/-- One microsecond of the AUX clock, taken by a step on an empty queue (log 3; R392 TICK, R465 OPSEC). -/
def Main.tick (m : Main) : Main :=
  if !m.sup.aux then m
  else { m with us := m.us + 1, opsec := if (m.us + 1) % 1000000 = 0 then m.opsec + 1 else m.opsec }

end Sys2Proof.Machine
end

