-- ==== Sys2Proof/Machine/Addr.lean ====
section
/-! DEFINITION. The device address map: ranges, channels, home slices, regions and version translation. -/

namespace Sys2Proof.Machine

/-! ### Places -/

/-- Base of the pinned windows, of the two slow-tier ranges, of host memory and of the peer windows (R168). -/
def pinBase : Nat := 0x040000000000
def slowBase : Nat := 0x080000000000
def hostBase : Nat := 0x100000000000
def slowBase2 : Nat := 0x200000000000
def peerBase : Nat := 0x40000000000000

/-- Slow-tier offset of a device address (R168). -/
def slowOff (a : Nat) : Nat := if a < slowBase2 then a - slowBase else a - slowBase2 + 2 ^ 43

/-- Channel of a stack offset (R172). -/
def chanOf (o : Nat) : Nat :=
  let g := o / 4096 % 2 ^ 25
  (g ^^^ (g / 2 ^ 5) ^^^ (g / 2 ^ 10) ^^^ (g / 2 ^ 15) ^^^ (g / 2 ^ 20)) % 32

/-- Channel address of a stack offset (R172). -/
def chanAddr (o : Nat) : Nat := o / 2 ^ 17 * 4096 + o % 4096

/-- The stack offset at a channel and channel address: the inverse of R172's map. -/
def chanInv (ch c : Nat) : Nat :=
  let gh := c / 4096 % 2 ^ 20
  let low := (ch ^^^ gh ^^^ (gh / 2 ^ 5) ^^^ (gh / 2 ^ 10) ^^^ (gh / 2 ^ 15)) % 32
  (gh * 32 + low) * 4096 + c % 4096

/-- Bank of a channel address, 0–127: pseudo-channel, stack ID, bank group and bank (R173). -/
def bankOf (c : Nat) : Nat :=
  let bg := (c / 2 ^ 8 ^^^ c / 2 ^ 20) % 4
  let bk := (c / 2 ^ 10 ^^^ c / 2 ^ 18) % 4
  (c / 2 ^ 7 % 2) * 64 + (c / 2 ^ 12 % 4) * 16 + bg * 4 + bk

/-- Page number of a memory-stack DA: stack, channel and the bits of the channel address above the byte and outside the line within the page (R173, R476). -/
def pageOf (da : Nat) : Nat :=
  let o := da % 2 ^ 37
  let c := chanAddr o
  (da / 2 ^ 37 * 32 + chanOf o) * 2 ^ 21 + c / 2 ^ 18 * 2 ^ 7 + c / 2 ^ 7 % 2 ^ 7

/-- DA of byte `i` of the page that holds a DA: its 16 lines in order (R173). -/
def pageByte (da i : Nat) : Nat :=
  let o := da % 2 ^ 37
  let c := chanAddr o
  let c' := c / 2 ^ 18 * 2 ^ 18 + i / 128 % 16 * 2 ^ 14 + c / 2 ^ 7 % 2 ^ 7 * 2 ^ 7 + i % 128
  da / 2 ^ 37 * 2 ^ 37 + chanInv (chanOf o) c'

/-- Position within its page of a memory-stack DA. -/
def pagePos (da : Nat) : Nat :=
  let c := chanAddr (da % 2 ^ 37)
  c / 2 ^ 14 % 16 * 128 + c % 128

/-- Channels retired at the last memory initialisation (R486). -/
def Stack.nRetired (s : Stack) : Nat := ((List.range 32).filter s.retired.getLsbD).length

/-- Start of the zone that the retired channels take from a stack (R486); the base-die area's start with none. -/
def Stack.zone (s : Stack) : Nat := 0x1FF8000000 - s.nRetired * 2 ^ 32

/-- The place of a stack offset: relocated where its channel is retired (R486). -/
def Stack.place (s : Stack) (o : Nat) : Nat :=
  let k := s.nRetired
  if k = 0 || !(s.retired.getLsbD (chanOf o)) then o
  else
    let b := o / 2 ^ 17
    let zb := s.zone / 2 ^ 17
    let below := if b < zb then b else b - k * 2 ^ 15
    let inBlock := ((List.range (o / 4096 % 32)).filter
      (fun i => s.retired.getLsbD (chanOf (b * 2 ^ 17 + i * 4096)))).length
    let j := below * k + inBlock
    let zblk := zb + j / (32 - k)
    let live := (List.range 32).filter (fun i => !(s.retired.getLsbD (chanOf (zblk * 2 ^ 17 + i * 4096))))
    zblk * 2 ^ 17 + live.getD (j % (32 - k)) 0 * 4096 + o % 4096

/-- Channel that serves a memory-stack DA (R172, R486). -/
def Main.chan (m : Main) (da : Nat) : Nat := chanOf ((m.hbmAt (da / 2 ^ 37)).place (da % 2 ^ 37))

/-- Home compute stack and home slice of a memory-stack DA (R149, R486). -/
def Main.home (m : Main) (da : Nat) : Nat × Nat :=
  let n := da / 2 ^ 37
  let ch := m.chan da
  match m.variant with
  | .oa82 => (n / 2, 32 * (n % 2) + ch)
  | .oa101 => if n < 8 then (n / 2, 32 * (n % 2) + ch) else ((n - 8) * 2 + ch / 16, ch)
  | .oa63 => if n < 4 then (n / 2, 32 * (n % 2) + ch) else (n - 2, ch + 32 * (da / 128 % 2))

/-- Home compute stacks of a memory stack (R149, R188). -/
def Variant.homes (v : Variant) (n : Nat) : List Nat :=
  match v with
  | .oa82 => [n / 2]
  | .oa101 => if n < 8 then [n / 2] else [(n - 8) * 2, (n - 8) * 2 + 1]
  | .oa63 => if n < 4 then [n / 2] else [n - 2]

/-- Software-visible bytes of a stack: 0 where it is absent or offline (R170, R486, R487). -/
def Main.visible (m : Main) (n : Nat) : Nat :=
  if n < m.variant.stacks && !(m.hbmAt n).offline then (m.hbmAt n).zone else 0

/-! ### The pinned pool -/

/-- Column of a pinned-window offset within its layer (R144). -/
def colOf (o : Nat) : Nat := o % 2 ^ 30 / 65536 % 288

/-- The offset lies in the pinned pool in force (R145). -/
def Sram.inPool (s : Sram) (o : Nat) : Bool := if o < 2 ^ 30 then o < s.p1 else o - 2 ^ 30 < s.p2

/-- Banks b of a layer from `lo` up to 16,384 in column `c` (R144). -/
def bankCount (lo c : Nat) : Nat := (16384 + 287 - c) / 288 - (lo + 287 - c) / 288

/-- Live banks of the cache pool for given sizes (R145). -/
def Sram.liveFor (s : Sram) (p1 p2 : Nat) : Nat :=
  let f (p : Nat) := (16384 - p / 65536) - (s.retired.map (bankCount (p / 65536))).sum
  (f p1 + f p2) * 65536

/-- Live cache pool (R145). -/
def Sram.live (s : Sram) : Nat := s.liveFor s.p1 s.p2

/-- Live bytes of the pinned pool: P1 + P2 less the holes (R105). -/
def Sram.pinLive (s : Sram) : Nat :=
  let holes (p : Nat) := (s.retired.map (fun c => bankCount 0 c - bankCount (p / 65536) c)).sum * 65536
  s.p1 + s.p2 - holes s.p1 - holes s.p2

/-- Ways of a slice (R150). -/
def Sram.ways (s : Sram) : Nat := s.live / 64 / 524288 - 1

/-- Set of a line number (R150). -/
def setOf (l : Nat) : Nat := (l ^^^ (l / 2 ^ 12) ^^^ (l / 2 ^ 24) ^^^ (l / 2 ^ 36)) % 4096

/-! ### Decoding a device address -/

/-- Where a device address leads (R168). -/
inductive Rng where
  | hbm (n o : Nat) | pin (d o : Nat) | hole (d o : Nat) | slow (o : Nat) | host (o : Nat) | peer (node off : Nat)
  | unmapped
  deriving DecidableEq, Repr

/-- The port runs plain PCIe (R307, R308). -/
def CxlPort.pcie (c : CxlPort) : Bool := c.mode = .pcie6 || c.mode = .pcie5 || c.mode = .pcie4

/-- The port runs a CXL mode (R307). -/
def CxlPort.cxl (c : CxlPort) : Bool := c.mode != .down && !c.pcie

/-- Port A serves requests of a partition: it is up, and for a sealed partition its IDE streams are secure (R313, R441). -/
def Main.aServes (m : Main) (p : Nat) : Bool :=
  m.cxl.a.mode != .down && (!(m.partOn && m.sealed p) || (m.cxl.a.ideIo && (m.cxl.a.pcie || m.cxl.a.ideMem)))

/-- Port B serves requests of a partition (R308, R313, R441). -/
def Main.bServes (m : Main) (p : Nat) : Bool := m.cxl.b.cxl && (!(m.partOn && m.sealed p) || m.cxl.b.ideMem)

/-- Bytes of slow tier that port B exposes: none under plain PCIe, and as mapped while it is down (R308, R311, R313). -/
def Main.slowSize (m : Main) : Nat := if m.cxl.b.pcie then 0 else (m.cxl.map.map (·.gib)).sum * 2 ^ 30

/-- Bytes of host memory granted (R310). -/
def Main.hostSize (m : Main) : Nat := ((List.range 4).map (fun k => (m.cxl.host.get k).2)).sum

/-- Host range and host physical address of a host offset (R310). -/
def Main.hostAt (m : Main) (o : Nat) : Option (Nat × Nat) :=
  let rec go : List Nat → Nat → Option (Nat × Nat)
    | [], _ => none
    | k :: r, h =>
      let e := m.cxl.host.get k
      if h < e.2 then some (k, e.1 + h) else go r (h - e.2)
  go [0, 1, 2, 3] o

/-- The host physical runs of `n` bytes from a host offset on, range by range (R310). -/
def Main.hostPieces (m : Main) (o n : Nat) : Nat → List (Nat × Nat)
  | 0 => []
  | f + 1 =>
    if n = 0 then []
    else
      match m.hostAt o with
      | none => []
      | some (k, h) =>
        let e := m.cxl.host.get k
        let c := min n (e.1 + e.2 - h)
        (h, c) :: m.hostPieces (o + c) (n - c) f

/-- The range of a device address, for a requester that R427 does not bind (R168, R169, R148). -/
def Main.rng (m : Main) (a : Nat) : Rng :=
  if a < 2 ^ 41 then
    if a % 2 ^ 37 < m.visible (a / 2 ^ 37) then .hbm (a / 2 ^ 37) (a % 2 ^ 37) else .unmapped
  else if pinBase ≤ a && a < pinBase + 2 ^ 33 then
    let d := (a - pinBase) / 2 ^ 31
    let o := (a - pinBase) % 2 ^ 31
    let s := m.sramAt d
    if s.inPool o && !(s.retired.contains (colOf o)) then .pin d o else .hole d o
  else if slowBase ≤ a && a < hostBase then
    if a - slowBase < m.slowSize then .slow (a - slowBase) else .unmapped
  else if hostBase ≤ a && a < slowBase2 then
    if a - hostBase < m.hostSize then .host (a - hostBase) else .unmapped
  else if slowBase2 ≤ a && a < slowBase2 + 2 ^ 43 then
    let o := a - slowBase2 + 2 ^ 43
    if o < m.slowSize then .slow o else .unmapped
  else if peerBase ≤ a && a < peerBase + 2 ^ 55 then
    .peer ((a - peerBase) / 2 ^ 40 % 2 ^ 15) (a % 2 ^ 40)
  else .unmapped

/-- The range for a requester of partition `p`: with partitioning on, what lies outside it is unmapped (R427).
The controller, which R427 does not bind, reads as partition 4. -/
def Main.rngFor (m : Main) (p a : Nat) : Rng :=
  let r := m.rng a
  if !m.partOn || 4 ≤ p then r
  else
    match r with
    | .hbm n _ => if m.variant.stackPart n = p then r else .unmapped
    | .pin d _ | .hole d _ => if m.variant.diePart d = p then r else .unmapped
    | .host o =>
      match m.hostAt o with
      | some (k, _) => if (m.partAt p).hostMask.getLsbD k then r else .unmapped
      | none => .unmapped
    | .slow o =>
      let q := m.partAt p
      if q.base ≤ o && o < q.base + q.size then r else .unmapped
    | _ => r

/-- Partition of a die; 0 with partitioning off (R181). -/
def Main.diePartOf (m : Main) (d : Nat) : Nat := if m.partOn then m.variant.diePart d else 0

/-- Partition of a memory stack; 0 with partitioning off (R181). -/
def Main.stackPartOf (m : Main) (n : Nat) : Nat := if m.partOn then m.variant.stackPart n else 0

/-- A run of device addresses is mapped for a partition from end to end, in one range. -/
def Main.mapped (m : Main) (p a n : Nat) : Bool :=
  n = 0 ||
  match m.rngFor p a, m.rngFor p (a + n - 1) with
  | .hbm i _, .hbm j _ => i == j
  | .pin d o, .pin e q =>
    d == e && (List.range (q / 65536 - o / 65536 + 1)).all (fun i =>
      let x := (o / 65536 + i) * 65536
      (m.sramAt d).inPool x && !((m.sramAt d).retired.contains (colOf x)))
  | .slow _, .slow _ => true
  | .host o, .host q =>
    match m.hostAt o, m.hostAt q with
    | some (i, _), some (j, _) =>
      (List.range 4).all (fun k => k ≤ i || j ≤ k || (m.cxl.host.get k).2 = 0 || !m.partOn || 4 ≤ p || (m.partAt p).hostMask.getLsbD k)
    | _, _ => false
  | _, _ => false

/-! ### Regions -/

/-- Two runs overlap. -/
def overlap (a n b k : Nat) : Bool := a < b + k && b < a + n && n != 0 && k != 0

/-- A run of a stack touches a state region (R180). -/
def Stack.inRegion (s : Stack) (o n : Nat) : Bool := s.region.any (fun r => overlap o n r.2.1 r.2.2)

/-- A run of the memory-stack range touches a state region. -/
def Main.inRegion (m : Main) (a n : Nat) : Bool := a < 2 ^ 41 && (m.hbmAt (a / 2 ^ 37)).inRegion (a % 2 ^ 37) n

/-- Job of a die, if open. -/
def Main.dieJob (m : Main) (d : Nat) : Option Job := m.job? (m.dieAt d).job.toNat

/-- Layer whose record holds a device address in either bank of its job's working-weight region, 0xFFFF where none does (R196, R215). -/
def Main.layerAt (m : Main) (j a : Nat) : Nat :=
  match m.job? j, (m.hbmAt (a / 2 ^ 37)).region.find 4 with
  | some v, some (off, size) =>
    let o := a % 2 ^ 37 - off
    let x := if !v.single && size / 2 ≤ o then o - size / 2 else o
    match v.layers.find? (fun e => e.2.stack = a / 2 ^ 37 && e.2.a ≤ x && x < e.2.a + 8192 * (e.2.kb * e.2.nb)) with
    | some e => e.1
    | none => 0xFFFF
  | _, _ => 0xFFFF

/-- Version translation of a request of die `d`, or none where R201 answers with a bus error (0x1302). -/
def Main.translate (m : Main) (d a : Nat) : Option Nat :=
  let v := m.dieAt d
  match v.run, m.dieJob d with
  | some b, some j =>
    if b.versioned && !j.single && a < 2 ^ 41 then
      match (m.hbmAt (a / 2 ^ 37)).region.find 4 with
      | none => some a
      | some (off, size) =>
        let o := a % 2 ^ 37
        if off ≤ o && o < off + size then
          if o - off < size / 2 then some (if v.tag then a + size / 2 else a) else none
        else some a
    else some a
  | _, _ => some a

end Sys2Proof.Machine
end

