-- ==== Sys2Proof/Machine/Accept.lean ====
section
/-! DEFINITION. Which instruction words the Chuck accepts (R67, R68, R72, R80, R84, R87). -/

namespace Sys2Proof.Machine

/-- Scaling scheme of a format code (R68). -/
inductive Scheme where
  | tensor | mx | vf4 | wide
  deriving DecidableEq, Repr

/-- Scheme of a format code (R68). -/
def fmtScheme (c : Nat) : Scheme :=
  if c = 2 then .vf4
  else if c = 1 || c = 5 || c = 6 || c = 9 || c = 10 || c = 12 then .mx
  else if c ≥ 13 then .wide
  else .tensor

/-- Bits of an element of a format code (R35, R68). -/
def fmtBits (c : Nat) : Nat :=
  if c ≤ 2 then 4 else if c ≤ 6 then 6 else if c ≤ 12 then 8 else if c ≤ 14 then 16 else 32

/-- The format has block scales. -/
def fmtBlocks (c : Nat) : Bool := fmtScheme c == .mx || fmtScheme c == .vf4

/-- The format has a tensor scale (R84). -/
def fmtTensor (c : Nat) : Bool := fmtScheme c == .tensor || fmtScheme c == .vf4

/-- Classes of matrix operations: K per MMA, row pitch in bytes, beats per K index (R70). -/
inductive MmaClass where
  | bit4 | bit6 | float8 | int8 | mxint8 | bit16
  deriving DecidableEq, Repr

def MmaClass.kMax : MmaClass → Nat
  | .bit4 => 128 | .bit16 => 32 | _ => 64

def MmaClass.pitch : MmaClass → Nat
  | .bit6 => 48 | _ => 64

def MmaClass.beats : MmaClass → Nat
  | .bit4 => 1 | .bit16 => 4 | _ => 2

/-- Class of a pair of format codes, where MMA accepts it (the accumulation table of R50's chapter, R68). -/
def mmaClass (a b : Nat) : Option MmaClass :=
  if a ≤ 2 && b ≤ 2 then some .bit4
  else if 3 ≤ a && a ≤ 6 && 3 ≤ b && b ≤ 6 then some .bit6
  else if 7 ≤ a && a ≤ 10 && 7 ≤ b && b ≤ 10 then some .float8
  else if a = 11 && b = 11 then some .int8
  else if a = 12 && b = 12 then some .mxint8
  else if a = 13 && b = 13 || a = 14 && b = 14 then some .bit16
  else none

/-- Fields that an operation uses besides queues, waits and signals: which of AG AGM TD TA TB SA SB TC CNT, and the bits of LC, MOD and IMM. -/
structure Uses where
  ag : Bool := false
  agm : Bool := false
  td : Bool := false
  ta : Bool := false
  tb : Bool := false
  sa : Bool := false
  sb : Bool := false
  tc : Bool := false
  cnt : Bool := false
  lc : BitVec 2 := 0
  mod : BitVec 8 := 0
  imm : BitVec 32 := 0

/-- High and low format fields of MOD. -/
def hi4 (f : Fields) : Nat := f.mod.toNat / 16
def lo4 (f : Fields) : Nat := f.mod.toNat % 16

/-- Row width of VROW, VRED and VCVT. -/
def rowW (f : Fields) : Nat := f.imm.toNat % 2 ^ 14

/-- The mask bit LC[0]. -/
def masked? (f : Fields) : Bool := f.lc.getLsbD 0

/-- What each opcode uses (R69). None for an undefined opcode. -/
def uses (op : Nat) (f : Fields) : Option Uses :=
  let sc := fmtBlocks (hi4 f) || fmtBlocks (lo4 f)
  let v1 : Uses := { td := true, ta := true, cnt := true, lc := 1, mod := 0xFF, tc := masked? f }
  let v2 : Uses := { v1 with tb := true }
  match op with
  | 0x00 | 0x01 | 0x0A => some {}
  | 0x02 => some { imm := 0xFFFFFFFF }
  | 0x03 => some { sa := true, sb := true, mod := 0x07, imm := 0xFFFFFFFF }
  | 0x04 => some { lc := 3, imm := 0xFFFF }
  | 0x05 => some { lc := 3, imm := 0xFFFFFFFF }
  | 0x06 => some { sa := true, imm := 0xFFFFFFFF }
  | 0x07 => some { sa := true, sb := true, mod := 0x0F }
  | 0x09 => some { mod := 0x07 }
  | 0x0B => some { sa := true, mod := 0xFF, lc := if f.mod = 4 then 3 else 0 }
  | 0x0C => some { sa := true, imm := 0xF }
  | 0x20 => some { sa := true, td := true, imm := 0xFFFFFFFF }
  | 0x21 => some { sa := true, ta := true, imm := 0xFFFFFFFF }
  | 0x22 => some { sa := true, td := true, cnt := true, mod := 1, imm := 0xFFFFFFFF }
  | 0x23 => some { sa := true, ta := true, cnt := true, imm := 0xFFFFFFFF }
  | 0x24 | 0x25 => some { sa := true, sb := true, imm := 0xFFFFFFFF }
  | 0x26 => some { sa := true, ta := true, cnt := true, mod := 0xF0, imm := 0xFFFFFFFF }
  | 0x27 => some { td := true, imm := 7 }
  | 0x28 => some { ta := true, imm := 0x1FF }
  | 0x40 => some { ag := true, agm := true, ta := true, tb := true, tc := sc, cnt := true, mod := 0xFF }
  | 0x41 => some { ag := true, td := true, mod := 0x0F, imm := 0xF0003 }
  | 0x42 => some { ag := true, ta := true, imm := 3 }
  | 0x43 => some { ag := true }
  | 0x60 | 0x61 | 0x62 | 0x64 | 0x65 | 0x66 => some v2
  | 0x63 => some { v2 with tc := true, lc := 0 }
  | 0x67 | 0x68 | 0x69 => some v1
  | 0x6A => some { v1 with imm := 3 }
  | 0x6B => some { v1 with sa := true, imm := 3 }
  | 0x6C => some { v2 with imm := 0xFFFF }
  | 0x6D => some { v1 with imm := 0xFFFF }
  | 0x6E => some { v1 with sa := true, sb := true, tc := sc || masked? f, imm := 0xF7FFF }
  | 0x6F => some { v1 with mod := 1, imm := 0xF0000 }
  | 0x70 => some { v1 with sa := true, sb := true }
  | 0x71 => some { v2 with mod := 0xF0, imm := 7 }
  | 0x72 => some { v2 with tc := true, lc := 0 }
  | _ => none

/-- A field that the operation does not use is 0 (R67, R11). -/
def usesOk (u : Uses) (f : Fields) : Bool :=
  (u.ag || f.ag == 0) && (u.agm || f.agm == 0) && (u.td || f.td == 0) && (u.ta || f.ta == 0) &&
  (u.tb || f.tb == 0) && (u.sa || f.sa == 0) && (u.sb || f.sb == 0) && (u.tc || f.tc == 0) &&
  (u.cnt || f.cnt == 0) && (f.lc &&& ~~~u.lc) == 0 && (f.mod &&& ~~~u.mod) == 0 && (f.imm &&& ~~~u.imm) == 0

/-- Bytes that `n` elements of `b` bits take (R35, R80). -/
def runBytes (n b : Nat) : Nat := (n * b + 7) / 8

/-- Tensor registers of a run of `bytes` from register `r`. -/
def runRegs (r bytes : Nat) : List Nat := (List.range ((bytes + 4095) / 4096)).map (r + ·)

/-- One run of a vector operation: its first register and its bytes. -/
structure Run where
  reg : Nat
  bytes : Nat
  deriving DecidableEq, Repr

/-- Element bits of the source and of the destination of a vector operation. -/
def vecBits (op : Nat) (f : Fields) : Nat × Nat :=
  if op = 0x6F then (if f.mod.getLsbD 0 then (16, 32) else (32, 16))
  else if op = 0x71 then (fmtBits (hi4 f), 1)
  else (fmtBits (hi4 f), fmtBits (lo4 f))

/-- Rows of a VROW, VRED or VCVT. -/
def vecRows (f : Fields) : Nat := if rowW f = 0 then 0 else f.cnt.toNat / rowW f

/-- Source runs that may name a group in compatibility mode: TA, TB and a TC addend (R87). -/
def vecSources (op : Nat) (f : Fields) : List Run :=
  let n := f.cnt.toNat
  let b := (vecBits op f).1
  let two := op = 0x60 || op = 0x61 || op = 0x62 || op = 0x63 || op = 0x64 || op = 0x65 || op = 0x66 ||
    op = 0x71 || op = 0x72
  [⟨f.ta.toNat, runBytes n b⟩] ++ (if two then [⟨f.tb.toNat, runBytes n b⟩] else []) ++
  (if op = 0x6C then [⟨f.tb.toNat, runBytes (vecRows f) b⟩] else []) ++
  (if op = 0x63 then [⟨f.tc.toNat, runBytes n b⟩] else [])

/-- Mask run of a vector operation, if it takes one (R81, R82, R69 VSEL). -/
def vecMask (op : Nat) (f : Fields) : List Run :=
  if op = 0x72 then [⟨f.tc.toNat, runBytes f.cnt.toNat 1⟩]
  else if op = 0x6D && masked? f then [⟨f.tc.toNat, runBytes (vecRows f) 1⟩]
  else if masked? f then [⟨f.tc.toNat, runBytes f.cnt.toNat 1⟩] else []

/-- Block-scale runs of a VCVT: the source's, and the destination's (R84). -/
def cvtScales (op : Nat) (f : Fields) : List Run × List Run :=
  if op != 0x6E then ([], [])
  else
    let n := f.cnt.toNat / 32
    let s := fmtBlocks (hi4 f)
    (if s then [⟨f.tc.toNat, n⟩] else [],
     if fmtBlocks (lo4 f) then [⟨f.tc.toNat + (if s then 1 else 0), n⟩] else [])

/-- Destination run of a vector operation. -/
def vecDest (op : Nat) (f : Fields) : Run :=
  ⟨f.td.toNat, runBytes (if op = 0x6D then vecRows f else f.cnt.toNat) (vecBits op f).2⟩

/-- A run lies in the tensor registers (R80), and in t32–t63 in compatibility mode (R87). -/
def runOk (native : Bool) (r : Run) : Bool :=
  r.reg + (r.bytes + 4095) / 4096 ≤ 64 && (native || 32 ≤ r.reg)

/-- A source run, which in compatibility mode may name a group as at most 4,096 FP32 elements (R87). -/
def srcOk (native : Bool) (op : Nat) (f : Fields) (r : Run) : Bool :=
  if !native && r.reg < 8 then
    f.cnt.toNat ≤ 4096 && (if op = 0x6F then !f.mod.getLsbD 0 else hi4 f = 15)
  else runOk native r

/-- VCVT's own rules (R84). -/
def cvtOk (f : Fields) : Bool :=
  let w := rowW f
  let sc := fmtBlocks (hi4 f) || fmtBlocks (lo4 f)
  w != 0 && f.cnt.toNat % w = 0 && (!sc || w % 32 = 0) &&
  !((fmtTensor (hi4 f) || fmtTensor (lo4 f)) && f.sa == 31) &&
  !(fmtBlocks (hi4 f) && fmtBlocks (lo4 f) && f.tc == 63) && !(sc && masked? f)

/-- Vector rules (R68, R69, R80, R82, R84, R87). VMOV with IMM[1:0] = 3 and VCMP with IMM[2:0] = 6 or 7, for which the operation table gives
no meaning, are rejected at load (DESIGN CHOICE, log 152). -/
def vecOk (native : Bool) (op : Nat) (f : Fields) : Bool :=
  let wide (c : Nat) := c = 13 || c = 15
  f.cnt != 0 &&
  (if op = 0x6E then cvtOk f
   else if op = 0x6F then true
   else if op = 0x71 then wide (hi4 f)
   else wide (hi4 f) && wide (lo4 f)) &&
  !(op = 0x6A && f.imm == 3) && !(op = 0x71 && f.imm.toNat > 5) &&
  !((op = 0x6C || op = 0x6D) && (rowW f = 0 || f.cnt.toNat % rowW f != 0)) &&
  !(op = 0x6D && f.imm.toNat / 2 ^ 14 = 3) &&
  (vecSources op f).all (srcOk native op f) &&
  (vecMask op f ++ (cvtScales op f).1 ++ (cvtScales op f).2 ++ [vecDest op f]).all (runOk native)

/-- MMA's own rules (R68, R70, R72, R87). -/
def mmaOk (native : Bool) (f : Fields) : Bool :=
  match mmaClass (hi4 f) (lo4 f) with
  | none => false
  | some c =>
    f.cnt != 0 && f.cnt.toNat ≤ c.kMax && (f.cnt.toNat % 32 = 0 || f.agm == 2 || f.agm == 3) &&
    (native || (c == .float8 && f.ta.toNat < 32 && f.tb.toNat < 32 && f.tc.toNat < 32))

/-- The Chuck accepts the instruction at load (R67). -/
def wordOk (native : Bool) (op : Nat) (f : Fields) : Bool :=
  match uses op f with
  | none => false
  | some u =>
    usesOk u f &&
    (if op = 0x03 then f.mod.toNat < 6
     else if op = 0x04 then f.imm != 0
     else if op = 0x07 then f.mod.toNat < 11
     else if op = 0x0B then f.mod.toNat ≤ 4 || (8 ≤ f.mod.toNat && f.mod.toNat ≤ 12)
     else if op = 0x22 || op = 0x23 then 1 ≤ f.cnt.toNat && f.cnt.toNat ≤ 32
     else if op = 0x26 then 1 ≤ f.cnt.toNat && f.cnt.toNat ≤ 32 && (hi4 f = 13 || hi4 f = 15)
     else if op = 0x27 then f.qa.getLsbD 5 && f.qa.getLsbD 4
     else if op = 0x41 then native && (lo4 f = 15 || (lo4 f = 13 && f.imm.toNat % 4 < 2))
     else if op = 0x42 then native
     else if op = 0x40 then mmaOk native f
     else if op ≥ 0x60 then vecOk native op f
     else true)

/-- The fields of a stored instruction word (R66), with its opcode. -/
def wordFields (w : BitVec 128) : Nat × Fields :=
  (w.toNat / 2 ^ 120,
   { mod := w.extractLsb' 112 8, qa := w.extractLsb' 106 6, qb := w.extractLsb' 100 6, wi := w.extractLsb' 96 4,
     wn := w.extractLsb' 92 4, si := w.extractLsb' 88 4, se := w.extractLsb' 87 1, ag := w.extractLsb' 84 3,
     agm := w.extractLsb' 82 2, td := w.extractLsb' 76 6, ta := w.extractLsb' 70 6, tb := w.extractLsb' 64 6,
     sa := w.extractLsb' 59 5, sb := w.extractLsb' 54 5, lc := w.extractLsb' 52 2, tc := w.extractLsb' 46 6,
     cnt := w.extractLsb' 32 14, imm := w.extractLsb' 0 32 })

end Sys2Proof.Machine
end

