-- ==== Sys2Proof/Machine/Numbers.lean ====
section
/-! DEFINITION. Element formats, exact values, roundings, conversions and the elementary functions (R32–R46, R83). -/

namespace Sys2Proof.Machine

/-- The floating-point element formats of R32. -/
inductive Elem where
  | e2m1 | e2m3 | e3m2 | e4m3 | e5m2 | f16 | bf16 | f32
  deriving DecidableEq, Repr

/-- Exponent field width (R32). -/
def Elem.eb : Elem → Nat
  | .e2m1 => 2 | .e2m3 => 2 | .e3m2 => 3 | .e4m3 => 4 | .e5m2 => 5 | .f16 => 5 | .bf16 => 8 | .f32 => 8

/-- Mantissa field width (R32). -/
def Elem.mb : Elem → Nat
  | .e2m1 => 1 | .e2m3 => 3 | .e3m2 => 2 | .e4m3 => 3 | .e5m2 => 2 | .f16 => 10 | .bf16 => 7 | .f32 => 23

/-- Exponent bias (R32). -/
def Elem.bias : Elem → Nat
  | .e2m1 => 1 | .e2m3 => 1 | .e3m2 => 3 | .e4m3 => 7 | .e5m2 => 15 | .f16 => 15 | .bf16 => 127 | .f32 => 127

/-- Bits of an element. -/
def Elem.bits (f : Elem) : Nat := 1 + f.eb + f.mb

/-- Code of the largest finite magnitude (R32). -/
def Elem.maxCode : Elem → Nat
  | .e2m1 => 0x7 | .e2m3 => 0x1f | .e3m2 => 0x1f | .e4m3 => 0x7e | .e5m2 => 0x7b
  | .f16 => 0x7bff | .bf16 => 0x7f7f | .f32 => 0x7f7fffff

/-- The top exponent holds infinities and NaNs (R32). -/
def Elem.ieee : Elem → Bool
  | .e5m2 => true | .f16 => true | .bf16 => true | .f32 => true | _ => false

/-- Canonical NaN code (R34); 0 where the format has none. -/
def Elem.nan : Elem → Nat
  | .e4m3 => 0x7f | .e5m2 => 0x7e | .f16 => 0x7e00 | .bf16 => 0x7fc0 | .f32 => 0x7fc00000 | _ => 0

/-- An exact value: NaN, an infinity, or ± n / d × 2^e. A zero keeps its sign (R33). -/
inductive Ex where
  | nan
  | inf (neg : Bool)
  | rat (neg : Bool) (n d : Nat) (e : Int)
  deriving DecidableEq, Repr

/-- +0. -/
def Ex.zero : Ex := .rat false 0 1 0

/-- The value of an element code (R32, R34). -/
def Elem.value (f : Elem) (c : Nat) : Ex :=
  let m := c % 2 ^ f.mb
  let e := c / 2 ^ f.mb % 2 ^ f.eb
  let neg := c / 2 ^ (f.mb + f.eb) % 2 = 1
  if f.ieee && e = 2 ^ f.eb - 1 then (if m = 0 then .inf neg else .nan)
  else if f = .e4m3 && e = 15 && m = 7 then .nan
  else if e = 0 then .rat neg m 1 (1 - (f.bias : Int) - (f.mb : Int))
  else .rat neg (2 ^ f.mb + m) 1 ((e : Int) - (f.bias : Int) - (f.mb : Int))

/-- Scales a numerator and denominator by 2^e. -/
def scale2 (n d : Nat) (e : Int) : Nat × Nat :=
  if e ≥ 0 then (n * 2 ^ e.toNat, d) else (n, d * 2 ^ (-e).toNat)

/-- floor(log2(n / d × 2^e)) of a positive value. -/
def floorLog2 (n d : Nat) (e : Int) : Int :=
  let g : Int := (n.log2 : Int) - (d.log2 : Int)
  let (a, b) := scale2 n d (-g)
  (if a ≥ b then g else g - 1) + e

/-- How a magnitude is rounded: to nearest even, or stochastically with a 16-bit value (R45). -/
inductive RMode where
  | rne
  | sr (r : Nat)
  deriving DecidableEq, Repr

/-- Rounds n / d (in units of one spacing) to an integer under a mode. -/
def roundUnit (md : RMode) (n d : Nat) : Nat :=
  let q := n / d
  let r := n % d
  match md with
  | .rne => if 2 * r > d || (2 * r == d && q % 2 == 1) then q + 1 else q
  | .sr x => if 65536 * r / d + x ≥ 65536 then q + 1 else q

/-- Magnitude of a positive n / d × 2^e on the grid of a format with unbounded exponent above: integer and exponent of its unit. -/
def roundMag (f : Elem) (md : RMode) (n d : Nat) (e : Int) : Nat × Int :=
  let emin : Int := 1 - (f.bias : Int)
  let x := floorLog2 n d e
  let u := (if x < emin then emin else x) - (f.mb : Int)
  let (a, b) := scale2 n d (e - u)
  (roundUnit md a b, u)

/-- Encodes a grid magnitude k × 2^u that fits the format. -/
def Elem.pack (f : Elem) (neg : Bool) (k : Nat) (u : Int) : Nat :=
  let (k, u) := if k ≥ 2 ^ (f.mb + 1) then (k / 2, u + 1) else (k, u)
  let s := if neg then 2 ^ (f.mb + f.eb) else 0
  if k < 2 ^ f.mb then s + k
  else s + (u + (f.mb : Int) + (f.bias : Int)).toNat * 2 ^ f.mb + (k - 2 ^ f.mb)

/-- Sign bit of a format at its place. -/
def Elem.sign (f : Elem) (neg : Bool) : Nat := if neg then 2 ^ (f.mb + f.eb) else 0

/-- The magnitude n / d × 2^e compares above the code's magnitude. -/
def above (f : Elem) (n d : Nat) (e : Int) (c : Nat) : Bool :=
  match f.value c with
  | .rat _ m _ me =>
    let (a, b) := scale2 n d (e - me)
    a > m * b
  | _ => false

/-- The result of one conversion: the code, whether it meets or makes a non-finite value, whether it saturates (R44). -/
structure Conv where
  code : Nat := 0
  nf : Bool := false
  sat : Bool := false
  deriving DecidableEq, Repr

/-- Conversion to a floating-point format (R43). -/
def Elem.conv (f : Elem) (md : RMode) : Ex → Conv
  | .nan => ⟨f.nan, true, false⟩
  | .inf neg =>
    if f.ieee then ⟨f.sign neg + (2 ^ f.eb - 1) * 2 ^ f.mb, true, false⟩
    else if f = .e4m3 then ⟨f.nan, true, false⟩
    else ⟨f.sign neg + f.maxCode, true, false⟩
  | .rat neg n d e =>
    if n = 0 then ⟨f.sign neg, false, false⟩
    else
      let inf := f.sign neg + (2 ^ f.eb - 1) * 2 ^ f.mb
      let wide := f = .f16 || f = .bf16 || f = .f32
      let ovf := above f n d e f.maxCode
      if ovf && !wide then ⟨f.sign neg + f.maxCode, false, true⟩
      else if ovf && md != .rne then ⟨inf, true, false⟩
      else
        let (k, u) := roundMag f md n d e
        let c := f.pack false k u
        if wide && c > f.maxCode then ⟨inf, true, false⟩
        else ⟨f.sign neg + c, false, false⟩

/-- rne_f32 (R50). -/
def rne32 (x : Ex) : U32 := BitVec.ofNat 32 (Elem.f32.conv .rne x).code

/-- The exact value of an FP32 code. -/
def val32 (x : U32) : Ex := Elem.f32.value x.toNat

/-- The code is finite. -/
def finite32 (x : U32) : Bool := x.toNat / 2 ^ 23 % 256 != 255

/-- The code is a NaN. -/
def isNan32 (x : U32) : Bool := x.toNat % 2 ^ 31 > 0x7f800000

/-- Negation, absolute value. -/
def Ex.neg : Ex → Ex
  | .nan => .nan
  | .inf s => .inf (!s)
  | .rat s n d e => .rat (!s) n d e

def Ex.abs : Ex → Ex
  | .nan => .nan
  | .inf _ => .inf false
  | .rat _ n d e => .rat false n d e

/-- Exact sum; a zero sum is +0 unless both terms are −0 (R33). -/
def Ex.add : Ex → Ex → Ex
  | .nan, _ => .nan
  | _, .nan => .nan
  | .inf s, .inf t => if s = t then .inf s else .nan
  | .inf s, _ => .inf s
  | _, .inf t => .inf t
  | .rat s n d e, .rat t m c g =>
    let b := if e ≤ g then e else g
    let a1 : Int := n * c * 2 ^ (e - b).toNat
    let a2 : Int := m * d * 2 ^ (g - b).toNat
    let r := (if s then -a1 else a1) + (if t then -a2 else a2)
    if r = 0 then .rat (s && t) 0 1 0 else .rat (r < 0) r.natAbs (d * c) b

def Ex.sub (a b : Ex) : Ex := a.add b.neg

/-- Exact product. -/
def Ex.mul : Ex → Ex → Ex
  | .nan, _ => .nan
  | _, .nan => .nan
  | .inf s, .inf t => .inf (s != t)
  | .inf s, .rat t n _ _ => if n = 0 then .nan else .inf (s != t)
  | .rat s n _ _, .inf t => if n = 0 then .nan else .inf (s != t)
  | .rat s n d e, .rat t m c g => .rat (s != t) (n * m) (d * c) (e + g)

/-- Exact quotient: x / 0 is ±Inf, 0 / 0 is NaN (R69 VDIV). -/
def Ex.div : Ex → Ex → Ex
  | .nan, _ => .nan
  | _, .nan => .nan
  | .inf _, .inf _ => .nan
  | .inf s, .rat t _ _ _ => .inf (s != t)
  | .rat s _ _ _, .inf t => .rat (s != t) 0 1 0
  | .rat s n d e, .rat t m c g =>
    if m = 0 then (if n = 0 then .nan else .inf (s != t))
    else .rat (s != t) (n * c) (d * m) (e - g)

/-- a < b for values that are no NaN; ±0 are equal. -/
def Ex.lt (a b : Ex) : Bool :=
  match a, b with
  | .nan, _ => false
  | _, .nan => false
  | .inf s, .inf t => s && !t
  | .inf s, _ => s
  | _, .inf t => !t
  | .rat .., .rat .. =>
    match a.sub b with
    | .rat s n _ _ => s && n != 0
    | _ => false

/-- a = b for values that are no NaN. -/
def Ex.eq (a b : Ex) : Bool :=
  match a, b with
  | .nan, _ => false
  | _, .nan => false
  | a, b => !a.lt b && !b.lt a

/-- Maximum: NaN if either is NaN, +0 above −0 (R69 VMAX). -/
def Ex.max (a b : Ex) : Ex :=
  match a, b with
  | .nan, _ => .nan
  | _, .nan => .nan
  | a, b => if a.lt b then b else if b.lt a then a else
    match a with
    | .rat true .. => b
    | _ => a

/-- Minimum, as maximum. -/
def Ex.min (a b : Ex) : Ex := (Ex.max a.neg b.neg).neg

/-- Integer square root by bits, from bit `k` down. -/
def isqrtAux (n : Nat) : Nat → Nat → Nat
  | 0, r => r
  | k + 1, r => let t := r + 2 ^ k; isqrtAux n k (if t * t ≤ n then t else r)

/-- Largest r with r² ≤ n. -/
def isqrt (n : Nat) : Nat := isqrtAux n (n.log2 / 2 + 1) 0

/-- Square root, exact up to a sticky bit far below every rounding (R83). -/
def Ex.sqrt : Ex → Ex
  | .nan => .nan
  | .inf false => .inf false
  | .inf true => .nan
  | .rat s n d e =>
    if n = 0 then .rat s 0 1 0
    else if s then .nan
    else
      let (a, b) := scale2 n d (e % 2)
      let v := a * 2 ^ 256 / b
      let r := isqrt v
      if r * r * b = a * 2 ^ 256 then .rat false r 1 (e / 2 - 128)
      else .rat false (2 * r + 1) 1 (e / 2 - 129)

/-- Fraction bits of the fixed-point evaluations of exp, ln and cos. -/
def fxBits : Nat := 400

/-- Σ x^k / k! in fixed point, term by term. -/
def expSeries (x : Nat) : Nat → Nat → Nat → Nat → Nat
  | 0, _, _, acc => acc
  | fuel + 1, k, term, acc =>
    let t := term * x / 2 ^ fxBits / k
    expSeries x fuel (k + 1) t (acc + t)

/-- Squares a fixed-point value `k` times. -/
def squareN : Nat → Nat → Nat
  | 0, x => x
  | k + 1, x => squareN k (x * x / 2 ^ fxBits)

/-- e^x, to about 2⁻³⁰⁰ relative, with a sticky bit (R83). -/
def Ex.exp : Ex → Ex
  | .nan => .nan
  | .inf false => .inf false
  | .inf true => Ex.zero
  | .rat s n d e =>
    if n = 0 then .rat false 1 1 0
    else if floorLog2 n d e ≥ 10 then (if s then .rat false 1 1 (-100000) else .rat false 1 1 100000)
    else if floorLog2 n d e < -200 then
      (if s then .rat false (2 ^ 200 - 1) 1 (-200) else .rat false (2 ^ 200 + 1) 1 (-200))
    else
      let (a, b) := scale2 n d (e + (fxBits : Int) - 12)
      let v := squareN 12 (expSeries (a / b) 110 1 (2 ^ fxBits) (2 ^ fxBits))
      if s then .rat false (2 ^ fxBits * 2 + 1) (2 * v) 0
      else .rat false (2 * v + 1) 1 (-(fxBits : Int) - 1)

/-- Σ t^(2k+1) / (2k+1) in fixed point. -/
def atanhSeries (t2 : Nat) : Nat → Nat → Nat → Nat → Nat
  | 0, _, _, acc => acc
  | fuel + 1, k, p, acc => atanhSeries t2 fuel (k + 2) (p * t2 / 2 ^ fxBits) (acc + p / k)

/-- 2 atanh(n / d) in fixed point, for n / d ≤ 1/3. -/
def ln2atanh (n d : Nat) : Nat :=
  let t := n * 2 ^ fxBits / d
  2 * atanhSeries (t * t / 2 ^ fxBits) 140 1 t 0

/-- ln x, to about 2⁻³⁰⁰ relative (R83): ln 0 = −Inf, a negative input gives NaN. -/
def Ex.log : Ex → Ex
  | .nan => .nan
  | .inf false => .inf false
  | .inf true => .nan
  | .rat s n d e =>
    if n = 0 then .inf true
    else if s then .nan
    else
      let g := floorLog2 n d e
      let (a, b) := scale2 n d (e - g)
      let (a, b, g) := if 2 * a ≥ 3 * b then (a, 2 * b, g + 1) else (a, b, g)
      let m : Int := if a ≥ b then (ln2atanh (a - b) (a + b) : Int) else -(ln2atanh (b - a) (a + b) : Int)
      let r : Int := g * (ln2atanh 1 3 : Int) + m
      if a = b && g = 0 then Ex.zero else .rat (r < 0) (2 * r.natAbs + 1) 1 (-(fxBits : Int) - 1)

/-- Σ ± arctan terms of 1/q in fixed point, with `b` the running power. -/
def atanInv (q2 : Nat) : Nat → Nat → Int → Nat → Int → Int
  | 0, _, _, _, acc => acc
  | fuel + 1, k, sg, p, acc => atanInv q2 fuel (k + 2) (-sg) (p / q2) (acc + sg * ((p / k : Nat) : Int))

/-- π in fixed point: 16 atan(1/5) − 4 atan(1/239). -/
def piFx : Int :=
  16 * atanInv 25 180 1 1 (2 ^ fxBits / 5) 0 - 4 * atanInv 57121 60 1 1 (2 ^ fxBits / 239) 0

/-- Cosine series. -/
def cosSeries (x2 : Nat) : Nat → Nat → Int → Nat → Int → Int
  | 0, _, _, _, acc => acc
  | fuel + 1, k, sg, t, acc =>
    let t' := t * x2 / 2 ^ fxBits / ((k + 1) * (k + 2))
    cosSeries x2 fuel (k + 2) (-sg) t' (acc - sg * (t' : Int))

/-- cos(π x) of x from 0 to 1, with a sticky bit (R232). -/
def cospi : Ex → Ex
  | .rat _ n d e =>
    let (a, b) := scale2 n d e
    if a = 0 then .rat false 1 1 0
    else if 2 * a = b then Ex.zero
    else if a ≥ b then .rat true 1 1 0
    else
      let (a', s) := if 2 * a > b then (b - a, true) else (a, false)
      let y := (piFx.toNat * a' / b)
      let c := cosSeries (y * y / 2 ^ fxBits) 120 0 1 (2 ^ fxBits) (2 ^ fxBits : Int)
      .rat s (2 * c.natAbs + 1) 1 (-(fxBits : Int) - 1)
  | _ => .nan

/-- FP32 arithmetic, each operation rounded once with RNE. -/
def fadd (a b : U32) : U32 := rne32 ((val32 a).add (val32 b))
def fsub (a b : U32) : U32 := rne32 ((val32 a).sub (val32 b))
def fmul (a b : U32) : U32 := rne32 ((val32 a).mul (val32 b))
def fdiv (a b : U32) : U32 := rne32 ((val32 a).div (val32 b))
def fsqrt (a : U32) : U32 := rne32 (val32 a).sqrt
def flt (a b : U32) : Bool := (val32 a).lt (val32 b)
def fabs (a : U32) : U32 := a &&& 0x7fffffff
def fneg (a : U32) : U32 := a ^^^ 0x80000000

/-- An unsigned integer to FP32 with RNE. -/
def fofNat (n : Nat) : U32 := rne32 (.rat false n 1 0)

/-- An integer to FP32 with RNE. -/
def fofInt (i : Int) : U32 := rne32 (.rat (i < 0) i.natAbs 1 0)

/-- Conversion to INT8 (R43). -/
def convInt8 (md : RMode) : Ex → Conv
  | .nan => ⟨0, true, false⟩
  | .inf neg => ⟨if neg then 0x80 else 0x7f, true, false⟩
  | .rat neg n d e =>
    let (a, b) := scale2 n d e
    let lim := if neg then 128 else 127
    if a > lim * b then ⟨if neg then 0x80 else 0x7f, false, true⟩
    else
      let k := roundUnit md a b
      ⟨if neg then (256 - k) % 256 else k, false, false⟩

/-- Conversion to an MXINT8 element in units of 2⁻⁶ (R39, R43). -/
def convMxInt8 (md : RMode) : Ex → Conv
  | .rat neg n d e =>
    let (a, b) := scale2 n d (e + 6)
    if a > 127 * b then ⟨if neg then 0x81 else 0x7f, false, true⟩
    else
      let k := roundUnit md a b
      ⟨if neg then (256 - k) % 256 else k, false, false⟩
  | _ => ⟨0, true, false⟩

/-- The value of a two's complement byte in units of 2^u. -/
def int8Val (c : Nat) (u : Int) : Ex :=
  if c % 256 ≥ 128 then .rat true (256 - c % 256) 1 u else .rat false (c % 256) 1 u

/-- The value of an E8M0 scale code (R37). -/
def e8m0 (c : Nat) : Ex := if c % 256 = 255 then .nan else .rat false 1 1 ((c % 256 : Nat) - 127 : Int)

/-- The value of a UE5M3 scale code (R40). -/
def ue5m3 (c : Nat) : Ex :=
  let c := c % 256
  if c = 255 then .nan
  else if c / 8 = 0 then .rat false (c % 8) 1 (-17)
  else .rat false (8 + c % 8) 1 ((c / 8 : Nat) - 18 : Int)

/-- Conversion to UE5M3 with RNE, saturating at 114,688 (R40). -/
def toUe5m3 : Ex → Nat
  | .rat _ n d e =>
    if n = 0 then 0
    else
      let (a, b) := scale2 n d e
      if a > 114688 * b then 0xfe
      else
        let x := floorLog2 n d e
        let u := (if x < -14 then -14 else x) - 3
        let (a, b) := scale2 n d (e - u)
        let k := roundUnit .rne a b
        let (k, u) := if k ≥ 16 then (k / 2, u + 1) else (k, u)
        if k < 8 then k else min 0xfe ((u + 18).toNat * 8 + (k - 8))
  | _ => 0xfe

/-- VLOG16 encoding (R42), with its flags; a finite input above 0xFEFF's value is a saturation (R43). A finite negative input, for which the
row of R42 names 0xFFFF and the flag alone, counts as no saturation (DESIGN CHOICE, log 151). -/
def vlogEnc (v : U32) : Conv :=
  let c := v.toNat
  if isNan32 v then ⟨0xffff, true, false⟩
  else if c % 2 ^ 31 = 0 then ⟨0, false, false⟩
  else if c ≥ 2 ^ 31 then ⟨0xffff, true, false⟩
  else if c = 0x7f800000 then ⟨0xfeff, true, false⟩
  else if c < 2 ^ 22 then ⟨0, false, false⟩
  else if c < 2 ^ 23 then ⟨0x0100, false, false⟩
  else
    let sig := 2 ^ 23 + c % 2 ^ 23
    let f := ((sig ^ 512).log2 - 23 * 512 + 1) / 2
    let code := c / 2 ^ 23 * 256 + f
    let far : Bool := c / 2 ^ 23 = 254 && sig ^ 256 > 2 ^ (23 * 256 + 255)
    if far then ⟨0xfeff, false, true⟩ else ⟨code, false, false⟩

/-- Largest s below 2^(k) above `s` with s^256 ≤ b, by bits. -/
def root256 (b : Nat) : Nat → Nat → Nat
  | 0, s => s
  | k + 1, s => let t := s + 2 ^ k; root256 b k (if t ^ 256 ≤ b then t else s)

/-- MT[F]: the 23-bit mantissa of 2^(F / 256), RNE (R41). -/
def vlogMt (f : Nat) : Nat :=
  let s := root256 (2 ^ (23 * 256 + f)) 24 0
  (if (2 * s + 1) ^ 256 < 2 ^ (24 * 256 + f) then s + 1 else s) - 2 ^ 23

/-- VLOG16 decoding to FP32 (R41). -/
def vlogDec (c : Nat) : U32 :=
  let e := c / 256 % 256
  if e = 0 then 0 else if e = 255 then 0x7fc00000
  else BitVec.ofNat 32 (e * 2 ^ 23 + vlogMt (c % 256))

/-- mix of R46. -/
def srMix (z : U64) : U64 :=
  let z := z ^^^ (z >>> 32)
  let z := z * 0xA3B195E54C6F2D17
  let z := z ^^^ (z >>> 29)
  let z := z * 0x8CB92BA72F3D8DD7
  z ^^^ (z >>> 32)

/-- The first stage of a draw, which the Calipers' selection uses too (R46, R262). -/
def srStem (seed : U64) (step tensor : U32) : U64 :=
  srMix (seed ^^^ (step ++ tensor))

/-- sr_draw (R46). -/
def srDraw (seed : U64) (step tensor : U32) (element : BitVec 40) (hop : U16) (site : Byte) : U64 :=
  srMix (srStem seed step tensor ^^^ (element ++ hop ++ site))

/-- Bits [63:48] of a draw. -/
def drawHi (d : U64) : Nat := d.toNat / 2 ^ 48

/-- Bits [31:16] of a draw. -/
def drawLo (d : U64) : Nat := d.toNat / 2 ^ 16 % 2 ^ 16

/-- One pass of tree_combine at distance `w` (R53): adds p[i + w] to p[i] for i = 0, 2w, …, left to right. -/
def treePass {α : Type} (add : α → α → α) : List α → List α
  | a :: b :: r => add a b :: treePass add r
  | r => r

/-- tree_combine (R53) over a list of partial sums. -/
def treeAux {α : Type} (add : α → α → α) : Nat → List α → List α
  | 0, l => l
  | k + 1, l => treeAux add k (treePass add l)

def treeCombine {α : Type} (add : α → α → α) (l : List α) (zero : α) : α :=
  (treeAux add (l.length.log2 + 1) l).headD zero

end Sys2Proof.Machine
end

