-- ==== Sys2Proof/Machine/Operands.lean ====
section
/-! DEFINITION. Operand forms: registers, packed elements, scaled values and conversions of runs (R35–R44, R70, R71, R80, R84). -/

namespace Sys2Proof.Machine

/-! ### Registers -/

def Tile.spin (t : Tile) (k : Nat) : Spindle := t.sp.get k
def Tile.updSp (t : Tile) (k : Nat) (f : Spindle → Spindle) : Tile := { t with sp := t.sp.upd k f }
/-- A scalar register of a spindle. -/
def Spindle.reg (p : Spindle) (r : BitVec 5) : U64 := p.s.get r.toNat
def Spindle.setReg (p : Spindle) (r : BitVec 5) (v : U64) : Spindle := { p with s := p.s.put r.toNat v }
/-- A byte of the tensor registers, numbered as one 256 KiB space. -/
def Tile.tbyte (t : Tile) (a : Nat) : Byte := (cellGet t.treg a).getD 0
/-- Bytes of the tensor registers from register `r`, offset `o`. -/
def Tile.tbytes (t : Tile) (r o n : Nat) : List Byte := (List.range n).map (fun i => t.tbyte (4096 * r + o + i))
/-- Writes listed bytes of the tensor registers. -/
def Tile.putBytes (t : Tile) (w : List (Nat × Byte)) : Tile :=
  { t with treg := w.foldl (fun c e => cellPut c e.1 e.2) t.treg }

/-- An address operand: s[SA] plus IMM sign-extended to 64 bits (R69). -/
def addrOf (p : Spindle) (f : Fields) : Nat := (p.reg f.sa + f.imm.signExtend 64).toNat

/-! ### Packed elements -/

/-- Element `i` of `b` bits in an array of bytes, packed from the least significant bit up (R35). -/
def elemAt (rd : Nat → Byte) (b i : Nat) : Nat :=
  let o := i * b / 8
  ofBytes ((List.range ((i * b % 8 + b + 7) / 8)).map (fun k => rd (o + k))) / 2 ^ (i * b % 8) % 2 ^ b

/-- Writes element `i` of `b` bits into a byte list that holds the array from byte address `base` (R35, R81). -/
def elemPut (c : List (Nat × Byte)) (base b i code : Nat) : List (Nat × Byte) :=
  let o := base + i * b / 8
  let sh := i * b % 8
  let n := (sh + b + 7) / 8
  let old := ofBytes ((List.range n).map (fun k => (cellGet c (o + k)).getD 0))
  let new := old - old / 2 ^ sh % 2 ^ b * 2 ^ sh + code % 2 ^ b * 2 ^ sh
  (toBytes n new).zipIdx.foldl (fun c e => cellPut c (o + e.2) e.1) c

/-- The value of an element code in its format, without scales (R32, R39, R68). -/
def fmtValue (fmt code : Nat) : Ex :=
  match fmt with
  | 0 | 1 | 2 => Elem.e2m1.value code
  | 3 | 5 => Elem.e2m3.value code
  | 4 | 6 => Elem.e3m2.value code
  | 7 | 9 => Elem.e4m3.value code
  | 8 | 10 => Elem.e5m2.value code
  | 11 => int8Val code 0
  | 12 => int8Val code (-6)
  | 13 => Elem.bf16.value code
  | 14 => Elem.f16.value code
  | _ => Elem.f32.value code

/-- The value of a block scale of the format (R37, R40). -/
def scaleValue (fmt code : Nat) : Ex := if fmt = 2 then ue5m3 code else e8m0 code

/-- Conversion of an exact value to an element of the format (R43), without scales. -/
def fmtConv (fmt : Nat) (md : RMode) (x : Ex) : Conv :=
  match fmt with
  | 0 | 1 | 2 => Elem.e2m1.conv md x
  | 3 | 5 => Elem.e2m3.conv md x
  | 4 | 6 => Elem.e3m2.conv md x
  | 7 | 9 => Elem.e4m3.conv md x
  | 8 | 10 => Elem.e5m2.conv md x
  | 11 => convInt8 md x
  | 12 => convMxInt8 md x
  | 13 => Elem.bf16.conv md x
  | 14 => Elem.f16.conv md x
  | _ => Elem.f32.conv md x

/-- Conversion of a quotient: the range test is made on the exact quotient, the rounding on its FP32 value (R43, R45). -/
def quotConv (fmt : Nat) (md : RMode) (q : Ex) : Conv :=
  let c := fmtConv fmt .rne q
  if c.sat then c else fmtConv fmt md (val32 (rne32 q))

/-- A tensor scale that is finite and greater than 0 (R36). -/
def scaleOk (t : U32) : Bool := finite32 t && t.toNat % 2 ^ 31 != 0 && t.toNat < 2 ^ 31

/-- emax of an MX element format (R37). -/
def emax (fmt : Nat) : Int :=
  match fmt with
  | 1 | 5 => 2 | 6 => 4 | 9 => 8 | 10 => 15 | _ => 0

/-- Largest magnitude among the finite values of a list of FP32 codes. -/
def amaxFin (l : List U32) : U32 :=
  l.foldl (fun a x => if finite32 x && flt a (fabs x) then fabs x else a) 0

/-- Largest magnitude of a list that may hold infinities; any NaN gives NaN (R82, R256). -/
def amaxAll (l : List U32) : U32 :=
  l.foldl (fun a x => if isNan32 x || isNan32 a then 0x7fc00000 else if flt a (fabs x) then fabs x else a) 0

/-- Encodes one MX block: its scale and its elements (R37, R38). `fr` gives the element codes of a block whose scale is NaN. -/
def mxBlock (fmt : Nat) (md : Nat → RMode) (fr : Nat → Nat) (xs : List U32) : Nat × List Conv :=
  if xs.any (fun x => !finite32 x) then (0xff, xs.mapIdx (fun i _ => ⟨fr i % 2 ^ fmtBits fmt, true, false⟩))
  else
    match val32 (amaxFin xs) with
    | .rat _ n d e =>
      if n = 0 then (0, xs.mapIdx (fun i x => fmtConv fmt (md i) (val32 x)))
      else
        let x := floorLog2 n d e - emax fmt
        let x := if x < -127 then -127 else if x > 127 then 127 else x
        ((x + 127).toNat, xs.mapIdx (fun i v => quotConv fmt (md i) ((val32 v).mul (.rat false 1 1 (-x)))))
    | _ => (0, [])

/-- Encodes one VF4 block under a tensor scale: its scale and its elements (R40). -/
def vf4Block (t : U32) (md : Nat → RMode) (xs : List U32) : Nat × List Conv :=
  let am := amaxFin xs
  let bad (x : U32) : Conv := ⟨(Elem.e2m1.conv .rne (val32 x)).code, true, false⟩
  if am = 0 then (0, xs.map (fun x => if finite32 x then ⟨0, false, false⟩ else bad x))
  else
    let u := fdiv am (fmul 0x40c00000 t)
    let s := toUe5m3 (val32 u)
    let s := if s = 0 then 1 else s
    let dd := rne32 ((ue5m3 s).mul (val32 t))
    (s, xs.mapIdx (fun i x => if finite32 x then quotConv 2 (md i) ((val32 x).div (val32 dd)) else bad x))

/-- Encodes one VF4 block whose tensor scale is unusable (R84). -/
def vf4Void (xs : List U32) : Nat × List Conv := (0, xs.map (fun _ => ⟨0, true, false⟩))

/-- The tensor scale of a VF4 tensor from its amax (R40 step 1). -/
def vf4Scale (am : U32) : U32 := if am = 0 then 0x3f800000 else rne32 ((val32 am).div (.rat false 688128 1 0))

/-- The FP32 value of a scaled source element (R36, R37, R40, R84). -/
def srcValue (fmt code sc : Nat) (t : U32) : U32 :=
  let e := fmtValue fmt code
  match fmtScheme fmt with
  | .wide => rne32 e
  | .mx => rne32 (e.mul (scaleValue fmt sc))
  | .tensor => if scaleOk t then rne32 (e.mul (val32 t)) else 0x7fc00000
  | .vf4 => if scaleOk t then rne32 ((e.mul (scaleValue fmt sc)).mul (val32 t)) else 0x7fc00000

/-- A per-tensor destination element (R84): an unusable scale converts as NaN. -/
def tensorConv (fmt : Nat) (md : RMode) (x t : U32) : Conv :=
  if scaleOk t then (if finite32 x then quotConv fmt md ((val32 x).div (val32 t)) else fmtConv fmt md (val32 x))
  else { fmtConv fmt md .nan with nf := true }

/-! ### Matrix operands -/

/-- The exact value of element (row, k) of an MMA operand, with its block scale where the format has one (R50, R70, R71). -/
def mmaElem (c : MmaClass) (fmt : Nat) (isB : Bool) (op sc : Nat → Byte) (row k : Nat) : Ex :=
  let code := elemAt (fun i => op (row * c.pitch + i)) (fmtBits fmt) k
  if fmtBlocks fmt then
    let nb := c.kMax / 32
    let b := k / 32
    let at_ := if isB then 64 * nb + b * 64 + row else row * nb + b
    (fmtValue fmt code).mul (scaleValue fmt (sc at_).toNat)
  else fmtValue fmt code

/-- The exact sum of one block of K indices for element (i, j) (R50, R51). -/
def blockSum (c : MmaClass) (fa fb : Nat) (a b sc : Nat → Byte) (i j k n : Nat) : Ex :=
  (List.range n).foldl (fun s q =>
    s.add ((mmaElem c fa false a sc i (k + q)).mul (mmaElem c fb true b sc j (k + q)))) Ex.zero

/-- An integral exact value. -/
def Ex.toInt : Ex → Int
  | .rat neg n d e =>
    let (a, b) := scale2 n d e
    if neg then -((a / b : Nat) : Int) else ((a / b : Nat) : Int)
  | _ => 0

/-- Adds an integer to an INT32 accumulator, saturating; answers whether it saturated (R55). -/
def intAcc (acc : U32) (v : Int) : U32 × Bool :=
  let s := acc.toInt + v
  if s > 2 ^ 31 - 1 then (0x7fffffff, true)
  else if s < -(2 ^ 31) then (0x80000000, true)
  else (BitVec.ofInt 32 s, false)

/-- One element of the group after an MMA: its new value and the saturations made (R50, R51, R55). -/
def mmaAcc (c : MmaClass) (fa fb cnt : Nat) (a b sc : Nat → Byte) (i j : Nat) (old : U32) : U32 × Nat :=
  (List.range ((cnt + 31) / 32)).foldl (fun (acc : U32 × Nat) q =>
    let s := blockSum c fa fb a b sc i j (32 * q) (min 32 (cnt - 32 * q))
    if c = .int8 then
      let (v, h) := intAcc acc.1 s.toInt
      (v, acc.2 + if h then 1 else 0)
    else (fadd acc.1 (rne32 s), acc.2)) (old, 0)

/-- The group after an MMA has added its block sums (R50–R55, R74, R78). -/
def mmaGroup (g : Group) (mod : Byte) (agm : BitVec 2) (cnt : Nat) (a b sc : List (Nat × Byte)) : Group :=
  let fa := mod.toNat / 16
  let fb := mod.toNat % 16
  match mmaClass fa fb with
  | none => g
  | some c =>
    let rd (l : List (Nat × Byte)) (i : Nat) : Byte := (cellGet l i).getD 0
    let g := if agm.getLsbD 0 then { g with val := [], sat := 0 } else g
    let r := (List.range 4096).map (fun e => (e, mmaAcc c fa fb cnt (rd a) (rd b) (rd sc) (e / 64) (e % 64) (g.val.get e)))
    { g with val := (r.filter (fun x => x.2.1 != 0)).map (fun x => (x.1, x.2.1)),
             sat := satAdd g.sat ((r.map (·.2.2)).sum) }

/-- Listed non-zero bytes of a run of the tensor registers, from offset 0. -/
def Tile.sample (t : Tile) (r n : Nat) : List (Nat × Byte) :=
  (t.treg.filter (fun e => 4096 * r ≤ e.1 && e.1 < 4096 * r + n)).map (fun e => (e.1 - 4096 * r, e.2))

/-- The FP32 value of a group's element (R78). -/
def Group.f32 (g : Group) (e : Nat) : U32 :=
  if g.st = .idle then 0 else if g.int then fofInt (g.val.get e).toInt else g.val.get e

end Sys2Proof.Machine
end

