-- ==== Sys2Proof/Machine/Flags.lean ====
section
/-! DEFINITION. Flag slots and completion counters of a tile (R44, R63, R64, R85). -/

namespace Sys2Proof.Machine

/-- Records a conversion's flags in a slot: the sticky bit and the saturating count (R44, R85). -/
def FlagSlot.add (s : FlagSlot) (nf : Bool) (sat : Nat) : FlagSlot := { nf := s.nf || nf, sat := satAdd s.sat sat }

/-- Records flags in a tile's slot. -/
def Tile.addFlags (t : Tile) (slot : BitVec 4) (nf : Bool) (sat : Nat) : Tile :=
  { t with flag := t.flag.upd slot.toNat (fun s => s.add nf sat) }

/-- Combines two slots (R107). -/
def FlagSlot.join (a b : FlagSlot) : FlagSlot := a.add b.nf b.sat.toNat

/-- The flag and saturation count of a list of conversions (R44). -/
def flagsOf (l : List Conv) : Bool × Nat := (l.any (·.nf), (l.filter (·.sat)).length)

/-- The value that FLAGRD reads (R69). -/
def FlagSlot.word (s : FlagSlot) : U64 := BitVec.ofNat 64 ((if s.nf then 2 ^ 32 else 0) + s.sat.toNat)

/-- Adds 1 to a completion counter; false where it would pass 65,535 (R63, R64). -/
def Tile.signal (t : Tile) (sig : Option (BitVec 4)) : Tile × Bool :=
  match sig with
  | none => (t, true)
  | some i =>
    if t.w.get i.toNat = 0xFFFF then (t, false)
    else ({ t with w := t.w.upd i.toNat (· + 1) }, true)

/-- The signal that an instruction's SE and SI name. -/
def sigOf (f : Fields) : Option (BitVec 4) := if f.se = 1 then some f.si else none

/-- The comparison of BRC (R69). -/
def brCond (mod : Byte) (a b : U64) : Bool :=
  match mod.toNat with
  | 0 => a == b
  | 1 => a != b
  | 2 => a.slt b
  | 3 => !(a.slt b)
  | 4 => a.ult b
  | _ => !(a.ult b)

/-- The result of SALU (R69). -/
def salu (mod : Byte) (a b : U64) : U64 :=
  let n := b.toNat % 64
  match mod.toNat with
  | 0 => a + b
  | 1 => a - b
  | 2 => a &&& b
  | 3 => a ||| b
  | 4 => a ^^^ b
  | 5 => a <<< n
  | 6 => a >>> n
  | 7 => a.sshiftRight n
  | 8 => a * b
  | 9 => if a.slt b then a else b
  | _ => if a.slt b then b else a

end Sys2Proof.Machine
end

