-- ==== Sys2Proof/Machine/VecOps.lean ====
section
/-! DEFINITION. What each vector operation computes over its run (R69, R79–R85, R87). -/

namespace Sys2Proof.Machine

/-- Element `i` of a source run: a register run, or in compatibility mode a group's FP32 elements (R80, R87). -/
def Tile.src (t : Tile) (native : Bool) (reg b i : Nat) : Nat :=
  if !native && reg < 8 then ((t.grp.get reg).f32 i).toNat
  else elemAt (fun k => t.tbyte (4096 * reg + k)) b i

/-- Mask bit `i` of a mask run (R81). -/
def Tile.maskBit (t : Tile) (reg i : Nat) : Bool := (t.tbyte (4096 * reg + i / 8)).getLsbD (i % 8)

/-- The bytes of a run after the listed elements have been written (R81): every other bit keeps its value. -/
def Tile.runAfter (t : Tile) (reg b bytes : Nat) (el : List (Nat × Nat)) : List (Nat × Byte) :=
  let base := 4096 * reg
  let old := t.treg.filter (fun e => base ≤ e.1 && e.1 < base + bytes)
  let new := el.foldl (fun c e => elemPut c base b e.1 e.2) old
  (List.range bytes).map (fun i => (base + i, (cellGet new (base + i)).getD 0))

/-- The unary and binary element-wise results as exact values (R69, R83). -/
def vecElem (op imm : Nat) (a b c : Ex) (x y : U32) : Ex :=
  match op with
  | 0x60 => a.add b
  | 0x61 => a.sub b
  | 0x62 => a.mul b
  | 0x63 => (a.mul b).add c
  | 0x64 => a.max b
  | 0x65 => a.min b
  | 0x66 => a.div b
  | 0x67 => a.sqrt
  | 0x68 => a.exp
  | 0x69 => a.log
  | 0x6A => if imm = 0 then a else if imm = 1 then a.neg else a.abs
  | 0x6B =>
    match imm with
    | 0 => a.add (val32 x) | 1 => a.mul (val32 x) | 2 => a.max (val32 x) | _ => a.min (val32 x)
  | 0x6C =>
    match imm / 2 ^ 14 with
    | 0 => a.add b | 1 => a.sub b | 2 => a.mul b | _ => a.div b
  | _ => a.mul (val32 (fmul x y))

/-- The comparison of VCMP (R69). -/
def vecCmp (k : Nat) (a b : Ex) : Bool :=
  let nan := a == .nan || b == .nan
  match k with
  | 0 => !nan && a.eq b
  | 1 => nan || !(a.eq b)
  | 2 => !nan && a.lt b
  | 3 => !nan && (a.lt b || a.eq b)
  | 4 => !nan && b.lt a
  | _ => !nan && (b.lt a || a.eq b)

/-- Combines one lane's elements in increasing order (R82). -/
def laneFold (k : Nat) : List U32 → U32
  | [] => 0
  | a :: r => r.foldl (redStep k) (redFirst k a)
where
  redFirst (k : Nat) (a : U32) : U32 := if isNan32 a then 0x7fc00000 else if k = 2 then fabs a else a
  redStep (k : Nat) (s a : U32) : U32 :=
    if k = 0 then fadd s a
    else rne32 ((val32 s).max (val32 (redFirst k a)))

/-- The reduction of one row (R82). -/
def rowReduce (k : Nat) (row : List U32) : U32 :=
  let w := row.length
  let lanes := (List.range (min w 128)).map (fun l =>
    laneFold k ((List.range ((w - l + 127) / 128)).map (fun q => row.getD (l + 128 * q) 0)))
  treeCombine (laneFold.redStep k) lanes 0

/-- What a vector operation leaves: byte writes, and its flags. -/
structure VecOut where
  bytes : List (Nat × Byte) := []
  nf : Bool := false
  sat : Nat := 0
  deriving DecidableEq, Repr

/-- Element-wise operations, VCMP, VSEL, VROW, VRED and VSCALE. -/
def Tile.vecPlain (t : Tile) (native : Bool) (op : Nat) (f : Fields) (p : Spindle) : VecOut :=
  let n := f.cnt.toNat
  let sb := fmtBits (hi4 f)
  let va (i : Nat) : Ex := fmtValue (hi4 f) (t.src native f.ta.toNat sb i)
  let vb (i : Nat) : Ex := fmtValue (hi4 f) (t.src native f.tb.toNat sb i)
  let on (i : Nat) : Bool := !(masked? f) || t.maskBit f.tc.toNat i
  let db := (vecBits op f).2
  let d := vecDest op f
  if op = 0x6D then
    let w := rowW f
    let k := f.imm.toNat / 2 ^ 14
    let el := ((List.range (vecRows f)).filter on).map (fun r =>
      let row := (List.range w).map (fun j => rne32 (va (r * w + j)))
      (r, (fmtConv (lo4 f) .rne (val32 (rowReduce k row))).code))
    { bytes := t.runAfter d.reg db d.bytes el }
  else if op = 0x71 then
    let el := ((List.range n).filter on).map (fun i => (i, if vecCmp f.imm.toNat (va i) (vb i) then 1 else 0))
    { bytes := t.runAfter d.reg 1 d.bytes el }
  else if op = 0x72 then
    let el := (List.range n).map (fun i =>
      (i, (fmtConv (lo4 f) .rne (if t.maskBit f.tc.toNat i then va i else vb i)).code))
    { bytes := t.runAfter d.reg db d.bytes el }
  else
    let x := (p.reg f.sa).setWidth 32
    let y := (p.reg f.sb).setWidth 32
    let el := ((List.range n).filter on).map (fun i =>
      let b := if op = 0x6C then vb (i / rowW f) else if op ≤ 0x66 then vb i else Ex.zero
      let c := if op = 0x63 then fmtValue (hi4 f) (t.src native f.tc.toNat sb i) else Ex.zero
      (i, (fmtConv (lo4 f) .rne (vecElem op f.imm.toNat (va i) b c x y)).code))
    { bytes := t.runAfter d.reg db d.bytes el }

/-- VCVTL (R41, R42, R69). -/
def Tile.vecVlog (t : Tile) (native : Bool) (f : Fields) : VecOut :=
  let n := f.cnt.toNat
  let (sb, db) := vecBits 0x6F f
  let d := vecDest 0x6F f
  let cv (i : Nat) : Conv :=
    let c := t.src native f.ta.toNat sb i
    if f.mod.getLsbD 0 then
      let v := vlogDec c
      ⟨v.toNat, isNan32 v, false⟩
    else vlogEnc (BitVec.ofNat 32 c)
  let el := ((List.range n).filter (fun i => !(masked? f) || t.maskBit f.tc.toNat i)).map (fun i => (i, cv i))
  let (nf, sat) := flagsOf (el.map (·.2))
  { bytes := t.runAfter d.reg db d.bytes (el.map (fun e => (e.1, e.2.code))), nf := nf, sat := sat }

/-- The rounding of VCVT's element `i`: RNE, or SR with the draw of R46 (R84). -/
def cvtMode (f : Fields) (p : Spindle) (seed : U64) (step : U32) (i : Nat) : RMode :=
  if f.imm.getLsbD 14 then
    let w := rowW f
    let a := p.reg f.sa
    let b := p.reg f.sb
    let el := b.toNat % 2 ^ 40 + i / w * (a.toNat / 2 ^ 32) + i % w
    .sr (drawHi (srDraw seed step (a.setWidth 32) (BitVec.ofNat 40 el) 0 0))
  else .rne

/-- VCVT (R84). `fr` gives the codes that R38 leaves open. -/
def Tile.vecCvt (t : Tile) (native : Bool) (f : Fields) (p : Spindle) (seed : U64) (step : U32) (fr : Nat → Nat) : VecOut :=
  let n := f.cnt.toNat
  let hi := hi4 f
  let lo := lo4 f
  let sc := p.reg (f.sa + 1)
  let td : U32 := sc.setWidth 32
  let ts : U32 := if fmtTensor hi && fmtTensor lo then sc.extractLsb' 32 32 else sc.setWidth 32
  let sb := fmtBits hi
  let db := fmtBits lo
  let d := vecDest 0x6E f
  let scs := (cvtScales 0x6E f)
  let inSc (i : Nat) : Nat := (t.tbyte (4096 * f.tc.toNat + i / 32)).toNat
  let x (i : Nat) : U32 := srcValue hi (t.src native f.ta.toNat sb i) (inSc i) ts
  let md (i : Nat) : RMode := cvtMode f p seed step i
  if fmtBlocks lo then
    let blk := (List.range (n / 32)).map (fun b =>
      let xs := (List.range 32).map (fun j => x (32 * b + j))
      let mdb (j : Nat) : RMode := md (32 * b + j)
      if lo = 2 then (if scaleOk td then vf4Block td mdb xs else vf4Void xs)
      else mxBlock lo mdb (fun j => fr (32 * b + j)) xs)
    let cs := (blk.map (·.2)).flatten
    let (nf, sat) := flagsOf cs
    let el := cs.mapIdx (fun i c => (i, c.code))
    let sreg := match scs.2 with
      | r :: _ => r.reg
      | [] => 0
    { bytes := t.runAfter d.reg db d.bytes el ++
        blk.mapIdx (fun i b => (4096 * sreg + i, BitVec.ofNat 8 b.1)), nf := nf, sat := sat }
  else
    let on (i : Nat) : Bool := fmtBlocks hi || !(masked? f) || t.maskBit f.tc.toNat i
    let el := ((List.range n).filter on).map (fun i =>
      (i, if fmtTensor lo then tensorConv lo (md i) (x i) td
          else fmtConv lo (md i) (val32 (x i))))
    let (nf, sat) := flagsOf (el.map (·.2))
    { bytes := t.runAfter d.reg db d.bytes (el.map (fun e => (e.1, e.2.code))), nf := nf, sat := sat }

/-- AMOV: the bytes of a part of a group, and its flags (R79, R85). -/
def Tile.amov (t : Tile) (f : Fields) : VecOut :=
  let g := t.grp.get f.ag.toNat
  let q := f.imm.toNat % 4
  let bf := lo4 f = 13
  let cnt := if bf then 2048 else 1024
  let cs := (List.range cnt).map (fun i => fmtConv (lo4 f) .rne (val32 (g.f32 (q * cnt + i))))
  let (nf, _) := flagsOf cs
  let w := if bf then 2 else 4
  { bytes := ((cs.map (fun c => toBytes w c.code)).flatten).mapIdx (fun i b => (4096 * f.td.toNat + i, b)), nf := nf }

/-- ALOAD: the group with one quarter written (R74, R78, R79). -/
def Tile.aload (t : Tile) (f : Fields) : Group :=
  let g := t.grp.get f.ag.toNat
  let q := f.imm.toNat % 4
  let el := (List.range 4096).map (fun e =>
    (e, if q * 1024 ≤ e && e < q * 1024 + 1024
        then BitVec.ofNat 32 (natAt (t.tbytes f.ta.toNat (4 * (e - q * 1024)) 4) 0 4) else g.f32 e))
  { g with st := .closed, closing := false, int := false, val := el.filter (fun x => x.2 != 0) }

end Sys2Proof.Machine
end

