-- ==== Sys2Proof/Machine/Calipers.lean ====
section
/-! DEFINITION. The Calipers: which tensors and elements are sampled, and what a tapped element adds (R262–R264). -/

namespace Sys2Proof.Machine

/-- A tensor is selected in a step under its layer's sampling exponent (R262). -/
def calSelected (seed : U64) (step tensor : U32) (k : Nat) : Bool :=
  k = 0 || (srStem seed step tensor).toNat / 2 ^ (64 - k) = 0

/-- A group of 4,096 elements of a sampled tensor is tapped (R262). -/
def calTapped (seed : U64) (step tensor : U32) (g : Nat) : Bool :=
  (srMix (srStem seed step tensor ^^^ BitVec.ofNat 64 g)).toNat % 16 = 0

/-- Tensors sampled in the open step, in table order, at most 256 (R262). -/
def Job.sampledIds (j : Job) : List U32 :=
  (((j.watched.filter (fun w =>
    match j.layers.find w.layer.toNat with
    | some x => x.sample && calSelected j.seed j.step w.id x.kexp.toNat
    | none => false)).map (·.id)).take 256)

/-- A finite non-negative FP32 value in units of 2⁻¹⁴⁹ (R263). -/
def units149 (x : U32) : Nat :=
  match val32 x with
  | .rat _ n _ e => n * 2 ^ (e + 149).toNat
  | _ => 0

/-- Adds one tapped element: its source and its output read back (R263). -/
def Watched.tap (w : Watched) (x y : U32) : Watched :=
  let d := fsub x y
  let a := fmul x x
  let b := fmul d d
  if !finite32 x || !finite32 y || !finite32 a || !finite32 b then { w with ovf := true }
  else { w with sig := w.sig + BitVec.ofNat 384 (units149 a), err := w.err + BitVec.ofNat 384 (units149 b) }

/-- The tensor that a flag slot of a die's running training blank reports into, if the step samples it (R107, R262). -/
def Main.sampledTensor (m : Main) (d : Nat) (slot : BitVec 4) : Option (Job × U32) :=
  match (m.dieAt d).run, m.dieJob d with
  | some b, some j =>
    if b.training && j.stepOpen then
      match b.tensors.find? (fun t => t.slot = some slot) with
      | some t => if j.sampledIds.contains t.id then some (j, t.id) else none
      | none => none
    else none
  | _, _ => none

/-- What a conversion sends to its die's Calipers: element index, source and output read back (R263). -/
def Main.calipers (m : Main) (d : Nat) (slot : Option (BitVec 4)) (el : List (Nat × U32 × U32)) : Main :=
  match slot with
  | none => m
  | some s =>
    match m.sampledTensor d s with
    | none => m
    | some (j, id) =>
      let hit := el.filter (fun e => calTapped j.seed j.step id (e.1 / 4096))
      m.updJob (m.dieAt d).job.toNat (fun j => { j with watched := j.watched.map (fun w =>
        if w.id = id then hit.foldl (fun w e => w.tap e.2.1 e.2.2) w else w) })

/-- Elements of a VCVT: index under R84, source and output read back (R84, R263). -/
def Tile.calCvt (t : Tile) (native : Bool) (f : Fields) (p : Spindle) (out : VecOut) : List (Nat × U32 × U32) :=
  let hi := hi4 f
  let lo := lo4 f
  let sc := p.reg (f.sa + 1)
  let td : U32 := sc.setWidth 32
  let ts : U32 := if fmtTensor hi && fmtTensor lo then sc.extractLsb' 32 32 else sc.setWidth 32
  let w := rowW f
  let a := p.reg f.sa
  let b := p.reg f.sb
  let u := t.putBytes out.bytes
  let oreg := match (cvtScales 0x6E f).2 with
    | r :: _ => r.reg
    | [] => 0
  let on (i : Nat) : Bool := fmtBlocks hi || fmtBlocks lo || !(masked? f) || t.maskBit f.tc.toNat i
  ((List.range f.cnt.toNat).filter on).map (fun i =>
    ((b.toNat % 2 ^ 40 + i / w * (a.toNat / 2 ^ 32) + i % w) % 2 ^ 40,
     srcValue hi (t.src native f.ta.toNat (fmtBits hi) i) (t.tbyte (4096 * f.tc.toNat + i / 32)).toNat ts,
     srcValue lo (u.src true f.td.toNat (fmtBits lo) i) (u.tbyte (4096 * oreg + i / 32)).toNat td))

/-- Elements of a VCVTL: source and output read back as FP32 (R263). -/
def Tile.calVlog (t : Tile) (native : Bool) (f : Fields) (out : VecOut) (index : Nat → Nat) : List (Nat × U32 × U32) :=
  let (sb, db) := vecBits 0x6F f
  let u := t.putBytes out.bytes
  let val (dec : Bool) (c : Nat) : U32 := if dec then vlogDec c else BitVec.ofNat 32 c
  ((List.range f.cnt.toNat).filter (fun i => !(masked? f) || t.maskBit f.tc.toNat i)).map (fun i =>
    (index i, val (f.mod.getLsbD 0) (t.src native f.ta.toNat sb i), val (!f.mod.getLsbD 0) (u.src true f.td.toNat db i)))

/-- Elements of an AMOV: the group's value and what was written (R79, R263). -/
def Tile.calAmov (t : Tile) (f : Fields) (index : Nat → Nat) : List (Nat × U32 × U32) :=
  let g := t.grp.get f.ag.toNat
  let q := f.imm.toNat % 4
  let cnt := if lo4 f = 13 then 2048 else 1024
  (List.range cnt).map (fun i =>
    let x := g.f32 (q * cnt + i)
    (index i, x, rne32 (fmtValue (lo4 f) (fmtConv (lo4 f) .rne (val32 x)).code)))

end Sys2Proof.Machine
end

