-- ==== Sys2Proof/Machine/Stores.lean ====
section
/-! DEFINITION. Reads and writes of the protected stores, the page code, remapping and retirement (R474–R487). -/

namespace Sys2Proof.Machine

/-! ### The page code -/

/-- Check bytes of a page whose only non-zero bytes are the given ones from position `pos` (R476). -/
def pageCheck (pos : Nat) (d : List Byte) : BitVec 256 :=
  d.zipIdx.foldl (fun (acc : BitVec 256) (e : Byte × Nat) =>
    let p := pos + e.2
    if e.1 = 0 then acc
    else
      let (c0, c1) := rsCheck ((List.range 128).map (fun k => if k = p / 16 then e.1 else (0 : Byte)))
      let i := p % 16
      acc ^^^ ((c0.setWidth 256) <<< (16 * i)) ^^^ ((c1.setWidth 256) <<< (16 * i + 8))) 0

/-- XORs the difference of a page's check bytes; 0 is not listed. -/
def Mem.pageXor (m : Mem) (page : Nat) (d : BitVec 256) : Mem :=
  let v := m.pageErr.get page ^^^ d
  { m with pageErr := if v = 0 then m.pageErr.del page else m.pageErr.put page v }

/-- Stores a word of a memory stack without touching the page's check bytes: raw bits (R483), or the value that the
code has restored (R477, R480). -/
def Mem.hbmRaw (m : Mem) (w : Nat) (d : U64) (s : U16) : Mem :=
  let old := bvBytes (m.rawWord w) 8
  let new := bvBytes d 8
  (m.rawPut w d s).pageXor (pageOf (8 * w)) (pageCheck (pagePos (8 * w)) (List.zipWith (· ^^^ ·) old new))

/-- The page that holds an address as the page code decodes it: its 2,048 bytes, or none (R476, R477). -/
def Mem.pageDecode (m : Mem) (da : Nat) : Option (List Byte) :=
  let raw (i : Nat) : Byte := m.raw (pageByte da i)
  let e := m.pageErr.get (pageOf da)
  let inter := (List.range 16).map (fun i =>
    let msg := (List.range 128).map (fun k => raw (16 * k + i))
    let (c0, c1) := rsCheck msg
    rsDecode msg (c0 ^^^ bvByte e (2 * i)) (c1 ^^^ bvByte e (2 * i + 1)))
  if inter.all Option.isSome then
    some ((List.range 2048).map (fun p => ((inter.getD (p % 16) none).getD []).getD (p / 16) 0))
  else none

/-! ### Retirement of tiles and channels -/

/-- Drops the entries older than `age` seconds. -/
def recent (now age : Nat) (l : List Nat) : List Nat := l.filter (fun t => now < t + age)

/-- Retires a tile (R484, R485). -/
def Main.retireTile (m : Main) (id : Nat) : Main :=
  if (m.tileAt id).retired then m
  else (m.updTile id (fun t => { t with retired := true })).log!
    { code := 0x1109, cls := .rec_, die := some (id / 512), par := p2 id }

/-- Marks a channel for retirement at the next memory initialisation (R484, R486). -/
def Main.markChannel (m : Main) (n ch : Nat) : Main :=
  let c := (m.hbmAt n).ch.get ch
  if c.st != 0 then m
  else (m.updHbm n (fun s => { s with ch := s.ch.upd ch (fun c => { c with st := 1 }) })).log!
    { code := 0x2506, cls := .rec_, stack := some n, par := p1 ch }

def Main.updChan (m : Main) (n ch : Nat) (f : Channel → Channel) : Main :=
  m.updHbm n (fun s => { s with ch := s.ch.upd ch f })

/-- Lowest spare line that no entry uses. -/
def Channel.freeSpare (c : Channel) : Option Nat := (List.range 32).find? (fun s => !(c.remap.any (fun e => e.2 = s)))

/-- A new entry of the remap table and of its flash copy, where it takes the place of an older entry with its line or spare (R481). -/
def Channel.addRemap (c : Channel) (line s : Nat) : Channel :=
  { c with remap := c.remap ++ [(line, s)], kept := c.kept.filter (fun e => e.1 != line && e.2 != s) ++ [(line, s)] }

/-- A line of a memory stack qualifies for remapping (R482, R484). -/
def Main.qualify (m : Main) (da : Nat) : Main :=
  let n := da / 2 ^ 37
  let ch := m.chan da
  let line := chanAddr ((m.hbmAt n).place (da % 2 ^ 37)) / 128
  let c := (m.hbmAt n).ch.get ch
  if c.remap.any (fun e => e.1 = line) then m
  else
    match c.freeSpare with
    | some s =>
      let a := da / 128 * 128
      let st := (List.range 16).foldl (fun (st : Mem) i =>
        let w := a / 8 + i
        match st.side.find w with
        | none => st
        | some _ =>
          let (o, d, p) := st.decode w
          if o = .bad then st.hbmRaw w 0 (cleanSide 0 true) else st.hbmRaw w d (cleanSide d p)) m.mem.hbm
      ({ m with mem := { m.mem with hbm := st } }.updChan n ch (fun c => c.addRemap line s)).log!
        { code := 0x2504, cls := .rec_, stack := some n, par := p8 a }
    | none =>
      let ex := (c.excess.filter (fun e => m.sec < e.2 + 86400 && e.1 != line)) ++ [(line, m.sec)]
      let day := m.sec / 86400 + 1
      let m := m.updChan n ch (fun c => { c with excess := ex })
      let m := if (m.hbmAt n).day.get ch = day then m
        else (m.updHbm n (fun s => { s with day := s.day.put ch day })).log!
          { code := 0x2505, cls := .adv, stack := some n, par := p1 ch }
      if ex.length ≥ 8 then m.markChannel n ch else m

/-- Counts a corrected memory-stack word (R475, R480, R489). -/
def Main.countCorr (m : Main) (da : Nat) : Main :=
  m.updChan (da / 2 ^ 37) (m.chan da) (fun c =>
    { c with corrected := recent m.sec 86400 c.corrected ++ [m.sec], fresh := c.fresh + 1 })

/-- An uncorrectable memory-stack word: the page code corrects it, or poison is written (R477). -/
def Main.hbmBad (m : Main) (w : Nat) : Main :=
  let da := 8 * w
  let n := da / 2 ^ 37
  let ch := m.chan da
  match m.mem.hbm.pageDecode da with
  | some page =>
    let changed := (List.range 2048).filter (fun i => m.mem.hbm.raw (pageByte da i) != page.getD i 0)
    let st := changed.foldl (fun (s : Mem) i => s.putData (pageByte da i) (page.getD i 0)) m.mem.hbm
    let words := (List.range 256).map (fun i => pageByte da (8 * i) / 8)
    let st := words.foldl (fun (s : Mem) x =>
      match s.side.find x with
      | none => s
      | some _ =>
        let (o, _, p) := m.mem.hbm.decode x
        if o != .bad && p then { s with side := s.side.put x (cleanSide (s.rawWord x) true) }
        else { s with side := s.side.del x }) st
    let st := { st with pageErr := st.pageErr.del (pageOf da) }
    let m := { m with mem := { m.mem with hbm := st } }
    let m := (m.updChan n ch (fun c => { c with pageCorr := satAdd c.pageCorr 1 })).log!
      { code := 0x2502, cls := .rec_, stack := some n, par := p8 da }
    ((changed.map (fun i => pageByte da i / 128 * 128)).eraseDups).foldl Main.qualify m
  | none =>
    let st := m.mem.hbm.write da (List.replicate 8 0)
    let m := { m with mem := { m.mem with hbm := { st with side := st.side.put w (cleanSide 0 true) } } }
    let pf := (((m.hbmAt n).ch.get ch).pageFail.filter (fun e => m.sec < e.2 + 3600)).filter (fun e => e.1 != pageOf da)
      ++ [(pageOf da, m.sec)]
    let m := (m.updChan n ch (fun c => { c with uncorr := satAdd c.uncorr 1, pageFail := pf })).log!
      { code := 0x2503, cls := .rec_, stack := some n, par := p8 da }
    if pf.length ≥ 4 then m.markChannel n ch else m

/-- What one read of a memory-stack word does to the word (R475, R477, R482). -/
def Main.hbmTouch (m : Main) (w : Nat) : Main :=
  let (o, _, _) := m.mem.hbm.decode w
  match o with
  | .none => m
  | .one => m.countCorr (8 * w)
  | .two => (m.countCorr (8 * w)).qualify (8 * w)
  | .bad => m.hbmBad w

/-- Words of a run that carry a side entry. -/
def Mem.listed (s : Mem) (a n : Nat) : List Nat :=
  (s.side.filter (fun e => a / 8 ≤ e.1 && e.1 * 8 < a + n)).map (·.1)

/-- Reads a run of a memory stack: its bytes, and the words that answer poison (R475–R478). -/
def Main.hbmRead (m : Main) (a n : Nat) : Main × List Byte × List Nat :=
  let m := (m.mem.hbm.listed a n).foldl Main.hbmTouch m
  (m, m.mem.hbm.read a n, m.mem.hbm.badWords a n)

/-- Writes a run of a memory stack. -/
def Main.hbmWrite (m : Main) (a : Nat) (l : List Byte) : Main := { m with mem := { m.mem with hbm := m.mem.hbm.write a l } }

/-- Writes poison over a run of a memory stack. -/
def Main.hbmPoison (m : Main) (a n : Nat) : Main := { m with mem := { m.mem with hbm := m.mem.hbm.poison a n } }

/-! ### Reduction accumulators -/

/-- Adds one contribution to an accumulator (R159). -/
def accAdd (a : BitVec 256) (x : Ex) : BitVec 256 :=
  match x with
  | .nan => a ||| (1 <<< 248)
  | .inf neg => a ||| (1 <<< (if neg then 250 else 249))
  | .rat neg n _ e =>
    let (p, q) := scale2 n 1 e
    if n != 0 && p ≥ 2 ^ 72 * q then a ||| (1 <<< (if neg then 252 else 251))
    else
      let v : BitVec 248 := BitVec.ofNat 248 (n * 2 ^ (e + 149).toNat)
      let s := a.setWidth 248
      (a.extractLsb' 248 8) ++ (if neg then s - v else s + v)

/-- Adds a returned accumulator: SUM modulo 2²⁴⁸, flags by OR (R160). -/
def accJoin (a b : BitVec 256) : BitVec 256 :=
  (a.extractLsb' 248 8 ||| b.extractLsb' 248 8) ++ (a.setWidth 248 + b.setWidth 248)

/-- Bits of a line's elements and their number (R158). -/
def lineElems (fp32 : Bool) : Nat × Nat := if fp32 then (32, 32) else (16, 64)

/-- The value of element `j` of a line (R158, R159). -/
def lineVal (fp32 : Bool) (d : BitVec 1024) (j : Nat) : Ex :=
  if fp32 then Elem.f32.value (d.extractLsb' (32 * j) 32).toNat else Elem.bf16.value (d.extractLsb' (16 * j) 16).toNat

/-- Adds a line to accumulators (R159); with poison, every accumulator's POISON bit is set (R158). -/
def accLine (fp32 : Bool) (acc : List (BitVec 256)) (d : BitVec 1024) (poison : Bool) : List (BitVec 256) :=
  (List.range (lineElems fp32).2).map (fun j =>
    let a := accAdd (acc.getD j 0) (lineVal fp32 d j)
    if poison then acc.getD j 0 ||| (1 <<< 253) else a)

/-- Sets SEEDED in every accumulator (R158, R160). -/
def accMark (acc : List (BitVec 256)) : List (BitVec 256) := acc.map (fun a => a ||| ((1 : BitVec 256) <<< 254))

/-- Adds returned accumulators to a line's (R160). -/
def accMerge (fp32 : Bool) (acc more : List (BitVec 256)) : List (BitVec 256) :=
  (List.range (lineElems fp32).2).map (fun j => accJoin (acc.getD j 0) (more.getD j 0))

/-- Finalises one accumulator (R162, steps 2 to 4). -/
def accFinal (fp32 : Bool) (a : BitVec 256) : Nat :=
  let f : Elem := if fp32 then .f32 else .bf16
  let pos := a.getLsbD 249 || a.getLsbD 251
  let neg := a.getLsbD 250 || a.getLsbD 252
  let x : Ex :=
    if a.getLsbD 248 || (pos && neg) then .nan
    else if pos then .inf false
    else if neg then .inf true
    else
      let s := (a.setWidth 248).toInt
      .rat (s < 0) s.natAbs 1 (-149)
  (f.conv .rne x).code

/-- Finalises a line: its data, or none where a POISON bit is set (R162). -/
def accFinalLine (fp32 : Bool) (acc : List (BitVec 256)) : Option (BitVec 1024) :=
  let (b, n) := lineElems fp32
  if acc.any (fun a => a.getLsbD 253) then none
  else some ((List.range n).foldl (fun d j =>
    d ||| (BitVec.ofNat 1024 (accFinal fp32 (acc.getD j 0))) <<< (b * j)) 0)

/-! ### Lines of the stacked cache -/

def Main.sliceAt (m : Main) (s i : Nat) : Slice := (m.sramAt s).slices.get i
def Main.updSlice (m : Main) (s i : Nat) (f : Slice → Slice) : Main :=
  m.updSram s (fun x => { x with slices := x.slices.upd i f })

/-- Bank queue of a line within its slice: channel and bank (R153). -/
def Main.bankKey (m : Main) (da : Nat) : Nat :=
  let o := (m.hbmAt (da / 2 ^ 37)).place (da % 2 ^ 37)
  chanOf o * 128 + bankOf (chanAddr o)

/-- A line whose fill or reduction fill is outstanding holds a place in its bank's miss queue (R153). -/
def Line.pending (l : Line) : Bool := l.st = .fillPending || l.st = .redPending

/-- A miss enters or leaves the queue of a bank; the beats that the queue spends full are counted by the die's beats (R153; log 35). -/
def Slice.bank (s : Slice) (k now : Nat) (enter : Bool) : Slice :=
  let n := s.bankq.get k
  if enter then
    { s with bankq := s.bankq.put k (n + 1), fullSince := if n + 1 = 16 then s.fullSince.put k now else s.fullSince }
  else
    { s with
      bankq := if n ≤ 1 then s.bankq.del k else s.bankq.put k (n - 1)
      fullSince := if n = 16 then s.fullSince.del k else s.fullSince
      fullBeats := if n = 16 then s.fullBeats + (now - s.fullSince.get k) else s.fullBeats }

/-- The line that a home slice holds for a device address. -/
def Main.line? (m : Main) (da : Nat) : Option Line :=
  let h := m.home da
  (m.sliceAt h.1 h.2).lines.find (da / 128)

/-- Sets or removes a line of its home slice; the miss queue of its bank follows (R151, R153). -/
def Main.setLine (m : Main) (da : Nat) (l : Option Line) : Main :=
  let h := m.home da
  let was := (m.line? da).any Line.pending
  let now := l.any Line.pending
  let k := m.bankKey da
  let b := (m.dieAt h.1).beats
  m.updSlice h.1 h.2 (fun s =>
    let s := if was == now then s else s.bank k b now
    { s with lines := match l with
        | some v => s.lines.put (da / 128) v
        | none => s.lines.del (da / 128) })

/-- Side field of word `i` of a held line as it is written: the check bits of the word and its poison bit (R138, R142, R474). -/
def Line.side (l : Line) (i : Nat) : U16 :=
  if l.poison.getLsbD i then cleanSide 0 true else cleanSide (l.data.extractLsb' (64 * i) 64) false

/-- Storage lines of the reduction store that a line's accumulators occupy (R158). -/
def Line.storeLines (l : Line) : Nat := if l.fp32 then 8 else 16

/-- Storage line `k` of a line in reduction mode: accumulators 4 × k to 4 × k + 3, 32 bytes each (R158). -/
def Line.storage (l : Line) (k : Nat) : BitVec 1024 :=
  (List.range 4).foldl (fun (d : BitVec 1024) i => d ||| ((l.acc.getD (4 * k + i) 0).setWidth 1024 <<< (256 * i))) 0

/-- Side field of word `i` of a storage line (R138, R474). -/
def Line.storageSide (l : Line) (k i : Nat) : U16 := cleanSide ((l.storage k).extractLsb' (64 * i) 64) false

/-- The line stands in reduction mode. -/
def Line.reducing (l : Line) : Bool := l.st = .redPending || l.st = .reduction

/-- What the decoder gives for stored word `i` of a line with bits `f` in error; in reduction mode word `i` counts over the storage lines
(R475, R478). -/
def Line.decoded (l : Line) (i : Nat) (f : BitVec 80) : Outc × U64 × Bool :=
  let (d, s) : U64 × U16 :=
    if l.reducing then ((l.storage (i / 16)).extractLsb' (64 * (i % 16)) 64, l.storageSide (i / 16) (i % 16))
    else (if l.poison.getLsbD i then 0 else l.data.extractLsb' (64 * i) 64, l.side i)
  bchDecode (d ^^^ f.setWidth 64) (s ^^^ f.extractLsb' 64 16)

/-- Word `i` of a line as the decoder delivers it: its data, or its POISON bit where it is uncorrectable in reduction mode (R158, R478). -/
def Line.delivered (l : Line) (i : Nat) (r : Outc × U64 × Bool) : Line :=
  if l.reducing then
    let e := i / 4
    let a := l.acc.getD e 0
    let b : BitVec 256 := if r.1 = .bad then a ||| (1 <<< 253)
      else (a &&& ~~~((BitVec.ofNat 256 (2 ^ 64 - 1)) <<< (64 * (i % 4)))) ||| ((r.2.1.setWidth 256) <<< (64 * (i % 4)))
    { l with acc := l.acc.set e b }
  else
    { l with
      data := (l.data &&& ~~~((BitVec.ofNat 1024 (2 ^ 64 - 1)) <<< (64 * i))) ||| ((r.2.1.setWidth 1024) <<< (64 * i))
      poison := if r.2.2 then l.poison ||| (1#16 <<< i) else l.poison &&& ~~~(1#16 <<< i) }

/-- The bucket of a partition's enabled regulator has too few bytes for one access (R182). -/
def Regulator.empty (r : Regulator) : Bool := r.force.en && r.level < 128

/-- Charges accesses of 128 bytes of memory stack `n` to the regulator of partition `p` (R176, R181–R183). What one command moves in
many accesses is charged at once, so that the bucket may fall below 0 and later accesses wait for it (log 139). -/
def Main.charge (m : Main) (n p : Nat) (k : Nat := 1) : Main :=
  m.updHbm n (fun s => { s with reg := s.reg.upd p (fun r =>
    { r with served := r.served + 128 * k, win := r.win + 128 * k, level := if r.force.en then r.level - 128 * k else r.level }) })

/-- The bytes of a line read from its memory stack for partition `p`, with the mask of poisoned words. -/
def Main.memLine (m : Main) (p da : Nat) : Main × BitVec 1024 × BitVec 16 :=
  let a := da / 128 * 128
  let (m, b, bad) := (m.charge (da / 2 ^ 37) p).hbmRead a 128
  (m, bvOf 1024 b, bad.foldl (fun x w => x ||| (1 <<< (w - a / 8))) 0)

/-- Writes a line to its memory stack for partition `p`; a poisoned word is written as poison. -/
def Main.writeLine (m : Main) (p da : Nat) (d : BitVec 1024) (poison : BitVec 16) : Main :=
  let a := da / 128 * 128
  let m := (m.charge (da / 2 ^ 37) p).hbmWrite a (bvBytes d 128)
  ((List.range 16).filter poison.getLsbD).foldl (fun m i => m.hbmPoison (a + 8 * i) 8) m

/-- One line less is in reduction mode on its stack (R163). -/
def Main.redDone (m : Main) (da : Nat) : Main :=
  m.updHbm (da / 2 ^ 37) (fun s => { s with redLines := s.redLines - 1 })

/-- Hands a reduction line's accumulators to the base die as a record, one access of partition `p` (R161, R176). -/
def Main.toRecord (m : Main) (p da : Nat) (l : Line) : Main :=
  let n := da / 2 ^ 37
  let k := da / 128
  let seed := match (m.hbmAt n).red.find k with
    | some r => accMerge l.fp32 l.acc r.acc
    | none => l.acc
  (m.charge n p).updHbm n (fun s => { s with red := s.red.put k { fp32 := l.fp32, acc := seed } })

/-- Accumulators of a line that is not yet seeded: the base die's record or the memory value joins them, one access of partition `p`
(R160, R176). -/
def Main.seedLine (m : Main) (p da : Nat) (l : Line) : Main × Line :=
  if l.seeded then (m, l)
  else
    let n := da / 2 ^ 37
    let k := da / 128
    match (m.hbmAt n).red.find k with
    | some r =>
      ((m.charge n p).updHbm n (fun s => { s with red := s.red.del k }),
        { l with acc := accMark (accMerge l.fp32 l.acc r.acc), seeded := true })
    | none =>
      let (m, d, x) := m.memLine p da
      (m, { l with acc := accMark (accLine l.fp32 l.acc d (x != 0)), seeded := true })

/-- Finalises a reduction line into its memory stack, one access of partition `p` (R162, R176). -/
def Main.finalise (m : Main) (p da : Nat) (fp32 : Bool) (acc : List (BitVec 256)) : Main :=
  let m := m.redDone da
  match accFinalLine fp32 acc with
  | some d => m.writeLine p da d 0
  | none => (m.charge (da / 2 ^ 37) p).hbmPoison (da / 128 * 128) 128

/-- Finalises the base die's record of a line, if it holds one (R161, R162). -/
def Main.finaliseRecord (m : Main) (p da : Nat) : Main :=
  let n := da / 2 ^ 37
  match (m.hbmAt n).red.find (da / 128) with
  | none => m
  | some r => (m.updHbm n (fun s => { s with red := s.red.del (da / 128) })).finalise p da r.fp32 r.acc

end Sys2Proof.Machine
end

