-- ==== Sys2Proof/Machine/SliceOps.lean ====
section
/-! DEFINITION. How a home slice serves reads, writes and reductions, and the regulators at the base dies (R150–R163, R182, R188). -/

namespace Sys2Proof.Machine

/-! ### Regulators (R182, R188) -/

/-- Governing temperature of a memory stack, 0.001 °C (R186). -/
def Stack.temp (s : Stack) : Int := max s.diode s.readout

/-- Thermal factor in parts per million (R188). -/
def Stack.factor (s : Stack) : Nat :=
  if s.stages.getLsbD 3 then 100000
  else if s.stages.getLsbD 1 then (min 1000000 (max 0 (1000000 - 150 * (s.temp - 90000)))).toNat
  else 1000000

/-- The partition has used its guarantee of the present window, or has none (R182). -/
def Stack.pastGuarantee (s : Stack) (p : Nat) : Bool :=
  let r := s.reg.get p
  !r.force.en || r.force.guar.toNat * 48000 * s.factor / 1000000 ≤ r.win

/-- The stack has served all that its thermal factor allows in the present window (R188). -/
def Stack.atCap (s : Stack) : Bool :=
  s.factor != 1000000 && 3072000 * s.factor / 1000000 < (s.reg.map (fun e => e.2.win)).sum + 128

/-- Partitions with a fill outstanding at a memory stack. -/
def Main.fillsOf (m : Main) (n : Nat) : List Nat :=
  ((m.sram.map (fun s => (s.2.slices.map (fun i =>
    (i.2.lines.filter (fun l => l.2.pending && l.1 / 2 ^ 30 = n)).map (fun l => l.2.part))).flatten)).flatten)

/-- The base die serves an access of partition `p` now: its bucket holds 128 bytes, the stack is not at its thermal cap, and no
partition that is still within its guarantee has an access waiting while `p` is past its own (R182, R188). -/
def Main.mayAccess (m : Main) (n p : Nat) : Bool :=
  let s := m.hbmAt n
  !(s.reg.get p).empty && !s.atCap &&
    !(s.pastGuarantee p && (m.fillsOf n).any (fun q => q != p && !s.pastGuarantee q && !(s.reg.get q).empty))

/-! ### Requests and lines -/

/-- Line number within a tile's request. -/
def Req.lineIdx (r : Req) (da : Nat) : Option Nat :=
  let a := r.da.toNat / 128
  let l := da / 128
  if a ≤ l && (l - a) % r.step = 0 && (l - a) / r.step < r.lines then some ((l - a) / r.step) else none

/-- Line `i` of a request, by its device address. -/
def Req.lineDa (r : Req) (i : Nat) : Nat := r.da.toNat + 128 * r.step * i

/-- Answers one line of a request with data (R152): a tile's request slot gathers it. -/
def Main.answer (m : Main) (src : ReqSrc) (da : Nat) (d : BitVec 1024) (bad : Bool) (err : Nat := 0) : Main :=
  match src with
  | .port tag => m.send (.line tag d bad)
  | .tile t slot =>
    m.updTile t.id (fun x =>
      match x.slots.find slot.val with
      | none => x
      | some r =>
        match r.lineIdx da with
        | none => x
        | some i =>
          if r.served.contains i then x
          else
            let r := { r with served := i :: r.served, bad := r.bad || bad, err := if bad && err != 0 then BitVec.ofNat 16 err else r.err }
            { x with slots := x.slots.put slot.val (if r.kind = .load then { r with got := r.got.put i d } else r) })

/-- The request leaves its die over a bridge (R156). -/
def Req.far (r : Req) (d : Nat) : Bool :=
  match r.target with
  | .slice s _ => s != d
  | .pinned => (r.da.toNat - pinBase) / 2 ^ 31 != d
  | .slow | .host | .peer _ => true
  | .cache => false

/-- A line of a request is not yet to be carried out: an older request of the same spindle on that line comes first in program order,
or an older write of the same die that has passed into its bridge does (R65, R95, R156). -/
def Main.heldBack (m : Main) (id : Nat) (r : Req) (da : Nat) : Bool :=
  m.tile.any (fun e => e.1 / 512 = id / 512 && e.2.slots.any (fun s =>
    let x := s.2
    !x.bad && !x.put && x.stamp < r.stamp && (x.kind != .load || r.kind = .store) &&
    (match x.lineIdx da with
     | some i => !(x.served.contains i)
     | none => false) &&
    ((e.1 = id && x.sp = r.sp) || (x.kind != .load && x.far (id / 512)))))

/-- The request of a tile's slot that a slice command serves: its line is not yet served, its kind fits, and no older request of its die
goes before it. -/
def Main.reqFor (m : Main) (t : TileRef) (slot : Fin 64) (da : Nat) (k : ReqKind) : Option (Req × Nat) :=
  match (m.tileAt t.id).slots.find slot.val with
  | none => none
  | some r =>
    match r.lineIdx da, r.target with
    | some i, .slice _ _ => if !r.bad && r.kind = k && !(r.served.contains i) && !(m.heldBack t.id r da) then some (r, i) else none
    | _, _ => none

/-- Partition that an access of a requester is charged to; a slice command of a port names no partition, and the stack's owner stands
for it (R181; log 140). -/
def Main.srcPart (m : Main) (src : ReqSrc) (da : Nat) : Nat :=
  match src with
  | .tile t _ => m.diePartOf t.die.val
  | .port _ => m.stackPartOf (da / 2 ^ 37)

/-- A group of a column is under sparing, so that requests to the column's banks wait (R164). -/
def Main.colHeld (m : Main) (s c : Nat) : Bool := (m.sramAt s).dowels.any (fun e => e.2.sparing && e.1 / 4 = c)

/-- The banks that store a way of a set of a slice are under sparing (R164). -/
def Main.wayHeld (m : Main) (s i way set : Nat) : Bool :=
  (m.sramAt s).dowels.any (fun e => e.2.sparing && e.1 / 4 = Config.lineColumn s i way set)

/-- A line that the slice holds lies in a column under sparing (R164). -/
def Main.lineHeld (m : Main) (da : Nat) : Bool :=
  let h := m.home da
  match m.line? da with
  | some l => !l.pending && m.wayHeld h.1 h.2 l.way (setOf (da / 128))
  | none => false

/-- Notes an uncorrectable word of a column of a compute stack (R484). -/
def Main.noteUc (m : Main) (s c w : Nat) : Main :=
  m.updSram s (fun x => { x with
    ucAddrs := (x.ucAddrs.filter (fun e => m.sec < e.2.2 + 86400 && !(e.1 = c && e.2.1 = w))) ++ [(c, w, m.sec)] })

/-- What a read of a held line does to its words in error (R475, R478): one or two bits are corrected and counted; with an uncorrectable
word a Clean line is dropped, to be refilled (0x3401), a Dirty one leaves poison in every word of its memory address (0x3402), and in the
reduction store the accumulator's POISON bit is set. A corrected word stands corrected from then on (log 160). -/
def Main.lineTouch (m : Main) (da : Nat) : Main :=
  match m.line? da with
  | none => m
  | some l =>
    if l.flaw = [] then m
    else
      let h := m.home da
      let a := da / 128 * 128
      let rs := l.flaw.map (fun f => (f.1, l.decoded f.1 f.2))
      let bad := (rs.filter (fun r => r.2.1 == .bad)).map (·.1)
      let m := m.updSram h.1 (fun x => { x with corrected := x.corrected + (rs.length - bad.length) })
      let m := bad.foldl (fun m i => m.noteUc h.1 (Config.lineColumn h.1 h.2 l.way (setOf (da / 128))) (2 ^ 40 + a / 8 + i)) m
      let lost (code : Nat) : Ev := { code := code, cls := .rec_, die := some h.1, par := p1 h.1 ++ p8 a }
      if bad = [] || l.reducing then m.setLine da (some { rs.foldl (fun l r => l.delivered r.1 r.2) l with flaw := [] })
      else if l.st = .dirty then
        (((m.setLine da none).charge (da / 2 ^ 37) (m.stackPartOf (da / 2 ^ 37))).hbmPoison a 128).log! (lost 0x3402)
      else (m.setLine da none).log! (lost 0x3401)

/-- Moves a held line out of its slice for partition `p` (R151, R161). -/
def Main.evict (m : Main) (p da : Nat) : Main :=
  let m := m.lineTouch da
  match m.line? da with
  | none => m
  | some l =>
    let h := m.home da
    let m := match l.st with
      | .dirty => m.writeLine p da l.data l.poison
      | .redPending | .reduction => let (m, x) := m.seedLine p da l; m.toRecord p da x
      | _ => m
    (m.setLine da none).updSlice h.1 h.2 (fun s => { s with filter := (da / 128 :: s.filter).take 4096 })

/-- Of two lines with their numbers, the less recently used one; the lower way on a tie (R150). -/
def older (b : Option (Nat × Line)) (e : Nat × Line) : Option (Nat × Line) :=
  match b with
  | none => some e
  | some x => if e.2.used < x.2.used || (e.2.used = x.2.used && e.2.way < x.2.way) then some e else b

/-- A way for a new line: a free one, or the least recently used that is not Fill-pending (R150). None where every way is, or where
the way's column is under sparing (R164). -/
def Main.makeRoom (m : Main) (p da : Nat) : Main × Option Nat :=
  let h := m.home da
  let s := m.sliceAt h.1 h.2
  let set := setOf (da / 128)
  let same := s.lines.filter (fun e => setOf e.1 = set && e.2.way != redWay)
  let free := (List.range (m.sramAt h.1).ways).find? (fun w => !(same.any (fun e => e.2.way = w)))
  let victim := (same.filter (fun e => e.2.st != .fillPending)).foldl older none
  match free, victim with
  | some w, _ => (m, if m.wayHeld h.1 h.2 w set then none else some w)
  | none, none => (m, none)
  | none, some v => if m.wayHeld h.1 h.2 v.2.way set then (m, none) else (m.evict p (128 * v.1), some v.2.way)

/-- Storage lines of a slice's reduction store, 512 KiB (R150, R158). -/
def storeSize : Nat := 4096

/-- Storage lines that the lines of a slice occupy in its reduction store (R158). -/
def Slice.storeUsed (s : Slice) : Nat := ((s.lines.filter (fun e => e.2.way = redWay)).map (fun e => e.2.storeLines)).sum

/-- Makes room for `n` storage lines in the reduction store: the least recently used line in Reduction is evicted, and another where one
does not do (R150, R161; log 141). False where only lines in Reduction-pending are left. -/
def Main.storeRoom (m : Main) (p da n : Nat) : Nat → Main × Bool
  | 0 => (m, (let h := m.home da; (m.sliceAt h.1 h.2).storeUsed + n ≤ storeSize))
  | k + 1 =>
    let h := m.home da
    let s := m.sliceAt h.1 h.2
    if s.storeUsed + n ≤ storeSize then (m, true)
    else
      match (s.lines.filter (fun e => e.2.st = .reduction)).foldl older none with
      | none => (m, false)
      | some v => (m.evict p (128 * v.1)).storeRoom p da n k

/-- Installs a line in its slice with a fresh use stamp. -/
def Main.install (m : Main) (da : Nat) (l : Line) : Main :=
  let h := m.home da
  let st := (m.sliceAt h.1 h.2).stamp
  (m.setLine da (some { l with used := st })).updSlice h.1 h.2 (fun s => { s with stamp := s.stamp + 1 })

/-- A line in reduction mode becomes Dirty in a way of its own with its finalised value; poison in every word where POISON is set (R162).
None where no way is free, so that the access waits. -/
def Main.finaliseHeld (m : Main) (p da : Nat) (l : Line) : Main × Option Line :=
  match m.makeRoom p da with
  | (m, none) => (m, none)
  | (m, some w) =>
    let (m, l) := m.seedLine p da l
    let m := m.redDone da
    match accFinalLine l.fp32 l.acc with
    | some d => (m, some { l with st := .dirty, way := w, data := d, poison := 0, acc := [], seeded := false })
    | none => (m, some { l with st := .dirty, way := w, data := 0, poison := 0xFFFF, acc := [], seeded := false })

/-- Drops the base die's record of a line (R162, last paragraph). -/
def Main.dropRecord (m : Main) (da : Nat) : Main :=
  match (m.hbmAt (da / 2 ^ 37)).red.find (da / 128) with
  | none => m
  | some _ => (m.updHbm (da / 2 ^ 37) (fun s => { s with red := s.red.del (da / 128) })).redDone da

/-- Merges written words into a line. -/
def mergeWords (old new : BitVec 1024) (words : BitVec 16) : BitVec 1024 :=
  (List.range 16).foldl (fun d i =>
    if words.getLsbD i then
      (d &&& ~~~(BitVec.ofNat 1024 (2 ^ 64 - 1) <<< (64 * i))) ||| ((new.extractLsb' (64 * i) 64).setWidth 1024 <<< (64 * i))
    else d) old

/-- Writes words of a line straight to memory, one access of partition `p` (pass-through, or a partial write that misses). -/
def Main.writeWords (m : Main) (p da : Nat) (d : BitVec 1024) (words : BitVec 16) : Main :=
  let m := if words = 0xFFFF then m.dropRecord da else m.finaliseRecord p da
  ((List.range 16).filter words.getLsbD).foldl (fun m i =>
    m.hbmWrite (da / 128 * 128 + 8 * i) (bvBytes (d.extractLsb' (64 * i) 64) 8)) (m.charge (da / 2 ^ 37) p)

/-- Adds a REDG contribution to the base die's record, creating it from the memory value (R161, R163, R176). The result names the
event of a refused contribution. -/
def Main.redgRecord (m : Main) (p da : Nat) (fp32 : Bool) (d : BitVec 1024) : Main × Nat :=
  let n := da / 2 ^ 37
  match (m.hbmAt n).red.find (da / 128) with
  | some r =>
    if r.fp32 != fp32 then (m, 0x3201)
    else ((m.charge n p).updHbm n (fun s => { s with red := s.red.put (da / 128) { r with acc := accLine fp32 r.acc d false } }), 0)
  | none =>
    if (m.hbmAt n).redLines ≥ 32768 then (m, 0x3202)
    else
      let (m, v, x) := m.memLine p da
      let acc := accMark (accLine fp32 [] v (x != 0))
      (m.updHbm n (fun s => { s with redLines := s.redLines + 1,
                                     red := s.red.put (da / 128) { fp32 := fp32, acc := accLine fp32 acc d false } }), 0)

/-- Adds a REDG contribution to a line (R153, R157–R161, R163). The result: the state, the event of a refused contribution or 0,
and whether the request must wait instead. -/
def Main.redg (m : Main) (p da : Nat) (fp32 : Bool) (d : BitVec 1024) : Main × Nat × Bool :=
  let h := m.home da
  let n := da / 2 ^ 37
  let room := m.storeRoom p da (if fp32 then 8 else 16) 2
  match m.line? da with
  | some l =>
    match l.st with
    | .fillPending => (m, 0, true)
    | .redPending | .reduction =>
      if l.fp32 != fp32 then (m, 0x3201, false)
      else (m.install da { l with acc := accLine fp32 l.acc d false }, 0, false)
    | .clean | .dirty =>
      if (m.hbmAt n).redLines ≥ 32768 then (m, 0x3202, false)
      else if !room.2 then (m, 0, true)
      else
        let acc := accMark (accLine fp32 [] l.data (l.poison != 0))
        let m := room.1.updHbm n (fun s => { s with redLines := s.redLines + 1 })
        (m.install da { l with st := .reduction, way := redWay, data := 0, poison := 0, fp32 := fp32
                               acc := accLine fp32 acc d false, seeded := true }, 0, false)
  | none =>
    if (m.sramAt h.1).pass then let (m, e) := m.redgRecord p da fp32 d; (m, e, false)
    else
      let rec_ := (m.hbmAt n).red.find (da / 128)
      if rec_.any (fun r => r.fp32 != fp32) then (m, 0x3201, false)
      else if rec_.isNone && (m.hbmAt n).redLines ≥ 32768 then (m, 0x3202, false)
      else if !room.2 || (m.sliceAt h.1 h.2).bankq.get (m.bankKey da) ≥ 16 then (m, 0, true)
      else
        let m := if rec_.isSome then room.1 else room.1.updHbm n (fun s => { s with redLines := s.redLines + 1 })
        (m.install da { st := .redPending, way := redWay, fp32 := fp32, acc := accLine fp32 [] d false, part := p }, 0, false)

/-- Serves a read at its home slice; true where it must wait (R147, R151–R153). -/
def Main.readAt (m : Main) (src : ReqSrc) (da : Nat) : Main × Bool :=
  let h := m.home da
  let p := m.srcPart src da
  match m.line? da with
  | some l =>
    match l.st with
    | .fillPending =>
      if l.att.length < 64 then (m.setLine da (some { l with att := l.att ++ [src] }), false) else (m, true)
    | .clean | .dirty => ((m.install da l).answer src da l.data (l.poison != 0), false)
    | .redPending => (m, true)
    | .reduction =>
      match m.finaliseHeld p da l with
      | (m, none) => (m, true)
      | (m, some l) => ((m.install da l).answer src da l.data (l.poison != 0), false)
  | none =>
    if (m.sramAt h.1).pass then
      let (m, d, x) := (m.finaliseRecord p da).memLine p da
      (m.answer src da d (x != 0), false)
    else
      let s := m.sliceAt h.1 h.2
      if s.bankq.get (m.bankKey da) ≥ 16 then (m, true)
      else if (s.lines.filter (fun e => e.2.st = .fillPending)).length ≥ 256 then (m, true)
      else
        match m.makeRoom p da with
        | (m, none) => (m, true)
        | (m, some w) =>
          let m := m.install da { st := .fillPending, way := w, att := [src], part := p }
          (m.updSlice h.1 h.2 (fun s =>
            { s with fills := s.fills + 1, refills := if s.filter.contains (da / 128) then s.refills + 1 else s.refills }), false)

/-- Writes words of a line at its home slice for partition `p`; true where the write must wait (R147, R151, R152, R162). -/
def Main.put (m : Main) (p da : Nat) (d : BitVec 1024) (words : BitVec 16) : Main × Bool :=
  let h := m.home da
  let full := words = 0xFFFF
  match m.line? da with
  | some l =>
    match l.st with
    | .fillPending => (m, true)
    | .clean | .dirty =>
      (m.install da { l with st := .dirty, data := mergeWords l.data d words, poison := l.poison &&& ~~~words
                             flaw := l.flaw.filter (fun f => !(words.getLsbD f.1)) }, false)
    | .redPending | .reduction =>
      if full then
        match m.makeRoom p da with
        | (m, none) => (m, true)
        | (m, some w) =>
          let m := m.updHbm (da / 2 ^ 37) (fun s => { s with red := s.red.del (da / 128) })
          ((m.redDone da).install da { l with st := .dirty, way := w, data := d, poison := 0, acc := [], seeded := false }, false)
      else if l.st = .redPending then (m, true)
      else
        match m.finaliseHeld p da l with
        | (m, none) => (m, true)
        | (m, some l) => (m.install da { l with data := mergeWords l.data d words, poison := l.poison &&& ~~~words }, false)
  | none =>
    if full && !(m.sramAt h.1).pass then
      match m.makeRoom p da with
      | (m, none) => (m, true)
      | (m, some w) => ((m.dropRecord da).install da { st := .dirty, way := w, data := d }, false)
    else (m.writeWords p da d words, false)

/-- Serves a write at its home slice; true where it must wait. -/
def Main.writeAt (m : Main) (src : ReqSrc) (da : Nat) (d : BitVec 1024) (words : BitVec 16) : Main × Bool :=
  match m.put (m.srcPart src da) da d words with
  | (m, true) => (m, true)
  | (m, false) => (m.answer src da 0 false, false)

/-- Serves one request at its home slice; true where it must wait, also for a column under sparing (R164). -/
def Main.serve (m : Main) (w : Waiting) : Main × Bool :=
  let da := 128 * w.line
  if m.lineHeld da then (m, true)
  else
    let m := if w.kind = .store && (m.line? da).all (fun l => !l.reducing) then m else m.lineTouch da
    match w.kind with
    | .load => m.readAt w.src da
    | .store => m.writeAt w.src da w.data w.words
    | .reduce fp32 =>
      match m.redg (m.srcPart w.src da) da fp32 w.data with
      | (m, _, true) => (m, true)
      | (m, 0, false) => (m.answer w.src da 0 false, false)
      | (m, e, false) => (m.answer w.src da 0 true e, false)

/-- Serves what can go on in a slice's input buffer, aged requests first and each line in its order of arrival (R152, R153). -/
def Main.drainBuf (m : Main) (s i : Nat) : Main :=
  let buf := (m.sliceAt s i).inbuf
  let order := buf.filter (·.aged) ++ buf.filter (fun w => !w.aged)
  let (m, left) := order.foldl (fun (a : Main × List Waiting) w =>
    if a.2.any (fun x => x.line = w.line) then (a.1, a.2 ++ [w])
    else
      match a.1.serve w with
      | (m, true) => (m, a.2 ++ [w])
      | (m, false) => (m, a.2)) (m, [])
  m.updSlice s i (fun x => { x with inbuf := left })

/-- Serves what can go on in every slice of a compute stack. -/
def Main.drainStack (m : Main) (s : Nat) : Main :=
  (m.sramAt s).slices.foldl (fun m e => if e.2.inbuf = [] then m else m.drainBuf s e.1) m

/-- A request arrives at its home slice (R152, R153): it is served, waits in the input buffer, or with the buffer full stays in the mesh. -/
def Main.arrive (m : Main) (w : Waiting) : Main :=
  let h := m.home (128 * w.line)
  let s := m.sliceAt h.1 h.2
  let wait (m : Main) : Main :=
    if (m.sliceAt h.1 h.2).inbuf.length < 256 then m.updSlice h.1 h.2 (fun x => { x with inbuf := x.inbuf ++ [w] }) else m
  if s.inbuf.any (fun x => x.line = w.line) then wait m
  else
    match m.serve w with
    | (m, true) => wait m
    | (m, false) => m

/-! ### Fills -/

/-- A fill returns: every attached requester is answered and the line becomes Clean; a slice that has no such way any more, or is in
pass-through, drops it (R147, R151, R152, R165). -/
def Main.fillNow (m : Main) (a : Nat) : Main :=
  match m.line? a with
  | none => m
  | some l =>
    if l.st != .fillPending then m
    else
      let h := m.home a
      let (m, d, x) := (m.finaliseRecord l.part a).memLine l.part a
      let keep := !(m.sramAt h.1).pass && l.way < (m.sramAt h.1).ways
      let m := if keep then m.install a { l with st := .clean, data := d, poison := x, att := [] } else m.setLine a none
      (l.att.foldl (fun m src => m.answer src a d (x != 0)) m).drainBuf h.1 h.2

/-- A reduction fill returns: the base die's record or the memory value joins the line's accumulators (R160). -/
def Main.seedNow (m : Main) (a : Nat) : Main :=
  match m.line? a with
  | none => m
  | some l =>
    if l.st != .redPending then m
    else
      let h := m.home a
      let (m, l) := m.seedLine l.part a l
      (m.setLine a (some { l with st := .reduction })).drainBuf h.1 h.2

/-- Brings the requests that reached a line before to their end: its outstanding fill returns, and what waited for it is served; where a
request of the line still waits, every fill of the slice returns (R152). The line is then as a read finds it (R478). -/
def Main.settleLine (m : Main) (a : Nat) : Main :=
  let h := m.home a
  let m := (m.fillNow a).seedNow a
  if !((m.sliceAt h.1 h.2).inbuf.any (fun w => w.line = a / 128)) then m.lineTouch a
  else
    let ls := ((m.sliceAt h.1 h.2).lines.filter (fun e => e.2.pending)).map (·.1)
    ((ls.foldl (fun m l => (m.fillNow (128 * l)).seedNow (128 * l)) m).drainBuf h.1 h.2).lineTouch a

end Sys2Proof.Machine
end

