-- ==== Sys2Proof/Machine/Sync.lean ====
section
/-! DEFINITION. Accesses of units other than tiles: through the home slices, by base-die engines, to pinned SRAM, the slow tier and host
memory; pools and the retirement of columns (R144–R166). -/

namespace Sys2Proof.Machine

/-! ### Through the home slices -/

/-- Brings memory up to date with what a home slice holds of a line for partition `p`, and drops the slice's copy (R147, R154, R162, R483). -/
def Main.flush (m : Main) (p da : Nat) : Main :=
  let m := m.settleLine da
  match m.line? da with
  | none => m.finaliseRecord p da
  | some l =>
    match l.st with
    | .clean | .fillPending => m.setLine da none
    | .dirty => (m.writeLine p da l.data l.poison).setLine da none
    | .redPending | .reduction =>
      let (m, l) := m.seedLine p da l
      (m.setLine da none).finalise p da l.fp32 l.acc

/-- Line numbers of a run that a home slice or a base die holds, or that a request waits for. -/
def Main.heldLines (m : Main) (a n : Nat) : List Nat :=
  let inRun (l : Nat) : Bool := a / 128 ≤ l && l * 128 < a + n
  (((m.sram.map (fun s => (s.2.slices.map (fun i => i.2.lines.map (·.1) ++ i.2.inbuf.map (·.line))).flatten)).flatten ++
    (m.hbm.map (fun h => h.2.red.map (·.1))).flatten).filter inRun).eraseDups

/-- Brings memory up to date over a run before the controller writes it: every copy is dropped. -/
def Main.syncWrite (m : Main) (p a n : Nat) : Main := (m.heldLines a n).foldl (fun m l => m.flush p (128 * l)) m

/-- One line read through its home slice by a unit that is no tile, charged to partition `p` (R151, R162, R175): a hit answers from the
slice, a miss fills it. -/
def Main.lineGet (m : Main) (p a : Nat) : Main × BitVec 1024 × BitVec 16 :=
  let h := m.home a
  let m := m.settleLine a
  match m.line? a with
  | some l =>
    if l.st = .clean || l.st = .dirty then (m.install a l, l.data, l.poison)
    else
      match m.finaliseHeld p a l with
      | (m, some l) => (m.install a l, l.data, l.poison)
      | (m, none) => (m.flush p a).memLine p a
  | none =>
    let (m, d, x) := (m.finaliseRecord p a).memLine p a
    if (m.sramAt h.1).pass then (m, d, x)
    else
      match m.makeRoom p a with
      | (m, none) => (m, d, x)
      | (m, some w) =>
        let m := m.install a { st := .clean, way := w, data := d, poison := x }
        (m.updSlice h.1 h.2 (fun s =>
          { s with fills := s.fills + 1, refills := if s.filter.contains (a / 128) then s.refills + 1 else s.refills }), d, x)

/-- Words of one line written through its home slice by a unit that is no tile, charged to partition `p` (R151, R162). -/
def Main.linePut (m : Main) (p a : Nat) (d : BitVec 1024) (words : BitVec 16) : Main :=
  match (m.settleLine a).put p a d words with
  | (m, false) => m
  | (m, true) => (m.flush p a).writeWords p a d words

/-- Numbers of the lines of a run. -/
def linesOf (a n : Nat) : List Nat := (List.range ((a + n + 127) / 128 - a / 128)).map (· + a / 128)

/-- Reads a run of the memory-stack range as any unit but a tile or a base-die engine does: bytes, and whether a word is poisoned. -/
def Main.hbmGet (m : Main) (p a n : Nat) : Main × List Byte × Bool :=
  let r := (if n = 0 then [] else linesOf a n).foldl (fun (acc : Main × List Byte × Bool) l =>
    let (m, d, x) := acc.1.lineGet p (128 * l)
    let words := (List.range 16).filter (fun i => a < 128 * l + 8 * i + 8 && 128 * l + 8 * i < a + n)
    (m, acc.2.1 ++ bvBytes d 128, acc.2.2 || words.any x.getLsbD)) (m, [], false)
  (r.1, bytesAt r.2.1 (a % 128) n, r.2.2)

/-- Writes a run of the memory-stack range as any unit but a tile or a base-die engine does: whole words (R478). -/
def Main.hbmPut (m : Main) (p a : Nat) (l : List Byte) : Main :=
  let n := l.length
  (if n = 0 then [] else linesOf a n).foldl (fun m k =>
    let lo := max a (128 * k)
    let hi := min (a + n) (128 * k + 128)
    let words : BitVec 16 := BitVec.ofNat 16 (((List.range 16).filter (fun i => lo < 128 * k + 8 * i + 8 && 128 * k + 8 * i < hi)).foldl
      (fun x i => x + 2 ^ i) 0)
    let part := bytesAt l (lo - a) (hi - lo)
    let (m, old) : Main × List Byte :=
      if lo % 8 = 0 && hi % 8 = 0 then (m, List.replicate 128 0) else let (m, d, _) := m.lineGet p (128 * k); (m, bvBytes d 128)
    m.linePut p (128 * k) (bvOf 1024 (old.take (lo - 128 * k) ++ part ++ old.drop (hi - 128 * k))) words) m

/-! ### Base-die engines (R154) -/

/-- Brings memory up to date over a run before a base-die engine reads it: a Dirty line is written back and stays Clean, a line in
reduction mode is finalised. -/
def Main.syncRead (m : Main) (p a n : Nat) : Main :=
  (m.heldLines a n).foldl (fun m l =>
    let m := m.settleLine (128 * l)
    match m.line? (128 * l) with
    | some x =>
      if x.st = .clean then m
      else if x.st = .dirty then
        (m.writeLine p (128 * l) x.data x.poison).setLine (128 * l) (some { x with st := .clean })
      else m.flush p (128 * l)
    | none => m.flush p (128 * l)) m

/-- Partition that a base-die engine's access of a memory stack is charged to: the stack's owner (R181). -/
def Main.ownPart (m : Main) (a : Nat) : Nat := m.stackPartOf (a / 2 ^ 37)

/-- A read by a base-die engine (R154, R176, R181): the bytes, and whether a word is poisoned. -/
def Main.baseRead (m : Main) (a n : Nat) : Main × List Byte × Bool :=
  let p := m.ownPart a
  let (m, b, bad) := ((m.syncRead p a n).charge (a / 2 ^ 37) p (if n = 0 then 0 else (linesOf a n).length)).hbmRead a n
  (m, b, bad != [])

/-- A write by a base-die engine (R154): the slice's copy is dropped, and a Dirty one is discarded with event 0x3205; an outstanding fill
goes on and returns what has been written. -/
def Main.baseWrite (m : Main) (j : Nat) (a : Nat) (l : List Byte) : Main :=
  let p := m.ownPart a
  let held := m.heldLines a l.length
  let dirty := held.filter (fun k => match m.line? (128 * k) with
    | some x => x.st = .dirty
    | none => false)
  let m := held.foldl (fun m k =>
    match m.line? (128 * k) with
    | some x =>
      if x.st = .fillPending then m
      else if x.st = .dirty || x.st = .clean then m.setLine (128 * k) none
      else m.flush p (128 * k)
    | none => m.finaliseRecord p (128 * k)) m
  let m := match dirty with
    | [] => m
    | k :: _ => m.logOnce j 0 { code := 0x3205, cls := .adv, die := some (m.home (128 * k)).1, par := p1 (m.home (128 * k)).1 }
  (m.charge (a / 2 ^ 37) p (if l.length = 0 then 0 else (linesOf a l.length).length)).hbmWrite a l

/-! ### Pools, retirement of columns -/

/-- Empties the home slices of a compute stack: Dirty lines are written back, reduction states move to the base die, and every line becomes
Invalid but those whose fill is outstanding, which go when it returns (R147 step 3, R151). -/
def Main.emptySlices (m : Main) (s : Nat) : Main :=
  let p := m.diePartOf s
  let held (m : Main) : List (Nat × Line) := ((m.sramAt s).slices.map (fun i => i.2.lines)).flatten
  let m := (held m).foldl (fun m e => m.lineTouch (128 * e.1)) m
  (held m).foldl (fun m e =>
    let da := 128 * e.1
    match e.2.st with
    | .fillPending => m
    | .clean => m.setLine da none
    | .dirty => (m.writeLine p da e.2.data e.2.poison).setLine da none
    | .redPending | .reduction =>
      let (m, l) := m.seedLine p da e.2
      (m.toRecord p da l).setLine da none) m

/-- Bytes of the pinned pool that a retired column turns into holes (R165). -/
def Sram.holeBytes (s : Sram) (c : Nat) : Nat :=
  ((bankCount 0 c - bankCount (s.p1 / 65536) c) + (bankCount 0 c - bankCount (s.p2 / 65536) c)) * 65536

/-- Lines of a compute stack's slices that are lost with a column neither link half of which serves: slice and line (R165). -/
def Main.lostLines (m : Main) (s c : Nat) : List (Nat × Nat × Line) :=
  let ls : List (Nat × Nat × Line) := ((m.sramAt s).slices.map (fun i => i.2.lines.map (fun l => (i.1, l)))).flatten
  ls.filter (fun e =>
    !(e.2.2.st == .clean) && !(e.2.2.st == .fillPending) && Config.lineColumn s e.1 e.2.2.way (setOf e.2.1) == c)

/-- Loses one line: poison to its memory address, or a poisoned reduction record (R165). -/
def Main.loseLine (m : Main) (e : Nat × Nat × Line) : Main :=
  let da := 128 * e.2.1
  let m := m.setLine da none
  let p := m.stackPartOf (da / 2 ^ 37)
  if e.2.2.st == .dirty then (m.charge (da / 2 ^ 37) p).hbmPoison da 128
  else m.toRecord p da { e.2.2 with acc := e.2.2.acc.map (fun a => a ||| (1 <<< 253)) }

/-- Pinned bytes of a column lose their contents (R165). -/
def Mem.dropColumn (p : Mem) (s c : Nat) : Mem :=
  let inCol (a : Nat) : Bool := a / 0x80000000 == s && colOf (a % 0x80000000) == c
  { p with cells := p.cells.filter (fun e => !inCol e.1), side := p.side.filter (fun e => !inCol (8 * e.1)) }

/-- Retires a column of a compute stack (R165, R166). `whole` when a link half of the column still serves. The five steps are taken at
one instant, so that the pass-through of step 1 ends as it begins, and what waited for the column goes on. -/
def Main.retireColumn (m : Main) (s c : Nat) (whole : Bool) : Main :=
  let x := m.sramAt s
  if x.retired.contains c then m
  else
    let lost := if whole then [] else m.lostLines s c
    let m1 := (lost.foldl Main.loseLine m).emptySlices s
    let m2 := { m1 with mem := { m1.mem with pin := m1.mem.pin.dropColumn s c } }
    let m3 := m2.updSram s (fun y => { y with retired := y.retired ++ [c] })
    let m4 := m3.log! { code := 0x3102, cls := .rec_, die := some s,
                        par := p1 s ++ p2 c ++ p4 lost.length ++ p4 (x.holeBytes c) }
    let m5 := if (m4.sramAt s).live < 0x10000000 then
        (m4.updSram s (fun y => { y with below := true })).log! { code := 0x3207, cls := .adv, die := some s, par := p1 s }
      else m4
    m5.drainStack s

/-- Retires the columns of a compute stack that have given uncorrectable words at 3 distinct addresses within 24 h (R484). -/
def Main.retireDue (m : Main) (s : Nat) : Main :=
  let l := (m.sramAt s).ucAddrs
  let cs := ((l.map (·.1)).eraseDups).filter (fun c => 3 ≤ (l.filter (fun e => e.1 = c)).length)
  cs.foldl (fun m c => m.retireColumn s c true) m

/-- Counts an uncorrectable word of a stacked-SRAM column (R484). -/
def Main.columnUc (m : Main) (s c w : Nat) : Main := (m.noteUc s c w).retireDue s

/-- What one read of a pinned word does to the word (R475, R478). Addresses count from the first pinned window. -/
def Main.pinTouch (m : Main) (w : Nat) : Main :=
  let a := 8 * w
  let s := a / 2 ^ 31
  match (m.mem.pin.decode w).1 with
  | .none => m
  | .one | .two => m.updSram s (fun x => { x with corrected := x.corrected + 1 })
  | .bad =>
    let m := { m with mem := { m.mem with pin := m.mem.pin.poison a 8 } }
    let m := m.log! { code := 0x3402, cls := .rec_, die := some s, par := p1 s ++ p8 (pinBase + a) }
    m.columnUc s (colOf (a % 2 ^ 31)) w

/-- Reads a run of the pinned windows, counted from the first (R478). -/
def Main.pinGet (m : Main) (a n : Nat) : Main × List Byte × Bool :=
  let m := (m.mem.pin.listed a n).foldl Main.pinTouch m
  (m, m.mem.pin.read a n, m.mem.pin.bad a n)

/-- Writes a run of the pinned windows. -/
def Main.pinPut (m : Main) (a : Nat) (l : List Byte) : Main := { m with mem := { m.mem with pin := m.mem.pin.write a l } }

/-! ### The slow tier of a sealed partition (R324, R437, R438) -/

/-- The bytes of a text. -/
def textBytes (s : String) : List Byte := s.toList.map (fun c => BitVec.ofNat 8 c.toNat)

/-- The sealed partition whose share holds a slow-tier offset (R428, R438). -/
def Main.slowOwner (m : Main) (o : Nat) : Option Nat :=
  if !m.partOn then none
  else m.variant.parts.find? (fun p => m.sealed p && (m.partAt p).base ≤ o && o < (m.partAt p).base + (m.partAt p).size)

/-- A 96-bit nonce of 12, 36 and 48 bits, most significant first (R323, R438; log 86). -/
def nonce96 (a g b : Nat) : List Byte := (toBytes 12 (a * 2 ^ 84 + g % 2 ^ 36 * 2 ^ 48 + b)).reverse

/-- Bytes of a partition's data key. -/
def Main.dataKey (m : Main) (p : Nat) : List Byte := bvBytes ((m.partAt p).key.getD 0) 32

def Main.slowKey (m : Main) (p : Nat) : List Byte := Config.shake256 (textBytes "VLN-SLOW" ++ m.dataKey p ++ p1 p) 32

/-- Reads and decrypts block `k` of a sealed share; none when its tag fails or it was never written since the claim (R438); `quiet` for the read within a partial write. -/
def Main.slowBlock (m : Main) (p k : Nat) (quiet : Bool) : Main × Option (List Byte) :=
  let q := m.partAt p
  let n := q.size / 4096
  let (m, t, bad1) := m.hbmGet p (q.area.toNat + 16 * k) 16
  let (m, g, bad2) := m.hbmGet p (q.area.toNat + 16 * n + 8 * k) 8
  let c := m.mem.slow.read (q.base + 4096 * k) 4096
  let nonce := nonce96 0xFFF (ofBytes g) k
  if bad1 || bad2 || m.mem.slow.bad (q.base + 4096 * k) 4096 then (m, none)
  else if ofBytes g != 0 && Config.gcmTag (m.slowKey p) nonce (p8 (4096 * k)) c = bvOf 128 t then
    (m, some (c.mapIdx (fun i b => b ^^^ Config.gcmStream (m.slowKey p) nonce i)))
  else (if quiet then m else m.log! { code := 0x7204, cls := .rec_, par := p1 p }, none)

/-- Encrypts and writes block `k` of a sealed share under its next generation, with its tag (R324, R438). -/
def Main.putBlock (m : Main) (p k : Nat) (l : List Byte) : Main :=
  let q := m.partAt p
  let n := q.size / 4096
  let (m, g, _) := m.hbmGet p (q.area.toNat + 16 * n + 8 * k) 8
  let gen := ofBytes g + 1
  let nonce := nonce96 0xFFF gen k
  let c := l.mapIdx (fun i b => b ^^^ Config.gcmStream (m.slowKey p) nonce i)
  let m := { m with mem := { m.mem with slow := m.mem.slow.write (q.base + 4096 * k) c } }
  (m.hbmPut p (q.area.toNat + 16 * k) (bvBytes (Config.gcmTag (m.slowKey p) nonce (p8 (4096 * k)) c) 16)).hbmPut p
    (q.area.toNat + 16 * n + 8 * k) (p8 gen)

/-- Reads the slow tier: its bytes, through the blocks of a sealed share where one holds them; none on poison or a failed tag. -/
def Main.slowGet (m : Main) (o n : Nat) : Main × Option (List Byte) :=
  match m.slowOwner o with
  | none => (m, if m.mem.slow.bad o n then none else some (m.mem.slow.read o n))
  | some p =>
    let s := o - (m.partAt p).base
    let (m, all) := (List.range ((s % 4096 + n + 4095) / 4096)).foldl (fun (acc : Main × Option (List Byte)) i =>
      match acc.1.slowBlock p (s / 4096 + i) false, acc.2 with
      | (m, some b), some l => (m, some (l ++ b))
      | (m, _), _ => (m, none)) (m, some [])
    (m, all.map (fun l => bytesAt l (s % 4096) n))

/-- Writes the slow tier; a write of part of a sealed block keeps the rest of it, 0 where it cannot be read (R324, R438; log 85). -/
def Main.slowPut (m : Main) (o : Nat) (l : List Byte) : Main :=
  match m.slowOwner o with
  | none => { m with mem := { m.mem with slow := m.mem.slow.write o l } }
  | some p =>
    let s := o - (m.partAt p).base
    (List.range ((s % 4096 + l.length + 4095) / 4096)).foldl (fun (m : Main) i =>
      let k := s / 4096 + i
      let lo := max s (4096 * k)
      let hi := min (s + l.length) (4096 * k + 4096)
      let part := bytesAt l (lo - s) (hi - lo)
      if hi - lo = 4096 then m.putBlock p k part
      else
        let (m, old) := m.slowBlock p k true
        let b := old.getD (List.replicate 4096 0)
        m.putBlock p k (b.take (lo - 4096 * k) ++ part ++ b.drop (hi - 4096 * k))) m

/-- Partition that an access of requester partition `p` is charged to; the controller's counts for the stack's owner (R181, R427). -/
def Main.payPart (m : Main) (p a : Nat) : Nat := if m.partOn && p < 4 then p else m.ownPart a

/-- CXL.cache requests for a run of host offsets, while port A runs a CXL mode (R304, R308). -/
def Main.d2h (m : Main) (op : D2H) (o n : Nat) : Main :=
  if m.cxl.a.cxl then (m.hostPieces o n 5).foldl (fun (m : Main) e => m.send (.cache op e.1 e.2)) m else m

/-- Bytes of a run of host offsets; none where a word is poisoned. -/
def Main.hostBytes (m : Main) (o n : Nat) : Option (List Byte) :=
  let ps := m.hostPieces o n 5
  if ps.any (fun e => m.mem.host.bad e.1 e.2) then none else some ((ps.map (fun e => m.mem.host.read e.1 e.2)).flatten)

/-- Reads bytes at a device address, for a unit that is no tile: none where it is unmapped, poisoned or a hole. -/
def Main.daGet (m : Main) (p a n : Nat) : Main × Option (List Byte) :=
  if !m.mapped p a n then (m, none)
  else
    match m.rngFor p a with
    | .hbm _ _ => let (m, b, bad) := m.hbmGet (m.payPart p a) a n; (m, if bad then none else some b)
    | .pin _ _ => let (m, b, bad) := m.pinGet (a - pinBase) n; (m, if bad then none else some b)
    | .slow o => if m.bServes p then m.slowGet o n else (m, none)
    | .host o =>
      if !m.aServes p then (m, none) else (m.d2h .rdCurr o n, m.hostBytes o n)
    | _ => (m, none)

def Main.regionAt (m : Main) (r : Nat) : Region := m.region.get r
def Main.updRegion (m : Main) (r : Nat) (f : Region → Region) : Main := { m with region := m.region.upd r f }

/-- A region becomes Free; a lease that it holds is given up with CleanEvictNoData for each line (R304, R320). -/
def Main.freeRegion (m : Main) (r : Nat) : Main :=
  let x := m.regionAt r
  let m := if x.st != .free && x.st != .writing && x.st != .stored then m.d2h .cleanEvictNoData x.hoff x.len else m
  m.updRegion r (fun x => { x with st := .free, tornNow := false, err := false })

/-- A write of the Oakar to host offsets tears the leased regions that it meets (R321). -/
def Main.tearRange (m : Main) (o n : Nat) : Main :=
  if !m.cxl.a.cxl then m
  else
    let hit (r : Region) : Bool := (r.st = .leased || r.st = .fetching || r.st = .refetching) && overlap o n r.hoff r.len
    let m := m.region.foldl (fun (m : Main) (e : Nat × Region) =>
      if hit e.2 then m.updJob (m.dieAt (e.1 / 1024)).job.toNat (fun j => { j with tears := j.tears + 1 }) else m) m
    { m with region := m.region.map (fun (e : Nat × Region) =>
        (e.1, if hit e.2 then (if e.2.st = .leased then { e.2 with st := .torn } else { e.2 with tornNow := true }) else e.2)) }

/-- Writes bytes at a device address, for a unit that is no tile; false where it is unmapped or a hole. -/
def Main.daPut (m : Main) (p a : Nat) (l : List Byte) : Main × Bool :=
  if !m.mapped p a l.length then (m, false)
  else
    match m.rngFor p a with
    | .hbm _ _ => (m.hbmPut (m.payPart p a) a l, true)
    | .pin _ _ => (m.pinPut (a - pinBase) l, true)
    | .slow o => if m.bServes p then (m.slowPut o l, true) else (m, false)
    | .host o =>
      if !m.aServes p then (m, false)
      else
        let h := (m.hostPieces o l.length 5).foldl (fun (s : Mem × List Byte) e => (s.1.write e.1 (s.2.take e.2), s.2.drop e.2)) (m.mem.host, l)
        (({ m with mem := { m.mem with host := h.1 } }.tearRange o l.length).d2h .wrCur o l.length, true)
    | _ => (m, false)

end Sys2Proof.Machine
end

