-- ==== Sys2Proof/Machine/SlowPort.lean ====
section
/-! DEFINITION. Port B's 1,024 transactions and their round robin over tiles, Burnishers and copy engines (R312). -/

namespace Sys2Proof.Machine

/-- Partition whose ranges an engine may reach (R326). -/
def Main.engPartOf (m : Main) (e : Nat) : Nat := if m.partOn then m.variant.engPart e else 0

/-- Descriptors of a ring (R325). -/
def Engine.ring (x : Engine) : Nat := 2 ^ (x.size.toNat + 4)

/-- Device address of a descriptor (R325, R326). -/
def Engine.desc (x : Engine) (i : Nat) : Nat := x.base.toNat * 4096 + 32 * (i % x.ring)

/-- Places in the ring of the descriptors in flight, the oldest first (R326). -/
def Engine.flying (x : Engine) : List Nat := (List.range x.inflight).map (fun k => (x.head.toNat + k) % x.ring)

/-- The bytes of a descriptor of engine `e` (R326). -/
def Main.copyDesc (m : Main) (e i : Nat) : Option (List Byte) := (m.daGet (m.engPartOf e) ((m.eng.get e).desc i) 32).2

/-- The source or the destination of a descriptor lies in the range that `hit` names. -/
def Main.copyOn (m : Main) (e i : Nat) (hit : Rng → Bool) : Bool :=
  match m.copyDesc e i with
  | some d => hit (m.rng (natAt d 0 8)) || hit (m.rng (natAt d 8 8))
  | none => false

/-- Slow-tier range. -/
def Rng.isSlow : Rng → Bool
  | .slow _ => true
  | _ => false

/-- Number of a requester in the round robin: tiles, then Burnishers, then copy engines (R312). -/
def SlowUser.unit : SlowUser → Nat
  | .tile id _ => id
  | .burn n _ => 2048 + n
  | .copy e _ => 2058 + e

/-- 64-byte transactions of a requester's request: its lines, or one request of 4 KiB at a time (R312; log 154). -/
def Main.slowSpan (m : Main) : SlowUser → Nat
  | .tile id slot => match (m.tileAt id).slots.find slot with
    | some r => 2 * r.lines
    | none => 0
  | _ => 64

/-- A request of a tile to the slow tier still has transactions to be completed (R156, R312). -/
def Req.onSlow (r : Req) : Bool := r.target = .slow && !r.bad && (r.put || r.served.length < r.lines)

/-- Every request that port B has to carry. -/
def Main.slowUsers (m : Main) : List SlowUser :=
  (m.tile.map (fun e => (e.2.slots.filter (fun s => s.2.onSlow)).map (fun s => SlowUser.tile e.1 s.1))).flatten ++
  (m.burn.map (fun e => e.2.fetch.map (fun f => SlowUser.burn e.1 f.1))).flatten ++
  (m.eng.map (fun e => ((e.2.flying.filter (fun i => !(e.2.cut.contains i) && m.copyOn e.1 i Rng.isSlow)).map (SlowUser.copy e.1)))).flatten

/-- Transactions outstanding on port B (R312, R327). -/
def Main.slowOutstanding (m : Main) : Nat :=
  let us := m.slowUsers
  ((m.cxl.live.filter us.contains).map m.slowSpan).sum

/-- The next requester in the round robin, of those that wait. -/
def Main.slowNext (m : Main) (waiting : List SlowUser) : Option SlowUser :=
  let dist (u : SlowUser) : Nat := (u.unit + 2066 - m.cxl.turn) % 2066
  waiting.foldl (fun b u => match b with
    | none => some u
    | some v => if dist u < dist v then some u else b) none

/-- Grants up to `k` requests while the transactions of the next one fit. -/
def Main.slowGrant (m : Main) : Nat → Main
  | 0 => m
  | k + 1 =>
    match m.slowNext (m.slowUsers.filter (fun u => !(m.cxl.live.contains u))) with
    | none => m
    | some u =>
      if m.slowOutstanding + m.slowSpan u > 1024 then m
      else { m with cxl := { m.cxl with live := m.cxl.live ++ [u], turn := (u.unit + 1) % 2066 } }.slowGrant k

/-- Port B drops the requests that have ended and takes on the ones that wait, as far as 1,024 transactions allow (R312). -/
def Main.slowAdmit (m : Main) : Main :=
  let us := m.slowUsers
  { m with cxl := { m.cxl with live := m.cxl.live.filter us.contains } }.slowGrant us.length

/-- Port B carries the transactions of a requester now; while it runs no CXL mode they fail without being sent (R313). -/
def Main.slowLive (m : Main) (u : SlowUser) : Bool := m.cxl.live.contains u || !m.cxl.b.cxl

end Sys2Proof.Machine
end

