-- ==== Sys2Proof/Machine/Packets.lean ====
section
/-! DEFINITION. Transport headers, routing, peer requests and the inbound map (R171, R280–R289). -/

namespace Sys2Proof.Machine

/-- A transport header by its fields (R280). -/
structure Hd where
  dst : Nat := 0
  src : Nat := 0
  cls : Nat := 0
  dateline : Bool := false
  dim : Nat := 0
  phase : Bool := false
  part : Nat := 0
  tenant : Bool := false
  void : Bool := false
  len : Nat := 0
  epoch : U32 := 0
  op : Nat := 0
  status : Nat := 0
  tag : U16 := 0
  off : U64 := 0
  step : U32 := 0
  hop : U16 := 0
  deriving DecidableEq, Repr

/-- The 32 header bytes (R280). -/
def Hd.bits (h : Hd) : BitVec 256 :=
  bvOf 256 (p2 h.dst ++ p2 h.src ++
    p1 (h.cls % 4 + (if h.dateline then 4 else 0) + h.dim % 4 * 8 + (if h.phase then 32 else 0)) ++
    p1 (h.part % 4 + (if h.tenant then 4 else 0) + (if h.void then 8 else 0)) ++ p2 h.len ++ p4 h.epoch.toNat ++
    p1 h.op ++ p1 h.status ++ p2 h.tag.toNat ++ p8 h.off.toNat ++ p4 h.step.toNat ++ p2 h.hop.toNat)

/-- Reads a header (R280). -/
def Hd.of (b : BitVec 256) : Hd :=
  { dst := bvAt b 0 2, src := bvAt b 2 2, cls := bvAt b 4 1 % 4, dateline := b.getLsbD 34, dim := bvAt b 4 1 / 8 % 4,
    phase := b.getLsbD 37, part := bvAt b 5 1 % 4, tenant := b.getLsbD 42, void := b.getLsbD 43, len := bvAt b 6 2,
    epoch := b.extractLsb' 64 32, op := bvAt b 12 1, status := bvAt b 13 1, tag := b.extractLsb' 112 16,
    off := b.extractLsb' 128 64, step := b.extractLsb' 192 32, hop := b.extractLsb' 224 16 }

/-! ### Routing -/

/-- Coordinate of a node ID in a dimension (R1). -/
def coord (n dim : Nat) : Nat := n / 2 ^ (10 - 5 * dim) % 32

/-- A node ID with one coordinate changed. -/
def setCoord (n dim v : Nat) : Nat := n - coord n dim * 2 ^ (10 - 5 * dim) + v * 2 ^ (10 - 5 * dim)

/-- Ring size of a dimension (R297). -/
def Main.ringSize (m : Main) (dim : Nat) : Nat :=
  match dim with
  | 0 => m.fab.dim.1
  | 1 => m.fab.dim.2.1
  | _ => m.fab.dim.2.2

/-- The port of a dimension and direction, with the second link of the RK-OA63 in X (R271). -/
def dirPort (dim : Nat) (plus second : Bool) : Nat :=
  if dim = 0 && second then (if plus then 6 else 7) else 2 * dim + (if plus then 0 else 1)

/-- The port carries traffic, or holds it while it retrains (R276, R302). -/
def Port.live (k : Port) : Bool := k.st = .up || (k.st = .training && k.hold)

/-- The port that carries a role's traffic: itself when up, or the standby that stands for it (R279). -/
def Main.carrier (m : Main) (p : Nat) : Option Nat :=
  if (m.portAt p).live then some p
  else (m.fab.port.find? (fun e => e.2.live && e.2.standsFor = some p)).map (·.1)

/-- The port towards the next node in a dimension and direction (R286). -/
def Main.linkTo (m : Main) (dim : Nat) (plus second : Bool) : Option Nat :=
  if dim = 0 && m.variant = .oa63 then
    match m.carrier (dirPort 0 plus second) with
    | some p => some p
    | none => m.carrier (dirPort 0 plus (!second))
  else m.carrier (dirPort dim plus false)

/-- Nodes passed from `n` to coordinate `c` in one direction of a dimension, the last included. -/
def ringPath (n dim size c : Nat) (plus : Bool) : List Nat :=
  let x := coord n dim
  let dist := if plus then (c + size - x) % size else (x + size - c) % size
  (List.range dist).map (fun i => setCoord n dim (if plus then (x + i + 1) % size else (x + size * (i + 1) - (i + 1)) % size))

/-- I/O die that holds a port (R271). -/
def Variant.portDie (v : Variant) (p : Nat) : Option Nat :=
  match v with
  | .oa82 => if p < 6 then some (p % 2) else none
  | .oa63 => if p < 6 then some (p % 2) else if p < 9 then some 2 else none
  | .oa101 => if p < 3 then some 0 else none

/-- Direction in which a packet that came in on a port travels in a dimension, + when set (R271, R285). -/
def Main.heading (m : Main) (inp : Option Nat) (dim : Nat) : Option Bool :=
  inp.bind (fun p =>
    let q := (m.portAt p).standsFor.getD p
    if q = dirPort dim false false || q = dirPort dim false true then some true
    else if q = dirPort dim true false || q = dirPort dim true true then some false
    else none)

/-- The direction that R282 chooses: the shorter way round, + when both are equally long. -/
def Main.shortPlus (m : Main) (n dim c : Nat) : Bool := 2 * ((c + m.ringSize dim - coord n dim) % m.ringSize dim) ≤ m.ringSize dim

/-- One routing decision for a packet that came in on `inp`: the port, the dimension, and whether the link is that dimension's dateline
(R282, R283, R285). A packet that already travels the reverse way goes on in it. -/
def Main.route (m : Main) (dst : Nat) (second : Bool) (inp : Option Nat := none) : Option (Nat × Nat × Bool) :=
  match m.fab.node with
  | none => none
  | some me =>
    let n := me.toNat
    match [0, 1, 2].find? (fun d => coord n d != coord dst d) with
    | none => none
    | some dim =>
      let size := m.ringSize dim
      let c := coord dst dim
      let short := m.shortPlus n dim c
      let dir := (m.heading inp dim).getD short
      let out (pl : Bool) : Option Nat :=
        if ((ringPath n dim size c pl).take 1).all (fun k => m.fab.member.get k != 0) then m.linkTo dim pl second else none
      let date (pl : Bool) : Bool := if pl then coord n dim = size - 1 else coord n dim = 0
      match out dir with
      | some p => some (p, dim, date dir)
      | none =>
        if dir = short && (ringPath n dim size c (!dir)).all (fun k => m.fab.member.get k != 0) then
          (out (!dir)).map (fun p => (p, dim, date (!dir)))
        else none

/-- The port of the link that R282 chooses, for the record of an unroutable packet (R303). -/
def Main.chosenPort (m : Main) (dst : Nat) (second : Bool) : Nat :=
  match m.fab.node.map BitVec.toNat with
  | none => 0
  | some n =>
    match [0, 1, 2].find? (fun d => coord n d != coord dst d) with
    | none => 0
    | some dim => dirPort dim (m.shortPlus n dim (coord dst dim)) second

/-- Key and salt of one direction of a link, by the stamp of its agreement and its re-keyings (R300). -/
def linkKey (stamp : Nat) (out : Bool) : Nat → List Byte
  | 0 => Config.shake256 (bvBytes (Config.random stamp) 32 ++ p1 out.toNat) 36
  | k + 1 => Config.shake256 (linkKey stamp out k) 36

/-- Nonce of a packet: the link salt and the packet counter (R300). -/
def linkNonce (key : List Byte) (count : Nat) : List Byte := key.drop 32 ++ p8 count

/-- Encrypts or decrypts a payload under a key and nonce (R300, R439). -/
def gcmXor (key nonce : List Byte) (l : List Byte) : List Byte :=
  l.mapIdx (fun i b => b ^^^ Config.gcmStream key nonce i)

/-- Virtual channel of a packet (R281). -/
def Hd.vc (h : Hd) : Nat := 2 * h.cls + h.dateline.toNat

/-! ### Flits -/

/-- The 48-bit header of a flit (R275). -/
def flitHead (seq ack : BitVec 12) (vc : Nat) (body : Bool) (start : Option Nat) (cvc credits : Nat) (nak : Bool) : Nat :=
  seq.toNat + ack.toNat * 2 ^ 12 + vc % 8 * 2 ^ 24 + (if body then 2 ^ 27 else 0) + (if start.isSome then 2 ^ 28 else 0) +
  start.getD 0 % 256 * 2 ^ 29 + cvc % 8 * 2 ^ 37 + credits % 128 * 2 ^ 40 + (if nak then 2 ^ 47 else 0)

/-- A flit: header in bytes 0–5, body in bytes 6–251, CRC-32C over them in bytes 252–255 (R275). -/
def flitBits (head : Nat) (body : List Byte) : BitVec 2048 :=
  let b := bytesAt (toBytes 6 head ++ body) 0 252
  bvOf 2048 (b ++ bvBytes (crc32c b) 4)

/-- The channel to which the next flit returns credits, and how many (R275, R277). -/
def Port.refund (k : Port) : Nat × Nat :=
  match k.freed.find? (fun e => e.2 != 0) with
  | some e => (e.1, min 127 e.2)
  | none => (0, 0)

/-- Sends one flit on a port: ACK, returned credits and a due NAK go with it. A flit with a body or with credits takes a sequence
number and stays in the replay buffer; any other idle flit repeats the last number (R275–R277; log 136). -/
def Main.putFlit (m : Main) (p vc : Nat) (start : Option Nat) (body : Option (List Byte)) : Main :=
  let k := m.portAt p
  let (cvc, n) := k.refund
  let counted : Bool := body.isSome || n != 0
  let seq := if counted then k.txSeq + 1 else k.txSeq
  let f := flitBits (flitHead seq k.rxSeq vc body.isSome start cvc n k.nak) (body.getD [])
  (m.updPort p (fun k => { k with
    txSeq := seq
    nak := false
    freed := if n = 0 then k.freed else k.freed.put cvc (k.freed.get cvc - n)
    replay := if counted then k.replay ++ [f] else k.replay
    credit := if body.isSome then k.credit.put vc (k.credit.get vc - 1) else k.credit })).send (.flit p f)

/-- Sends bytes of one channel, packed end to end into flits, the last one filled with zeros; `starts` are the offsets at which packets
start (R275; log 136). -/
def Main.putFlits (m : Main) (p vc : Nat) (bytes : List Byte) (starts : List Nat) : Main :=
  (List.range ((bytes.length + 245) / 246)).foldl (fun m i =>
    m.putFlit p vc ((starts.find? (fun s => 246 * i ≤ s && s < 246 * (i + 1))).map (· - 246 * i))
      (some ((bytes.drop (246 * i)).take 246))) m

/-- A flit of the replay buffer as it is sent again, with the present ACK and NAK (R275, R276). -/
def reflit (f : BitVec 2048) (ack : BitVec 12) (nak : Bool) : BitVec 2048 :=
  let head := (f.extractLsb' 0 12).toNat + ack.toNat * 2 ^ 12 + (f.extractLsb' 24 23).toNat * 2 ^ 24 + (if nak then 2 ^ 47 else 0)
  flitBits head ((bvBytes f 252).drop 6)

/-- Flits of a channel's input buffer are free, to be returned as credits (R277). -/
def Main.freeFlits (m : Main) (org : Option (Nat × Nat × Nat)) : Main :=
  match org with
  | none => m
  | some (p, vc, n) =>
    let n := min n ((m.portAt p).inbuf.get vc)
    if n = 0 then m else m.updPort p (fun k => { k with
      inbuf := k.inbuf.put vc (k.inbuf.get vc - n)
      freed := k.freed.put vc (k.freed.get vc + n) })

/-! ### Packets on a port -/

/-- Virtual channel, length on the link, and number of the input of a packet: 0 for local injection, else its port + 1 (R280, R287). -/
def Pkt.vc (e : Pkt) : Nat := (Hd.of e.hdr).vc
def Pkt.size (e : Pkt) : Nat := 32 + e.body.length + 16
def Pkt.input (e : Pkt) : Nat := (e.inp.map (· + 1)).getD 0
def Pkt.cls (e : Pkt) : Nat := (Hd.of e.hdr).cls

/-- The input-buffer flits that a packet holds: port, channel, number (R277). -/
def Pkt.origin (e : Pkt) : Option (Nat × Nat × Nat) := e.inp.map (fun p => (p, (Hd.of e.hdr0).vc, e.flits))

/-- Bytes of packets that are about to be sent together. -/
def runSize (run : List Pkt) : Nat := (run.map Pkt.size).sum

/-- The link has room for a packet after the packets of `run`: credits of its channel and places in the replay buffer (R276, R277). -/
def Port.fits (k : Port) (run : List Pkt) (e : Pkt) : Bool :=
  let same := run.all (fun f => f.vc = e.vc)
  let n := ((if same then runSize run else 0) + e.size + 245) / 246
  let before := if same then 0 else (runSize run + 245) / 246
  k.st = .up && n ≤ k.credit.get e.vc && k.replay.length + before + n ≤ 2048

/-- The waiting packets of a class that may go next, with their places: the first of each input and channel, where the link has room
(R276, R277, R287). -/
def Port.ready (k : Port) (run : List Pkt) (c : Nat) : List (Pkt × Nat) :=
  k.wait.zipIdx.filter (fun e => e.1.cls = c && k.fits run e.1 &&
    !(k.wait.take e.2).any (fun f => f.vc = e.1.vc && f.inp = e.1.inp))

/-- The packet of a class whose input's turn it is (R287). -/
def Port.head (k : Port) (run : List Pkt) (c : Nat) : Option (Pkt × Nat) :=
  let rank (e : Pkt × Nat) : Nat := (e.1.input + 19 - k.served.get c) % 10
  (k.ready run c).foldl (fun b e => match b with
    | none => some e
    | some x => if rank e < rank x then some e else b) none

/-- Takes a packet from those that wait (R287). -/
def Port.take (k : Port) (e : Pkt × Nat) : Port :=
  { k with wait := k.wait.eraseIdx e.2, served := k.served.put e.1.cls e.1.input }

/-- Deficit round robin over classes 0 to 2, with a quantum of 4 KiB times the class's weight (R287). -/
def Port.drr (k : Port) (run : List Pkt) (w : Nat → Nat) : Nat → Port × Option Pkt
  | 0 => (k, none)
  | n + 1 =>
    let c := k.turn % 3
    let next := (c + 1) % 3
    let on (k : Port) : Port := { k with turn := next, deficit := k.deficit.put next (k.deficit.get next + 4096 * w next) }
    match k.head run c with
    | none => (on { k with deficit := k.deficit.put c 0 }).drr run w n
    | some e =>
      if e.1.size ≤ k.deficit.get c then
        ({ k.take e with deficit := k.deficit.put c (k.deficit.get c - e.1.size) }, some e.1)
      else (on k).drr run w n

/-- The packet that a port serves next: class 3 first, else by deficit round robin (R287). -/
def Port.pick (k : Port) (run : List Pkt) (w : Nat → Nat) : Port × Option Pkt :=
  match k.head run 3 with
  | some e => (k.take e, some e.1)
  | none => if (List.range 3).all (fun c => k.ready run c == []) then (k, none) else k.drr run w 9

/-- A packet enters the link: encrypted and tagged under the port's key and packet counter; its bytes (R280, R300). -/
def Main.cipher (m : Main) (p : Nat) (e : Pkt) : Main × List Byte :=
  let k := m.portAt p
  let h := { Hd.of e.hdr with phase := k.phase }
  let key := linkKey k.key true k.gen
  let nonce := linkNonce key k.packets
  let enc := gcmXor (key.take 32) nonce e.body
  let tag := Config.gcmTag (key.take 32) nonce (bvBytes h.bits 32) enc
  ((m.updPort p (fun x => { x with packets := x.packets + 1 })).send (.packet p h.bits enc tag),
    bvBytes h.bits 32 ++ enc ++ bvBytes tag 16)

/-- Sends packets of one channel end to end, keeps them until their last flit is acknowledged, and frees the input buffers that they
held (R275–R277, R300). -/
def Main.putRun (m : Main) (p : Nat) (run : List Pkt) : Main :=
  match run with
  | [] => m
  | e :: _ =>
    let (m, bytes, marks) := run.foldl (fun (a : Main × List Byte × List (Nat × Pkt)) e =>
      let (m, b) := a.1.cipher p e
      (m, a.2.1 ++ b, a.2.2 ++ [(a.2.1.length, e)])) (m, [], [])
    let base := (m.portAt p).txSeq
    let m := m.putFlits p e.vc bytes (marks.map (·.1))
    let kept : List (BitVec 12 × Pkt) := marks.map (fun x =>
      (base + BitVec.ofNat 12 (1 + (x.1 + x.2.size - 1) / 246), { x.2 with inp := none, flits := 0 }))
    let m := m.updPort p (fun k => { k with sent := k.sent ++ kept })
    run.foldl (fun m e => m.freeFlits e.origin) m

/-- Weight of a class (R287). -/
def Main.classWeight (m : Main) (c : Nat) : Nat :=
  match c with
  | 0 => m.fab.weight.1.toNat
  | 1 => m.fab.weight.2.1.toNat
  | _ => m.fab.weight.2.2.toNat

/-- Sends on a port what its state lets it send, in the order of R287: `run` holds the packets of one channel about to be sent. -/
def Main.pumpGo (m : Main) (p : Nat) : Nat → List Pkt → Main
  | 0, run => m.putRun p run
  | n + 1, run =>
    match (m.portAt p).pick run m.classWeight with
    | (k, none) => (m.updPort p (fun _ => k)).putRun p run
    | (k, some e) =>
      let m := m.updPort p (fun _ => k)
      if run.all (fun f => f.vc = e.vc) then m.pumpGo p n (run ++ [e]) else (m.putRun p run).pumpGo p n [e]

def Main.pump (m : Main) (p : Nat) : Main := m.pumpGo p ((m.portAt p).wait.length + 1) []

/-- Hands a packet to an output port (R276, R277). -/
def Main.transmit (m : Main) (p : Nat) (e : Pkt) : Main := (m.updPort p (fun x => { x with wait := x.wait ++ [e] })).pump p

/-- Sends a packet on the port that its route names, or logs it unroutable (R281–R286, R300, R303). `inp` and `flits`: the port on which
it came in and the flits of its input buffer that it holds. -/
def Main.sendPacket (m : Main) (h : Hd) (body : List Byte) (second : Bool := false) (inp : Option Nat := none) (flits : Nat := 0) :
    Main × Bool :=
  match m.route h.dst second inp with
  | some (p, dim, date) =>
    let out := { h with dateline := (if h.dim = dim then h.dateline else false) || date, dim := dim, phase := (m.portAt p).phase }
    (m.transmit p { hdr := out.bits, hdr0 := h.bits, body := body, inp := inp, flits := flits }, true)
  | none => (m.logRate 1 0 { code := 0x5201, cls := .adv, par := p1 (m.chosenPort h.dst second) }, false)

/-! ### Inbound requests -/

/-- Device address of a window offset under the inbound map, or the status that refuses it (R288, R289). -/
def Main.inboundDa (m : Main) (op part off : Nat) : Nat ⊕ Nat :=
  let e := m.fab.inmap.get (off / 2 ^ 36)
  let allowed := op = 1 || (op = 2 && e.write) || ((op = 3 || op = 4) && e.redg)
  if !e.valid || !allowed || e.part.toNat != part then .inr 1
  else .inl (e.base.toNat + off % 2 ^ 36)

/-- Adds one line for an inbound REDG, once what it has to wait for has returned (R152): the event of a refused contribution, or 0. -/
def Main.redgNow (m : Main) (p da : Nat) (fp32 : Bool) (d : BitVec 1024) : Main × Nat :=
  match (m.settleLine da).redg p da fp32 d with
  | (m, e, false) => (m, e)
  | (m, _, true) =>
    let h := m.home da
    let ls := ((m.sliceAt h.1 h.2).lines.filter (fun e => e.2.pending)).map (·.1)
    match (ls.foldl (fun m l => (m.fillNow (128 * l)).seedNow (128 * l)) m).redg p da fp32 d with
    | (m, e, false) => (m, e)
    | (m, _, true) => m.redgRecord p da fp32 d

/-- Adds lines to memory-stack lines for an inbound REDG of a partition; true when every line was accepted. -/
def Main.redgRun (m : Main) (p : Nat) (fp32 : Bool) (a : Nat) (lines : List (BitVec 1024)) : Main × Bool :=
  (lines.zipIdx).foldl (fun (acc : Main × Bool) (e : BitVec 1024 × Nat) =>
    match acc.1.redgNow p (a + 128 * e.2) fp32 e.1 with
    | (m, 0) => (m, acc.2)
    | (m, _) => (m, false)) (m, true)

/-- Carries out an inbound request: its status and the data read (R288, R289, R156). -/
def Main.inbound (m : Main) (op part off len : Nat) (body : List Byte) : Main × Nat × List Byte :=
  match m.inboundDa op part off with
  | .inr s => (m, s, [])
  | .inl a =>
    let n := if op = 1 then len else body.length
    let inMap : Bool := match m.rngFor (if m.partOn then part else 0) a with
      | .hbm _ _ | .pin _ _ => m.mapped (if m.partOn then part else 0) a n
      | _ => false
    if !inMap || m.inRegion a n then (m, 2, [])
    else if op = 1 then
      match m.daGet (if m.partOn then part else 0) a n with
      | (m, some b) => (m, 0, b)
      | (m, none) => (m, 3, [])
    else if op = 2 then ((m.daPut (if m.partOn then part else 0) a body).1, 0, [])
    else if a ≥ 2 ^ 41 then (m, 2, [])
    else
      let ls := (List.range (n / 128)).map (fun i => bvOf 1024 (bytesAt body (128 * i) 128))
      match m.redgRun (if m.partOn then part else 0) (op = 4) a ls with
      | (m, true) => (m, 0, [])
      | (m, false) => (m, 1, [])

/-! ### Peer requests of tiles -/

/-- Operation code of a request (R280). -/
def Req.peerOp (r : Req) : Nat :=
  match r.kind with
  | .load => 1
  | .store => 2
  | .reduce fp32 => if fp32 then 4 else 3

/-- The bytes that a store or REDG carries. -/
def Req.body (r : Req) : List Byte :=
  if r.kind = .load then [] else ((List.range r.lines).map (fun i => bvBytes (r.got.get i) 128)).flatten

/-- A free request tag (R280). -/
def Main.freeTag (m : Main) : U16 :=
  BitVec.ofNat 16 (((List.range (m.fab.peer.length + m.fab.copies.length + 1)).find? (fun i =>
    !(m.fab.peer.any (fun e => e.1.toNat = i)) && !(m.fab.copies.any (fun t => t.toNat = i)))).getD 0)

/-! ### Tenant encryption of payloads -/

/-- The authenticated data of a tenant-encrypted payload: the header with byte 4 read as 0 (R439). -/
def Hd.tenAad (h : Hd) : List Byte := (bvBytes h.bits 32).mapIdx (fun i b => if i = 4 then 0 else b)

/-- The nonce of a tenant-encrypted payload (R439). -/
def tenNonce (src ctr : Nat) : List Byte := p2 src ++ p2 0 ++ p8 ctr

/-- The Tenon key of a partition (R437). -/
def Main.tenKey (m : Main) (p : Nat) : List Byte := Config.shake256 (textBytes "VLN-TENON" ++ m.dataKey p) 32

/-- The packet's payload is to be encrypted for its tenant (R439). -/
def Main.tenDue (m : Main) (h : Hd) : Bool := m.partOn && m.sealed h.part && h.cls != 3

/-- Encrypts a payload of a sealed partition end to end (R439). -/
def Main.tenWrap (m : Main) (h : Hd) (body : List Byte) : Main × Hd × List Byte :=
  if !(m.tenDue h) then (m, h, body)
  else if body = [] then (m, { h with tenant := h.op = 1 }, body)
  else
    let ctr := m.fab.tenCtr.get h.part
    let key := m.tenKey h.part
    let n := tenNonce h.src ctr
    let h := { h with tenant := true, len := body.length + 24 }
    let c := gcmXor key n body
    ({ m with fab := { m.fab with tenCtr := m.fab.tenCtr.put h.part (ctr + 1) } }, h,
      c ++ p8 ctr ++ bvBytes (Config.gcmTag key n h.tenAad c) 16)

/-- Decrypts a tenant-encrypted payload; none when its tag fails (R439). -/
def Main.tenUnwrap (m : Main) (h : Hd) (body : List Byte) : Option (List Byte) :=
  if !h.tenant || body = [] then some body
  else
    let k := body.length - 24
    let key := m.tenKey h.part
    let n := tenNonce h.src (natAt body k 8)
    let c := body.take k
    if 24 ≤ body.length && m.sealed h.part && Config.gcmTag key n h.tenAad c = bvOf 128 (bytesAt body (k + 8) 16) then some (gcmXor key n c)
    else none

/-- Lines that one request packet carries: 32, or 31 where tenant encryption takes 24 of the 4,096 payload bytes (R280, R439; log 79). -/
def Main.packetLines (m : Main) (part : Nat) : Nat := if m.partOn && m.sealed part then 31 else 32

/-- Sends one packet of a tile's peer request (R171, R280, R285). -/
def Main.peerSend (m : Main) (id slot n first k : Nat) (r : Req) : Main :=
  let d := id / 512
  let tag := m.freeTag
  let body := (r.body.drop (128 * first)).take (128 * k)
  let off := r.da.toNat % 2 ^ 40 + 128 * first
  let h : Hd := { dst := n, src := (m.fab.node.getD 0).toNat, cls := 0, part := m.diePartOf d, len := 128 * k,
                  epoch := m.fab.epoch, op := r.peerOp, tag := tag, off := BitVec.ofNat 64 off,
                  step := ((m.dieJob d).map (·.step)).getD 0 }
  let second := (h.src ^^^ n ^^^ off / 2 ^ 12) % 2 = 1
  let (m, h, body) := m.tenWrap h body
  match m.sendPacket h body second with
  | (m, true) => { m with fab := { m.fab with peer := m.fab.peer ++ [(tag, BitVec.ofNat 11 id, BitVec.ofNat 6 slot, first, k)] } }
  | (m, false) => m.updTile id (fun t => { t with slots := t.slots.upd slot (fun r =>
      { r with bad := true, err := if r.kind = .load then 0 else 0x5301 }) })

/-- Sends the peer request of a tile's slot into the fabric, in one packet or, for a sealed partition, in as many as its payload
takes (R171, R280, R439); an unroutable one answers with an error (R285). -/
def Main.peerIssue (m : Main) (id slot : Nat) (r : Req) : Main :=
  match r.target with
  | .peer n =>
    if m.fab.node = some (BitVec.ofNat 15 n) then m
    else
      let c := m.packetLines (m.diePartOf (id / 512))
      (List.range ((r.lines + c - 1) / c)).foldl (fun m i => m.peerSend id slot n (c * i) (min c (r.lines - c * i)) r) m
  | _ => m

end Sys2Proof.Machine
end

