-- ==== Sys2Proof/Machine/TileOps.lean ====
section
/-! DEFINITION. What an instruction reads and writes, the readiness conditions of R60, and the completion of operations. -/

namespace Sys2Proof.Machine

/-! ### Units and footprints -/

/-- The unit that executes an opcode, if it takes an issue queue or request slots (R58, R60). -/
def unitOf (op : Nat) : Option UnitK :=
  if op = 0x20 || op = 0x21 || op = 0x24 || op = 0x25 || op = 0x27 then some .local
  else if op = 0x22 || op = 0x23 || op = 0x26 then some .memory
  else if op = 0x40 then some .matrix
  else if op = 0x41 || op = 0x42 || op ≥ 0x60 then some .vector
  else none

/-- Registers of a source run that is not a group. -/
def srcRegs (native : Bool) (r : Run) : List Nat := if !native && r.reg < 8 then [] else runRegs r.reg r.bytes

/-- Tensor registers that an instruction reads (R60(c)). -/
def readsT (native : Bool) (op : Nat) (f : Fields) : List Nat :=
  if op = 0x21 || op = 0x23 || op = 0x26 || op = 0x28 || op = 0x42 then [f.ta.toNat]
  else if op = 0x40 then
    [f.ta.toNat, f.tb.toNat] ++ (if fmtBlocks (hi4 f) || fmtBlocks (lo4 f) then [f.tc.toNat] else [])
  else if op ≥ 0x60 then
    ((vecSources op f).map (srcRegs native)).flatten ++ ((vecMask op f ++ (cvtScales op f).1).map (fun r => runRegs r.reg r.bytes)).flatten
  else []

/-- Tensor registers that an instruction writes. -/
def writesT (op : Nat) (f : Fields) : List Nat :=
  if op = 0x20 || op = 0x22 || op = 0x27 || op = 0x41 then [f.td.toNat]
  else if op ≥ 0x60 then (((vecDest op f) :: (cvtScales op f).2).map (fun r => runRegs r.reg r.bytes)).flatten
  else []

/-- Scalar registers that an instruction reads or writes. -/
def usesS (op : Nat) (f : Fields) : List (BitVec 5) :=
  match uses op f with
  | none => []
  | some u =>
    (if u.sa then [f.sa] else []) ++ (if u.sb then [f.sb] else []) ++
    (if op = 0x6E && (fmtTensor (hi4 f) || fmtTensor (lo4 f)) then [f.sa + 1] else [])

/-- Groups that a vector operation reads directly in compatibility mode (R87). -/
def groupSrcs (native : Bool) (op : Nat) (f : Fields) : List (BitVec 3) :=
  if native || op < 0x60 then []
  else ((vecSources op f).filter (fun r => r.reg < 8)).map (fun r => BitVec.ofNat 3 r.reg)

/-- The flag slot that an operation records in (R85). -/
def slotOf (op : Nat) (f : Fields) : Option (BitVec 4) :=
  if op = 0x41 || op = 0x6E || op = 0x6F then some (f.imm.extractLsb' 16 4) else none

/-! ### Conditions of R60 -/

/-- A queue condition holds (R60(a)). -/
def Tile.queueOk (t : Tile) (q : BitVec 6) : Bool := !q.getLsbD 5 || (t.q.get (q.toNat % 16)).toks != []

/-- An operation in flight conflicts with an instruction (R60(c), R69 FLAGRD). -/
def Tile.conflict (t : Tile) (native : Bool) (k op : Nat) (f : Fields) (o : Op) : Bool :=
  let rd := readsT native op f
  let wr := writesT op f
  let held := if o.unit = .matrix && o.readEnd ≤ t.beat then [] else o.readT
  o.writeT.any (fun r => rd.contains r || wr.contains r) || held.any wr.contains ||
  (o.sp.toNat = k && (match o.writeS with | some s => (usesS op f).contains s | none => false)) ||
  o.grp.any (fun g =>
     let ow := o.unit == .matrix || (match o.work with | .regs _ _ _ _ (some _) => true | _ => false)
     let iw := (op = 0x40 || op = 0x42) && g == f.ag
     let ir := (op = 0x41 && g == f.ag) || (groupSrcs native op f).contains g
     (ow && (ir || iw) && !(o.unit == .matrix && op = 0x40)) || (!ow && iw)) ||
  (op = 0x0C && o.slot = some (f.imm.extractLsb' 0 4))

/-- The group that an instruction waits on, if any (R60(d), R74–R76, R87). -/
def Tile.waitsGroup (t : Tile) (native : Bool) (k op : Nat) (f : Fields) : Option (BitVec 3) :=
  let g := t.grp.get f.ag.toNat
  if op = 0x40 || op = 0x43 then
    if g.closing || (g.st = .opened && g.owner.toNat != k) then some f.ag else none
  else if op = 0x41 || op = 0x42 then
    if g.closing || g.st = .opened then some f.ag else none
  else
    (groupSrcs native op f).find? (fun a => (t.grp.get a.toNat).st = .opened || (t.grp.get a.toNat).closing)

/-- Operations in flight that take a place of a unit: the one it executes and those in its issue queue. An MMA whose operands have been
read takes none (R58, R60(e), R73). -/
def Tile.inFlight (t : Tile) (u : UnitK) : Nat := (t.ops.filter (fun o => o.unit == u && (u != .matrix || t.beat < o.readEnd))).length

/-- What an instruction waits for before its requests are looked at; none when it is ready (R60(a)–(e), R95). -/
def Tile.blocked (t : Tile) (native : Bool) (k op : Nat) (f : Fields) : Option WaitKind :=
  let p := t.spin k
  if !t.queueOk f.qa then some (.queue (f.qa.setWidth 4))
  else if !t.queueOk f.qb then some (.queue (f.qb.setWidth 4))
  else if f.wn != 0 && t.w.get f.wi.toNat < f.wn.setWidth 16 then some .counter
  else match t.waitsGroup native k op f with
    | some g => some (.group g)
    | none =>
      if t.ops.any (t.conflict native k op f) then some .hazard
      else if p.fence.isSome && (0x20 ≤ op && op ≤ 0x26 || op = 0x09) then some .fence
      else match unitOf op with
        | none => none
        | some .memory => none
        | some u => if t.inFlight u ≥ 5 then some .unitFull else none

/-! ### Memory requests -/

/-- Runs of lines of one request: at most four in one 512-byte block (R88). -/
def splitLines (a n : Nat) : List (Nat × Nat) :=
  let first := a / 128
  ((List.range (n / 4 + 2)).map (fun b =>
    let lo := max first ((first / 4 + b) * 4)
    let hi := min (first + n) ((first / 4 + b) * 4 + 4)
    (lo, hi - lo))).filter (fun r => r.2 != 0)

/-- Splits a request whose lines have more than one home slice (R89). -/
def Main.splitHomes (m : Main) (r : Nat × Nat) : List (List Nat) :=
  let ls := (List.range r.2).map (r.1 + ·)
  let hs := (ls.map (fun l => m.home (128 * l))).eraseDups
  hs.map (fun h => ls.filter (fun l => m.home (128 * l) == h))

/-- A run of a pinned window touches a retired column. -/
def Sram.touches (s : Sram) (off len : Nat) : Bool :=
  s.retired != [] && len != 0 &&
    (List.range ((off + len - 1) / 65536 - off / 65536 + 1)).any (fun i => s.retired.contains (colOf (65536 * (off / 65536 + i))))

/-- A pinned address lies in a pinned region of the die's own blank that touches a retired column (R165). -/
def Main.brokenPin (m : Main) (d a : Nat) : Bool :=
  match (m.dieAt d).run with
  | none => false
  | some b =>
    let o := (a - pinBase) % 2 ^ 31
    (a - pinBase) / 2 ^ 31 = d && (m.sramAt d).retired != [] &&
      b.pins.any (fun r => r.off ≤ o && o < r.off + r.len && (m.sramAt d).touches r.off r.len)

/-- A load's lines that hit in the tile cache, and that it allocates its other lines there (R93). -/
def Req.cached (r : Req) (t : Tile) (bypass : Bool) : Req :=
  if r.kind != .load || bypass then r
  else
    let hit := (List.range r.lines).filterMap (fun i =>
      (t.cache.find? (fun e => e.1 = r.da.toNat / 128 + r.step * i)).map (fun e => (i, e.2)))
    { r with fill := true, got := hit, served := hit.map (·.1) }

/-- One request as formed at issue: lines, target, and the error that its path answers with (R88, R89, R93, R148, R157, R165, R168, R169,
R180, R201, R324). -/
def Main.mkReq (m : Main) (d : Nat) (t : Tile) (kind : ReqKind) (bypass : Bool) (a0 cnt : Nat) (ls : List Nat) : Req :=
  let l0 := ls.headD 0
  let base : Req := { kind := kind, da := BitVec.ofNat 64 (128 * l0), lines := ls.length, first := l0 - a0 / 128
                      step := match ls with
                        | x :: y :: _ => y - x
                        | _ => 1 }
  let part := m.diePartOf d
  let errOr (code : Nat) (r : Req) : Req :=
    match kind with
    | .load => { r with bad := true, err := if code = 0x1302 then 0x1302 else 0 }
    | _ => { r with bad := true, err := BitVec.ofNat 16 code }
  match m.translate d (128 * l0) with
  | none => errOr 0x1302 base
  | some a =>
    let r := { base with da := BitVec.ofNat 64 a }
    let red := match kind with
      | .reduce _ => true
      | _ => false
    match m.rngFor part a with
    | .hbm _ _ =>
      let h := m.home a
      let r := { r with target := .slice h.1 h.2 }
      if kind != .load && m.inRegion a (128 * (r.step * (ls.length - 1) + 1)) then errOr 0x2002 r else r.cached t bypass
    | .pin _ _ =>
      let r := { r with target := .pinned }
      if m.brokenPin d a then errOr 0x3206 r else if red then errOr 0x3203 r else r.cached t bypass
    | .hole _ _ => errOr 0x3206 { r with target := .pinned }
    | .slow _ =>
      if red then errOr 0x3203 { r with target := .slow }
      else if m.partOn && m.sealed part && !(a0 % 4096 = 0 && cnt = 32) then { r with target := .slow, bad := true, err := 0x6102 }
      else { r with target := .slow }.cached t bypass
    | .host _ => if red then errOr 0x3203 { r with target := .host } else { r with target := .host }.cached t bypass
    | .peer n _ =>
      if m.fab.node = some (BitVec.ofNat 15 n) || m.fab.member.get n = 2 then { r with target := .peer n }.cached t bypass
      else errOr 0x2001 { r with target := .peer n }
    | .unmapped => errOr 0x2001 { r with target := .cache }

/-- The requests of a memory instruction in address order (R88, R89). -/
def Main.mkReqs (m : Main) (d : Nat) (t : Tile) (op : Nat) (f : Fields) (a : Nat) : List Req :=
  let kind : ReqKind := if op = 0x22 then .load else if op = 0x23 then .store else .reduce (hi4 f = 15)
  ((splitLines a f.cnt.toNat).map (fun r =>
    if 128 * r.1 < 2 ^ 41 then (m.splitHomes r).map (m.mkReq d t kind (f.mod.getLsbD 0) a f.cnt.toNat)
    else [m.mkReq d t kind (f.mod.getLsbD 0) a f.cnt.toNat ((List.range r.2).map (r.1 + ·))])).flatten

/-- The slice that a request counts against (R89). -/
def Req.slice (r : Req) : Option Nat :=
  match r.target with
  | .slice s i => some (64 * s + i)
  | _ => none

/-- The reservation of another spindle keeps slots from an instruction that needs `n` of them and those of the slices `need`: what was
freed since it was made goes to it alone (R90). -/
def Resv.keeps (r : Resv) (k n : Nat) (need : List Nat) : Bool :=
  r.sp.toNat != k && (r.spare < n || need.any (fun s => r.slices.contains s && r.spareOf.get s < need.count s))

/-- What a memory instruction waits for among the request slots, if anything (R88–R90). A wait with several causes counts for the first of
these: the total, a slice, another spindle's reservation, which no counter counts (R97; log 28). -/
def Tile.slotWait (t : Tile) (k : Nat) (rs : List Req) : Option WaitKind :=
  let need := rs.filterMap Req.slice
  let used := t.slots.filterMap (fun e => e.2.slice)
  if t.slots.length + rs.length > 64 then some .slotTotal
  else
    match need.find? (fun s => used.count s + need.count s > 16) with
    | some s => some (.slotSlice s)
    | none => if t.resv.any (fun r => r.keeps k rs.length need) then some .reserved else none

/-- Free slot numbers, lowest first. -/
def Tile.freeSlots (t : Tile) : List Nat := (List.range 64).filter (fun i => (t.slots.find i).isNone)

/-! ### Completion -/

/-- An MMA in flight names the group. -/
def Tile.mmaOn (t : Tile) (g : BitVec 3) : Bool := t.ops.any (fun o => o.unit == .matrix && o.grp.contains g)

/-- Closes a group once the MMAs on it have completed (R74). -/
def Tile.close (t : Tile) (g : BitVec 3) : Tile :=
  if t.mmaOn g then { t with grp := t.grp.upd g.toNat (fun x => { x with closing := true }) }
  else { t with grp := t.grp.upd g.toNat (fun x => { x with st := .closed, closing := false, owner := 0 }) }

/-- Carries out what remains of an operation other than its signal: the new tile, and false where the local store
gave an uncorrectable word (R478). -/
def Tile.apply (t : Tile) (o : Op) : Tile × Bool :=
  match o.work with
  | .mma md ag agm cnt a b sc => ({ t with grp := t.grp.upd ag.toNat (fun g => mmaGroup g md agm cnt a b sc) }, true)
  | .regs w slot nf sat grp =>
    let t := t.putBytes w
    let t := match slot with
      | some s => t.addFlags s nf sat
      | none => t
    (match grp with
     | some (g, v) => { t with grp := t.grp.put g.toNat v }
     | none => t, true)
  | .ldt a td =>
    if t.store.bad a 4096 then (t, false)
    else (t.putBytes ((t.store.read a 4096).mapIdx (fun i b => (4096 * td.toNat + i, b))), true)
  | .stt a d =>
    ({ t with store := t.store.write a ((List.range 4096).map (fun i => (cellGet d i).getD 0)) }, true)
  | .lds a sb =>
    if t.store.bad a 8 then (t, false)
    else (t.updSp o.sp.toNat (fun p => p.setReg sb (BitVec.ofNat 64 (ofBytes (t.store.read a 8)))), true)
  | .sts a d => ({ t with store := t.store.write a (bvBytes d 8) }, true)
  | .qpop td seg d => (t.putBytes ((bvBytes d 512).mapIdx (fun i b => (4096 * td.toNat + 512 * seg.toNat + i, b))), true)
  | .mem => (t, true)

/-- Takes an operation out of flight and closes its group where a close was pending (R74). -/
def Tile.retireOp (t : Tile) (o : Op) : Tile :=
  let t := { t with ops := t.ops.filter (fun x => x.id != o.id) }
  o.grp.foldl (fun (t : Tile) g => if (t.grp.get g.toNat).closing && !t.mmaOn g then t.close g else t) t

end Sys2Proof.Machine
end

