-- ==== Sys2Proof/Machine/Fault.lean ====
section
/-! DEFINITION. Tokens and credits, completion of operations on the module, and blank faults (R112–R134). -/

namespace Sys2Proof.Machine

/-! ### Steps and phases -/

/-- The open step number of a die's job, or all ones. -/
def Main.dieStep (m : Main) (d : Nat) : U32 :=
  match m.dieJob d with
  | some j => if j.stepOpen then j.step else 0xFFFFFFFF
  | none => 0xFFFFFFFF

/-- Reports a die's phase to the controller (R136). -/
def Main.report (m : Main) (d : Nat) (ph : BitVec 3) : Main := m.updDie d (fun v => { v with phase := ph })

/-- Progress on a die restarts its window (R130). -/
def Main.progress (m : Main) (d : Nat) : Main := m.updDie d (fun v => { v with progress := true, spilled := false })

/-- Tile IDs of the blank that a die holds, with the die's number (R99). -/
def Main.blankTiles (m : Main) (d : Nat) : List Nat :=
  match (m.dieAt d).run with
  | some b => b.tiles.map (fun r => d * 512 + r.tid.toNat)
  | none => []

/-! ### Tokens -/

/-- A queue of a tile by destination code: input queues 0–15, control queues 16–19 (R113). -/
def Tile.queue (t : Tile) (i : Nat) : Queue := if i < 16 then t.q.get i else (t.steer.get (i - 16)).ctl

def Tile.updQueue (t : Tile) (i : Nat) (f : Queue → Queue) : Tile :=
  if i < 16 then { t with q := t.q.upd i f }
  else { t with steer := t.steer.upd (i - 16) (fun s => { s with ctl := f s.ctl }) }

/-- Places of a queue (R114). -/
def queueSize (i : Nat) : Nat := if i < 16 then 8 else 4

/-- Returns a token's credit to its binding, if it is still held (R114, R131). -/
def Main.credit (m : Main) (k : Token) : Main :=
  if !k.held then m
  else m.updTile k.src.toNat (fun t => { t with bind := t.bind.upd k.sidx.toNat (fun b => { b with credits := b.credits + 1 }) })

/-- Consumes the head token of a queue (R114); in spill mode its place is one that a refill may take (R131). -/
def Main.popQueue (m : Main) (id i : Nat) : Main :=
  match ((m.tileAt id).queue i).toks with
  | [] => m
  | k :: r => ((m.updTile id (fun t => t.updQueue i (fun q =>
      { q with toks := r, freed := if q.spilling then q.freed + 1 else 0 }))).credit k).progress (id / 512)

/-- Sends a token on a binding that holds a credit (R112–R114). -/
def Main.sendToken (m : Main) (id sidx : Nat) (data : BitVec 4096) : Main :=
  let b := (m.tileAt id).bind.get sidx
  let d := id / 512
  let k : Token := { epoch := (m.dieAt d).epoch, control := b.dq ≥ 0x10, src := BitVec.ofNat 11 id, seq := b.seq,
                     data := data, sidx := BitVec.ofNat 8 sidx }
  let m := m.updTile id (fun t =>
    { t with bind := t.bind.upd sidx (fun b => { b with credits := b.credits - 1, seq := b.seq + 1 }) })
  m.updDie (b.dst.toNat / 512) (fun v => { v with flight := v.flight ++ [(b.dst, b.dq, k)] })

/-! ### The fault snapshot -/

/-- State byte of a spindle in the snapshot (R134). -/
def Spindle.stByte (p : Spindle) : Nat :=
  match p.st with
  | .noEntry => 0
  | .halted => 3
  | .halting => 2
  | .running => if p.wait = .none && p.sending.isNone && p.fence.isNone then 1 else 2

/-- State byte of a group: 0 Idle, 1 Open with its owner, 2 Closed (R134). -/
def Group.stByte (g : Group) : Nat :=
  match g.st with
  | .idle => 0
  | .opened => 1 + 16 * g.owner.toNat
  | .closed => 2

/-- The 284 meaningful bytes of a tile's record in the fault snapshot (R134). At its corners the model chooses: a steering unit that has not
fired since its control token became head shows remaining count 0, and a spindle that a load fault leaves unreleased shows state 3
(DESIGN CHOICE, log 142). -/
def Tile.snapshot (t : Tile) : List Byte :=
  ((List.range 8).map (fun k => p4 (t.spin k).pc.toNat ++ p1 (t.spin k).stByte ++ toBytes 3 0)).flatten ++
  ((List.range 16).map (fun i => p2 (t.w.get i).toNat)).flatten ++
  (List.range 8).map (fun i => BitVec.ofNat 8 (t.grp.get i).stByte) ++
  ((List.range 16).map (fun i =>
    let q := t.q.get i
    p1 q.toks.length ++ p1 0 ++ p2 (match q.toks with | k :: _ => k.seq.toNat | [] => 0))).flatten ++
  ((List.range 4).map (fun i =>
    let s := t.steer.get i
    p1 s.ctl.toks.length ++ p1 ((s.left.getD 0).toNat) ++ p2 0)).flatten ++
  p4 t.slotTotal.toNat ++ p4 t.slotSlice.toNat ++ p4 t.groupWait.toNat ++ p4 t.queueWait.toNat ++ p4 t.allBlocked.toNat ++
  (List.range 80).map (fun i => BitVec.ofNat 8 (t.bind.get i).credits)

/-- Position of a tile in its die: 36 × region + tile. -/
def tilePos (id : Nat) : Nat := id / 64 % 8 * 36 + id % 64

/-- Writes the fault snapshot into the die's shavings area (R134). -/
def Main.snapshot (m : Main) (d code tile sp idx : Nat) : Main :=
  let v := m.dieAt d
  match v.shavings, v.run with
  | some (base, _), some b =>
    let a := base.toNat
    let hdr := p2 code ++ p2 tile ++ p1 sp ++ toBytes 3 0 ++ p4 idx ++ p1 v.epoch.toNat ++ toBytes 3 0 ++
      p4 b.job.toNat ++ p4 b.section_.toNat ++ p8 (min v.beats (2 ^ 64 - 1))
    let m := m.syncWrite (m.diePartOf d) a (4096 * 289)
    let z := m.mem.hbm.zero a (4096 * 289)
    let z := z.write a hdr
    let z := (m.blankTiles d).foldl (fun (s : Mem) id => s.write (a + 4096 * (1 + tilePos id)) (m.tileAt id).snapshot) z
    { m with mem := { m.mem with hbm := z } }
  | _, _ => m

/-! ### Completion and faults -/

/-- Completes an operation of a tile: its work, its group, its signal. The result names the event that faults the
blank, if any (R63, R64, R74, R130, R136, R478). -/
def Main.finishOp (m : Main) (id : Nat) (o : Op) : Main × Option (Nat × List Byte) :=
  let d := id / 512
  let t := m.tileAt id
  let (t1, ok) := t.apply o
  let (t2, sok) := (t1.retireOp o).signal o.sig
  let m := m.setTile id t2
  let m := match o.unit with
    | .matrix | .vector => (m.progress d).updDie d (fun v => { v with lastMma := v.beats })
    | .memory => m.progress d
    | .local => m
  if !ok then
    let a := match o.work with
      | .ldt a _ => (a, 4096)
      | .lds a _ => (a, 8)
      | _ => (0, 0)
    let ws := t.store.ucWords a.1 a.2
    let m := m.updTile id (fun x =>
      { x with store := ws.foldl (fun (s : Mem) w => s.poison (8 * w) 8) x.store,
               ucAddrs := (x.ucAddrs.filter (fun e => m.sec < e.2 + 86400 && !ws.contains e.1)) ++ ws.map (fun w => (w, m.sec)) })
    (m, some (0x1108, p2 id ++ p1 o.sp.toNat ++ p4 o.pc.toNat ++ p8 a.1))
  else if !sok then (m, some (0x1105, p2 id ++ p1 o.sp.toNat ++ p4 o.pc.toNat))
  else (m, none)

/-- Retires the tiles of a die that have earned it (R484). -/
def Main.retireTiles (m : Main) (ids : List Nat) : Main :=
  ids.foldl (fun m id =>
    let t := m.tileAt id
    if t.ucAddrs.length ≥ 3 || (recent m.sec 86400 t.parErr).length ≥ 2 then m.retireTile id else m) m

/-- Lets the operations already issued to the engines of a die complete (step F2 of R126). -/
def Main.drain (m : Main) (d : Nat) : Main :=
  (m.blankTiles d).foldl (fun m id =>
    ((m.tileAt id).ops.filter (fun o => o.unit != .memory)).foldl (fun m o => (m.finishOp id o).1) m) m

/-- A die is no longer a holder of any version (R203). -/
def Main.unhold (m : Main) (d : Nat) : Main :=
  m.updJob (m.dieAt d).job.toNat (fun j => { j with holders := j.holders.filter (fun h => h.1 != d) })

/-- The Tailstock drops a die's records that have not started (R318). -/
def Main.dropTails (m : Main) (d : Nat) : Main := { m with tail := m.tail.filter (fun r => r.started || r.die != d) }

/-- Memory requests of a die's tiles still outstanding (R126 step F2). -/
def Main.outstanding (m : Main) (d : Nat) : Nat := ((m.blankTiles d).map (fun id => (m.tileAt id).slots.length)).sum

/-- Tokens left in the queues and spill FIFOs of a die (R122 step 3, R125). -/
def Main.leftover (m : Main) (d : Nat) : Nat :=
  ((m.blankTiles d).map (fun id =>
    ((List.range 20).map (fun i => ((m.tileAt id).queue i).toks.length + ((m.tileAt id).queue i).spill.length)).sum)).sum

/-- The first queue of a die that holds a token: tile and queue code; none named as 0xFFFF and 0xFF (R137; log 134). -/
def Main.firstLeft (m : Main) (d : Nat) : Nat × Nat :=
  (((m.blankTiles d).map (fun id => ((List.range 20).filter (fun i =>
    ((m.tileAt id).queue i).toks != [] || ((m.tileAt id).queue i).spill != [])).map (fun i => (id, i)))).flatten).headD (0xFFFF, 0xFF)

/-- The die enters Idle (R122 step 5, R136). -/
def Main.toIdle (m : Main) (d : Nat) : Main :=
  (m.updDie d (fun v => { v with st := .idle, settled := true, gated := false, agreed := false, run := none, goIdle := false, forced := false, fault := none })).report d 5

/-- The end of a fault's step F2: the snapshot is written and the die enters Faulted (R128, R134, R136). -/
def Main.faultEnd (m : Main) (d : Nat) : Main :=
  match (m.dieAt d).fault with
  | none => m
  | some (code, tile, sp, idx) =>
    ((m.snapshot d code tile sp idx).updDie d (fun v => { v with st := .faulted, fault := none })).report d 5

/-- Steps F3 to F5 of R126, and the choice that follows them. -/
def Main.forceEnd (m : Main) (d : Nat) : Main :=
  let flight := ((m.dieAt d).flight).length
  let n := m.leftover d + flight
  let at_ := m.firstLeft d
  let m := (m.blankTiles d).foldl (fun m id => m.updTile id (fun t =>
    { t with q := [], steer := t.steer.map (fun e => (e.1, { e.2 with ctl := {} })), flag := [] })) m
  let m := (m.updDie d (fun v => { v with flight := [], discarded := v.discarded + n })).log!
    { code := 0x1204, cls := .rec_, die := some d, par := p1 d ++ p2 at_.1 ++ p1 at_.2 ++ p4 n }
  let m := m.updDie d (fun v => { v with st := .forcing, settled := true, agreed := false, gated := false, forced := false })
  if (m.dieAt d).goIdle || (m.dieAt d).staged = [] then m.toIdle d else m

/-- Once nothing is outstanding step F2 has run: the die is no holder of a version any more (R203), a fault ends in Faulted (R128), and a
forced rechuck goes on with F3 (R126). -/
def Main.forceGo (m : Main) (d : Nat) : Main :=
  let v := m.dieAt d
  if v.st = .forcing && !v.settled && m.outstanding d = 0 then
    let m := (m.unhold d).faultEnd d
    if v.forced then m.forceEnd d else m
  else m

/-- What a die runs ends in a blank fault for the open step's verdict; that of a generation blank leaves the verdict alone (R20, R31). -/
def Main.tripRun (m : Main) (d : Nat) : Main :=
  let v := m.dieAt d
  match v.run with
  | some b => if b.training || b.phase != 3 then m.trip v.job.toNat 8 else m
  | none => m.trip v.job.toNat 8

/-- A blank fault on a die: it is logged at once and steps F1 and F2 begin; the die enters Faulted when they have run (R20, R121, R128,
R134, R136). That of a generation blank leaves the step's verdict alone (R31). `par` are the event's parameters, `stack` the memory
stack that the event names (R190). -/
def Main.blankFault (m : Main) (d code : Nat) (par : List Byte) (tile sp idx : Nat) (stack : Option Nat := none) : Main :=
  let v := m.dieAt d
  if v.st = .idle || v.st = .faulted || v.st = .forcing then m
  else
    let m := m.log! { code := code, cls := .flt, die := some d, stack := stack, step := m.dieStep d, par := par }
    let m := (m.drain d).dropTails d
    let m := m.retireTiles (m.blankTiles d)
    let m := m.updDie d (fun v =>
      { v with st := .forcing, settled := false, agreed := false, gated := false, forced := false, fault := some (code, tile, sp, idx) })
    (m.tripRun d).forceGo d

/-- A fault that a spindle's instruction raises: the event names the tile, the spindle and the instruction index (R97). -/
def Main.spFault (m : Main) (id k : Nat) (pc : Nat) (code : Nat) (extra : List Byte := []) : Main :=
  let par := if code = 0x1203 then p1 (id / 512) ++ p2 id ++ p1 k else p2 id ++ p1 k ++ p4 pc ++ extra
  m.blankFault (id / 512) code par id k pc

/-- Completes an operation and faults the blank where it must. -/
def Main.complete (m : Main) (id : Nat) (o : Op) : Main :=
  match m.finishOp id o with
  | (m, none) => m
  | (m, some (code, par)) =>
    (m.blankFault (id / 512) code par id o.sp.toNat o.pc.toNat).retireTiles [id]

/-! ### What a tile does once something it waited for has happened -/

/-- A request that still holds its slot has reached the point of visibility of a scope (R156). -/
def Req.visibleAt (r : Req) (d scope : Nat) : Bool :=
  let all := r.served.length ≥ r.lines
  if r.bad then true
  else
    match r.kind with
    | .load => all
    | _ =>
      match r.target with
      | .slice _ _ | .pinned => scope = 0 || (scope = 1 && r.far d) || all
      | .slow | .host | .peer _ => scope < 3 || (all && !r.put)
      | .cache => true

/-- Whether a spindle's FENCE has been met (R95). -/
def Main.fenceMet (m : Main) (id k : Nat) (scope : BitVec 2) : Bool :=
  let t := m.tileAt id
  t.slots.all (fun e => !(t.ops.any (fun o => o.id = e.2.op && o.sp.toNat = k)) ||
    e.2.visibleAt (id / 512) scope.toNat)

/-- Signals at once for a control operation, faulting the blank on an overflow. -/
def Main.signalNow (m : Main) (id k pc : Nat) (sig : Option (BitVec 4)) : Main :=
  let (t, ok) := (m.tileAt id).signal sig
  if ok then m.setTile id t else m.spFault id k pc 0x1105

/-- A spindle's FENCE completes once it has been met (R63, R95, R96). -/
def Main.settleFence (m : Main) (id k : Nat) : Main :=
  let p := (m.tileAt id).spin k
  match p.fence with
  | none => m
  | some (scope, keep) =>
    if m.fenceMet id k scope then
      let m := m.updTile id (fun t =>
        let t := t.updSp k (fun p => { p with fence := none, fenceSig := none })
        if scope != 0 && !keep then { t with cache := [], slots := t.slots.map (fun e => (e.1, { e.2 with fill := false })) } else t)
      m.signalNow id k p.fencePc.toNat p.fenceSig
    else m

/-- A held QSEND is sent once its binding has a credit and the tile may send (R63, R114, R116). -/
def Main.settleSend (m : Main) (id k : Nat) : Main :=
  let t := m.tileAt id
  let p := t.spin k
  match p.sending with
  | none => m
  | some (b, data) =>
    if (m.dieAt (id / 512)).st = .running && (t.bind.get b.toNat).credits != 0 && t.sendHold ≤ t.beat then
      let m := m.updTile id (fun t => { t.updSp k (fun p => { p with sending := none, sendSig := none }) with sendHold := t.beat + 4 })
      (m.sendToken id b.toNat data).signalNow id k (p.pc - 1).toNat p.sendSig
    else m

/-- A spindle in HALT ends once every operation that it has issued has completed, its FENCE among them (R59, R63). -/
def Main.settleHalt (m : Main) (id k : Nat) : Main :=
  let t := m.tileAt id
  let p := t.spin k
  if p.st = .halting && p.fence.isNone && p.sending.isNone && !(t.ops.any (fun o => o.sp.toNat = k)) then
    let m := (m.updTile id (fun t => t.updSp k (fun p => { p with st := .halted, sendSig := none }))).progress (id / 512)
    m.signalNow id k (p.pc - 1).toNat p.sendSig
  else m

/-- Lets one spindle go on where its FENCE, QSEND or HALT has been met (R59, R95, R114). -/
def Main.settleSp (m : Main) (id k : Nat) : Main := ((m.settleFence id k).settleSend id k).settleHalt id k

/-- Lets every spindle of a tile go on that can. -/
def Main.settle (m : Main) (id : Nat) : Main := (List.range 8).foldl (fun m k => m.settleSp id k) m

/-- The die runs a blank that names the tile, and nothing stops its sequencers (R121, R126, R351). -/
def Main.tileRuns (m : Main) (id : Nat) : Bool :=
  (m.dieAt (id / 512)).st = .running && (m.blankTiles (id / 512)).contains id && !(m.tileAt id).retired &&
    !(m.dieAt (id / 512)).parked.getLsbD (id / 64 % 8)

/-! ### Requests abandoned by a forced rechuck (R126) -/

/-- A requester is a tile of die `d`. -/
def srcOfDie (src : ReqSrc) (d : Nat) : Bool :=
  match src with
  | .tile t _ => t.die.val = d
  | .port _ => false

/-- Responses to requests of a die that its slots no longer wait for are discarded: reads leave the slices, writes that had reached a slice
are carried out, and fabric tags stay reserved until their responses arrive (R126, R281). -/
def Main.discardResponses (m : Main) (d : Nat) : Main :=
  let ws := ((m.sram.map (fun s => (s.2.slices.map (fun i => i.2.inbuf)).flatten)).flatten).filter (fun w => srcOfDie w.src d)
  let m : Main := { m with sram := m.sram.map (fun (s : Nat × Sram) => (s.1, { s.2 with slices := s.2.slices.map (fun (i : Nat × Slice) =>
      (i.1, { i.2 with
        inbuf := i.2.inbuf.filter (fun w => !(srcOfDie w.src d))
        lines := i.2.lines.map (fun (l : Nat × Line) => (l.1, { l.2 with att := l.2.att.filter (fun a => !(srcOfDie a d)) })) })) })) }
  let m := ws.foldl (fun m w =>
    match w.kind with
    | .load => m
    | .store => m.linePut (m.srcPart w.src (128 * w.line)) (128 * w.line) w.data w.words
    | .reduce fp32 => (m.redgNow (m.srcPart w.src (128 * w.line)) (128 * w.line) fp32 w.data).1) m
  let mine (e : U16 × BitVec 11 × BitVec 6 × Nat × Nat) : Bool := e.2.1.toNat / 512 = d
  { m with fab := { m.fab with peer := m.fab.peer.filter (fun e => !mine e), copies := m.fab.copies ++ (m.fab.peer.filter mine).map (·.1) } }

/-- Memory requests still outstanding after 20 µs are abandoned (R126 step F2). -/
def Main.abandon (m : Main) (d : Nat) : Main :=
  let n := m.outstanding d
  let v := m.dieAt d
  if v.st != .forcing || v.settled || n = 0 then m
  else
    let m := (m.blankTiles d).foldl (fun m id => m.updTile id (fun t =>
      { t with slots := [], dead := t.dead + t.slots.length, ops := t.ops.filter (fun o => o.unit != .memory) })) m
    ((m.discardResponses d).log! { code := 0x120B, cls := .rec_, die := some d, par := p4 n }).forceGo d

end Sys2Proof.Machine
end

