-- ==== Sys2Proof/Machine/Issue.lean ====
section
/-! DEFINITION. One beat of a tile's sequencer: readiness, choice, and what an issued instruction does (R59–R97). -/

namespace Sys2Proof.Machine

/-- A spindle's next instruction. -/
structure Cand where
  k : Nat
  op : Nat
  f : Fields
  deriving DecidableEq, Repr

/-- Whether a candidate may issue in this beat, with its requests, or what it waits for and the slices that its requests target. -/
inductive Rdy where
  | go (reqs : List Req)
  | wait (w : WaitKind) (want : List Nat)
  deriving DecidableEq, Repr

/-- Blank format of a die (R86, R87). -/
def Main.native (m : Main) (d : Nat) : Bool :=
  match (m.dieAt d).run with
  | some b => b.native
  | none => true

/-- Readiness of a candidate (R60). -/
def Main.ready (m : Main) (id : Nat) (c : Cand) : Rdy :=
  let t := m.tileAt id
  let d := id / 512
  match t.blocked (m.native d) c.k c.op c.f with
  | some w => .wait w []
  | none =>
    if unitOf c.op = some .memory then
      let a := addrOf (t.spin c.k) c.f
      if a % 128 != 0 then .go []
      else
        let rs := m.mkReqs d t c.op c.f a
        match t.slotWait c.k rs with
        | some w => .wait w (rs.filterMap Req.slice)
        | none => .go rs
    else .go []

/-- Kinds of wait that count as one uninterrupted wait (R90, R91, R132). -/
def WaitKind.cls : WaitKind → Nat
  | .none => 0
  | .slotTotal | .slotSlice _ | .reserved => 1
  | .group _ => 2
  | .queue _ | .counter | .credit _ => 3
  | .hazard | .unitFull => 4
  | .fence => 5

/-- Records a spindle's wait, and counts it (R90, R97). -/
def Tile.noteWait (t : Tile) (k : Nat) (w : WaitKind) : Tile :=
  let t := t.updSp k (fun p => { p with wait := w, since := if p.wait.cls = w.cls then p.since else t.beat })
  match w with
  | .slotTotal => { t with slotTotal := satAdd t.slotTotal 1 }
  | .slotSlice _ => { t with slotSlice := satAdd t.slotSlice 1 }
  | .group a =>
    if (t.grp.get a.toNat).st = .opened && (t.grp.get a.toNat).owner.toNat != k
    then { t with groupWait := satAdd t.groupWait 1 } else t
  | .queue _ | .counter => { t with queueWait := satAdd t.queueWait 1 }
  | .credit _ => { t with queueWait := satAdd t.queueWait 1 }
  | _ => t

/-- Adds an operation in flight. -/
def Tile.addOp (t : Tile) (o : Op) : Tile := { t with ops := t.ops ++ [{ o with id := t.nextOp, beat := t.beat }], nextOp := t.nextOp + 1 }

/-- Jumps to an instruction index, or faults the blank (R69, event 0x1107). -/
def Main.jump (m : Main) (id k pc target : Nat) : Main :=
  if target < (m.tileAt id).plen then
    m.updTile id (fun t => t.updSp k (fun p => { p with pc := BitVec.ofNat 16 target }))
  else m.spFault id k pc 0x1107

/-- The address checks of a local-store access (R69, R100): the event that it raises, if any. -/
def Tile.storeCheck (t : Tile) (a n align : Nat) (write : Bool) : Option Nat :=
  if a % align != 0 || a + n > 0x80000 then some 0x1103
  else if write && a + n > 0x80000 - 16 * t.plen then some 0x1203
  else none

/-- The value that GETID selects (R69). -/
def Main.getId (m : Main) (id k : Nat) (f : Fields) : U64 :=
  let t := m.tileAt id
  let d := id / 512
  match f.mod.toNat with
  | 0 => BitVec.ofNat 64 id
  | 1 => BitVec.ofNat 64 k
  | 2 => match m.dieJob d with
         | some j => j.step.setWidth 64
         | none => 0
  | 3 => (m.dieAt d).epoch.setWidth 64
  | 4 => ((t.spin k).c.get f.lc.toNat).setWidth 64
  | 8 => t.slotTotal.setWidth 64
  | 9 => t.slotSlice.setWidth 64
  | 10 => t.groupWait.setWidth 64
  | 11 => t.queueWait.setWidth 64
  | _ => t.allBlocked.setWidth 64

/-- Job seed and current step number that SR draws of a die's tiles use (R84). -/
def Main.seedStep (m : Main) (d : Nat) : U64 × U32 :=
  match m.dieJob d with
  | some j => (j.seed, j.step)
  | none => (0, 0)

/-- What MMA does at issue to its group: the group, or false on a type mismatch (R74, R75, R78). -/
def Group.mmaIssue (g : Group) (k : Nat) (f : Fields) : Group × Bool :=
  let isInt := mmaClass (hi4 f) (lo4 f) == some .int8
  let zero := f.agm.getLsbD 0
  if !zero && g.st != .idle && g.int != isInt then (g, false)
  else
    let fresh := zero || g.st = .idle
    let g := if g.st = .idle then { g with val := [], sat := 0 } else g
    ({ g with st := .opened, owner := BitVec.ofNat 3 k, int := if fresh then isInt else g.int, closing := f.agm.getLsbD 1 }, true)

/-- The signal of an operation that completes in its issue beat, while its die still runs (R62, R64). -/
def Main.signalled (m : Main) (id k pc : Nat) (sig : Option (BitVec 4)) : Main :=
  if (m.dieAt (id / 512)).st = .running then m.signalNow id k pc sig else m

/-- Writes a scalar register of a spindle. -/
def Main.putS (m : Main) (id k : Nat) (r : BitVec 5) (v : U64) : Main := m.updTile id (fun t => t.updSp k (fun p => p.setReg r v))

/-- The next issue of a spindle waits two beats (R69). -/
def Main.holdSp (m : Main) (id k : Nat) : Main :=
  m.updTile id (fun t => t.updSp k (fun p => { p with hold := t.beat + 2 }))

/-- Closes every group that is Open under a spindle (R74, HALT). -/
def Tile.closeOwn (t : Tile) (k : Nat) : Tile :=
  (List.range 8).foldl (fun (t : Tile) g =>
    let x := t.grp.get g
    if x.st = .opened && x.owner.toNat = k && !x.closing then t.close (BitVec.ofNat 3 g) else t) t

/-- Issues a scalar or control operation; its signal is given at once where it completes in its issue beat (R62, R69). -/
def Main.issueScalar (m : Main) (id : Nat) (c : Cand) (pc : Nat) (p : Spindle) : Main :=
  let k := c.k
  let f := c.f
  let t := m.tileAt id
  let sig := sigOf f
  let done (m : Main) : Main := m.signalled id k pc sig
  match c.op with
  | 0x00 => done m
  | 0x01 => (m.updTile id (fun t => (t.updSp k (fun p => { p with st := .halting, sendSig := sig })).closeOwn k)).settleSp id k
  | 0x02 => done ((m.holdSp id k).jump id k pc f.imm.toNat)
  | 0x03 => done (if brCond f.mod (p.reg f.sa) (p.reg f.sb) then (m.holdSp id k).jump id k pc f.imm.toNat else m.holdSp id k)
  | 0x04 => done (m.updTile id (fun t => t.updSp k (fun p => { p with c := p.c.put f.lc.toNat (f.imm.setWidth 16) })))
  | 0x05 =>
    let n := p.c.get f.lc.toNat
    if n = 0 then m.spFault id k pc 0x1107
    else
      let m := (m.updTile id (fun t => t.updSp k (fun p => { p with c := p.c.put f.lc.toNat (n - 1) }))).holdSp id k
      done (if n = 1 then m else m.jump id k pc f.imm.toNat)
  | 0x06 => done (m.putS id k f.sa (f.imm.signExtend 64))
  | 0x07 => done (m.putS id k f.sa (salu f.mod (p.reg f.sa) (p.reg f.sb)))
  | 0x09 =>
    (m.updTile id (fun t => t.updSp k (fun p =>
      { p with fence := some (f.mod.setWidth 2, f.mod.getLsbD 2), fenceSig := sig, fencePc := BitVec.ofNat 16 pc }))).settleSp id k
  | 0x0A => done (m.updTile id (fun t =>
      { t with cache := [], slots := t.slots.map (fun e => (e.1, { e.2 with fill := false })) }))
  | 0x0B => done (m.putS id k f.sa (m.getId id k f))
  | 0x0C =>
    let s := t.flag.get (f.imm.toNat % 16)
    done ((m.putS id k f.sa s.word).updTile id (fun t => { t with flag := t.flag.put (f.imm.toNat % 16) {} }))
  | 0x28 =>
    let data : BitVec 4096 := bvOf 4096 (t.tbytes f.ta.toNat (512 * (f.imm.toNat % 8)) 512)
    (m.updTile id (fun t => t.updSp k (fun p =>
      { p with sending := some (f.imm.extractLsb' 3 6, data), sendSig := sig }))).settleSp id k
  | _ =>
    let g := t.grp.get f.ag.toNat
    done (if g.st = .opened && g.owner.toNat = k then m.updTile id (fun t => t.close f.ag) else m)

/-- Issues a local-store or queue operation (R69, R100). `tok` is the token that QPOP consumed. -/
def Main.issueLocal (m : Main) (id : Nat) (c : Cand) (pc : Nat) (p : Spindle) (tok : BitVec 4096) : Main :=
  let f := c.f
  let t := m.tileAt id
  let a := addrOf p f
  let base : Op := { sp := BitVec.ofNat 3 c.k, pc := BitVec.ofNat 16 pc, unit := .local, sig := sigOf f,
                     readT := readsT true c.op f, writeT := writesT c.op f }
  let bad := match c.op with
    | 0x20 => t.storeCheck a 4096 64 false
    | 0x21 => t.storeCheck a 4096 64 true
    | 0x24 => t.storeCheck a 8 8 false
    | 0x25 => t.storeCheck a 8 8 true
    | _ => none
  match bad with
  | some e => m.spFault id c.k pc e
  | none =>
    let o : Op := match c.op with
      | 0x20 => { base with work := .ldt a f.td }
      | 0x21 => { base with work := .stt a (t.sample f.ta.toNat 4096) }
      | 0x24 => { base with work := .lds a f.sb, writeS := some f.sb }
      | 0x25 => { base with work := .sts a (p.reg f.sb) }
      | _ => { base with work := .qpop f.td (f.imm.setWidth 3) tok }
    m.updTile id (fun t => t.addOp o)

/-- Issues a matrix or vector operation: operands are sampled now (R62, R69, R74, R78). -/
def Main.issueEngine (m : Main) (id : Nat) (c : Cand) (pc : Nat) (p : Spindle) : Main :=
  let f := c.f
  let t := m.tileAt id
  let d := id / 512
  let nat := m.native d
  let rd := readsT nat c.op f
  if t.parity.any (fun w => rd.contains (w / 512)) then
    (m.updTile id (fun t => { t with parErr := t.parErr ++ [m.sec] })).spFault id c.k pc 0x1108
  else
    let base : Op := { sp := BitVec.ofNat 3 c.k, pc := BitVec.ofNat 16 pc, sig := sigOf f, readT := rd,
                       writeT := writesT c.op f, slot := slotOf c.op f }
    if c.op = 0x40 then
      let (g, ok) := (t.grp.get f.ag.toNat).mmaIssue c.k f
      if !ok then m.spFault id c.k pc 0x1102
      else
        let beats := match mmaClass (hi4 f) (lo4 f) with
          | some cl => cl.beats * f.cnt.toNat
          | none => 0
        let start := t.ops.foldl (fun b o => if o.unit = .matrix then max b o.readEnd else b) t.beat
        let o : Op := { base with unit := .matrix, grp := [f.ag], readEnd := start + beats,
                                  work := .mma f.mod f.ag f.agm f.cnt.toNat (t.sample f.ta.toNat 4096)
                                    (t.sample f.tb.toNat 4096) (t.sample f.tc.toNat 4096) }
        m.updTile id (fun t => { t.addOp o with grp := t.grp.put f.ag.toNat g })
    else if c.op = 0x41 then
      let g := t.grp.get f.ag.toNat
      let out := t.amov f
      let sat := if g.st = .closed then g.sat.toNat else 0
      let o : Op := { base with unit := .vector, grp := [f.ag], work := .regs out.bytes base.slot out.nf sat none }
      let m := m.calipers d base.slot (t.calAmov f (Config.elemIndex m.draws))
      m.draw.updTile id (fun t => { t.addOp o with grp := t.grp.put f.ag.toNat { g with sat := if g.st = .closed then 0 else g.sat } })
    else if c.op = 0x42 then
      let o : Op := { base with unit := .vector, grp := [f.ag], work := .regs [] none false 0 (some (f.ag, t.aload f)) }
      m.updTile id (fun t => t.addOp o)
    else
      let out :=
        if c.op = 0x6E then
          let (seed, step) := m.seedStep d
          t.vecCvt nat f p seed step (fun i => (Config.freeByte m.draws i).toNat)
        else if c.op = 0x6F then t.vecVlog nat f
        else t.vecPlain nat c.op f p
      let grp := groupSrcs nat c.op f
      let o : Op := { base with unit := .vector, grp := grp, work := .regs out.bytes base.slot out.nf out.sat none }
      let m := if c.op = 0x6E then m.calipers d base.slot (t.calCvt nat f p out)
        else if c.op = 0x6F then m.calipers d base.slot (t.calVlog nat f out (Config.elemIndex m.draws))
        else m
      (if c.op = 0x6E || c.op = 0x6F then m.draw else m).updTile id (fun t => t.addOp o)

/-- A line of a request that its target has served: a load's data, or an error. -/
def Req.serveLine (r : Req) (i : Nat) (d : BitVec 1024) (bad : Bool) : Req :=
  { r with served := i :: r.served, bad := r.bad || bad, got := if r.kind = .load then r.got.put i d else r.got }

/-- A request whose path answers with an error: a load with a bus error, any other with the event `code` (R167, R169, R312). -/
def Req.fail (r : Req) (code : U16) : Req := { r with bad := true, err := if r.kind = .load then 0 else code }

/-- Carries out line `i` of a request to pinned SRAM, host memory or the module's own peer window (R143, R148, R164, R168, R171). A
column under sparing keeps the line waiting. -/
def Main.performLine (m : Main) (id : Nat) (r : Req) (i : Nat) : Main × Req :=
  let a := r.lineDa i
  let p := m.diePartOf (id / 512)
  let body := if r.kind = .load then [] else bvBytes (r.got.get i) 128
  if r.bad || r.served.contains i || m.heldBack id r a then (m, r)
  else
    match r.target with
    | .pinned =>
      let o := a - pinBase
      if m.colHeld (o / 2 ^ 31) (colOf (o % 2 ^ 31)) then (m, r)
      else
        match m.rng a with
        | .pin _ _ =>
          if r.kind = .load then let (m, b, bad) := m.pinGet o 128; (m, r.serveLine i (bvOf 1024 b) bad)
          else (m.pinPut o body, r.serveLine i 0 false)
        | _ => (m, r.fail 0x3206)
    | .host =>
      if !(m.aServes p) then (m, r.fail 0x6102)
      else if r.kind = .load then
        match m.daGet p a 128 with
        | (m, some b) => (m, r.serveLine i (bvOf 1024 b) false)
        | (m, none) => (m, r.fail 0)
      else
        match m.daPut p a body with
        | (m, true) => (m, r.serveLine i 0 false)
        | (m, false) => (m, r.fail 0x6102)
    | .peer node =>
      if m.fab.node = some (BitVec.ofNat 15 node) then
        let (m, st, b) := m.inbound r.peerOp p (a % 2 ^ 40) 128 body
        if st = 0 then (m, r.serveLine i (bvOf 1024 b) false) else (m, r.fail 0x5301)
      else (m, r)
    | _ => (m, r)

/-- Carries out what has not been served of such a request. -/
def Main.performReq (m : Main) (id : Nat) (r : Req) : Main × Req :=
  (List.range r.lines).foldl (fun (x : Main × Req) i => x.1.performLine id x.2 i) (m, r)

/-- A write to the slow tier that port B carries reaches its memory (R312, R324). -/
def Main.putSlow (m : Main) (id slot : Nat) (r : Req) : Main × Req :=
  if m.slowLive (.tile id slot) && m.bServes (m.diePartOf (id / 512)) && (List.range r.lines).all (fun i => !(m.heldBack id r (r.lineDa i))) then
    (m.slowPut (slowOff r.da.toNat) r.body, { r with served := List.range r.lines })
  else (m, r)

/-- A write that leaves its die over a bridge is carried out as it is issued, where its path serves it, so that every later access sees it;
its response is outstanding until it arrives (R156). Writes to home slices arrive there by commands of their own. -/
def Main.putNow (m : Main) (id slot : Nat) (r : Req) : Main :=
  if r.bad || r.kind = .load || !(r.far (id / 512)) then m
  else
    let (m', r') := match r.target with
      | .slow => m.putSlow id slot r
      | .slice _ _ | .cache => (m, r)
      | _ => m.performReq id r
    if r'.bad || r'.served = r.served then m
    else m'.updTile id (fun t => { t with slots := t.slots.put slot { r' with put := r'.served.length ≥ r'.lines } })

/-- The reservation after an issue: its holder gives it up, and the slots that another instruction takes are no longer spare (R90). -/
def Resv.after (r : Resv) (k n : Nat) (need : List Nat) : Option Resv :=
  if r.sp.toNat = k then none
  else some { r with spare := r.spare - n, spareOf := r.slices.foldl (fun (t : Table Nat) s => t.upd s (· - need.count s)) r.spareOf }

/-- Issues LDG, STG or REDG: its requests take their slots (R88, R89, R94). -/
def Main.issueMem (m : Main) (id : Nat) (c : Cand) (pc : Nat) (p : Spindle) (reqs : List Req) : Main :=
  let f := c.f
  let a := addrOf p f
  if a % 128 != 0 then m.spFault id c.k pc 0x1103
  else
    let t := m.tileAt id
    let opId := t.nextOp
    let no := (m.dieAt (id / 512)).reqNo
    let o : Op := { sp := BitVec.ofNat 3 c.k, pc := BitVec.ofNat 16 pc, unit := .memory, sig := sigOf f,
                    readT := readsT true c.op f, writeT := writesT c.op f, work := .mem }
    let fill (e : Req × Nat) : Req :=
      let r := { e.1 with op := opId, sp := BitVec.ofNat 3 c.k, stamp := no + e.2, td := if e.1.kind = .load then f.td else f.ta }
      if r.kind = .load then r
      else { r with got := (List.range r.lines).map (fun i =>
        (i, bvOf 1024 (t.tbytes f.ta.toNat (128 * (r.first + r.step * i)) 128))) }
    let put := List.zip t.freeSlots (reqs.zipIdx.map fill)
    let hit (l : Nat) : Bool := c.op != 0x22 && put.any (fun e => (e.2.lineIdx (128 * l)).isSome)
    let m := m.updDie (id / 512) (fun v => { v with reqNo := no + reqs.length })
    let m := m.updTile id (fun t =>
      { t.addOp o with slots := put.foldl (fun s e => s.put e.1 e.2) t.slots
                       resv := t.resv.bind (fun r => r.after c.k reqs.length (reqs.filterMap Req.slice))
                       cache := t.cache.filter (fun e => !hit e.1) })
    let m := if put.any (fun e => e.2.onSlow) then m.slowAdmit else m
    put.foldl (fun m e => if e.2.bad || e.2.served.length ≥ e.2.lines then m else (m.putNow id e.1 e.2).peerIssue id e.1 e.2) m

/-- What every issue does first: the pc moves on, the counter wait is consumed, and tokens marked as consumed leave their
queues (R60, R63, R66). -/
def Main.issued (m : Main) (id : Nat) (c : Cand) : Main :=
  let f := c.f
  let m := m.updTile id (fun t =>
    let t := t.updSp c.k (fun p => { p with pc := p.pc + 1, last := t.beat, wait := .none })
    if f.wn = 0 then t else { t with w := t.w.upd f.wi.toNat (fun v => v - f.wn.setWidth 16) })
  let m := if f.qa.getLsbD 5 && f.qa.getLsbD 4 then m.popQueue id (f.qa.toNat % 16) else m
  if f.qb.getLsbD 5 && f.qb.getLsbD 4 then m.popQueue id (f.qb.toNat % 16) else m

/-- An MMA or vector issue ends a reported collective-wait (R136). -/
def Main.phaseBack (m : Main) (d : Nat) : Main :=
  m.updDie d (fun v => if v.phase = 4 then { v with phase := match v.run with | some b => b.phase | none => v.phase } else v)

/-- The data of the token at the head of the queue that QA names, which QPOP consumes (R69). -/
def Tile.headData (t : Tile) (f : Fields) : BitVec 4096 :=
  match (t.q.get (f.qa.toNat % 16)).toks with
  | k :: _ => k.data
  | [] => 0

/-- Issues one ready instruction (R60–R63, R66). -/
def Main.perform (m : Main) (id : Nat) (c : Cand) (reqs : List Req) : Main :=
  let p := (m.tileAt id).spin c.k
  let pc := p.pc.toNat
  match unitOf c.op with
  | none => (m.issued id c).issueScalar id c pc p
  | some .local => (m.issued id c).issueLocal id c pc p ((m.tileAt id).headData c.f)
  | some .memory => (m.issued id c).issueMem id c pc p reqs
  | some _ => ((m.issued id c).phaseBack (id / 512)).issueEngine id c pc p

/-- A spindle may issue in this beat. -/
def Tile.mayIssue (t : Tile) (k : Nat) : Bool :=
  let p := t.spin k
  p.st = .running && p.sending.isNone && p.hold ≤ t.beat

/-- A tile's beat up to the choice of an instruction: the beat counts on, every HALT, FENCE and QSEND that is met goes on, and
spindles in a QSEND are noted as waiting for credit (R59, R61, R90). A QSEND that holds a credit and waits for the tile's spacing of
R116 alone counts in queue_wait too (DESIGN CHOICE, log 143). -/
def Main.beatStart (m : Main) (id : Nat) : Main :=
  let m := m.updTile id (fun t => { t with beat := t.beat + 1 })
  let m := m.updDie (id / 512) (fun v => { v with beats := max v.beats (m.tileAt id).beat })
  let m := m.settle id
  m.updTile id (fun t => (List.range 8).foldl (fun (t : Tile) k =>
    match (t.spin k).sending with
    | some (b, _) => t.noteWait k (.credit b)
    | none => t) t)

/-- Notes for each candidate what it waits for, or that it waits for nothing (R90, R97). -/
def Main.noteReady (m : Main) (id : Nat) (st : List (Cand × Rdy)) : Main :=
  m.updTile id (fun t => st.foldl (fun (t : Tile) e =>
    match e.2 with
    | .wait w sl => (t.noteWait e.1.k w).updSp e.1.k (fun p => { p with want := sl })
    | .go _ => t.updSp e.1.k (fun p => { p with wait := .none })) t)

/-- Of the ready candidates, the one that has gone longest without issuing, the lowest spindle on a tie (R61). -/
def Tile.choose (t : Tile) (st : List (Cand × Rdy)) : Option (Cand × List Req) :=
  (st.filterMap (fun e => match e.2 with
    | .go rs => some (e.1, rs)
    | .wait _ _ => none)).foldl (fun (b : Option (Cand × List Req)) e =>
      match b with
      | none => some e
      | some x => if (t.spin e.1.k).last < (t.spin x.1.k).last then some e else b) none

/-- A beat of a tile that runs, from its start on (R61, R90, R97). -/
def Main.beatRun (m : Main) (id : Nat) (cs : List Cand) (all : Bool) : Main :=
  let can := cs.filter (fun c => (m.tileAt id).mayIssue c.k && wordOk (m.native (id / 512)) c.op c.f)
  let st := can.map (fun c => (c, m.ready id c))
  let m := m.noteReady id st
  match (m.tileAt id).choose st with
  | some (c, rs) => m.perform id c rs
  | none =>
    if all && (List.range 8).any (fun k => let s := ((m.tileAt id).spin k).st; s = .running || s = .halting)
    then m.updTile id (fun t => { t with allBlocked := satAdd t.allBlocked 1 }) else m

/-- One beat of a tile with the given candidates (R61, R90, R97). `all` when they are every spindle's next instruction. -/
def Main.runBeat (m : Main) (id : Nat) (cs : List Cand) (all : Bool) : Main :=
  if !m.tileRuns id then m else (m.beatStart id).beatRun id cs all

/-- The instruction word at an index of a tile's program (R66, R100). -/
def Tile.word (t : Tile) (i : Nat) : BitVec 128 := bvOf 128 (t.store.read (0x80000 - 16 * (t.plen - i)) 16)

/-- The next instruction of a spindle, read from the program area; none past the program's end or from a bad word. -/
def Tile.fetch (t : Tile) (k : Nat) : Option Cand :=
  let i := (t.spin k).pc.toNat
  if i < t.plen && !(t.store.bad (0x80000 - 16 * (t.plen - i)) 16) then
    let (op, f) := wordFields (t.word i)
    some ⟨k, op, f⟩
  else none

/-- The beat of a direct instruction row: spindle `k`'s next instruction is the given one. -/
def Main.issueRow (m : Main) (t : TileRef) (k : Fin 8) (op : Nat) (f : Fields) : Main :=
  m.runBeat t.id [⟨k.val, op, f⟩] false

end Sys2Proof.Machine
end

