-- ==== Sys2Proof/Machine/Sequencer.lean ====
section
/-! DEFINITION. Sequencer events: the choice of an instruction, completions, memory responses, reservations and group cycles. -/

namespace Sys2Proof.Machine

/-- Poison is written over the uncorrectable words of a local-store run, and they count towards retirement (R478, R484). -/
def Main.badStore (m : Main) (id a n : Nat) : Main :=
  let ws := (m.tileAt id).store.badWords a n
  m.updTile id (fun x =>
    { x with store := ws.foldl (fun (s : Mem) w => s.poison (8 * w) 8) x.store,
             ucAddrs := (x.ucAddrs.filter (fun e => m.sec < e.2 + 86400 && !ws.contains e.1)) ++ ws.map (fun w => (w, m.sec)) })

/-- One beat of a tile in which the sequencer fetches and chooses (R61, R97, R100). -/
def Main.selectBeat (m : Main) (id : Nat) : Main :=
  if !m.tileRuns id then m
  else
    let t := m.tileAt id
    let live := (List.range 8).filter (fun k => t.mayIssue k)
    match live.find? (fun k => (t.fetch k).isNone) with
    | some k =>
      let i := (t.spin k).pc.toNat
      if t.plen ≤ i then m.spFault id k i 0x1107
      else ((m.badStore id (0x80000 - 16 * (t.plen - i)) 16).spFault id k i 0x1108
              (p8 (0x80000 - 16 * (t.plen - i)))).retireTiles [id]
    | none => m.runBeat id (live.filterMap t.fetch) true

/-- INSTRUCTION_ISSUE_SELECT (R61). -/
def execInstructionIssueSelect (t : TileRef) : State → Host.Outcome State Fault Refusal :=
  onMain (fun m => m.selectBeat t.id)

/-- The oldest operation in flight on a unit completes (R60–R64). -/
def Main.completeUnit (m : Main) (id : Nat) (u : UnitK) : Main :=
  match (m.tileAt id).ops.find? (fun o => o.unit == u) with
  | none => m
  | some o => (m.complete id o).settle id

/-- MMA_COMPLETE (R73, R74). -/
def execMmaComplete (t : TileRef) : State → Host.Outcome State Fault Refusal :=
  onMain (fun m => m.completeUnit t.id .matrix)

/-- VECTOR_OP_COMPLETE (R80–R85): the vector engine's oldest operation, or with `loc` the local-store and queue unit's. -/
def execVectorOpComplete (t : TileRef) (loc : Bool) : State → Host.Outcome State Fault Refusal :=
  onMain (fun m => m.completeUnit t.id (if loc then .local else .vector))

/-- Compute stack that an event of the 0x32 family names: the home slice's or the pinned window's, 0xFF for an address that lies in neither
(R167; log 144). -/
def Req.eventStack (r : Req) : Nat :=
  match r.target with
  | .slice s _ => s
  | .pinned => (r.da.toNat - pinBase) / 2 ^ 31
  | _ => 0xFF

/-- Event parameters of a request's error (R97, R167, R190, R215, R289). -/
def Main.errPar (m : Main) (r : Req) (id : Nat) (o : Op) (code : Nat) : List Byte :=
  let a := p8 r.da.toNat
  if code = 0x1104 then p2 id ++ p1 o.sp.toNat ++ p4 o.pc.toNat ++ a
  else if code / 256 = 0x32 then p1 r.eventStack ++ p2 id ++ a
  else if code = 0x1302 then
    let j := (m.dieAt (id / 512)).job.toNat
    p4 j ++ p2 (m.layerAt j r.da.toNat) ++ p2 id ++ a
  else if code = 0x5301 then
    (match r.target with
     | .peer n => p2 n
     | _ => p2 0) ++ p8 (r.da.toNat % 2 ^ 40)
  else p2 id ++ a

/-- Installs the lines of a returned load in the tile cache (R93, R96). -/
def Main.fillCache (m : Main) (id : Nat) (r : Req) : Main :=
  r.got.foldl (fun (m : Main) e =>
    let l := r.lineDa e.1 / 128
    let c := (m.tileAt id).cache
    if c.any (fun x => x.1 = l) then m
    else if c.length < 256 then m.updTile id (fun t => { t with cache := t.cache ++ [(l, e.2)] })
    else
      let v := Config.cacheVictim m.draws % 256
      m.draw.updTile id (fun t => { t with cache := t.cache.eraseIdx v ++ [(l, e.2)] })) m

/-- The response of a request: its data is written or its error faults the blank, and its slot is freed (R69, R88, R92). -/
def Main.respond (m : Main) (id slot : Nat) (err : Bool) : Main :=
  match (m.tileAt id).slots.find slot with
  | none => m.updTile id (fun t => { t with dead := t.dead - 1 })
  | some r0 =>
    let (m, r) := if err then (m, { r0 with bad := true }) else m.performReq id r0
    if !r.bad && r.served.length < r.lines then m.updTile id (fun t => { t with slots := t.slots.put slot r })
    else
      let m := m.updTile id (fun t => { t with slots := t.slots.del slot })
      match (m.tileAt id).ops.find? (fun o => o.id = r.op) with
      | none => m
      | some o =>
        let m :=
          if r.bad then
            let code := if r.err != 0 then r.err.toNat else if r.kind = .load then 0x1104 else 0x2001
            m.blankFault (id / 512) code (m.errPar r id o code) id o.sp.toNat o.pc.toNat
              (if (code = 0x2001 || code = 0x2002) && r.da.toNat < 2 ^ 41 then some (r.da.toNat / 2 ^ 37) else none)
          else if r.kind = .load then
            let m := m.updTile id (fun t => t.putBytes ((r.got.map (fun e =>
              (bvBytes e.2 128).mapIdx (fun i b => (4096 * r.td.toNat + 128 * (r.first + r.step * e.1) + i, b)))).flatten))
            if r.fill then m.fillCache id r else m
          else m
        let m := if (m.tileAt id).slots.any (fun e => e.2.op = r.op) then m else m.complete id o
        m.settle id

/-- MEMORY_RESPONSE (R69, R88, R92, R169). -/
def execMemoryResponse (t : TileRef) (slot : Fin 64) (err : Bool) : State → Host.Outcome State Fault Refusal :=
  onMain (fun m => (m.respond t.id slot.val err).forceGo t.die.val)

/-- The reservation of spindle `k`: the slots that are free as it is made stay open to other instructions (R90). -/
def Tile.reserve (x : Tile) (k : Nat) : Resv :=
  let need := (x.spin k).want.eraseDups
  let used := x.slots.filterMap (fun e => e.2.slice)
  { sp := BitVec.ofNat 3 k, slices := need, spare := 64 - x.slots.length
    spareOf := need.foldl (fun (t : Table Nat) s => t.put s (16 - used.count s)) [] }

/-- SLOT_RESERVATION (R90): the memory instruction that has waited longest, at least 512 beats, takes the tile's reservation. -/
def execSlotReservation (t : TileRef) : State → Host.Outcome State Fault Refusal :=
  onMain (fun m =>
    let x := m.tileAt t.id
    let due := (List.range 8).filter (fun k =>
      let p := x.spin k
      p.st = .running && p.wait.cls = 1 && p.since + 512 ≤ x.beat)
    match x.resv, due.foldl (fun (b : Option Nat) k =>
        match b with
        | none => some k
        | some j => if (x.spin k).since < (x.spin j).since then some k else b) none with
    | none, some k => m.updTile t.id (fun x => { x with resv := some (x.reserve k) })
    | _, _ => m)

/-- TILE_IDLE_ON_ONE_SLICE (R91). Where no waiting request targets a slice the event names slice 0 of stack 0 (DESIGN CHOICE, log 145). -/
def execTileIdleOnOneSlice (t : TileRef) : State → Host.Outcome State Fault Refusal :=
  onMain (fun m =>
    let x := m.tileAt t.id
    let act := (List.range 8).filter (fun k => (x.spin k).st = .running || (x.spin k).st = .halting)
    let stuck := act != [] && act.all (fun k => (x.spin k).wait.cls = 1 && (x.spin k).since + 16384 ≤ x.beat)
    if !m.tileRuns t.id || x.idleRaised || !stuck then m
    else
      let sl := (act.map (fun k => (x.spin k).want)).flatten
      let best := (List.range 256).foldl (fun b s => if sl.count s > sl.count b then s else b) 0
      (m.updTile t.id (fun x => { x with idleRaised := true })).log!
        { code := 0x1106, cls := .adv, die := some t.die.val, step := m.dieStep t.die.val, par := p1 (best / 64) ++ p1 (best % 64) })

/-- The owner that a spindle's group wait points to; a spindle's wait on its own group is an edge while no close is pending (R77). -/
def Tile.waitEdge (t : Tile) (k : Nat) : Option Nat :=
  match (t.spin k).wait with
  | .group a =>
    let g := t.grp.get a.toNat
    if g.st = .opened && !(g.closing && g.owner.toNat = k) then some g.owner.toNat else none
  | _ => none

/-- The spindle lies on a cycle of group waits (R77). -/
def Tile.onCycle (t : Tile) (k : Nat) : Bool :=
  let rec go : Nat → Nat → Bool
    | 0, _ => false
    | n + 1, j =>
      match t.waitEdge j with
      | some o => o = k || go n o
      | none => false
  go 8 k

/-- ACCUMULATION_GROUP_CYCLE (R77). -/
def execAccumulationGroupCycle (t : TileRef) : State → Host.Outcome State Fault Refusal :=
  onMain (fun m =>
    let x := m.tileAt t.id
    if !m.tileRuns t.id then m
    else
      match (List.range 8).find? x.onCycle with
      | some k => m.spFault t.id k (x.spin k).pc.toNat 0x1101
      | none => m)

end Sys2Proof.Machine
end

