-- ==== Sys2Proof/Machine/Mailbox.lean ====
section
/-! DEFINITION. What every mailbox command shares: header checks, requester's rights, device state, status and response (R397–R407, R429–R431). -/

namespace Sys2Proof.Machine

/-- What a command's body answers: the state, the status of R403 and the response payload. -/
abbrev Reply := Main × Nat × Payload

/-- The command has applied: status 0x00 (R403). -/
def ok (m : Main) (l : List (Nat × Nat × Nat)) : Reply := (m, 0, payload l)

/-- The command is refused with a reason in byte 0: status 0x03, nothing applied (R404). -/
def refuse (m : Main) (reason : Nat) : Reply := (m, 3, payload [(0, 1, reason)])

/-- The response of a refused command holds the other fields of its table too, as they stand (R403, R404; log 133). -/
def fillRefused (l : Main → List (Nat × Nat × Nat)) (r : Reply) : Reply :=
  if r.2.1 = 3 then (r.1, 3, r.2.2 ||| payload (l r.1)) else r

/-- The command ends with a status and an all-zero payload (R403). -/
def reject (m : Main) (status : Nat) : Reply := (m, status, 0)

/-- The requester is the operator: a host or side-band mailbox (R429). -/
def Src.operator : Src → Bool
  | .tenant _ => false
  | _ => true

/-- The requester sits on the side-band (R400). -/
def Src.isSide : Src → Bool
  | .side _ => true
  | _ => false

/-- The requester owns a partition: the operator every one that is Open, a tenant its own sealed one (R431, R433). -/
def Main.owns (m : Main) (src : Src) (p : Nat) : Bool :=
  match src with
  | .tenant q => q.toNat = p && m.sealed p
  | _ => !m.partOn || (m.partAt p).st = .opened

/-- The requester owns the partition of every die of a mask. -/
def Main.ownsDies (m : Main) (src : Src) (mask : BitVec 4) : Bool :=
  (List.range 4).all (fun d => !(mask.getLsbD d) || m.owns src (m.variant.diePart d))

/-- The requester owns every die of a job. -/
def Main.ownsJob (m : Main) (src : Src) (j : Nat) : Bool :=
  match m.job? j with
  | some v => m.ownsDies src v.dies
  | none => true

/-- Side-band column of R406. -/
def sideAllowed (op : Nat) (reads : Bool) : Bool :=
  match op / 256 with
  | 1 | 5 | 6 | 7 => true
  | 4 => [0x0402, 0x0403, 0x0404, 0x0406, 0x0407, 0x0420].contains op
  | 8 => op = 0x0801 || op = 0x0813
  | 9 => reads
  | _ => false

/-- Commands that a tenant may issue (R431). -/
def tenantAllowed (op : Nat) (reads : Bool) : Bool :=
  match op / 256 with
  | 1 | 2 | 3 => true
  | 4 => [0x0401, 0x0405, 0x0403, 0x0404, 0x0406, 0x0407].contains op
  | 5 => [0x0503, 0x0520, 0x0521].contains op
  | 7 | 9 => reads
  | 8 => [0x0801, 0x0811, 0x0812, 0x0813, 0x0814, 0x0820].contains op
  | _ => false

/-- Commands that ROM executes in recovery (R460). -/
def recoveryOps : List Nat := [0x0101, 0x0102, 0x0601, 0x0602, 0x0603, 0x0604, 0x0701, 0x0702]

/-- The device state lets the command execute (R407, R497); the forced module reset is accepted in every state (R501). -/
def Main.stateAllows (m : Main) (op : Nat) : Bool :=
  match m.sup.state with
  | .recovery => recoveryOps.contains op
  | .romBoot | .auxOnly => [1, 5, 6, 7].contains (op / 256)
  | .starting => !([2, 3, 4, 8, 9].contains (op / 256))
  | _ => true

/-! ### The queue of handed-over commands -/

/-- The TCS 3 opcode under which a handed-over command runs (R401, R413, R414), 0 for a TCS 2 opcode that has none. -/
def cmdOp (c : BitVec 512) : Nat :=
  if bvAt c 0 1 = 2 then
    match bvAt c 1 1 with
    | 0x01 => 0x0101
    | 0x02 => 0x0102
    | 0x10 => 0x0201
    | 0x11 => 0x0210
    | 0x12 => 0x0211
    | 0x13 => 0x0202
    | 0x14 => 0x0203
    | 0x20 => 0x0402
    | 0x21 => 0x0406
    | 0x30 => 0x0701
    | _ => 0
  else bvAt c 2 2

/-- Payload of a handed-over command (R401, R413). -/
def cmdPay (c : BitVec 512) : Payload := if bvAt c 0 1 = 2 then c.extractLsb' 128 256 else c.extractLsb' 256 256

/-- Commands that only read; an opcode without a command applies nothing (R405). -/
def readOps : List Nat :=
  [0, 0x0101, 0x0102, 0x0212, 0x0234, 0x0303, 0x0321, 0x0342, 0x0358, 0x0364, 0x0403, 0x0404, 0x0406, 0x0407, 0x0420, 0x0503, 0x0602] ++
  [0x0701, 0x0702, 0x0801, 0x0813, 0x0910, 0x0931]

/-- What a command can have as its target (R405). -/
inductive CmdTarget where
  | job (j : Nat) | die (d : Nat) | hbm (n : Nat) | port (p : Nat) | block (b : Nat)
  deriving DecidableEq, Repr

/-- A job with the dies that it holds: a command on the job and one on such a die overlap (log 159). -/
def Main.jobTarget (m : Main) (j : Nat) : List CmdTarget :=
  .job j :: (List.range 4).filterMap (fun d => if j != 0 && (m.dieAt d).job.toNat = j then some (.die d) else none)

/-- The dies of a mask. -/
def maskTarget (mask : Nat) : List CmdTarget := (List.range 4).filterMap (fun d => if mask.testBit d then some (.die d) else none)

/-- A partition with its dies and memory stacks (R427). -/
def Main.partTarget (m : Main) (p : Nat) : List CmdTarget :=
  (List.range 4).filterMap (fun d => if m.variant.diePart d = p then some (.die d) else none) ++
  (List.range m.variant.stacks).filterMap (fun n => if m.variant.stackPart n = p then some (.hbm n) else none)

/-- The targets that a command names, none for the whole module (R405; log 159). -/
def Main.targets (m : Main) (src : Src) (op : Nat) (p : Payload) : Option (List CmdTarget) :=
  let job := m.jobTarget (bvAt p 0 4)
  match op with
  | 0x0201 => some (job ++ maskTarget (bvAt p 4 1))
  | 0x0202 | 0x0203 | 0x0204 | 0x0230 | 0x0231 | 0x0232 | 0x0233 | 0x0340 | 0x0341 | 0x0350 | 0x0351 | 0x0352 | 0x0353
  | 0x0354 | 0x0355 | 0x0356 | 0x0357 | 0x0363 | 0x0811 | 0x0812 | 0x0814 => some job
  | 0x0210 => some [.die (bvAt p 12 1)]
  | 0x0211 | 0x0213 | 0x0401 => some (maskTarget (bvAt p 0 1))
  | 0x0214 | 0x0320 | 0x0405 => some [.die (bvAt p 0 1)]
  | 0x0310 => some [.hbm (bvAt p 0 1)]
  | 0x0402 | 0x0410 => some [.block 3]
  | 0x0502 | 0x0504 => some (m.partTarget (bvAt p 0 1))
  | 0x0520 | 0x0521 =>
    match src with
    | .tenant q => some (m.partTarget q.toNat)
    | _ => none
  | 0x0802 => some (.port (bvAt p 0 1) :: ((List.range 9).filterMap (fun i => if (bvAt p 0 2).testBit i then some (.port i) else none)))
  | 0x0803 => some ((List.range 9).map .port)
  | _ => none

/-- Two targets overlap; the whole module overlaps every target (R405). -/
def overlaps (a b : Option (List CmdTarget)) : Bool :=
  match a, b with
  | some x, some y => x.any y.contains
  | _, _ => true

/-- A family 0x04 command from a side-band mailbox, which goes ahead of host commands on its target (R405). -/
def goesAhead (a b : Queued) : Bool :=
  Src.isSide a.src && cmdOp a.cmd / 256 = 4 && !Src.isSide b.src

/-- A waiting command of the queue keeps another from its apply point: both do more than read and their targets overlap (R405). -/
def Main.blocks (m : Main) (a b : Queued) : Bool :=
  !(readOps.contains (cmdOp a.cmd)) && !(readOps.contains (cmdOp b.cmd)) &&
  overlaps (m.targets a.src (cmdOp a.cmd) (cmdPay a.cmd)) (m.targets b.src (cmdOp b.cmd) (cmdPay b.cmd))

/-- A mailbox's command has its turn (R405): no earlier command on an overlapping target waits, but one that it goes ahead of, and no
later one waits that goes ahead of it. A row for which the queue holds no command stands for one handed over at that moment with none
before it (log 45). -/
def Main.hasTurn (m : Main) (src : Src) : Bool :=
  let before := m.queue.takeWhile (fun q => q.src != src)
  match m.queue.dropWhile (fun q => q.src != src) with
  | [] => true
  | q :: after =>
    !(before.any (fun e => m.blocks e q && !(goesAhead q e))) && !(after.any (fun e => m.blocks e q && goesAhead e q))

/-- The controller can take the command: core 0 runs, or ROM in recovery, the mailbox is not bound to a tenant, and the command has its
turn in the queue (R387, R405, R430). -/
def Main.takes (m : Main) (src : Src) : Bool :=
  (m.sup.state = .recovery || (m.core.get 0).runs) &&
  (match src with
   | .host k => !(m.box.get k.toNat).bound
   | _ => true) && m.hasTurn src

/-- Status of step 4 of R398 and of the requester's rights, 0 to go on (R401, R406, R407, R429, R431). `owned` says that the
requester owns every partition the command names, where the command has no reason of its own for that. -/
def Main.screen (m : Main) (op : Nat) (h : Hdr) (reads owned resv anyState : Bool) : Nat :=
  let session : Bool := match h.src with
    | .tenant q => m.sealed q.toNat && (m.partAt q.toNat).sess = some h.sid
    | _ => h.sid = 0
  let allowed : Bool := match h.src with
    | .host _ => true
    | .side _ => sideAllowed op reads
    | .tenant _ => tenantAllowed op reads
  if !h.rsvZero then 2
  else if !session then 8
  else if !allowed then 4
  else if !m.stateAllows op && !anyState then 5
  else if !resv then 2
  else if !owned then 4
  else 0

/-- Takes a handed-over command of a mailbox out of the queue (R405). -/
def dropQueued (src : Src) : List Queued → List Queued
  | [] => []
  | q :: r => if q.src = src then r else q :: dropQueued src r

/-- The state in which a command's body runs: the command has left the queue (R405). -/
def Main.taken (m : Main) (src : Src) : Main := { m with queue := dropQueued src m.queue }

/-- A body's result with its response: tag and opcode echoed, the status, the payload, and the number of the first record
logged (R402, R403). -/
def Main.reply (m : Main) (op : Nat) (h : Hdr) (r : Reply) (tcs2 : Bool := false) : Main :=
  { r.1 with resps := r.1.resps ++
      [{ src := h.src, tcs2 := tcs2, op := BitVec.ofNat 16 op, tag := h.tag, status := BitVec.ofNat 8 r.2.1,
         payload := if r.2.1 = 0 || r.2.1 = 3 then r.2.2 else 0,
         rec_ := if r.1.log.next = m.log.next then 0xFFFFFFFF else m.log.next, since := m.us }] }

/-- One command of a mailbox: the checks, its body at one instant, and its response, which COMMAND_COMPLETION writes
(R398, R402–R405). With a status other than 0x00 or 0x03 nothing has applied and the payload is zero (R403). -/
def Main.command (m : Main) (op : Nat) (h : Hdr) (p : Payload) (fields : List (Nat × Nat)) (body : Main → Reply)
    (reads : Bool := false) (owned : Bool := true) (tcs2 : Bool := false) (high : Bool := true)
    (anyState : Bool := false) : Main :=
  if !m.takes h.src then m
  else
    let x := m.taken h.src
    let st := x.screen op h reads owned (reservedZero p fields && high) anyState
    x.reply op h (if st != 0 then (x, st, 0) else body x) tcs2

/-- The reason that a response carries (R404, R413). -/
def Resp.reason (r : Resp) : Nat :=
  if r.op = 0x0101 || r.op = 0x0102 || r.op = 0x0406 || r.op = 0x0701 then 0 else if r.op = 0x0210 then bvAt r.payload 1 1 else bvAt r.payload 0 1

/-- The 64 response bytes of TCS 3 and TCS 2 (R402, R413). -/
def Resp.bytes (r : Resp) (seq : U32) (us : Nat) : BitVec 512 :=
  if r.tcs2 then
    bvOf 512 (p1 2 ++ p1 (if r.status = 0 then 0 else if r.status = 6 then 2 else 1) ++ p2 r.tag.toNat ++ p1 r.status.toNat ++
      p1 r.reason ++ toBytes 10 0 ++ bvBytes r.payload 32 ++ toBytes 16 0)
  else
    bvOf 512 (p1 3 ++ p1 r.status.toNat ++ p2 r.op.toNat ++ p4 r.tag.toNat ++ p4 seq.toNat ++
      p4 (min (us - r.since) (2 ^ 32 - 1)) ++ p4 r.rec_.toNat ++ toBytes 12 0 ++ bvBytes r.payload 32)

/-- TCS 3 opcodes of this manual. -/
def knownOps : List Nat :=
  [0x0101, 0x0102, 0x0201, 0x0202, 0x0203, 0x0204, 0x0210, 0x0211, 0x0212, 0x0213, 0x0214, 0x0230, 0x0231, 0x0232, 0x0233, 0x0234] ++
  [0x0302, 0x0303, 0x0310, 0x0320, 0x0321, 0x0340, 0x0341, 0x0342, 0x0350, 0x0351, 0x0352, 0x0353, 0x0354, 0x0355, 0x0356, 0x0357, 0x0358] ++
  [0x0360, 0x0361, 0x0362, 0x0363, 0x0364, 0x0401, 0x0402, 0x0403, 0x0404, 0x0405, 0x0406, 0x0407, 0x0410, 0x0420] ++
  [0x0501, 0x0502, 0x0503, 0x0504, 0x0510, 0x0520, 0x0521, 0x0601, 0x0602, 0x0603, 0x0604, 0x0605, 0x0606] ++
  [0x0701, 0x0702, 0x0703, 0x0704, 0x0705, 0x0706, 0x0801, 0x0802, 0x0803, 0x0810, 0x0811, 0x0812, 0x0813, 0x0814, 0x0820] ++
  [0x0910, 0x0912, 0x0931, 0x0932]

/-- A command is handed over to the controller (R398 steps 3 and 4, R405): one whose format or opcode is unknown is answered,
every other one waits in the queue for its execution. -/
def Main.handOver (m : Main) (src : Src) (cmd : BitVec 512) : Main :=
  let fmt := bvAt cmd 0 1
  let answer (st op : Nat) (tag : U32) : Main :=
    { m with resps := m.resps ++ [{ src := src, op := BitVec.ofNat 16 op, tag := tag, status := BitVec.ofNat 8 st, since := m.us }] }
  if fmt = 2 then { m with queue := m.queue ++ [{ src := src, cmd := cmd }] }
  else if fmt != 3 then answer 2 (bvAt cmd 2 2) (cmd.extractLsb' 32 32)
  else if !knownOps.contains (bvAt cmd 2 2) then answer 1 (bvAt cmd 2 2) (cmd.extractLsb' 32 32)
  else { m with queue := m.queue ++ [{ src := src, cmd := cmd }] }

end Sys2Proof.Machine
end

