-- ==== Sys2Proof/Machine/Staging.lean ====
section
/-! DEFINITION. The blank image: its layout and every check that the Chuck makes at staging (R98–R117, R314). -/

namespace Sys2Proof.Machine

/-- A check's answer: a value, or a reason of R111 with the index of the offending record or instruction. -/
abbrev Chk (α : Type) := Except (Nat × Nat) α

/-- A rule that must hold. -/
def need (c : Bool) (reason index : Nat) : Chk Unit := if c then .ok () else .error (reason, index)

/-- Runs a check over a list with the index of each item. -/
def eachIdx {α β : Type} (f : Nat → α → Chk β) : Nat → List α → Chk (List β)
  | _, [] => .ok []
  | i, a :: r => do
    let b ← f i a
    let l ← eachIdx f (i + 1) r
    return b :: l

/-- What the checks need from the die and the job. -/
structure StageEnv where
  die : Nat
  job : Nat
  section_ : Nat
  len : Nat
  /-- die mask of the open job -/
  dies : BitVec 4
  /-- the job runs only format 2 blanks, or the command is TCS 2 (R414) -/
  vane : Bool
  /-- a tile of the die is retired (R99) -/
  retired : Nat → Bool
  /-- a 64 KiB block of the pinned window lies in the pool in force and in no hole (R105, R148) -/
  inPool : Nat → Bool
  /-- live bytes of the pinned pool (R105) -/
  live : Nat
  /-- a run of device addresses is mapped (R105) -/
  mapped : Nat → Nat → Bool
  /-- a run of the memory-stack range outside state regions and the base-die area (R314) -/
  tailLocal : Nat → Nat → Bool
  /-- a run of host memory lies in the host ranges (R314) -/
  hostRun : Nat → Nat → Bool
  /-- the job has a Tailstock area (R314) -/
  area : Bool

/-- Image bytes as numbers. -/
abbrev Img := List Byte

/-- Header checks (R98, R101, R111, R135). -/
def hdrChk (e : StageEnv) (b : Img) : Chk Unit := do
  need (natAt b 0 4 = 0x4B4C4256 && (natAt b 4 2 = 2 || natAt b 4 2 = 3) && natAt b 6 2 = 64) 1 0
  need (!(e.vane && natAt b 4 2 = 3)) 1 0
  need (natAt b 8 4 = e.len && 64 ≤ e.len && e.len ≤ 0x4000000 && e.len % 64 = 0) 3 0
  need ((crc32c (b.take 12 ++ toBytes 4 0 ++ b.drop 16)).toNat = natAt b 12 4) 2 0
  need (natAt b 16 4 = e.job && natAt b 20 4 = e.section_) 4 0
  need (natAt b 26 1 % 16 &&& (15 - e.dies.toNat) = 0) 4 0
  need (natAt b 26 1 < 16 && natAt b 27 1 < 4 && zeroAt b 29 3 && zeroAt b 48 16) 5 0
  need (natAt b 24 1 ≤ 4 && (natAt b 25 1 ≤ 3 || natAt b 25 1 = 255) && natAt b 26 1 / 2 ^ e.die % 2 = 1) 5 0
  need (!(natAt b 4 2 = 2 && natAt b 27 1 / 2 = 1)) 16 0
  need (natAt b 28 1 = 0 || (16 ≤ natAt b 28 1 && natAt b 28 1 ≤ 26)) 20 0
  need (2 ≤ natAt b 34 2 && natAt b 34 2 ≤ 9 && natAt b 36 4 % 64 = 0 && natAt b 36 4 + 16 * natAt b 34 2 ≤ e.len) 6 0

/-- Record size of a segment type; 0 where it is variable (R102). -/
def recSize (t : Nat) : Nat :=
  match t with
  | 1 => 64 | 2 => 16 | 4 => 8 | 5 => 8 | 6 => 32 | 7 => 16 | 8 => 16 | 9 => 32 | _ => 0

/-- A segment: type, record count, offset and length (R102). -/
structure Seg where
  ty : Nat
  cnt : Nat
  off : Nat
  len : Nat

/-- The directory (R102). -/
def dirChk (b : Img) (len : Nat) (native : Bool) : Chk (List Seg) := do
  let d := natAt b 36 4
  let segs := (List.range (natAt b 34 2)).map (fun i =>
    ({ ty := natAt b (d + 16 * i) 2, cnt := natAt b (d + 16 * i + 4) 4, off := natAt b (d + 16 * i + 8) 4,
       len := natAt b (d + 16 * i + 12) 4 } : Seg))
  let _ ← eachIdx (fun i (s : Seg) => do
    need (natAt b (d + 16 * i + 2) 2 = 0) 5 i
    need (1 ≤ s.ty && s.ty ≤ 9 && s.off % 64 = 0 && s.off + s.len ≤ len) 6 i
    need (!(s.ty = 9 && !native)) 16 i
    need (recSize s.ty = 0 || s.cnt * recSize s.ty = s.len) 6 i
    need (s.len = 0 || 64 ≤ s.off) 6 i
    need ((segs.take i).all (fun x => x.ty != s.ty && !overlap x.off x.len s.off s.len)) 6 i) 0 segs
  need (segs.any (fun s => s.ty = 1) && segs.any (fun s => s.ty = 2)) 6 0
  return segs

/-- Byte offsets of the records of a segment type, in order. -/
def recsOf (segs : List Seg) (t : Nat) : List Nat :=
  match segs.find? (fun s => s.ty = t) with
  | some s => (List.range s.cnt).map (fun i => s.off + recSize t * i)
  | none => []

/-- The instruction words of the programs segment, each accepted under R67. -/
def progChk (b : Img) (segs : List Seg) (native : Bool) : Chk (List (BitVec 128)) :=
  eachIdx (fun i o => do
    let w := bvOf 128 (bytesAt b o 16)
    let (op, f) := wordFields w
    need (wordOk native op f) 8 i
    return w) 0 (recsOf segs 2)

/-- A tile-table record with its initial values (R103, R104). An initial-values block that runs past its segment, or that has no segment, has
reason 0x06 (DESIGN CHOICE, log 153). -/
def tileChk (e : StageEnv) (b : Img) (segs : List Seg) (prog : List (BitVec 128)) (seen : List Nat) (i o : Nat) : Chk TileRec := do
  let tid := natAt b o 2
  need (tid < 512 && tid % 64 < 36 && !seen.contains tid && !(e.retired tid)) 7 i
  need (zeroAt b (o + 12) 4 && zeroAt b (o + 32) 32) 5 i
  let plen := natAt b (o + 2) 2
  let start := natAt b (o + 4) 4
  need (1 ≤ plen && plen ≤ 8192 && start + plen ≤ prog.length) 5 i
  let entry := (List.range 8).map (fun k => natAt b (o + 16 + 2 * k) 2)
  need (entry.all (fun x => x = 0xFFFF || x < plen)) 5 i
  let sp := entry.filter (· != 0xFFFF)
  let io := natAt b (o + 8) 4
  let rec0 : TileRec :=
    { tid := BitVec.ofNat 9 tid, prog := (prog.drop start).take plen, entry := entry.map (BitVec.ofNat 16) }
  if io = 0xFFFFFFFF then
    return { rec0 with w := List.replicate 16 0, init := sp.map (fun _ => (List.replicate 32 0, List.replicate 4 0)) }
  else
    match segs.find? (fun s => s.ty = 3) with
    | none => throw (6, i)
    | some s =>
      need (io + 32 + 272 * sp.length ≤ s.len) 6 i
      let a := s.off + io
      need ((List.range sp.length).all (fun k => zeroAt b (a + 32 + 272 * k + 264) 8)) 5 i
      return { rec0 with
        w := (List.range 16).map (fun k => BitVec.ofNat 16 (natAt b (a + 2 * k) 2))
        init := (List.range sp.length).map (fun k =>
          let r := a + 32 + 272 * k
          ((List.range 32).map (fun x => BitVec.ofNat 64 (natAt b (r + 8 * x) 8)),
           (List.range 4).map (fun x => BitVec.ofNat 16 (natAt b (r + 256 + 2 * x) 2)))) }

/-- The tile table (R98, R99, R101, R103). -/
def tilesChk (e : StageEnv) (b : Img) (segs : List Seg) (prog : List (BitVec 128)) : Chk (List TileRec) := do
  let os := recsOf segs 1
  need (os.length = natAt b 32 2 && 1 ≤ os.length && os.length ≤ 288) 6 0
  let ids := os.map (fun o => natAt b o 2)
  eachIdx (fun i o => tileChk e b segs prog (ids.take i) i o) 0 os

/-- The tensor table (R107). -/
def tensorsChk (b : Img) (segs : List Seg) : Chk (List TensorRec) := do
  let os := recsOf segs 8
  let slots := os.map (fun o => natAt b (o + 8) 1)
  eachIdx (fun i o => do
    let c := natAt b (o + 6) 2
    let k := natAt b (o + 12) 4
    let s := natAt b (o + 8) 1
    need (natAt b (o + 9) 1 = 0 && natAt b (o + 4) 1 ≤ 15 && natAt b (o + 5) 1 ≤ 3) 5 i
    need (1 ≤ c && c ≤ 1152 && (if c = 1 then k = 0 else k != 0 && k % 32 = 0)) 9 i
    need (s = 255 || (s ≤ 15 && !((slots.take i).contains s))) 14 i
    return { id := BitVec.ofNat 32 (natAt b o 4), fmt := BitVec.ofNat 4 (natAt b (o + 4) 1), kind := BitVec.ofNat 2 (natAt b (o + 5) 1),
             chunks := BitVec.ofNat 16 c, slot := if s = 255 then none else some (BitVec.ofNat 4 s),
             layer := BitVec.ofNat 16 (natAt b (o + 10) 2), kchunk := BitVec.ofNat 32 k }) 0 os

/-- The queue bindings (R113, R115). -/
def bindsChk (e : StageEnv) (b : Img) (segs : List Seg) (tiles : List TileRec) : Chk (List BindRec) := do
  let os := recsOf segs 4
  let named (t : Nat) : Bool := tiles.any (fun r => r.tid.toNat = t)
  let peers := natAt b 26 1
  eachIdx (fun i o => do
    let st := natAt b o 2
    let sx := natAt b (o + 2) 1
    let dt := natAt b (o + 4) 2
    let dq := natAt b (o + 6) 1
    need (natAt b (o + 3) 1 = 0 && natAt b (o + 7) 1 = 0) 5 i
    need (named st && sx ≤ 0x4F && dt < 2048 && dt % 64 < 36 && dq ≤ 0x13 && peers / 2 ^ (dt / 512) % 2 = 1) 10 i
    need (dt / 512 != e.die || named (dt % 512)) 10 i
    need ((os.take i).all (fun x => !(natAt b x 2 = st && natAt b (x + 2) 1 = sx) &&
      !(natAt b (x + 4) 2 = dt && natAt b (x + 6) 1 = dq))) 10 i
    return { src := BitVec.ofNat 9 st, sidx := BitVec.ofNat 8 sx, dst := BitVec.ofNat 11 dt, dq := BitVec.ofNat 8 dq }) 0 os

/-- The steering table (R117). -/
def steersChk (b : Img) (segs : List Seg) (tiles : List TileRec) : Chk (List SteerRec) := do
  let os := recsOf segs 5
  eachIdx (fun i o => do
    let t := natAt b o 2
    let u := natAt b (o + 2) 1
    need (zeroAt b (o + 4) 4) 5 i
    need (tiles.any (fun r => r.tid.toNat = t) && u ≤ 3 && natAt b (o + 3) 1 ≤ 15 &&
      (os.take i).all (fun x => !(natAt b x 2 = t && natAt b (x + 2) 1 = u))) 11 i
    return { tid := BitVec.ofNat 9 t, unit := BitVec.ofNat 2 u, dq := BitVec.ofNat 4 (natAt b (o + 3) 1) }) 0 os

/-- The rules of R115 and R117 that join instructions, bindings and steering units. -/
def queueChk (e : StageEnv) (starts : List Nat) (tiles : List TileRec) (binds : List BindRec) (steers : List SteerRec) : Chk Unit := do
  let _ ← eachIdx (fun i (x : BindRec) =>
    need (!(x.sidx.toNat ≥ 0x40 && x.dst.toNat = e.die * 512 + x.src.toNat && steers.any (fun s =>
      s.tid = x.src && s.unit.toNat = (x.sidx.toNat - 0x40) / 4 && s.dq.toNat = x.dq.toNat))) 10 i) 0 binds
  let _ ← eachIdx (fun n (t : TileRec) => do
    let _ ← eachIdx (fun i w => do
      let (op, f) := wordFields w
      let steered (q : BitVec 6) : Bool := q.getLsbD 5 && steers.any (fun s => s.tid = t.tid && s.dq = q.setWidth 4)
      need (!(steered f.qa) && !(steered f.qb)) 11 i
      need (!(f.qa == f.qb && f.qa.getLsbD 5 && f.qa.getLsbD 4)) 10 i
      need (op != 0x28 || binds.any (fun x => x.src = t.tid && x.sidx.toNat = f.imm.toNat / 8 % 64)) 10 i) (starts.getD n 0) t.prog
    return ()) 0 tiles
  return ()

/-- The pinned regions (R105, R148). -/
def pinsChk (e : StageEnv) (b : Img) (segs : List Seg) : Chk (List PinRec) := do
  let os := recsOf segs 6
  let l ← eachIdx (fun i o => do
    let off := natAt b o 8
    let len := natAt b (o + 8) 8
    let init := natAt b (o + 16) 1
    let src := natAt b (o + 24) 8
    need (zeroAt b (o + 17) 7 && init ≤ 3 && (2 ≤ init || src = 0) && off % 64 = 0 && len % 64 = 0) 5 i
    need (off + len ≤ 2 ^ 31 && (len = 0 ||
      (List.range ((off + len - 1) / 65536 - off / 65536 + 1)).all (fun k => e.inPool ((off / 65536 + k) * 65536)))) 12 i
    need ((os.take i).all (fun x => !overlap (natAt b x 8) (natAt b (x + 8) 8) off len)) 12 i
    need (init != 2 || src + len ≤ e.len) 12 i
    need (init != 3 || src % 64 = 0) 5 i
    need (init != 3 || e.mapped src len) 12 i
    return { off := off, len := len, init := BitVec.ofNat 8 init, src := BitVec.ofNat 64 src : PinRec }) 0 os
  let sum := (l.map (·.len)).sum
  need (natAt b 40 8 = sum && sum ≤ e.live) 12 0
  return l

/-- The preloads (R106). -/
def presChk (e : StageEnv) (b : Img) (segs : List Seg) (tiles : List TileRec) : Chk (List PreRec) :=
  eachIdx (fun i o => do
    let t := natAt b o 2
    let a := natAt b (o + 4) 4
    let n := natAt b (o + 8) 4
    let x := natAt b (o + 12) 4
    need (natAt b (o + 2) 2 = 0 && a % 64 = 0) 5 i
    match tiles.find? (fun r => r.tid.toNat = t) with
    | none => throw (7, i)
    | some r =>
      need (a + n ≤ 0x80000 - 16 * r.prog.length && x + n ≤ e.len) 13 i
      return { tid := r.tid, addr := a, len := n, off := x }) 0 (recsOf segs 7)

/-- The Tailstock schedule (R314). -/
def tailsChk (e : StageEnv) (b : Img) (segs : List Seg) : Chk (List TailRec) :=
  eachIdx (fun i o => do
    let op := natAt b (o + 2) 1
    let da := natAt b (o + 8) 8
    let host := natAt b (o + 16) 8
    let len := natAt b (o + 24) 4
    need (e.area && natAt b o 2 < 1024 && 1 ≤ op && op ≤ 3 && natAt b (o + 3) 1 < 4 && natAt b (o + 4) 1 < 2 &&
      natAt b (o + 5) 1 < 16 && natAt b (o + 6) 2 < 512 && natAt b (o + 6) 2 % 64 < 36) 21 i
    need (if op = 3 then da = 0 && host = 0 && len = 0
          else da % 4096 = 0 && host % 4096 = 0 && len % 4096 = 0 && 4096 ≤ len && len ≤ 0x1000000 &&
            e.tailLocal da len && e.hostRun host len) 21 i
    return { region := BitVec.ofNat 10 (natAt b o 2), op := BitVec.ofNat 8 op, release := natAt b (o + 3) 1 % 2 = 1,
             signal := natAt b (o + 3) 1 / 2 = 1, atEnd := natAt b (o + 4) 1 = 1, wc := BitVec.ofNat 4 (natAt b (o + 5) 1),
             tile := BitVec.ofNat 9 (natAt b (o + 6) 2), da := BitVec.ofNat 56 da, hoff := host, len := len,
             section_ := BitVec.ofNat 32 (natAt b (o + 28) 4) : TailRec }) 0 (recsOf segs 9)

/-- The whole image, checked (R109). -/
def imageChk (e : StageEnv) (b : Img) (da : Nat) : Chk Blank := do
  hdrChk e b
  let native : Bool := natAt b 4 2 = 3
  let segs ← dirChk b e.len native
  let prog ← progChk b segs native
  let tiles ← tilesChk e b segs prog
  let tensors ← tensorsChk b segs
  let binds ← bindsChk e b segs tiles
  let steers ← steersChk b segs tiles
  queueChk e ((recsOf segs 1).map (fun o => natAt b (o + 4) 4)) tiles binds steers
  let pins ← pinsChk e b segs
  let pres ← presChk e b segs tiles
  let tails ← tailsChk e b segs
  return { da := BitVec.ofNat 56 da, len := e.len, crc := BitVec.ofNat 32 (natAt b 12 4), native := native,
           job := BitVec.ofNat 32 e.job, section_ := BitVec.ofNat 32 e.section_, phase := BitVec.ofNat 3 (natAt b 24 1),
           epoch := if natAt b 25 1 = 255 then none else some (BitVec.ofNat 2 (natAt b 25 1)),
           peers := BitVec.ofNat 4 (natAt b 26 1), training := natAt b 27 1 % 2 = 1, versioned := natAt b 27 1 / 2 = 1,
           chatter := if natAt b 28 1 = 0 then 20 else natAt b 28 1, tiles := tiles, binds := binds, steers := steers,
           pins := pins, pres := pres, tensors := tensors, tails := tails }

/-- What the checks of a staging on die `d` see of the module. -/
def Main.stageEnv (m : Main) (d : Nat) (j : Job) (job sec len : Nat) (tcs2 : Bool) : StageEnv :=
  let p := m.diePartOf d
  let s := m.sramAt d
  { die := d, job := job, section_ := sec, len := len, dies := j.dies, vane := j.vane || tcs2
    retired := fun t => (m.tileAt (d * 512 + t)).retired
    inPool := fun o => s.inPool o && !(s.retired.contains (colOf o))
    live := s.pinLive
    mapped := fun a n => m.mapped p a n
    tailLocal := fun a n =>
      if a < 2 ^ 41 then m.mapped p a n && !(m.inRegion a n)
      else pinBase + d * 2 ^ 31 ≤ a && a + n ≤ pinBase + (d + 1) * 2 ^ 31
    hostRun := fun o n => m.mapped p (hostBase + o) n
    area := j.area.isSome }

/-- The response of stage blank: queue position, reason and index (R109). -/
def stageReply (m : Main) (d pos reason idx : Nat) : Reply :=
  let pay := payload [(0, 1, pos), (1, 1, reason), (4, 4, idx)]
  if reason = 0 then (m, 0, pay)
  else
    ((m.updDie d (fun v => { v with lastReason := BitVec.ofNat 8 reason })).log!
      { code := 0x1209, cls := .rec_, die := some d, par := p1 reason }, 3, pay)

/-- Stage blank (R108–R111, R133, R166). An image that cannot be read, because its DA is unmapped or its port does not serve, has the reason of
a poisoned read, 0x13 (DESIGN CHOICE, log 156). -/
def Main.stage (m : Main) (p : Payload) (tcs2 : Bool) : Reply :=
  let da := bvAt p 0 8
  let len := bvAt p 8 4
  let d := bvAt p 12 1
  let job := bvAt p 16 4
  let sec := bvAt p 20 4
  if d > 3 || da % 64 != 0 then reject m 2
  else
    let v := m.dieAt d
    match m.job? job with
    | none => stageReply m d 0 4 0
    | some j =>
      if !(j.dies.getLsbD d) || v.shavings.isNone then stageReply m d 0 4 0
      else if v.staged.length ≥ 4 then stageReply m d 0 0x12 0
      else if (m.sramAt d).below && (m.sramAt d).live < 0x10000000 then stageReply m d 0 12 0
      else if len < 64 || len > 0x4000000 || len % 64 != 0 then stageReply m d 0 3 0
      else
        match m.daGet (m.diePartOf d) da len with
        | (m, none) => stageReply m d 0 0x13 0
        | (m, some b) =>
          match imageChk (m.stageEnv d j job sec len tcs2) b da with
          | .error (r, i) => stageReply m d 0 r i
          | .ok x => stageReply (m.updDie d (fun v => { v with staged := v.staged ++ [x] })) d v.staged.length 0 0

end Sys2Proof.Machine
end

