-- ==== Sys2Proof/Machine/Tokens.lean ====
section
/-! DEFINITION. Tokens on arrival, steering units, and the Chatter Detector (R114–R132). -/

namespace Sys2Proof.Machine

/-- The 32-bit tag of a token (R112). -/
def Token.tag (k : Token) : Nat := k.epoch.toNat * 2 ^ 30 + (if k.control then 2 ^ 29 else 0) + k.src.toNat * 2 ^ 17 + k.seq.toNat

/-- Tokens in the spill FIFOs of a die (R133). -/
def Main.spillTokens (m : Main) (d : Nat) : Nat :=
  ((m.blankTiles d).map (fun id => ((List.range 20).map (fun i => ((m.tileAt id).queue i).spill.length)).sum)).sum

/-- Tokens that the shavings area has room for (R133). -/
def Die.spillRoom (v : Die) : Nat :=
  match v.shavings with
  | some (_, size) => (size - 2 * 2 ^ 20) / 516
  | none => 0

/-- A token is stale on its die (R129); so is one that crosses between dies that run blanks of different jobs or phase tags (R30). -/
def Main.stale (m : Main) (d : Nat) (dst : Nat) (k : Token) : Bool :=
  let v := m.dieAt d
  k.epoch != v.epoch || !((m.blankTiles d).contains dst) || (m.tileAt dst).retired ||
  (match v.run with
   | some b => !(b.peers.getLsbD (k.src.toNat / 512)) ||
       (match (m.dieAt (k.src.toNat / 512)).run with
        | some c => c.job != b.job || c.phase != b.phase
        | none => false)
   | none => true)

/-- A steering unit holds a token, so that it waits until it fires (R118, R120). -/
def Tile.steerWaits (t : Tile) (u : Nat) : Bool :=
  let s := t.steer.get u
  match s.dq with
  | none => false
  | some q => s.ctl.toks != [] || (t.q.get q.toNat).toks != []

/-- The wait of a steering unit that holds its first token begins now (R132). -/
def Tile.noteSteer (t old : Tile) : Tile :=
  { t with steer := t.steer.map (fun e => (e.1, if t.steerWaits e.1 && !(old.steerWaits e.1) then { e.2 with since := t.beat } else e.2)) }

/-- A token joins its queue: the FIFO in spill mode, else the physical queue. A token that meets no free place outside spill mode, as the
credits that a spill returned allow, opens the queue's FIFO again (R131; DESIGN CHOICE, log 146). -/
def Queue.join (x : Queue) (size : Nat) (k : Token) : Queue :=
  if x.spilling || x.toks.length ≥ size then { x with spill := x.spill ++ [k], spilling := true } else { x with toks := x.toks ++ [k] }

/-- A token reaches its queue (R114, R131, R132). -/
def Main.accept (m : Main) (d dst q : Nat) (k : Token) : Main :=
  let x := (m.tileAt dst).queue q
  let full := (x.spilling || x.toks.length ≥ queueSize q) && m.spillTokens d ≥ (m.dieAt d).spillRoom
  if full then m.blankFault d 0x1206 (p1 d ++ p2 dst ++ p1 q) dst 0 0
  else (m.updTile dst (fun t => (t.updQueue q (fun x => x.join (queueSize q) k)).noteSteer t)).progress d

/-- A token in flight lands (R116, R126, R128, R129). -/
def Main.deliver (m : Main) (d : Nat) (i : Nat) : Main :=
  let v := m.dieAt d
  match v.flight[i]? with
  | none => m
  | some (dst, dq, k) =>
    if (v.flight.take i).any (fun e => e.2.2.src = k.src && e.2.2.sidx = k.sidx) then m
    else
      let m := m.updDie d (fun v => { v with flight := v.flight.eraseIdx i })
      let par := p1 d ++ p2 dst.toNat ++ p1 dq.toNat ++ p4 k.tag
      let drop (m : Main) : Main := m.updDie d (fun v => { v with discarded := v.discarded + 1 })
      match v.st with
      | .forcing | .faulted => drop m
      | .idle =>
        let m := (drop m).updDie d (fun v => { v with staleIdle := v.staleIdle + 1 })
        let n := (m.dieAt d).staleIdle
        let r := m.logRate 1 d { code := 0x1201, cls := .rec_, die := some d, par := par ++ p4 n }
        if r.log.rate = m.log.rate then m else r.updDie d (fun v => { v with staleIdle := 0 })
      | .loading => (drop m).blankFault d 0x1201 par dst.toNat 0 0
      | .running | .ending =>
        if m.stale d dst.toNat k then (drop m).blankFault d 0x1201 par dst.toNat 0 0
        else m.accept d dst.toNat dq.toNat k

/-- TOKEN_DELIVERED (R116, R129). -/
def execTokenDelivered (d : Fin 4) (i : Nat) : State → Host.Outcome State Fault Refusal :=
  onMain (fun m => m.deliver d.val i)

/-- The routing word of a control token (R118). -/
structure Routing where
  mask : Nat
  drop : Bool
  count : Nat
  rsv : Bool

def routing (data : BitVec 4096) : Routing :=
  { mask := data.toNat % 16, drop := data.getLsbD 4, count := data.toNat / 256 % 256,
    rsv := data.extractLsb' 5 3 != 0 || data.extractLsb' 16 48 != 0 }

/-- Outputs that a routing word names. -/
def Routing.outs (r : Routing) : List Nat := (List.range 4).filter (fun o => r.mask / 2 ^ o % 2 = 1)

/-- A bad control token (R119). -/
def Tile.badRouting (t : Tile) (u : Nat) (r : Routing) : Bool :=
  r.count = 0 || (r.drop && r.mask != 0) || (!r.drop && r.mask = 0) || r.rsv ||
  r.outs.any (fun o => !(t.bind.get (0x40 + 4 * u + o)).valid)

/-- One firing of a steering unit (R118, R119). In step 3 of a rechuck, with the die Ending, no unit fires any more, so that a token that
lands then counts as left over (DESIGN CHOICE, log 147). -/
def Main.steer (m : Main) (id u : Nat) : Main :=
  if !m.tileRuns id then m
  else
    let t := m.tileAt id
    let s := t.steer.get u
    match s.dq, s.ctl.toks with
    | some q, c :: _ =>
      match (t.q.get q.toNat).toks with
      | [] => m
      | k :: _ =>
        let r := routing c.data
        if t.badRouting u r then m.blankFault (id / 512) 0x1208 (p1 (id / 512) ++ p2 id ++ p1 u) id 0 0
        else if !r.drop && r.outs.any (fun o => (t.bind.get (0x40 + 4 * u + o)).credits = 0) then m
        else
          let m := if r.drop then m else r.outs.foldl (fun m o => m.sendToken id (0x40 + 4 * u + o) k.data) m
          let left := (s.left.getD (BitVec.ofNat 8 r.count)) - 1
          let m := m.popQueue id q.toNat
          let m := m.updTile id (fun t => { t with steer := t.steer.upd u (fun s =>
            { s with left := if left = 0 then none else some left, since := t.beat }) })
          let m := if left = 0 then m.popQueue id (16 + u) else m
          m.progress (id / 512)
    | _, _ => m

/-- STEERING_UNIT_FIRING (R118, R119). -/
def execSteeringUnitFiring (t : TileRef) (u : Fin 4) : State → Host.Outcome State Fault Refusal :=
  onMain (fun m => m.steer t.id u.val)

/-- Source indexes of a tile whose sender waits for credit: spindles in a QSEND, and steering units whose firing lacks one (R131). -/
def Tile.waitingSenders (t : Tile) : List Nat :=
  (List.range 8).filterMap (fun k =>
    match (t.spin k).sending with
    | some (b, _) => if (t.bind.get b.toNat).credits = 0 then some b.toNat else none
    | none => none) ++
  ((List.range 4).map (fun u =>
    let s := t.steer.get u
    match s.dq, s.ctl.toks with
    | some q, c :: _ =>
      if (t.q.get q.toNat).toks = [] then []
      else
        let r := routing c.data
        if r.drop then [] else (r.outs.map (fun o => 0x40 + 4 * u + o)).filter (fun i => (t.bind.get i).credits = 0)
    | _, _ => [])).flatten

/-- Queues on a die whose binding has a waiting sender: tile and queue code (R131). -/
def Main.fullQueues (m : Main) (d : Nat) : List (Nat × Nat) :=
  let srcs := ((List.range 4).map m.blankTiles).flatten
  ((srcs.map (fun id => (m.tileAt id).waitingSenders.map (fun i =>
      let b := (m.tileAt id).bind.get i
      (b.dst.toNat, b.dq.toNat)))).flatten.filter (fun e => e.1 / 512 = d)).eraseDups

/-- Marks the newest held tokens of a list as having returned their credit: at most four (R131). -/
def releaseNewest (l : List Token) : List Token × List Token :=
  let r := l.reverse.foldl (fun (a : List Token × List Token) k =>
    if k.held && a.2.length < 4 then ({ k with held := false } :: a.1, k :: a.2) else (k :: a.1, a.2)) ([], [])
  r

/-- Spills one queue, or spills it again (R131). False where no credit can be returned. -/
def Main.spillQueue (m : Main) (id q : Nat) : Main × Bool :=
  let x := (m.tileAt id).queue q
  if !x.spilling then
    let keep := x.toks.take (x.toks.length - 4)
    let (rest, rel) := releaseNewest (x.toks.drop (x.toks.length - 4))
    if rel = [] then (m, false)
    else
      let m := m.updTile id (fun t => t.updQueue q (fun _ => { toks := keep, spill := rest, spilling := true, freed := 0 }))
      (rel.foldl Main.credit m, true)
  else
    let (all, rel) := releaseNewest (x.toks ++ x.spill)
    if rel = [] then (m, false)
    else
      let n := x.toks.length
      let m := m.updTile id (fun t => t.updQueue q (fun y => { y with toks := all.take n, spill := all.drop n }))
      (rel.foldl Main.credit m, true)

/-- A request of a die waits where a wait is bounded and is not no progress: at a column under sparing or at a regulator (R164, R182). -/
def Main.slotHeld (m : Main) (r : Req) : Bool :=
  match r.target with
  | .peer _ | .slow | .host => true
  | .pinned => (List.range r.lines).any (fun i =>
      let o := r.lineDa i - pinBase
      m.colHeld (o / 2 ^ 31) (colOf (o % 2 ^ 31)))
  | .slice _ _ => (List.range r.lines).any (fun i =>
      let a := r.lineDa i
      m.lineHeld a || (match m.line? a with
        | some l => l.pending && !(m.mayAccess (a / 2 ^ 37) l.part)
        | none => false))
  | .cache => false

/-- A die's window is suspended: a request outstanding to the fabric, the slow tier or host memory, to a column under sparing or at a
regulator, a spindle that waits on slots, an open collective of its section, or parked regions (R91, R130, R164, R182, R189, R351). -/
def Main.windowHeld (m : Main) (d : Nat) : Bool :=
  (m.blankTiles d).any (fun id => (m.tileAt id).slots.any (fun e => m.slotHeld e.2) ||
    (m.tileAt id).sp.any (fun e => e.2.st = .running && e.2.wait.cls = 1)) ||
  (match (m.dieAt d).run, m.dieJob d with
   | some b, some j => b.training && j.colls != []
   | _, _ => false) || (m.dieAt d).parked != 0

/-- What a steering unit waits for: 6 a control token, 7 a data token, 8 credit (R132). -/
def Tile.steerCls (t : Tile) (u : Nat) : Nat :=
  let s := t.steer.get u
  if s.ctl.toks = [] then 6
  else match s.dq with
    | some q => if (t.q.get q.toNat).toks = [] then 7 else 8
    | none => 6

/-- The unit that has waited longest on a die: tile, spindle or 8 + steering unit, and its kind of wait (R120, R132). -/
def Main.oldestWait (m : Main) (d : Nat) : Option (Nat × Nat × Nat) :=
  let cand := ((m.blankTiles d).map (fun id =>
    let t := m.tileAt id
    (List.range 8).filterMap (fun k =>
      let p := t.spin k
      if (p.st = .running || p.st = .halting) && p.wait != .none then some (p.since, id, k, p.wait.cls) else none) ++
    (List.range 4).filterMap (fun u =>
      if t.steerWaits u then some ((t.steer.get u).since, id, 8 + u, t.steerCls u) else none))).flatten
  (cand.foldl (fun (b : Option (Nat × Nat × Nat × Nat)) e =>
    match b with
    | none => some e
    | some x =>
      if e.1 < x.1 || (e.1 = x.1 && (e.2.1 < x.2.1 || (e.2.1 = x.2.1 && e.2.2.1 < x.2.2.1))) then some e else b) none).map (·.2)

/-- The window of no progress expires (R130–R132). -/
def Main.chatter (m : Main) (d : Nat) : Main :=
  let v := m.dieAt d
  if v.st != .running || m.windowHeld d then m
  else if v.progress then m.updDie d (fun v => { v with progress := false })
  else
    let qs := m.fullQueues d
    let stuck : Main :=
      let (id, k, w) := (m.oldestWait d).getD (0, 0, 0)
      m.blankFault d 0x1202 (p1 d ++ p2 id ++ p1 k ++ p1 w) id k ((m.tileAt id).spin k).pc.toNat
    let senders := (m.blankTiles d).any (fun id => (m.tileAt id).waitingSenders != []) || qs != []
    if !senders then stuck
    else if m.spillTokens d + 4 * (qs.filter (fun e => !((m.tileAt e.1).queue e.2).spilling)).length > v.spillRoom then
      match qs with
      | e :: _ => m.blankFault d 0x1206 (p1 d ++ p2 e.1 ++ p1 e.2) e.1 0 0
      | [] => m
    else
      let (m1, n) := qs.foldl (fun (a : Main × Nat) e =>
        match a.1.spillQueue e.1 e.2 with
        | (m, true) => (m, a.2 + 1)
        | (m, false) => (m, a.2)) (m, 0)
      if n = 0 then (if v.spilled then stuck else m)
      else
        let m2 := m1.updDie d (fun v => { v with spilled := true, progress := false })
        if v.spillLogged then m2
        else (m2.updDie d (fun v => { v with spillLogged := true })).log!
          { code := 0x1205, cls := .adv, die := some d, step := m.dieStep d, par := p1 d ++ p2 (qs.headD (0xFFFF, 0xFF)).1 ++ p1 (qs.headD (0xFFFF, 0xFF)).2 ++ p4 n }

/-- CHATTER_WINDOW_EXPIRY (R130–R132). -/
def execChatterWindowExpiry (d : Fin 4) : State → Host.Outcome State Fault Refusal :=
  onMain (fun m => m.chatter d.val)

/-- The head of a queue's FIFO takes a place that the consumer has freed; an empty physical queue, whose consumer can free none, is
refilled too. The queue leaves spill mode when its FIFO is empty (R131; log 146). -/
def Queue.refill (y : Queue) (size : Nat) : Queue :=
  match y.spill with
  | [] => { y with spilling := false, freed := 0 }
  | k :: r =>
    if y.toks.length < size && (y.freed != 0 || y.toks = []) then
      { toks := y.toks ++ [k], spill := r, spilling := r != [], freed := if r = [] then 0 else y.freed - 1 }
    else y

/-- SPILL_REFILL (R131). -/
def execSpillRefill (t : TileRef) (q : Fin 20) : State → Host.Outcome State Fault Refusal :=
  onMain (fun m => m.updTile t.id (fun x => (x.updQueue q.val (fun y => y.refill (queueSize q.val))).noteSteer x))

end Sys2Proof.Machine
end

