-- ==== Sys2Proof/Machine/Chuck.lean ====
section
/-! DEFINITION. The Chuck: staging commands, rechucking, the version gate, loading and forced rechucks (R108–R136, R201–R206, R254–R260, R314–R318, R367). -/

namespace Sys2Proof.Machine

/-! ### Shared pieces -/

/-- A guard check of R266 trips in a job's open step: it sets its bit, and one that is disabled logs 0x9302 once per step. -/
def Main.guard (m : Main) (j bit : Nat) : Main :=
  match m.job? j with
  | none => m
  | some v =>
    if !v.stepOpen then m
    else
      let m := m.trip j bit
      if bit < 6 && !(v.guard.getLsbD bit) then
        m.logOnce j (0x930200 + bit) { code := 0x9302, cls := .adv, par := p4 j ++ p1 bit }
      else m

/-- Dies of a mask. -/
def diesOf (mask : BitVec 4) : List Nat := (List.range 4).filter mask.getLsbD

/-- Dies of the peer group that a die belongs to: that of the head blank it has agreed on, else that of the section it runs; after step 4
it goes on independently (R101, R122, R123). -/
def Main.groupOf (m : Main) (d : Nat) : List Nat :=
  let v := m.dieAt d
  match (if v.agreed then v.staged.head? else if v.settled then none else v.run) with
  | some b => diesOf b.peers
  | none => [d]

/-- Every byte of a list of cells written as FP32 words. -/
def wordAt (s : Mem) (a : Nat) : U32 := bvOf 32 (s.read a 4)

/-- Maximum of magnitudes, any NaN making it NaN (R256). -/
def foldAmax (a b : U32) : U32 :=
  if isNan32 a || isNan32 b then 0x7fc00000 else if flt (fabs a) (fabs b) then fabs b else fabs a

/-- A blank released starts the start ramp after every die has idled for 1 s, or ends a stop ramp (R367). -/
def Main.startRamp (m : Main) (d : Nat) : Main :=
  let w := m.pow
  let go (r : Ramp) : Main :=
    ({ m with pow := { w with ramp := r, rampDraw := w.capping w.est, rampFor := 0, idleFor := 0 } }).log!
      { code := 0x4401, cls := .rec_, die := some d }
  if !w.fly.en then { m with pow := { w with idleFor := 0 } }
  else if w.ramp = .stop then go .start
  else if w.idleFor ≥ 1000000 then go .offset
  else { m with pow := { w with idleFor := 0 } }

/-- The stop ramp begins, from the present draw (R367). -/
def Main.stopRamp (m : Main) : Main :=
  let w := m.pow
  if !w.fly.en || w.ramp = .stop then m
  else ({ m with pow := { w with ramp := .stop, rampDraw := w.capping w.est, rampFor := 0 } }).log! { code := 0x4402, cls := .rec_ }

/-! ### The end of a section -/

/-- Every spindle with an entry point has halted and every operation has completed (R122). -/
def Main.sectionDone (m : Main) (d : Nat) : Bool :=
  (m.blankTiles d).all (fun id =>
    let t := m.tileAt id
    t.ops.isEmpty && (List.range 8).all (fun k => (t.spin k).st = .halted || (t.spin k).st = .noEntry))

/-- SECTION_END (R122 step 1). -/
def execSectionEnd (d : Fin 4) : State → Host.Outcome State Fault Refusal :=
  onMain (fun m =>
    if (m.dieAt d.val).st = .running && m.sectionDone d.val then
      m.updDie d.val (fun v => { v with st := .ending, settled := false })
    else m)

/-- Every die of the group has ended the same section (R122 step 2). -/
def Main.barrier (m : Main) (d : Nat) : Bool :=
  match (m.dieAt d).run with
  | none => false
  | some b => (m.groupOf d).all (fun q =>
      let v := m.dieAt q
      v.st = .ending && !v.settled &&
      (match v.run with
       | some c => c.peers = b.peers && c.section_ = b.section_ && c.job = b.job
       | none => false))

/-- Tokens in flight to a die land (R122 step 3). -/
def Main.landAll (m : Main) (d : Nat) : Main :=
  (List.range (m.dieAt d).flight.length).foldl (fun m _ => m.deliver d 0) m

/-- A tensor's flag slots combined over the tiles of a die (R107). -/
def Main.combined (m : Main) (d : Nat) (slot : BitVec 4) : FlagSlot :=
  (m.blankTiles d).foldl (fun f id => f.join ((m.tileAt id).flag.get slot.toNat)) {}

/-- Folds one tensor of an ended section into the step values of its job (R107, R256, R266); a generation blank takes no part in the
verdict (R31), so `votes` is false for it. -/
def Main.foldTensor (m : Main) (d j : Nat) (training votes : Bool) (t : TensorRec) : Main :=
  match t.slot with
  | none => m
  | some s =>
    let f := m.combined d s
    let am := (m.blankTiles d).foldl (fun a id => foldAmax a (wordAt (m.tileAt id).store (4 * s.toNat))) (0 : U32)
    let m := if training then m.updJob j (fun v => { v with watched := v.watched.map (fun w =>
        if w.id = t.id then { w with amax := foldAmax w.amax am, written := true, nf := w.nf || f.nf, sat := satAdd w.sat f.sat.toNat }
        else w) }) else m
    if votes && t.kind = 2 && f.nf then m.guard j 0 else m

/-- A training-participant section of the job has not ended on one of its dies (R257). -/
def Main.trainingOn (m : Main) (j : Job) : Bool :=
  (diesOf j.dies).any (fun d =>
    let v := m.dieAt d
    (v.st = .loading || v.st = .running || (v.st = .ending && !v.settled) || (v.st = .forcing && !v.settled)) &&
      v.run.any (·.training))

/-- The last layer's backward has retired on the module in the open step (R21, R203): every trigger section of the plan has ended, or,
where the job has no plan, a training section has and none is left. -/
def Main.backDone (m : Main) (j : Job) : Bool :=
  if j.plan = [] then j.trained && !(m.trainingOn j) else j.plan.all (fun r => r.pieces.all (fun p => j.ended.contains (p.1, r.trigger)))

/-- A section is over on a die: a signal that names it is dropped until it loads there again (R316). -/
def Job.sectionGone (j : Job) (d : Nat) (s : U32) : Job :=
  if j.gone.contains (d, s) then j else { j with gone := j.gone ++ [(d, s)] }

/-- Step 4 of R122 on one die: flag slots combined, handed on and cleared, amax words read and zeroed, holders released; the step-end
timeout starts when the last backward retires (R21). -/
def Main.collect (m : Main) (d : Nat) : Main :=
  match (m.dieAt d).run with
  | none => m
  | some b =>
    let j := b.job.toNat
    let opened := match m.job? j with
      | some v => v.stepOpen
      | none => false
    let m := if opened then b.tensors.foldl (fun m t => m.foldTensor d j b.training (b.training || b.phase != 3) t) m else m
    let m := (m.blankTiles d).foldl (fun m id => m.updTile id (fun t =>
      { t with flag := [], store := if b.training then t.store.write 0 (List.replicate 64 0) else t.store })) m
    let m := (m.unhold d).updJob j (fun v => (if v.stepOpen then
      { v with ended := v.ended ++ [(d, b.section_)], trained := v.trained || b.training } else v).sectionGone d b.section_)
    let now := m.ms
    let m := m.updDie d (fun v => { v with settled := true })
    let back := (m.job? j).any (fun v => v.stepOpen && v.lastBack.isNone && m.backDone v)
    let m := if back then m.updJob j (fun v => { v with lastBack := some now }) else m
    let runs := (b.tails.filter (·.atEnd)).map (fun r =>
      ({ die := d, job := b.job, step := ((m.job? j).map (·.step)).getD 0, rec_ := r, training := b.training } : TailRun))
    { m with tail := m.tail ++ runs }

/-- NORMAL_RECHUCK (R122 steps 2 to 5, R125): the whole peer group settles and is collected. -/
def Main.rechuck (m : Main) (d : Nat) : Main :=
  if !m.barrier d then m
  else
    let g := m.groupOf d
    let m := g.foldl Main.landAll m
    if g.any (fun q => (m.dieAt q).st != .ending) then m
    else
      let left := g.filter (fun q => m.leftover q != 0)
      if left != [] then
        left.foldl (fun m q => m.blankFault q 0x1207 (p1 q ++ p2 (m.firstLeft q).1 ++ p1 (m.firstLeft q).2 ++ p4 (m.leftover q)) 0 0 0) m
      else
        let m := g.foldl Main.collect m
        g.foldl (fun m q =>
          if (m.dieAt q).staged = [] then m.toIdle q else m.updDie q (fun v => { v with settled := true })) m

/-- NORMAL_RECHUCK (R122). -/
def execNormalRechuck (d : Fin 4) : State → Host.Outcome State Fault Refusal := onMain (fun m => m.rechuck d.val)

/-! ### The new peer group -/

/-- A die waits in step 6 with a head blank (R123). -/
def Die.waitsHead (v : Die) : Bool :=
  v.settled && (v.st = .idle || v.st = .ending || v.st = .forcing) && v.staged != []

/-- Drops the head blank of a die and leaves it Idle (R123). -/
def Main.dropHead (m : Main) (reason d : Nat) : Main :=
  ((m.updDie d (fun v => { v with staged := v.staged.tail, lastReason := BitVec.ofNat 8 reason })).log!
    { code := 0x1209, cls := .rec_, die := some d, par := p1 reason }).toIdle d

/-- PEER_GROUP_EXCHANGE (R122 step 6, R123). -/
def execPeerGroupExchange (d : Fin 4) : State → Host.Outcome State Fault Refusal :=
  onMain (fun m =>
    match (m.dieAt d.val).staged with
    | [] => m
    | b :: _ =>
      let g := diesOf b.peers
      if (m.dieAt d.val).agreed || !(g.all (fun q => (m.dieAt q).waitsHead)) then m
      else if g.all (fun q => (m.dieAt q).staged.head?.any (fun c =>
          c.job = b.job && c.section_ = b.section_ && c.peers = b.peers)) then
        g.foldl (fun m q => m.updDie q (fun v => { v with agreed := true })) m
      else g.foldl (fun m q => m.dropHead 0x11 q) m)

/-! ### The version gate -/

/-- Layer indices that a blank's tensor table names with kind 1 (R202). -/
def Blank.weightLayers (b : Blank) : List Nat :=
  (((b.tensors.filter (fun t => t.kind = 1)).map (fun t => t.layer.toNat)).eraseDups)

/-- The event that faults the die at the gate, if any (R202). -/
def Job.gateFault (j : Job) (b : Blank) : Option (Nat × Nat) :=
  let ls := b.weightLayers
  match ls.find? (fun l => l != 0xFFFF && (j.layers.find l).isNone) with
  | some l => some (0x1301, l)
  | none =>
    match ls.find? (fun l => (j.layers.find l).isSome &&
        ((j.single && !b.training) || (!j.single && ((b.native && !b.versioned) || !b.native)))) with
    | some l => some (0x1303, l)
    | none => none

/-- Every named layer meets the condition of R202. -/
def Job.gateOpen (j : Job) (b : Blank) : Bool :=
  b.weightLayers.all (fun l =>
    match j.layers.find l with
    | none => true
    | some x => x.st = .reading || (!b.training && x.st = .updating))

/-- The pinned initialisations of a blank touch a run of its die's pinned window. -/
def Blank.initHits (b : Blank) (o n : Nat) : Bool := b.pins.any (fun r => r.init != 0 && overlap r.off r.len o n)

/-- A piece of a plan record: its place in the record, die, panels [first, last), offset in 64 KiB, and the local rank (slot) whose Grain
Buffer it is part of. A piece that starts again at panel 0 begins the next rank's Grain Buffer (R290; log 70). -/
structure Piece where
  idx : Nat := 0
  die : Nat := 0
  first : Nat := 0
  last : Nat := 0
  off : Nat := 0
  slot : Nat := 0

/-- The pieces of a plan record for a layer of `panels` panels: each ends where the next one, or the layer, begins (R290). -/
def PlanRec.parts (r : PlanRec) (panels : Nat) : List Piece :=
  r.pieces.zipIdx.map (fun p =>
    { idx := p.2, die := p.1.1, first := p.1.2.1, off := p.1.2.2
      last := match (r.pieces.drop (p.2 + 1)).head? with
        | some q => if q.2.1 = 0 then panels else q.2.1
        | none => panels
      slot := (((r.pieces.take (p.2 + 1)).drop 1).filter (fun q => q.2.1 = 0)).length })

/-- A Grain Buffer piece of the die has not yet been read whole by its reduce-scatter (R211). -/
def Main.grainHeld (m : Main) (d : Nat) (b : Blank) : Bool :=
  m.jobs.any (fun e => e.2.colls.any (fun c => c.kind = .reduceScatter && c.reading &&
    e.2.plan.any (fun r => r.layer = c.layer && (r.parts (match e.2.layers.find c.layer.toNat with
        | some l => l.kb * l.nb
        | none => 0)).any (fun p =>
      p.die = d && c.read.get p.idx < 128 * (p.last - p.first) && b.initHits (65536 * p.off) (16384 * (p.last - p.first))))))

/-- An off-load that has not completed reads a local range that the blank initialises (R317). -/
def Main.offloadHeld (m : Main) (d : Nat) (b : Blank) : Bool :=
  m.tail.any (fun t => t.die = d && t.rec_.op = 1 && pinBase + d * 2 ^ 31 ≤ t.rec_.da.toNat &&
    b.initHits (t.rec_.da.toNat - (pinBase + d * 2 ^ 31)) t.rec_.len)

/-- Tensors of a training blank that the numerics table watches (R254). -/
def Job.watchable (j : Job) (b : Blank) : List TensorRec :=
  if !b.training then []
  else b.tensors.filter (fun t => t.slot.isSome && t.fmt.toNat ≤ 12 && (j.layers.find t.layer.toNat).isSome)

/-- Adds the tensors of a blank to the numerics table (R254). -/
def Job.watch (j : Job) (b : Blank) : Job :=
  (j.watchable b).foldl (fun j t =>
    if j.watched.any (fun w => w.id = t.id) then
      { j with watched := j.watched.map (fun w =>
          if w.id = t.id && w.layer = 0xFFFF then { w with fmt := t.fmt, kind := t.kind, layer := t.layer } else w) }
    else { j with watched := j.watched ++ [{ id := t.id, fmt := t.fmt, kind := t.kind, layer := t.layer }] }) j

/-- The head blank of a die faults before its load: it becomes the faulted blank (R128, R202). -/
def Main.headFault (m : Main) (d code : Nat) (par : List Byte) : Main :=
  match (m.dieAt d).staged with
  | [] => m
  | b :: r =>
    (m.updDie d (fun v => { v with staged := r, run := some b, st := .loading, agreed := false, gated := false })).blankFault
      d code par 0 0 0

/-- Watched tensors that are still on just-in-time scaling (R260). -/
def Job.jitCount (j : Job) : Nat :=
  (j.watched.filter (fun w => [0x0, 0x3, 0x4, 0x7, 0x8, 0xB].contains w.fmt.toNat && w.hist.length < 16)).length

/-- Event 0x9101, once per step while a tensor lacks a full history (R270). -/
def Main.jitNote (m : Main) (jid : Nat) : Main :=
  match m.job? jid with
  | some j => if j.stepOpen && j.jitCount != 0 then
      m.logOnce jid 0 { code := 0x9101, cls := .rec_, par := p4 jid ++ p4 j.jitCount } else m
  | none => m

/-- The version gate of a die that has agreed (R202–R206, R211, R254, R317). -/
def Main.gate (m : Main) (d : Nat) : Main :=
  let v := m.dieAt d
  match v.staged with
  | [] => m
  | b :: _ =>
    let j := b.job.toNat
    match m.job? j with
    | none => m
    | some x =>
      if !v.agreed || v.gated then m
      else
        match x.gateFault b with
        | some (code, l) => m.headFault d code (p4 j ++ p2 l)
        | none =>
          if ((x.watch b).watched.length > 4096) then m.headFault d 0x9102 (p4 j)
          else
            let late := if b.training then b.weightLayers.filter (fun l => (x.layers.get l).issued) else []
            let m := late.foldl (fun m l =>
              m.logOnce j l { code := 0x1306, cls := .adv, die := some d, par := p4 j ++ p2 l }) m
            if !x.gateOpen b || late != [] || m.grainHeld d b || m.offloadHeld d b then m
            else
              let m := m.updJob j (fun x =>
                let x := x.watch b
                if b.versioned then { x with holders := x.holders ++ [(d, x.version, b.weightLayers)] } else x)
              (m.jitNote j).updDie d (fun v => { v with gated := true, tag := x.version })

/-- VERSION_GATE_OPEN (R202). -/
def execVersionGateOpen (d : Fin 4) : State → Host.Outcome State Fault Refusal := onMain (fun m => m.gate d.val)

/-! ### Loading -/

/-- Largest finite value of a per-tensor format (R259). -/
def fmtMax (fmt : Nat) : Option Ex :=
  match fmt with
  | 0 => some (.rat false 6 1 0)
  | 3 => some (.rat false 15 1 (-1))
  | 4 => some (.rat false 28 1 0)
  | 7 => some (.rat false 448 1 0)
  | 8 => some (.rat false 57344 1 0)
  | 11 => some (.rat false 127 1 0)
  | _ => none

/-- 2^e clamped to the range of R259, as FP32. -/
def pow2f (e : Int) : U32 := rne32 (.rat false 1 1 (max (-126) (min 127 e)))

/-- The scale word of a watched tensor under its layer's margin (R259, R260). -/
def Watched.scaleWord (w : Watched) (margin : Nat) : U32 :=
  match fmtMax w.fmt.toNat with
  | none => 0
  | some f =>
    if w.hist.length < 16 then 0
    else
      let h := w.hist.foldl (fun a b => if flt a b then b else a) (0 : U32)
      if h.toNat % 2 ^ 31 = 0 then 0x3f800000
      else
        let e := ((List.range 512).map (fun (i : Nat) => (i : Int) - 256)).find? (fun e =>
          !((f.mul (.rat false 1 1 e)).lt (val32 h)))
        pow2f (e.getD 0 + margin)

/-- The numerics page that a tile of a training blank receives (R255). -/
def Job.page (j : Job) (b : Blank) : List Byte :=
  let info (s : Nat) : Option (Watched × Layer) :=
    match b.tensors.find? (fun t => t.slot = some (BitVec.ofNat 4 s)) with
    | none => none
    | some t =>
      match j.watched.find? (fun w => w.id = t.id), j.layers.find t.layer.toNat with
      | some w, some l => some (w, l)
      | _, _ => none
  List.replicate 64 0 ++
  ((List.range 16).map (fun s => match info s with
    | some (w, l) => p4 (w.scaleWord l.margin.toNat).toNat
    | none => p4 0)).flatten ++
  (List.range 16).map (fun s => match info s with
    | some (_, l) => l.grade
    | none => 0) ++ List.replicate 112 0

/-- A tile as step 7 of R122 leaves it: caches invalid, groups Idle, registers 0, credits and sequence numbers reset. -/
def Tile.fresh (t : Tile) : Tile := { store := t.store, dead := t.dead, retired := t.retired, ucAddrs := t.ucAddrs, parErr := t.parErr }

/-- Writes a sparse table from values, leaving zeros unlisted. -/
def tableOf {α : Type} [DecidableEq α] (zero : α) (l : List α) : Table α :=
  (l.zipIdx.filter (fun e => e.1 ≠ zero)).map (fun e => (e.2, e.1))

/-- Spindles of a tile record, in order: entry points with their initial registers (R59, R103, R104). -/
def TileRec.spindles (r : TileRec) : Table Spindle :=
  let idx := (List.range 8).filter (fun k => r.entry.getD k 0xFFFF != 0xFFFF)
  idx.zipIdx.map (fun e =>
    let iv := r.init.getD e.2 ([], [])
    (e.1, { pc := r.entry.getD e.1 0, s := tableOf 0 iv.1, c := tableOf 0 iv.2, st := .halted }))

/-- Writes one tile of a blank (R122 step 8): program, initial values, bindings and steering units. -/
def Main.loadTile (m : Main) (d : Nat) (b : Blank) (r : TileRec) : Main :=
  let id := d * 512 + r.tid.toNat
  let n := r.prog.length
  let binds := b.binds.filter (fun x => x.src = r.tid)
  let steers := b.steers.filter (fun x => x.tid = r.tid)
  m.updTile id (fun t =>
    { t with
      store := t.store.write (0x80000 - 16 * n) ((r.prog.map (fun w => bvBytes w 16)).flatten)
      plen := n
      w := tableOf 0 r.w
      sp := r.spindles
      bind := binds.foldl (fun (x : Table Bind) e => x.put e.sidx.toNat
        { valid := true, dst := e.dst, dq := e.dq, credits := if e.dq.toNat < 16 then 8 else 4 }) []
      steer := steers.foldl (fun (x : Table Steer) e => x.put e.unit.toNat { dq := some e.dq }) [] })

/-- Reads the source of a pinned region by pieces of 1 MiB, each translated for itself, so that a run may cross the bounds of a bank
(R105, R201): the bytes, or the event that faults the die and the address that it gives. The event gives the start of the piece
that it meets, not the line within it (DESIGN CHOICE, log 148). -/
def Main.pinSource (m : Main) (d a n : Nat) : Nat → Main × Except (Nat × Nat) (List Byte)
  | 0 => (m, .ok [])
  | f + 1 =>
    if n = 0 then (m, .ok [])
    else
      let k := min n (2 ^ 20 - a % 2 ^ 20)
      match m.translate d a with
      | none => (m, .error (0x1302, a))
      | some s =>
        if !(m.mapped (m.diePartOf d) s k) then (m, .error (0x2001, a))
        else
          match m.daGet (m.diePartOf d) s k with
          | (m, none) => (m, .error (0x1104, a))
          | (m, some l) =>
            match m.pinSource d (a + k) (n - k) f with
            | (m, .ok r) => (m, .ok (l ++ r))
            | (m, .error e) => (m, .error e)

/-- Initialises one pinned region (R105, R122 step 9, R201). The result names the event and address that fault the die. -/
def Main.initPin (m : Main) (d : Nat) (img : List Byte) (r : PinRec) : Main × Option (Nat × Nat) :=
  let a := d * 2 ^ 31 + r.off
  let put (m : Main) (l : List Byte) : Main :=
    let p := m.mem.pin.write a l
    { m with mem := { m.mem with pin := (m.sramAt d).retired.foldl (fun (p : Mem) c => p.dropColumn d c) p } }
  match r.init.toNat with
  | 1 => ({ m with mem := { m.mem with pin := m.mem.pin.zero a r.len } }, none)
  | 2 => (put m (bytesAt img r.src.toNat r.len), none)
  | 3 =>
    match m.pinSource d r.src.toNat r.len (r.len / 2 ^ 20 + 2) with
    | (m, .ok l) => (put m l, none)
    | (m, .error e) => (m, some e)
  | _ => (m, none)

/-- Parameters of an event of step 9, which no tile raises: tile 0xFFFF, spindle 0xFF and instruction 0xFFFFFFFF stand for none (R105, R190,
R215). -/
def Main.pinPar (m : Main) (d code a : Nat) : List Byte :=
  let j := (m.dieAt d).job.toNat
  if code = 0x1302 then p4 j ++ p2 (m.layerAt j a) ++ p2 0xFFFF ++ p8 a
  else if code = 0x1104 then p2 0xFFFF ++ p1 0xFF ++ p4 0xFFFFFFFF ++ p8 a
  else p2 0xFFFF ++ p8 a

/-- Initialises pinned regions in order until one faults. -/
def Main.initPins (m : Main) (d : Nat) (img : List Byte) : List PinRec → Main
  | [] => m
  | r :: rs =>
    match m.initPin d img r with
    | (m, none) => m.initPins d img rs
    | (m, some (code, a)) =>
      m.blankFault d code (m.pinPar d code a) 0xFFFF 0xFF 0xFFFFFFFF (if code = 0x2001 && a < 2 ^ 41 then some (a / 2 ^ 37) else none)

/-- Steps 7 to 9 of R122 on one die. An image that can no longer be read, poisoned or unmapped, counts as changed (DESIGN CHOICE, log 149). -/
def Main.loadDie (m : Main) (d : Nat) (epoch : BitVec 2) : Main :=
  let v := m.dieAt d
  match v.staged with
  | [] => m
  | b :: rest =>
    let change := v.storeJob != b.job
    let m : Main := { m with tile := m.tile.map (fun (e : Nat × Tile) =>
      if e.1 / 512 = d then (e.1, { e.2.fresh with store := if change then {} else e.2.store }) else e) }
    let m := m.updDie d (fun v =>
      { v with st := .loading, settled := false, gated := false, agreed := false, run := some b, staged := rest, epoch := epoch,
               storeJob := b.job, beats := 0, lastMma := 0, spillLogged := false, spilled := false, progress := false })
    match m.daGet (m.diePartOf d) b.da.toNat b.len with
    | (m, none) => m.blankFault d 0x120C (p1 d ++ p2 0xFFFF ++ p1 0xFF) 0xFFFF 0xFF 0xFFFFFFFF
    | (m, some img) =>
      let m := b.tiles.foldl (fun m r => m.loadTile d b r) m
      let m := b.pres.foldl (fun m r => m.updTile (d * 512 + r.tid.toNat) (fun t =>
        { t with store := t.store.write r.addr (bytesAt img r.off r.len) })) m
      if crc32c (img.take 12 ++ toBytes 4 0 ++ img.drop 16) != b.crc || natAt img 12 4 != b.crc.toNat then
        m.blankFault d 0x120C (p1 d ++ p2 0xFFFF ++ p1 0xFF) 0xFFFF 0xFF 0xFFFFFFFF
      else
        let page := match m.job? b.job.toNat with
          | some j => if b.training then j.page b else []
          | none => []
        let m := b.tiles.foldl (fun m r => m.updTile (d * 512 + r.tid.toNat) (fun t =>
          { t with store := t.store.write 0 page })) m
        m.initPins d img b.pins

/-- The Tailstock or the Chuck adds 1 to a completion counter of a tile; one that would pass 65,535 faults the blank (R64, R316). -/
def Main.addSignal (m : Main) (id : Nat) (w : BitVec 4) : Main :=
  let (t, ok) := (m.tileAt id).signal (some w)
  if ok then m.setTile id t else m.blankFault (id / 512) 0x1105 (p2 id) id 0 0

/-- Held Tailstock signals of a section that has now loaded are added to their counters (R316). -/
def Main.heldSignals (m : Main) (d : Nat) (b : Blank) : Main :=
  match m.job? b.job.toNat with
  | none => m
  | some j =>
    let mine (e : BitVec 11 × BitVec 4 × U32) : Bool := e.1.toNat / 512 = d && e.2.2 = b.section_
    let m := m.setJob b.job.toNat { j with signals := j.signals.filter (fun e => !mine e) }
    (j.signals.filter mine).foldl (fun m e => m.addSignal e.1.toNat e.2.1) m

/-- Step 10 of R122 on one die: signals, triggers, phase, release. -/
def Main.release (m : Main) (d : Nat) : Main :=
  match (m.dieAt d).run with
  | none => m
  | some b =>
    let m := (m.updJob b.job.toNat (fun j => { j with gone := j.gone.filter (· != (d, b.section_)) })).heldSignals d b
    if (m.dieAt d).st != .loading then m
    else
    let step := ((m.job? b.job.toNat).map (·.step)).getD 0
    let runs := (b.tails.filter (fun r => !r.atEnd)).map (fun r =>
      ({ die := d, job := b.job, step := step, rec_ := r, training := b.training } : TailRun))
    let m := (m.blankTiles d).foldl (fun m id => m.updTile id (fun t =>
      { t with sp := t.sp.map (fun e => (e.1, { e.2 with st := .running })) })) m
    let m := { m with tail := m.tail ++ runs }
    ((m.updDie d (fun v => { v with st := .running })).report d b.phase).startRamp d

/-- BLANK_LOAD (R122 steps 7 to 10, R124): the whole peer group loads once every die of it has passed its gate. -/
def Main.load (m : Main) (d : Nat) : Main :=
  match (m.dieAt d).staged with
  | [] => m
  | b :: _ =>
    let g := diesOf b.peers
    if !(g.all (fun q => (m.dieAt q).gated && (m.dieAt q).staged != [])) then m
    else
      let epoch := (m.dieAt (g.headD d)).epoch + 1
      let bad := g.filter (fun q => (m.dieAt q).staged.head?.any (fun c => c.epoch.any (· != epoch)))
      if bad != [] then
        let m := g.foldl Main.unhold m
        g.foldl (fun m q => if bad.contains q then m.dropHead 0x0F q else m.toIdle q) m
      else
        let m := g.foldl (fun m q => m.loadDie q epoch) m
        if g.any (fun q => (m.dieAt q).st != .loading) then m
        else g.foldl Main.release m

/-- BLANK_LOAD (R122). -/
def execBlankLoad (d : Fin 4) : State → Host.Outcome State Fault Refusal := onMain (fun m => m.load d.val)

/-! ### Faults of peers, phases -/

/-- A peer of the die's section, or of its head blank's group, has faulted (R128). -/
def Main.peerFaulted (m : Main) (d : Nat) : Bool :=
  let v := m.dieAt d
  let head := if v.st = .running || v.st = .loading || (v.st = .ending && !v.settled) then v.run
    else if v.agreed then v.staged.head? else none
  match head with
  | none => false
  | some b => (diesOf b.peers).any (fun q => q != d && ((m.dieAt q).st = .faulted || (m.dieAt q).fault.isSome) &&
      (match (m.dieAt q).run with
       | some c => c.section_ = b.section_ && c.job = b.job && c.peers = b.peers
       | none => false))

/-- PEER_DIE_FAULTED (R128). -/
def execPeerDieFaulted (d : Fin 4) : State → Host.Outcome State Fault Refusal :=
  onMain (fun m =>
    let v := m.dieAt d.val
    if !m.peerFaulted d.val then m
    else if v.agreed then m.headFault d.val 0x120D []
    else m.blankFault d.val 0x120D [] 0 0 0)

/-- PHASE_COLLECTIVE_WAIT (R136). -/
def execPhaseCollectiveWait (d : Fin 4) : State → Host.Outcome State Fault Refusal :=
  onMain (fun m =>
    let v := m.dieAt d.val
    let waits := match v.run, m.dieJob d.val with
      | some b, some j => b.training && !j.colls.isEmpty
      | _, _ => false
    if v.st = .running && waits && v.lastMma + 4096 ≤ v.beats then m.report d.val 4 else m)

/-! ### Forced rechucks -/

/-- The section that a forced rechuck discards is over on its die (R126, R316). -/
def Main.forceGone (m : Main) (d : Nat) : Main :=
  match (m.dieAt d).run with
  | some b => m.updJob b.job.toNat (fun j => j.sectionGone d b.section_)
  | none => m

/-- Starts a forced rechuck of one die (R126 F1 and F2, R127, R203, R318). The step F2 that a fault has begun goes on; go-idle discards every
staged blank now, and the die is Idle when Forcing is done. -/
def Main.force (m : Main) (goIdle : Bool) (d : Nat) : Main :=
  let v := m.dieAt d
  let m : Main := match v.run with
    | some (b : Blank) => if b.training && (v.st = .running || v.st = .ending || v.st = .loading) then m.trip b.job.toNat 8 else m
    | none => m
  let m := m.updDie d (fun (v : Die) =>
    { v with st := .forcing, settled := false, agreed := false, gated := false, forced := true, goIdle := goIdle || (v.forced && v.goIdle)
             staged := if goIdle then [] else v.staged })
  (((m.drain d).dropTails d).forceGone d).forceGo d

/-- Forced rechuck of the dies of a mask (R126); none where the mask splits a peer group. -/
def Main.forceMask (m : Main) (mask : BitVec 4) (goIdle : Bool) : Option Main :=
  if (diesOf mask).all (fun d => (m.groupOf d).all mask.getLsbD) then
    some ((diesOf mask).foldl (fun m d => m.force goIdle d) m)
  else none

/-- FORCED_RECHUCK, 0x0211 (R126, R127). -/
def Main.forcedBody (p : Payload) (m : Main) : Reply :=
  match m.forceMask (p.extractLsb' 0 4) (p.getLsbD 8) with
  | none => reject m 2
  | some m => ok m []

/-- Reserved bits of the mask and flag bytes of 0x0211 are 0. -/
def forcedRsv (p : Payload) : Bool := bvAt p 0 1 < 16 && bvAt p 1 1 < 2

def execForcedRechuck (h : Hdr) (p : Payload) : State → Host.Outcome State Fault Refusal :=
  onMain (fun m => m.command 0x0211 h p [(0, 2)] (Main.forcedBody p) (owned := m.ownsDies h.src (p.extractLsb' 0 4))
    (high := forcedRsv p))

/-- FORCED_RECHUCK_REQUEST_TIMEOUT (R126 F2): requests still outstanding are abandoned. -/
def execForcedRechuckRequestTimeout (d : Fin 4) : State → Host.Outcome State Fault Refusal :=
  onMain (fun m => m.abandon d.val)

/-! ### Staging commands -/

/-- STAGE_BLANK, 0x0210 (R109, R111). -/
def execStageBlank (h : Hdr) (p : Payload) : State → Host.Outcome State Fault Refusal :=
  onMain (fun m => m.command 0x0210 h p [(0, 13), (16, 8)] (fun m => m.stage p false)
    (owned := m.owns h.src (m.variant.diePart (bvAt p 12 1))))

/-- Number of a die state (R121). -/
def DieSt.num : DieSt → Nat
  | .idle => 0 | .loading => 1 | .running => 2 | .ending => 3 | .forcing => 4 | .faulted => 5

/-- DIE_STATUS, 0x0212 (R121; layout: log 12). -/
def Main.dieStatusBody (p : Payload) (m : Main) : Reply :=
  if bvAt p 0 1 > 3 then reject m 2
  else
    let v := m.dieAt (bvAt p 0 1)
    ok m [(0, 1, v.st.num), (1, 1, v.phase.toNat), (2, 1, v.epoch.toNat), (4, 4, v.job.toNat),
          (8, 4, match v.run with | some b => b.section_.toNat | none => 0), (12, 1, v.staged.length),
          (14, 2, v.lastEvent.toNat), (16, 1, v.lastReason.toNat)]

def execDieStatus (h : Hdr) (p : Payload) : State → Host.Outcome State Fault Refusal :=
  onMain (fun m => m.command 0x0212 h p [(0, 1)] (Main.dieStatusBody p) (reads := true)
    (owned := m.owns h.src (m.variant.diePart (bvAt p 0 1))))

/-- WITHDRAW_STAGED_BLANKS, 0x0213 (R108, R127). A die that waits at step 6 and loses its blanks keeps its state, Ending or Forcing, until
another is staged or it is forced (DESIGN CHOICE, log 150). -/
def Main.withdrawBody (p : Payload) (m : Main) : Reply :=
  ok ((diesOf (p.extractLsb' 0 4)).foldl (fun m d =>
    m.updDie d (fun v => if v.agreed then { v with staged := v.staged.take 1 } else { v with staged := [] })) m) []

def execWithdrawStagedBlanks (h : Hdr) (p : Payload) : State → Host.Outcome State Fault Refusal :=
  onMain (fun m => m.command 0x0213 h p [(0, 1)] (Main.withdrawBody p) (owned := m.ownsDies h.src (p.extractLsb' 0 4))
    (high := bvAt p 0 1 < 16))

/-- First logical rank and number of ranks that this module holds, by the rank map; every rank without a map (R54, R290). -/
def Main.localRanks (m : Main) (j : Job) : Nat × Nat :=
  if j.map = [] then (0, j.ranks)
  else
    let rec go : List (Nat × Nat) → Nat → Nat × Nat
      | [], _ => (0, 0)
      | (n, c) :: r, k => if m.fab.node.any (fun (x : BitVec 15) => x.toNat = n) then (k, c) else go r (k + c)
    go j.map 0

/-- A run of a memory stack lies outside every state region, carry area, hold area and other shavings area of the module. -/
def Main.freeRun (m : Main) (skipDie : Option Nat) (a n : Nat) : Bool :=
  !(m.inRegion a n) &&
  (List.range 4).all (fun d => skipDie = some d || (match (m.dieAt d).shavings with
    | some (b, s) => !overlap a n b.toNat s
    | none => true)) &&
  m.jobs.all (fun e =>
    (match e.2.carry with
     | some (b, s) => !overlap a n b.toNat (2 * s * (m.localRanks e.2).2)
     | none => true) &&
    (match e.2.hold with
     | some (b, s) => !overlap a n b.toNat s
     | none => true))

/-- SET_SHAVINGS_AREA, 0x0214 (R108, R133). -/
def Main.shavingsBody (p : Payload) (m : Main) : Reply :=
  let d := bvAt p 0 1
  let a := bvAt p 8 8
  let n := bvAt p 16 8
  if d > 3 || a % 0x200000 != 0 || n % 0x200000 != 0 || n < 0x8000000 || 0x100000000 < n || a ≥ 2 ^ 41 ||
     !(m.mapped (m.diePartOf d) a n) || !(m.freeRun (some d) a n) then reject m 2
  else ok (m.updDie d (fun v => { v with shavings := some (BitVec.ofNat 56 a, n) })) []

def execSetShavingsArea (h : Hdr) (p : Payload) : State → Host.Outcome State Fault Refusal :=
  onMain (fun m => m.command 0x0214 h p [(0, 1), (8, 16)] (Main.shavingsBody p)
    (owned := m.owns h.src (m.variant.diePart (bvAt p 0 1))))

end Sys2Proof.Machine
end

