-- ==== Sys2Proof/Machine/Slices.lean ====
section
/-! DEFINITION. Stacked SRAM, dowels and home-slice events (R138–R167). -/

namespace Sys2Proof.Machine

/-! ### Pools -/

/-- The floor of the live cache pool (R145). -/
def poolFloor : Nat := 0x10000000

/-- Largest size of one layer that keeps the floor, by 64 KiB steps down from 1 GiB; 0 where none does (R146). -/
def largest (fits : Nat → Bool) : Nat :=
  match (List.range 16385).find? (fun i => fits ((16384 - i) * 65536)) with
  | some i => (16384 - i) * 65536
  | none => 0

/-- Zeroes or drops the banks between two sizes of a layer (R147 step 4). -/
def Main.resizeLayer (m : Main) (base old new : Nat) : Main :=
  { m with mem := { m.mem with pin := m.mem.pin.zero (base + min old new) (max old new - min old new) } }

/-- SET_PINNED_POOL, 0x0320 (R145–R147, R166): steps 1 to 4. The slices stay in pass-through until the command completes, and what
waited in them is served there. -/
def Main.pinnedPool (h : Hdr) (p : Payload) (m : Main) : Reply :=
  let s := bvAt p 0 1
  let p1' := bvAt p 8 8
  let p2' := bvAt p 16 8
  if s > 3 then reject m 2
  else
    let x := m.sramAt s
    let die := m.dieAt s
    let busy := (die.st != .idle && die.st != .faulted) || (die.staged != [] && (p1' < x.p1 || p2' < x.p2))
    let reason :=
      if !(m.owns h.src (m.variant.diePart s)) then 5
      else if p1' % 65536 != 0 || p2' % 65536 != 0 then 1
      else if p1' > 2 ^ 30 || p2' > 2 ^ 30 then 2
      else if x.liveFor p1' p2' < poolFloor then 3
      else if busy then 4
      else 0
    let fig (live : Nat) : Payload :=
      payload [(0, 1, reason), (8, 8, live), (16, 8, largest (fun a => x.liveFor a p2' ≥ poolFloor)),
               (24, 8, largest (fun a => x.liveFor p1' a ≥ poolFloor))]
    if reason != 0 then (m, 3, fig x.live)
    else
      let m := (m.updSram s (fun y => { y with pass := true })).emptySlices s
      let m := m.resizeLayer (s * 2 ^ 31) x.p1 p1'
      let m := m.resizeLayer (s * 2 ^ 31 + 2 ^ 30) x.p2 p2'
      let m := m.updSram s (fun y => { y with p1 := p1', p2 := p2', below := false })
      (m.drainStack s, 0, fig (m.sramAt s).live)

/-- Marks the response to an accepted setting, the newest one, with its compute stack: its completion ends steps 5 and 6 (R147). -/
def markPool (s : Nat) (before : Nat) (l : List Resp) : List Resp :=
  l.mapIdx (fun i r => if i = before && r.op = 0x0320 && r.status = 0 then { r with stack := some s } else r)

def execSetPinnedPool (h : Hdr) (p : Payload) : State → Host.Outcome State Fault Refusal :=
  onMain (fun m =>
    let x := m.command 0x0320 h p [(0, 1), (8, 16)] (Main.pinnedPool h p)
    { x with resps := markPool (bvAt p 0 1) m.resps.length x.resps })

/-- Steps 5 and 6 of a setting as its command completes (R147): the slices leave pass-through, unless a later setting of the stack is still
to complete, and event 0x3301 is logged. The response names that record where it names none yet (R402). -/
def Main.poolDone (m : Main) (r : Resp) : Main × Resp :=
  match r.stack with
  | none => (m, r)
  | some s =>
    let m := if m.resps.any (fun x => x.stack = some s) then m else (m.updSram s (fun y => { y with pass := false })).drainStack s
    let rec_ := if r.rec_ = 0xFFFFFFFF then m.log.next else r.rec_
    (m.log! { code := 0x3301, cls := .rec_, die := some s, par := p1 s }, { r with rec_ := rec_ })

/-- Spare dowels of a group and direction (R141). -/
def spareCount (upper : Bool) : Nat := if upper then 8 else 16

/-- Key of a group's direction in the dowel table. -/
def dowelKey (col : Nat) (upper up : Bool) : Nat := 4 * col + (if upper then 2 else 0) + (if up then 1 else 0)

/-- Lowest count of free spares over every group and direction of a stack (R146). -/
def Sram.sparesLeft (s : Sram) : Nat :=
  s.dowels.foldl (fun b e => min b (spareCount (e.1 / 2 % 2 = 1) - e.2.map.length)) 8

/-- Lines in reduction mode homed on a compute stack (R146). -/
def Main.redHomed (m : Main) (s : Nat) : Nat :=
  let inSlices : List Nat := ((m.sramAt s).slices.map (fun i =>
    (i.2.lines.filter (fun l => l.2.st = .redPending || l.2.st = .reduction)).map (·.1))).flatten
  let recs : List Nat := ((m.hbm.map (fun h => h.2.red.map (·.1))).flatten).filter (fun l => (m.home (128 * l)).1 = s)
  (inSlices ++ recs).eraseDups.length

/-- STACKED_SRAM_STATUS, 0x0321 (R146). -/
def Main.sramStatus (p : Payload) (m : Main) : Reply :=
  let s := bvAt p 0 1
  if s > 3 then reject m 2
  else
    let x := m.sramAt s
    ok m [(0, 8, x.p1), (8, 8, x.p2), (16, 8, x.live), (24, 2, x.retired.length), (26, 1, x.sparesLeft),
          (27, 2, m.redHomed s / 1024)]

def execStackedSramStatus (h : Hdr) (p : Payload) : State → Host.Outcome State Fault Refusal :=
  onMain (fun m => m.command 0x0321 h p [(0, 1)] (Main.sramStatus p) (reads := true)
    (owned := m.owns h.src (m.variant.diePart (bvAt p 0 1))))

/-! ### Home slices -/

/-- A request of a tile's slot, or of another requester, as it reaches its home slice. A port's write into a state region ends with an
error status (R180). -/
def Main.sliceArrive (m : Main) (src : ReqSrc) (da : DA) (kind : ReqKind) (d : BitVec 1024) (words : BitVec 16) : Main :=
  match src with
  | .port _ =>
    match m.rng da.toNat with
    | .hbm _ _ =>
      if kind != .load && m.inRegion (da.toNat / 128 * 128) 128 then m.answer src da.toNat 0 true
      else m.arrive { src := src, kind := kind, line := da.toNat / 128, data := d, words := words }
    | _ => m
  | .tile t slot =>
    match m.reqFor t slot da.toNat kind with
    | some (r, i) => m.arrive { src := src, kind := kind, line := da.toNat / 128, data := r.got.get i, words := 0xFFFF }
    | none => m

/-- SLICE_READ (R151–R153, R162). -/
def execSliceRead (src : ReqSrc) (da : DA) : State → Host.Outcome State Fault Refusal :=
  onMain (fun m => (m.sliceArrive src da .load 0 0xFFFF).retireDue (m.home da.toNat).1)

/-- SLICE_WRITE (R151, R152, R162). -/
def execSliceWrite (src : ReqSrc) (da : DA) (d : BitVec 1024) (words : BitVec 16) : State → Host.Outcome State Fault Refusal :=
  onMain (fun m => (m.sliceArrive src da .store d words).retireDue (m.home da.toNat).1)

/-- SLICE_REDG (R157–R163). -/
def execSliceRedg (src : ReqSrc) (da : DA) (fp32 : Bool) (d : BitVec 1024) : State → Host.Outcome State Fault Refusal :=
  onMain (fun m => (m.sliceArrive src da (.reduce fp32) d 0xFFFF).retireDue (m.home da.toNat).1)

/-- The base die serves the outstanding fill of a line now (R182, R188). -/
def Main.mayFill (m : Main) (a : Nat) : Bool := (m.line? a).any (fun l => m.mayAccess (a / 2 ^ 37) l.part)

/-- FILL_RETURN (R152, R176, R182, R477): every attached requester is answered and the line becomes Clean. A fill that waits at the base die
does not return yet. -/
def Main.fillReturn (m : Main) (a : Nat) : Main := if m.mayFill a then m.fillNow a else m

def execFillReturn (da : DA) : State → Host.Outcome State Fault Refusal := onMain (fun m => m.fillReturn da.toNat)

/-- REDUCTION_FILL_RETURN (R160): the base die's record or the memory value joins the line's accumulators. -/
def Main.reductionFill (m : Main) (a : Nat) : Main := if m.mayFill a then m.seedNow a else m

def execReductionFillReturn (da : DA) : State → Host.Outcome State Fault Refusal := onMain (fun m => m.reductionFill da.toNat)

/-- BASE_DIE_ACCESS (R154, R181, R182): a base-die engine reads or writes one line of its memory stack while the home slice snoops it. An
access that its owner's regulator holds waits. -/
def execBaseDieAccess (j : U32) (da : DA) (w : Option (BitVec 1024)) : State → Host.Outcome State Fault Refusal :=
  onMain (fun m =>
    let a := da.toNat / 128 * 128
    match m.rng a with
    | .hbm n _ =>
      if !m.mayAccess n (m.ownPart a) then m
      else
        match w with
        | none => (m.baseRead a 128).1
        | some d => m.baseWrite j.toNat a (bvBytes d 128)
    | _ => m)

/-- INPUT_BUFFER_AGING (R153): the oldest request that is not yet aged goes ahead of younger requests for its bank. -/
def execInputBufferAging (s : Fin 4) (i : Fin 64) : State → Host.Outcome State Fault Refusal :=
  onMain (fun m =>
    let rec mark : List Waiting → List Waiting
      | [] => []
      | w :: r => if w.aged then w :: mark r else { w with aged := true } :: r
    (m.updSlice s.val i.val (fun x => { x with inbuf := mark x.inbuf })).drainBuf s.val i.val)

/-- CACHE_SLICE_THRASHING (R155): the end of a 1 ms window of a slice. -/
def execCacheSliceThrashing (s : Fin 4) (i : Fin 64) : State → Host.Outcome State Fault Refusal :=
  onMain (fun m =>
    let x := m.sliceAt s.val i.val
    let m := if x.refills * 4 > x.fills then
        m.logRate 1 (64 * s.val + i.val) { code := 0x3204, cls := .adv, die := some s.val, par := p1 s.val ++ p1 i.val }
      else m
    m.updSlice s.val i.val (fun x => { x with fills := 0, refills := 0 }))

/-! ### Dowels -/

def Main.dowel (m : Main) (g : DowelRef) : DowelDir := (m.sramAt g.stack.val).dowels.get (dowelKey g.col.val g.upper g.up)

def Main.updDowel (m : Main) (g : DowelRef) (f : DowelDir → DowelDir) : Main :=
  m.updSram g.stack.val (fun s => { s with dowels := s.dowels.upd (dowelKey g.col.val g.upper g.up) f })

/-- The check dowels of a beat match its data (R141). -/
def beatOk (upper : Bool) (d : BitVec 1024) (crc : U16) : Bool :=
  if upper then crcUpper d == crc.setWidth 8 else crcLower d == crc

/-- Key of a group in the table of replay counts. -/
def groupKey (g : DowelRef) : Nat := 2 * g.col.val + (if g.upper then 1 else 0)

/-- Counts a replay of a group; event 0x3103 when more than 1,000 fall within one second, once per hour per group (R164). -/
def Main.replay (m : Main) (g : DowelRef) : Main :=
  let x := (m.sramAt g.stack.val).groups.get (groupKey g)
  let l := (m.us :: x.replays.filter (fun t => m.us < t + 1000000)).take 1001
  let due : Bool := 1000 < l.length && (x.last = 0 || x.last + 3600000000 ≤ m.us + 1)
  let m := m.updSram g.stack.val (fun s =>
    { s with groups := s.groups.put (groupKey g) { replays := l, last := if due then m.us + 1 else x.last } })
  if due then
    m.log! { code := 0x3103, cls := .adv, die := some g.stack.val,
             par := p1 g.stack.val ++ p2 g.col.val ++ p1 ((if g.upper then 2 else 0) + (if g.up then 1 else 0)) }
  else m

/-- DOWEL_BEAT_RECEIVE (R142, R164): a beat whose CRC fails is replayed, and after 3 replays the sparing procedure starts. -/
def execDowelBeatReceive (g : DowelRef) (d : BitVec 1024) (crc : U16) : State → Host.Outcome State Fault Refusal :=
  onMain (fun m =>
    let x := m.dowel g
    if x.sparing || (m.sramAt g.stack.val).retired.contains g.col.val then m
    else if beatOk g.upper d crc then m.updDowel g (fun x => { x with tries := 0, delivered := x.delivered + 1 })
    else if x.tries ≥ 3 then m.updDowel g (fun x => { x with tries := 0, sparing := true })
    else (m.updDowel g (fun x => { x with tries := x.tries + 1 })).replay g)

/-- DOWEL_MARGIN_CHECK (R164): dowels below their trained threshold start the sparing procedure. -/
def execDowelMarginCheck (g : DowelRef) (below : List (Fin 538)) : State → Host.Outcome State Fault Refusal :=
  onMain (fun m =>
    if below = [] || (m.sramAt g.stack.val).retired.contains g.col.val then m
    else m.updDowel g (fun x => { x with sparing := true }))

/-- First spare dowel of a group (R141). -/
def spareBase (upper : Bool) : Nat := if upper then 262 else 522

/-- Dowels that need a spare: failed ones that carry traffic, by the dowel they stand for (R164). -/
def DowelDir.needs (x : DowelDir) (upper : Bool) (failed : List Nat) : List Nat :=
  (failed.filterMap (fun f =>
    if f < spareBase upper then (if x.map.any (fun e => e.1 = f) then none else some f)
    else (x.map.find? (fun e => e.2 = f && e.1 != f)).map (·.1))).eraseDups

/-- Spares that no entry uses and that have not failed. -/
def DowelDir.free (x : DowelDir) (upper : Bool) (failed : List Nat) : List Nat :=
  ((List.range (spareCount upper)).map (· + spareBase upper)).filter (fun s =>
    !(x.map.any (fun e => e.2 = s)) && !failed.contains s)

/-- DOWEL_SPARING (R164, R165): the affected direction gets its spares, or its column retires; the requests that waited go on. -/
def Main.spare (m : Main) (g : DowelRef) (failed : List Nat) : Main :=
  let x := m.dowel g
  if !x.sparing then m
  else
    let need := x.needs g.upper failed
    let free := x.free g.upper failed
    let m := m.updDowel g (fun x => { x with sparing := false, tries := 0 })
    let s := g.stack.val
    if need.length > free.length then
      let half := if g.upper then 128 else 256
      let whole (h : Nat) : Bool := failed.all (fun f => !(h * half ≤ f && f < (h + 1) * half))
      m.retireColumn s g.col.val (whole 0 || whole 1)
    else
      let keep := x.map.filter (fun e => !(failed.contains e.2))
      let dead := (failed.filter (fun f => spareBase g.upper ≤ f)).map (fun f => (f, f))
      let new := need.zip free
      let m := m.updDowel g (fun x => { x with map := keep ++ dead ++ new })
      let m := m.drainStack s
      new.zipIdx.foldl (fun m e => m.log!
        { code := 0x3101, cls := .rec_, die := some s,
          par := p1 s ++ p2 g.col.val ++ p1 ((if g.upper then 2 else 0) + (if g.up then 1 else 0)) ++
            p2 e.1.1 ++ p2 e.1.2 ++ p4 (free.length - (e.2 + 1)) }) m

def execDowelSparing (g : DowelRef) (failed : List (Fin 538)) : State → Host.Outcome State Fault Refusal :=
  onMain (fun m => m.spare g (failed.map (·.val)))

end Sys2Proof.Machine
end

