-- ==== Sys2Proof/Machine/MemStacks.lean ====
section
/-! DEFINITION. State regions, bandwidth regulators and memory-stack temperature (R177–R190). -/

namespace Sys2Proof.Machine

/-! ### State regions -/

/-- Bytes of PRT regions in the module (R178). -/
def Main.prtBytes (m : Main) : Nat := (m.hbm.map (fun e => ((e.2.region.find 1).map (·.2)).getD 0)).sum

/-- Marks a run of a memory stack undefined (R179). -/
def Main.forgetRun (m : Main) (a n : Nat) : Main :=
  let m := m.syncWrite (m.ownPart a) a n
  { m with mem := { m.mem with hbm := m.mem.hbm.forget a n m.mem.stamp, stamp := m.mem.stamp + 1 } }

/-- A run meets the carry area of an open job (R250, R251). -/
def Main.inCarry (m : Main) (a n : Nat) : Bool :=
  m.jobs.any (fun e => match e.2.carry with
    | some (b, s) => overlap a n b.toNat (2 * s * (m.localRanks e.2).2)
    | none => false)

/-- SET_STATE_REGION, 0x0302 (R177–R179, R251). A carry area exists only while its job is open, so that an overlap with it is told before the open job. -/
def Main.setRegion (h : Hdr) (p : Payload) (m : Main) : Reply :=
  let n := bvAt p 0 1
  let k := bvAt p 1 1
  let off := bvAt p 8 8
  let size := bvAt p 16 8
  let s := m.hbmAt n
  let base := n * 2 ^ 37
  if k = 0 || k > 5 || (size = 0 && off != 0) then reject m 2
  else
    let others := ((m.hbm.del n).map (fun e => ((e.2.region.find 1).map (·.2)).getD 0)).sum
    let reason :=
      if n ≥ m.variant.stacks then 2
      else if !(m.owns h.src (m.variant.stackPart n)) then 6
      else if size != 0 && m.inCarry (base + off) size then 3
      else if m.jobs != [] then 5
      else if size = 0 then 0
      else if off % 0x200000 != 0 || size % 0x200000 != 0 then 1
      else if off + size > m.visible n then 2
      else if (s.region.del k).any (fun r => overlap off size r.2.1 r.2.2) ||
          (List.range 4).any (fun d => match (m.dieAt d).shavings with
            | some (b, z) => overlap (base + off) size b.toNat z
            | none => false) then 3
      else if k = 1 && others + size > 0x20000000 then 4
      else 0
    if reason != 0 then (m, 3, payload [(0, 1, reason), (8, 8, m.prtBytes)])
    else if size = 0 && (s.region.find k).isNone then ok m [(8, 8, m.prtBytes)]
    else
      let m := m.updHbm n (fun s => { s with region := if size = 0 then s.region.del k else s.region.put k (off, size) })
      let m := if size = 0 then m else m.forgetRun (base + off) size
      let m : Main := if k = 1 then
        { m with assigned := m.assigned.map (fun (e : Nat × Assigned) => (e.1, { e.2 with runs := e.2.runs.filter (fun r => r.stack != n) })) }
        else m
      let m := m.log! { code := 0x2101, cls := .rec_, stack := some n }
      ok m [(8, 8, m.prtBytes)]

def execSetStateRegion (h : Hdr) (p : Payload) : State → Host.Outcome State Fault Refusal :=
  onMain (fun m => m.command 0x0302 h p [(0, 2), (8, 16)] (Main.setRegion h p))

/-- READ_STATE_REGION, 0x0303 (R178). -/
def Main.readRegion (p : Payload) (m : Main) : Reply :=
  let n := bvAt p 0 1
  let k := bvAt p 1 1
  if n ≥ m.variant.stacks || k = 0 || k > 5 then reject m 2
  else
    let r := ((m.hbmAt n).region.find k).getD (0, 0)
    ok m [(0, 8, r.1), (8, 8, r.2)]

def execReadStateRegion (h : Hdr) (p : Payload) : State → Host.Outcome State Fault Refusal :=
  onMain (fun m => m.command 0x0303 h p [(0, 2)] (Main.readRegion p) (reads := true)
    (owned := m.owns h.src (m.variant.stackPart (bvAt p 0 1))))

/-! ### Regulators -/

/-- A configuration from bits [31:0] of its register (R183). -/
def RegCfg.of (v : U32) : RegCfg :=
  { guar := v.extractLsb' 0 7, ceil := v.extractLsb' 8 7, burst := v.extractLsb' 16 8, en := v.getLsbD 31 }

/-- Partitions that exist now (R181). -/
def Main.partsNow (m : Main) : List Nat := if m.partOn then m.variant.parts else [0]

/-- The rules of R184 for one stack's four configurations. -/
def Main.regOk (m : Main) (cfg : Nat → RegCfg) : Bool :=
  (List.range 4).all (fun p =>
    let c := cfg p
    !c.en || (c.guar.toNat ≤ c.ceil.toNat && 1 ≤ c.ceil.toNat && c.ceil.toNat ≤ 64 && c.burst != 0 && m.partsNow.contains p)) &&
  ((List.range 4).map (fun p => if (cfg p).en then (cfg p).guar.toNat else 0)).sum ≤ 64

/-- Puts a configuration in force: the bucket keeps its level, cut to the new depth (R184). -/
def Regulator.apply (r : Regulator) (c : RegCfg) : Regulator :=
  { r with staged := c, force := c, level := min r.level (c.burst.toNat * 4096 : Nat) }

/-- First stack whose staged setting breaks a rule, if any (R184). -/
def Main.regBad (m : Main) : Option Nat :=
  (List.range m.variant.stacks).find? (fun n => !(m.regOk (fun p => ((m.hbmAt n).reg.get p).staged)))

/-- Puts every staged configuration in force. -/
def Main.regApply (m : Main) : Main :=
  let m := (List.range m.variant.stacks).foldl (fun m n => m.updHbm n (fun s =>
    { s with reg := s.reg.map (fun e => (e.1, e.2.apply e.2.staged)) })) m
  { m with rctl := { m.rctl with rej := false, gen := m.rctl.gen + 1 } }

/-- A commit of the regulator block (R184). -/
def Main.regCommit (m : Main) : Main :=
  match m.regBad with
  | none => m.regApply
  | some n => { m with rctl := { m.rctl with rej := true, who := BitVec.ofNat 4 n } }

/-- A snapshot of the regulator statistics (R183). -/
def Main.regSnap (m : Main) : Main :=
  { m with hbm := m.hbm.map (fun (e : Nat × Stack) => (e.1, { e.2 with reg := e.2.reg.map (fun (r : Nat × Regulator) =>
      (r.1, { r.2 with snServed := BitVec.ofNat 32 (r.2.served / 4096), snHeld := BitVec.ofNat 16 (min r.2.held 0xFFFF) })) })) }

/-- A write to the regulator control register (R183): REJ is W1C, then COMMIT and SNAP. -/
def Main.regCtl (m : Main) (v : U64) : Main :=
  let m := if v.getLsbD 2 then { m with rctl := { m.rctl with rej := false } } else m
  let m := if v.getLsbD 0 then m.regCommit else m
  if v.getLsbD 3 then m.regSnap else m

/-- REGULATOR_COMMIT (R184). -/
def execRegulatorCommit (v : U64) : State → Host.Outcome State Fault Refusal := onMain (fun m => m.regCtl (v ||| 1))

/-- REGULATOR_SNAPSHOT (R183). -/
def execRegulatorSnapshot (v : U64) : State → Host.Outcome State Fault Refusal := onMain (fun m => m.regCtl (v ||| 8))

/-- Reserved bits of the four records of 0x0310 are 0. -/
def regRsv (p : Payload) : Bool :=
  (List.range 4).all (fun i => bvAt p (8 + 4 * i) 4 &&& 0x7F008080 = 0)

/-- SET_MEMORY_REGULATORS, 0x0310 (R185). -/
def Main.setRegs (h : Hdr) (p : Payload) (m : Main) : Reply :=
  let n := bvAt p 0 1
  let cfg (i : Nat) : RegCfg := RegCfg.of (BitVec.ofNat 32 (bvAt p (8 + 4 * i) 4))
  if n ≥ m.variant.stacks then reject m 2
  else if !(Src.operator h.src) || !(m.owns h.src (m.variant.stackPart n)) then refuse m 2
  else if !m.regOk cfg then refuse m 1
  else ok (m.updHbm n (fun s => { s with reg := (List.range 4).foldl (fun t i => t.upd i (fun r => r.apply (cfg i))) s.reg })) []

def execSetMemoryRegulators (h : Hdr) (p : Payload) : State → Host.Outcome State Fault Refusal :=
  onMain (fun m => m.command 0x0310 h p [(0, 1), (8, 16)] (Main.setRegs h p) (high := regRsv p))

/-! ### Temperature -/

/-- One window of a regulator (R182, R183): the bucket refills over 1 µs at the stack's thermal factor and the guarantee starts afresh;
`waits` when an access of the partition has waited at the ceiling. -/
def Regulator.window (r : Regulator) (factor : Nat) (waits : Bool) : Regulator :=
  { r with
    win := 0
    held := if waits then r.held + 1 else r.held
    level := min (r.force.burst.toNat * 4096 : Nat) (r.level + (r.force.ceil.toNat * 48000 * factor / 1000000 : Nat)) }

/-- REGULATOR_WINDOW (R182, R183): partitions in `waits` had an access waiting at the ceiling, as has one with a fill outstanding and too
few bytes in its bucket. -/
def execRegulatorWindow (n : Fin 10) (waits : BitVec 4) : State → Host.Outcome State Fault Refusal :=
  onMain (fun m =>
    let fills := m.fillsOf n.val
    m.updHbm n.val (fun s => { s with reg := (List.range 4).foldl (fun (t : Table Regulator) p =>
      t.upd p (fun r => r.window s.factor (waits.getLsbD p || (r.empty && fills.contains p)))) s.reg }))

/-- Regions of a die that stand parked (R351): for the cap, at critical temperature, by memory stage 4. -/
def Main.reparked (m : Main) (d : Nat) : Main :=
  let x := m.dpAt d
  m.updDie d (fun v => { v with parked := x.parkCap ||| x.parkHot ||| x.parkMem })

/-- A stage holds: entered at `hi`, left below `lo` (R188). -/
def stageHolds (t : Int) (was : Bool) (hi lo : Int) : Bool := decide (hi ≤ t) || (was && decide (lo ≤ t))

/-- Stages in force at a temperature (R188). -/
def stagesAt (t : Int) (s : BitVec 4) : BitVec 4 :=
  (BitVec.ofBool (stageHolds t (s.getLsbD 3) 95000 90000) ++ BitVec.ofBool (stageHolds t (s.getLsbD 2) 92000 89000)) ++
  (BitVec.ofBool (stageHolds t (s.getLsbD 1) 90000 87000) ++ BitVec.ofBool (stageHolds t (s.getLsbD 0) 85000 82000))

/-- A compute stack has a memory stack in a thermal stage among those it homes (R188). -/
def Main.homeStage (m : Main) (d bit : Nat) : Bool :=
  (List.range m.variant.stacks).any (fun n => (m.variant.homes n).contains d && (m.hbmAt n).stages.getLsbD bit)

/-- MEMORY_STACK_TEMP_SAMPLE (R186–R189). -/
def Main.tempSample (m : Main) (n : Nat) (diode : Int) (readout : Option Int) : Main :=
  let s := m.hbmAt n
  let r := readout.getD s.readout
  let far : Bool := (diode - r).natAbs > 6000
  let differ := if readout.isNone then s.differ else if far then s.differ + 1 else 0
  let t := max diode r
  let st := stagesAt t s.stages
  let hour := m.sec / 3600 + 1
  let report := differ ≥ 3 && readout.isSome && s.hour != hour
  let m := m.updHbm n (fun s =>
    { s with diode := diode, readout := r, differ := differ, stages := st, hour := if report then hour else s.hour })
  let m := if report then m.log! { code := 0x2405, cls := .adv, stack := some n } else m
  let m := [(0, 0x2401, Cls.adv), (1, 0x2402, .rec_), (2, 0x2403, .rec_), (3, 0x2404, .rec_)].foldl (fun m e =>
    if st.getLsbD e.1 && !(s.stages.getLsbD e.1) then m.log! { code := e.2.1, cls := e.2.2, stack := some n } else m) m
  let m := m.updBurn n (fun b => { b with stopped := st.getLsbD 3 })
  (m.variant.homes n).foldl (fun m d =>
    (m.updDp d (fun x => { x with parkMem := if m.homeStage d 3 then 0xFF else 0 })).reparked d) m

def execMemoryStackTempSample (n : Fin 10) (diode : Int) (readout : Option Int) : State → Host.Outcome State Fault Refusal :=
  onMain (fun m => if n.val < m.variant.stacks then m.tempSample n.val diode readout else m)

/-- The Steady Rest holds fixed pace on a die (R341, R342). -/
def DiePow.fixed (x : DiePow) : Bool := x.en && x.pace != 0

/-- The fixed pace that rules a die: its Steady Rest setting, or the pace of the activity-estimate fallback (R341, R345). -/
def Main.fixedPace (m : Main) (d : Nat) : Bool := m.pow.x = .fallback || (m.dpAt d).fixed

/-- MEMORY_THERMAL_STEP_DOWN (R188, R189): one point down, at P0 or under fixed pace one sixteenth of the beats. -/
def execMemoryThermalStepDown (n : Fin 10) : State → Host.Outcome State Fault Refusal :=
  onMain (fun m =>
    if !((m.hbmAt n.val).stages.getLsbD 2) then m
    else (m.variant.homes n.val).foldl (fun m d => m.updDp d (fun x =>
      let top := if x.ceilMem < x.point then x.ceilMem else x.point
      if !(m.fixedPace d) && top != 0 then { x with ceilMem := top - 1 }
      else { x with fireMem := if x.fireMem > 1 then x.fireMem - 1 else x.fireMem })) m)

/-- MEMORY_THERMAL_STEP_UP (R189). -/
def execMemoryThermalStepUp (d : Fin 4) : State → Host.Outcome State Fault Refusal :=
  onMain (fun m =>
    if m.homeStage d.val 2 then m
    else m.updDp d.val (fun x =>
      if x.fireMem < 16 then { x with fireMem := x.fireMem + 1 }
      else { x with ceilMem := if x.ceilMem < 6 then x.ceilMem + 1 else x.ceilMem }))

end Sys2Proof.Machine
end

