-- ==== Sys2Proof/Machine/Weights.lean ====
section
/-! DEFINITION. Weight layers: records, orders, versions, masks and the commands that register them (R194–R213). -/

namespace Sys2Proof.Machine

/-! ### Records -/

/-- Panels of a layer (R194). -/
def Layer.panels (x : Layer) : Nat := x.kb * x.nb

/-- Bytes of one order of a layer (R196). -/
def Layer.size (x : Layer) : Nat := 4096 * x.panels

/-- Order-2 index of an order-1 panel (R194). -/
def Layer.panel2 (x : Layer) (p : Nat) : Nat := p % x.kb * x.nb + p / x.kb

/-- Device address of a version of a layer's record (R196). -/
def Main.recordDa (m : Main) (single : Bool) (x : Layer) (v : Bool) : Nat :=
  let r := ((m.hbmAt x.stack).region.find 4).getD (0, 0)
  x.stack * 2 ^ 37 + r.1 + x.a + (if !single && v then r.2 / 2 else 0)

/-- Position in order 2 of the code at position `i` of order 2's panel: the element's order-1 position (R194). -/
def transposed (i : Nat) : Nat := 64 * (i % 64) + i / 64

/-- Writes a panel's codes, given in order 1, to both orders of a version (R194, R234). -/
def Main.writePanel (m : Main) (jid : Nat) (single : Bool) (x : Layer) (v : Bool) (p : Nat) (codes : List Byte) : Main :=
  let da := m.recordDa single x v
  let m := m.baseWrite jid (da + 4096 * p) codes
  m.baseWrite jid (da + x.size + 4096 * x.panel2 p) ((List.range 4096).map (fun i => codes.getD (transposed i) 0))

/-- A layer in Landing whose every panel has been written reaches Reading (R199, R200). -/
def Layer.settle (x : Layer) : Layer :=
  if x.st = .landing && (List.range x.panels).all x.landed.contains then { x with st := .reading } else x

/-- Counts a panel of the current version as written in both orders. -/
def Layer.land (x : Layer) (p : Nat) : Layer :=
  { x with landed := if x.landed.contains p then x.landed else x.landed ++ [p] }.settle

/-- Holders of a version of a layer (R203). -/
def Job.holdersOf (j : Job) (l : Nat) (v : Bool) : Nat :=
  (j.holders.filter (fun h => h.2.1 = v && h.2.2.contains l)).length

/-- The version that the Burnisher writes for the open step has no holder (R204). -/
def Job.versionFree (j : Job) (l : Nat) : Bool :=
  if j.single then j.holdersOf l false + j.holdersOf l true = 0 else j.holdersOf l (!j.version) = 0

def Job.updLayer (j : Job) (l : Nat) (f : Layer → Layer) : Job :=
  match j.layers.find l with
  | some x => { j with layers := j.layers.put l (f x) }
  | none => j

/-! ### Masks -/

/-- Padded bytes of a mask of `n` bits (R212). -/
def maskBytes (n : Nat) : Nat := (n + 511) / 512 * 64

/-- Bytes of the block mask and of the row mask of a layer (R212). -/
def Layer.blockBytes (x : Layer) : Nat := if x.blockMask then maskBytes x.panels else 0
def Layer.rowCount (x : Layer) : Nat := 64 * (if x.axisK then x.kb else x.nb)
def Layer.rowBytes (x : Layer) : Nat := if x.rowMask then maskBytes x.rowCount else 0

/-- Numbers of the bits that are 1 among the first `n` of a mask. -/
def maskBits (l : List Byte) (n : Nat) : List Nat :=
  (List.range n).filter (fun i => (l.getD (i / 8) 0).getLsbD (i % 8))

/-- Reads the mask area of a layer when a step opens (R213); an area that cannot be read leaves every element frozen (log 59). -/
def Main.readMasks (m : Main) (x : Layer) : Main × Layer :=
  let n := x.blockBytes + x.rowBytes
  if n = 0 then (m, x)
  else
    match m.daGet (m.stackPartOf x.stack) x.mask.toNat n with
    | (m, none) => (m, { x with blkBits := [], rowBits := [] })
    | (m, some l) =>
      (m, { x with blkBits := maskBits l x.panels, rowBits := maskBits (l.drop x.blockBytes) x.rowCount })

/-- Element `e` of a panel is trained (R212). -/
def Layer.trained (x : Layer) (p e : Nat) : Bool :=
  let row := if x.axisK then 64 * (p % x.kb) + e % 64 else 64 * (p / x.kb) + e / 64
  (!x.blockMask || x.blkBits.contains p) && (!x.rowMask || x.rowBits.contains row)

/-! ### Commands -/

/-- T_w is a power of two from 2⁻³² to 2⁸ (R194). -/
def twOk (t : Nat) : Bool := t % 2 ^ 23 = 0 && 95 ≤ t / 2 ^ 23 && t / 2 ^ 23 ≤ 135

/-- A die of a job is neither Idle nor Faulted. -/
def Main.jobRuns (m : Main) (j : Job) : Bool :=
  (diesOf j.dies).any (fun d => (m.dieAt d).st != .idle && (m.dieAt d).st != .faulted)

/-- Offsets in the working-weight region at which a layer's record has its copies: one, or one in each bank in dual-version mode (R196). -/
def Main.copiesAt (m : Main) (single : Bool) (x : Layer) : List Nat :=
  if single then [x.a] else [x.a, x.a + (((m.hbmAt x.stack).region.find 4).getD (0, 0)).2 / 2]

/-- A copy of one layer's record overlaps a copy of another's (R198, R214). -/
def Main.recordsMeet (m : Main) (s : Bool) (x : Layer) (t : Bool) (y : Layer) : Bool :=
  x.stack = y.stack && (m.copiesAt s x).any (fun a => (m.copiesAt t y).any (fun b => overlap a (2 * x.size) b (2 * y.size)))

/-- SET_WEIGHT_LAYER, 0x0340 (R197–R199, R214). -/
def Main.setLayer (h : Hdr) (p : Payload) (m : Main) : Reply :=
  let jid := bvAt p 0 4
  let l := bvAt p 4 2
  let n := bvAt p 6 1
  let kb := bvAt p 16 2
  let nb := bvAt p 18 2
  match m.job? jid with
  | none => refuse m 8
  | some j =>
    let x : Layer := { stack := n, a := bvAt p 8 8, kb := kb, nb := nb, tw := p.extractLsb' 160 32, axisK := p.getLsbD 56,
                       rowMask := p.getLsbD 57, blockMask := p.getLsbD 58, mask := p.extractLsb' 192 56 }
    if l > 4095 then refuse m 8
    else if n < m.variant.stacks && !(m.owns h.src (m.variant.stackPart n)) then refuse m 7
    else if m.jobRuns j then refuse m 3
    else if kb = 0 && nb = 0 then
      let m := m.updJob jid (fun j => { j with layers := j.layers.del l })
      ok m [(16, 2, (j.layers.del l).length)]
    else if kb = 0 || nb = 0 || kb > 4096 || nb > 4096 || kb * nb * 4096 > 2 ^ 32 then refuse m 5
    else if (j.layers.find l).isNone && j.layers.length ≥ 4096 then refuse m 4
    else if !twOk x.tw.toNat then refuse m 6
    else
      let mask := bvAt p 24 8
      let mb := x.blockBytes + x.rowBytes
      if x.a % 4096 != 0 || (mb != 0 && (mask % 64 != 0 || mask ≥ 2 ^ 41 || !(m.mapped (m.stackPartOf n) mask mb) ||
          m.inRegion mask mb)) then refuse m 1
      else
        let r := ((m.hbmAt n).region.find 4).getD (0, 0)
        let room := if j.single then r.2 else r.2 / 2
        let copy := 2 * x.size
        if n ≥ m.variant.stacks || x.a + copy > room ||
            m.jobs.any (fun e => e.2.layers.any (fun y => !(e.1 = jid && y.1 = l) && m.recordsMeet j.single x e.2.single y.2)) then refuse m 2
        else
          let m := m.updJob jid (fun j => { j with layers := j.layers.put l x })
          ok m [(8, 8, copy), (16, 2, (j.layers.put l x).length)]

/-- Bytes per copy of the record a command asks for, and the layers registered in its job (R197). -/
def layerFields (p : Payload) (m : Main) : List (Nat × Nat × Nat) :=
  [(8, 8, 8192 * bvAt p 16 2 * bvAt p 18 2), (16, 2, ((m.job? (bvAt p 0 4)).map (fun j => j.layers.length)).getD 0)]

def execSetWeightLayer (h : Hdr) (p : Payload) : State → Host.Outcome State Fault Refusal :=
  onMain (fun m => m.command 0x0340 h p [(0, 32)] (fun m => fillRefused (layerFields p) (Main.setLayer h p m)) (owned := m.ownsJob h.src (bvAt p 0 4))
    (high := bvAt p 7 1 < 8))

/-- SET_VERSION_MODE, 0x0341 (R197, R198). -/
def Main.setVersionMode (p : Payload) (m : Main) : Reply :=
  match m.job? (bvAt p 0 4) with
  | none => refuse m 8
  | some j =>
    if bvAt p 4 1 > 1 then reject m 2
    else if m.jobRuns j || j.layers != [] then refuse m 3
    else ok (m.setJob (bvAt p 0 4) { j with single := p.getLsbD 32 }) []

def execSetVersionMode (h : Hdr) (p : Payload) : State → Host.Outcome State Fault Refusal :=
  onMain (fun m => m.command 0x0341 h p [(0, 5)] (Main.setVersionMode p) (owned := m.ownsJob h.src (bvAt p 0 4)))

/-- Number of a layer state (R197). -/
def LayerSt.num : LayerSt → Nat
  | .reading => 0 | .updating => 1 | .landing => 2 | .restoring => 3

/-- WEIGHT_LAYER_STATUS, 0x0342 (R197). -/
def Main.layerStatus (p : Payload) (m : Main) : Reply :=
  match m.job? (bvAt p 0 4) with
  | none => reject m 2
  | some j =>
    match j.layers.find (bvAt p 4 2) with
    | none => reject m 2
    | some x => ok m [(0, 1, x.st.num), (1, 1, j.version.toNat), (2, 2, j.holdersOf (bvAt p 4 2) false),
        (4, 2, j.holdersOf (bvAt p 4 2) true), (8, 4, x.landed.length), (12, 4, x.panels), (16, 4, x.lastCommit.toNat)]

def execWeightLayerStatus (h : Hdr) (p : Payload) : State → Host.Outcome State Fault Refusal :=
  onMain (fun m => m.command 0x0342 h p [(0, 6)] (Main.layerStatus p) (reads := true)
    (owned := m.ownsJob h.src (bvAt p 0 4)))

end Sys2Proof.Machine
end

