-- ==== Sys2Proof/Machine/Burnish.lean ====
section
/-! DEFINITION. The Parameter Residency Table, optimiser profiles, the pending store, the update and its application (R216–R245). -/

namespace Sys2Proof.Machine

/-! ### PRT entries -/

/-- A PRT entry (R218). -/
abbrev Prt := BitVec 256

/-- Replaces bits [lo + w − 1 : lo]. -/
def Prt.set (e : Prt) (lo w v : Nat) : Prt :=
  let mask : Prt := BitVec.ofNat 256 ((2 ^ w - 1) * 2 ^ lo)
  (e &&& ~~~mask) ||| BitVec.ofNat 256 (v % 2 ^ w * 2 ^ lo)

def Prt.get (e : Prt) (lo w : Nat) : Nat := e.toNat / 2 ^ lo % 2 ^ w
def Prt.place (e : Prt) : Nat := e.get 1 2
def Prt.live (e : Prt) : Bool := e.getLsbD 3
def Prt.shadow (e : Prt) : Bool := e.getLsbD 4
def Prt.pend (e : Prt) : Bool := e.getLsbD 5
def Prt.prof (e : Prt) : Nat := e.get 16 6
def Prt.loaded (e : Prt) : Bool := e.getLsbD 22
def Prt.wstep (e : Prt) : Nat := e.get 32 32
def Prt.layer (e : Prt) : Nat := e.get 64 12
def Prt.panel (e : Prt) : Nat := e.get 76 20
def Prt.rank (e : Prt) : Nat := e.get 96 15
def Prt.stoff (e : Prt) : Nat := e.get 112 30
/-- Signed block exponent of the pending gradient. -/
def Prt.gexp (e : Prt) : Int := (e.extractLsb' 8 8).toInt

/-- A fresh entry of an assignment (R218, R226). -/
def Prt.assign (place prof layer panel rank stoff : Nat) : Prt :=
  (((((((0 : Prt).set 0 1 1).set 1 2 place).set 16 6 prof).set 64 12 layer).set 76 20 panel).set 96 15 rank).set 112 30 stoff

/-- Resolves an entry under a verdict ring (R221). -/
def Prt.resolve (e : Prt) (ring : List (U32 × Bool)) : Prt :=
  match ring.find? (fun r => r.1.toNat = e.wstep) with
  | none => e
  | some (_, true) =>
    if e.shadow then (((e ^^^ 8).set 4 1 0).set 5 1 0).set 160 32 e.wstep else e.set 160 32 e.wstep
  | some (_, false) => ((e.set 4 1 0).set 5 1 0).set 7 1 0

/-! ### Where state lies -/

/-- Base DA and size of a state region of a stack. -/
def Main.region? (m : Main) (n k : Nat) : Option (Nat × Nat) :=
  ((m.hbmAt n).region.find k).map (fun r => (n * 2 ^ 37 + r.1, r.2))

def Main.regionDa (m : Main) (n k : Nat) : Nat := ((m.region? n k).getD (0, 0)).1

/-- DA of an entry (R219). -/
def Main.prtDa (m : Main) (n i : Nat) : Nat := m.regionDa n 1 + 32 * i

/-- Record size r of a discipline (R219). -/
def Discipline.rec_ : Discipline → Nat
  | .eagerInPlace => 0x4000
  | _ => 0x8000

/-- Device address of a slow-tier offset (R168). -/
def slowDa (o : Nat) : Nat := if o < 2 ^ 43 then slowBase + o else slowBase2 + (o - 2 ^ 43)

/-- DA of the master and moments slot of a block (R219). -/
def Main.masterDa (m : Main) (r n i : Nat) (e : Prt) (slotB : Bool) : Nat :=
  (if e.place = 0 then m.regionDa n 3 + r * i else slowDa (0x4000 * e.stoff)) + (if slotB then 0x4000 else 0)
def Main.momentDa (m : Main) (r n i : Nat) (e : Prt) (slotB : Bool) : Nat :=
  (if e.place = 2 then slowDa (0x4000 * e.stoff + r) else m.regionDa n 2 + r * i) + (if slotB then 0x4000 else 0)
/-- DA of a block's pending store (R219). -/
def Main.pendDa (m : Main) (n i : Nat) : Nat := m.regionDa n 5 + 0x2000 * i

/-- Runs of a job (R220). -/
def Main.runsOf (m : Main) (jid : Nat) : List PanelRun := (m.assigned.get jid).runs

/-- The job to which an entry is assigned (R220). -/
def Main.entryJob (m : Main) (n i : Nat) : Option Nat :=
  (m.assigned.find? (fun a => a.2.runs.any (fun r => r.stack = n && r.entry ≤ i && i < r.entry + r.count))).map (·.1)

/-- The entry of a panel that a job owns here (R220). -/
def Main.entryOf (m : Main) (jid l p : Nat) : Option (Nat × Nat) :=
  ((m.runsOf jid).find? (fun r => r.layer = l && r.panel ≤ p && p < r.panel + r.count)).map
    (fun r => (r.stack, r.entry + (p - r.panel)))

/-- Every entry of a job: stack and index. -/
def Main.entriesOf (m : Main) (jid : Nat) : List (Nat × Nat) :=
  ((m.runsOf jid).map (fun r => (List.range r.count).map (fun k => (r.stack, r.entry + k)))).flatten

/-- Blocks that a job owns on the module. -/
def Main.ownedBlocks (m : Main) (jid : Nat) : Nat := ((m.runsOf jid).map (·.count)).sum

/-- Writes bytes as the Burnisher of stack `n`: the memory stacks under R154, else the slow tier while port B serves; an unmapped address takes
nothing (R169, R308, R313). -/
def Main.engWrite (m : Main) (n jid a : Nat) (l : List Byte) : Main :=
  let q := m.stackPartOf n
  if !m.mapped q a l.length then m
  else match m.rngFor q a with
  | .slow o => if m.bServes q then m.slowPut o l else m
  | .hbm _ _ => m.baseWrite jid a l
  | _ => m

/-- Reads bytes as the Burnisher of stack `n`; none where a word is poisoned, the address is unmapped or port B does not serve (R169, R308,
R313). -/
def Main.engRead (m : Main) (n a k : Nat) : Main × Option (List Byte) :=
  let q := m.stackPartOf n
  if !m.mapped q a k then (m, none)
  else match m.rngFor q a with
  | .slow o => if m.bServes q then m.slowGet o k else (m, none)
  | .hbm _ _ =>
    let (m, b, bad) := m.baseRead a k
    (m, if bad then none else some b)
  | _ => (m, none)

/-- Puts an entry into the cache of its Burnisher, at most 65,536 (R220). -/
def Main.cachePrt (m : Main) (n i : Nat) : Main :=
  m.updBurn n (fun b => { b with cache := (i :: b.cache.filter (· != i)).take 65536 })

def Main.putPrt (m : Main) (jid n i : Nat) (e : Prt) : Main := m.baseWrite jid (m.prtDa n i) (bvBytes e 32)

/-- Step number of events of a job. -/
def Main.jobStep (m : Main) (jid : Nat) : U32 :=
  match m.job? jid with
  | some j => if j.stepOpen then j.step else 0xFFFFFFFF
  | none => 0xFFFFFFFF

/-- Reads an entry and resolves it (R218, R221). None where it returned poison, with event 0x2207 (R245). -/
def Main.getPrt (m : Main) (jid n i : Nat) : Main × Option Prt :=
  match m.engRead n (m.prtDa n i) 32 with
  | (m, none) =>
    ((m.log! { code := 0x2207, cls := .flt, stack := some n, step := m.jobStep jid, par := p4 jid ++ p4 i }).guard jid 10, none)
  | (m, some b) =>
    let e : Prt := bvOf 256 b
    let ring := match m.job? jid with
      | some j => if j.stepOpen then j.ring.filter (fun r => r.1 != j.step) else j.ring
      | none => []
    let f := e.resolve ring
    let m := m.cachePrt n i
    (if f = e then m else m.putPrt jid n i f, some f)

/-! ### Words -/

/-- FP32 values of a byte run, and their bytes. -/
def f32s (l : List Byte) (o n : Nat) : List U32 := (List.range n).map (fun k => bvOf 32 (bytesAt l (o + 4 * k) 4))
def f32Bytes (l : List U32) : List Byte := (l.map (fun v => bvBytes v 4)).flatten
def u16s (l : List Byte) (o n : Nat) : List Nat := (List.range n).map (fun k => natAt l (o + 2 * k) 2)
def u16Bytes (l : List Nat) : List Byte := (l.map (fun v => toBytes 2 v)).flatten

/-- A BF16 code as FP32. -/
def ofBf16 (c : Nat) : U32 := BitVec.ofNat 32 (c * 65536)

/-! ### The pending store -/

/-- Largest magnitude among finite values. -/
def amaxFinite (l : List U32) : U32 :=
  l.foldl (fun a g => if finite32 g && flt a (fabs g) then fabs g else a) (0 : U32)

/-- x × 2^e, exactly. -/
def shift2 (x : U32) (e : Int) : Ex := (val32 x).mul (.rat false 1 1 e)

/-- floor(log2) of a positive finite FP32 value. -/
def floorLog32 (x : U32) : Int :=
  match val32 x with
  | .rat _ n d e => floorLog2 n d e
  | _ => 0

/-- One element of pend_encode: gradient byte, error byte, and whether it is not finite (R229). -/
def pendElem (seed : U64) (step layer : U32) (x : Int) (el : Nat) (g : U32) : Byte × Byte × Bool :=
  if isNan32 g then (0x7E, 0, true)
  else if !finite32 g then (if g.msb then 0xFC else 0x7C, 0, true)
  else
    let q := rne32 (shift2 g (-x))
    let g8 := (Elem.e5m2.conv .rne (val32 q)).code
    let r := (val32 q).sub (Elem.e5m2.value g8)
    let draw := drawHi (srDraw seed step layer (BitVec.ofNat 40 el) 0 0x02)
    let e8 := (Elem.e4m3.conv (.sr draw) (val32 (rne32 (r.mul (.rat false 1 1 (-4)))))).code
    (BitVec.ofNat 8 g8, BitVec.ofNat 8 e8, false)

/-- pend_encode (R229), frozen elements as 0 (R213): exponent, the 8,192 bytes, non-finite. -/
def pendEncode (seed : U64) (step : U32) (l : Nat) (x : Layer) (p : Nat) (g : List U32) : Int × List Byte × Bool :=
  let g := (List.range 4096).map (fun e => if x.trained p e then g.getD e 0 else (0 : U32))
  let amax := amaxFinite g
  let ex : Int := if amax = 0 then 0 else max (-127) (min 127 (floorLog32 amax - 14))
  let es := g.zipIdx.map (fun v => pendElem seed step (BitVec.ofNat 32 l) ex (4096 * p + v.2) v.1)
  (ex, es.map (·.1) ++ es.map (·.2.1), es.any (·.2.2))

/-- gdec of element `e` of a pending run (R230). -/
def gdec (gexp : Int) (pend : List Byte) (e : Nat) : U32 :=
  let g := Elem.e5m2.value (pend.getD e 0).toNat
  let c := Elem.e4m3.value (pend.getD (4096 + e) 0).toNat
  rne32 ((g.add (c.mul (.rat false 16 1 0))).mul (.rat false 1 1 gexp))

/-! ### Optimiser profiles -/

/-- FP32 field of a record. -/
def fieldF (r : List Byte) (o : Nat) : U32 := bvOf 32 (bytesAt r o 4)

/-- 0 ≤ x. -/
def nonneg (x : U32) : Bool := finite32 x && !flt x 0

/-- One segment of a profile (R223). -/
structure RateSeg where
  start : Nat := 0
  len : Nat := 0
  kind : Nat := 0
  lr0 : U32 := 0
  lr1 : U32 := 0
  deriving DecidableEq, Repr, Inhabited

def profSeg (r : List Byte) (k : Nat) : RateSeg :=
  let o := 64 + 24 * k
  { start := natAt r o 4, len := natAt r (o + 4) 4, kind := natAt r (o + 8) 1, lr0 := fieldF r (o + 16), lr1 := fieldF r (o + 20) }

/-- The rules of R222 and R223 for a profile record. -/
def profOk (r : List Byte) : Bool :=
  let n := natAt r 4 1
  let lt1 (x : U32) : Bool := nonneg x && flt x 0x3f800000
  let segs := (List.range n).map (profSeg r)
  natAt r 0 1 ≤ 2 && natAt r 1 1 ≤ 1 && natAt r 2 1 ≤ 3 && natAt r 3 1 < 4 && 1 ≤ n && n ≤ 16 && zeroAt r 5 3 &&
  lt1 (fieldF r 8) && lt1 (fieldF r 12) && nonneg (fieldF r 16) && nonneg (fieldF r 20) &&
  finite32 (fieldF r 24) && (natAt r 2 1 = 0 || flt 0 (fieldF r 24)) &&
  finite32 (fieldF r 28) && flt 0 (fieldF r 28) && zeroAt r 32 32 && zeroAt r 448 64 &&
  zeroAt r (64 + 24 * n) (24 * (16 - n)) &&
  (List.range n).all (fun k => zeroAt r (64 + 24 * k + 9) 7) &&
  segs.all (fun s => s.kind ≤ 2 && (s.kind = 0 || 1 ≤ s.len) && nonneg s.lr0 && nonneg s.lr1) &&
  (segs.headD default).start = 0 &&
  (segs.zip (segs.drop 1)).all (fun e => e.1.start < e.2.start)

/-- A profile as the update uses it (R222). -/
structure Prof where
  alg : Nat := 0
  decay : Nat := 0
  clip : Nat := 0
  bias : Bool := false
  nesterov : Bool := false
  b1 : U32 := 0
  b2 : U32 := 0
  eps : U32 := 0
  lambda : U32 := 0
  c : U32 := 0
  gm : U32 := 0x3f800000
  segs : List RateSeg := []
  deriving DecidableEq, Repr, Inhabited

def Prof.of (r : List Byte) : Prof :=
  { alg := natAt r 0 1, decay := natAt r 1 1, clip := natAt r 2 1, bias := (r.getD 3 0).getLsbD 0, nesterov := (r.getD 3 0).getLsbD 1,
    b1 := fieldF r 8, b2 := fieldF r 12, eps := fieldF r 16, lambda := fieldF r 20, c := fieldF r 24, gm := fieldF r 28,
    segs := (List.range (natAt r 4 1)).map (profSeg r) }

/-! ### The update -/

/-- pw (R232): b to the power t. -/
def pw (b : U32) (t : Nat) : U32 :=
  (List.range 32).foldl (fun r i =>
    let r := fmul r r
    if t / 2 ^ (31 - i) % 2 = 1 then fmul r b else r) (0x3f800000 : U32)

/-- schedule (R232). -/
def schedule (p : Prof) (u : Nat) : U32 :=
  let s := ((p.segs.filter (fun s => s.start ≤ u)).getLast?).getD default
  if s.kind = 0 then s.lr0
  else
    let x := fdiv (fofNat (min (u - s.start) s.len)) (fofNat s.len)
    if s.kind = 1 then fadd s.lr0 (fmul (fsub s.lr1 s.lr0) x)
    else
      let h := fmul 0x3f000000 (fadd 0x3f800000 (rne32 (cospi (val32 x))))
      fadd s.lr1 (fmul (fsub s.lr0 s.lr1) h)

/-- What one update shares among its elements (R232): rate and bias corrections. -/
structure UpdEnv where
  p : Prof := {}
  lr : U32 := 0
  bc1 : U32 := 0
  bc2 : U32 := 0
  clipf : U32 := 0x3f800000
  deriving DecidableEq, Repr, Inhabited

def UpdEnv.of (p : Prof) (u : Nat) (clipf : U32) : UpdEnv :=
  { p := p, lr := schedule p u, clipf := clipf,
    bc1 := if p.bias then fsub 0x3f800000 (pw p.b1 (u + 1)) else 0
    bc2 := if p.bias then fsub 0x3f800000 (pw p.b2 (u + 1)) else 0 }

/-- update of one element (R232): the new w, m, v, and lr × d. -/
def UpdEnv.apply (q : UpdEnv) (gd w m v : U32) : U32 × U32 × U32 × U32 :=
  let p := q.p
  let one : U32 := 0x3f800000
  let g := fmul gd p.gm
  let g := if p.clip = 1 then rne32 (Ex.min (Ex.max (val32 g) (val32 (fneg p.c))) (val32 p.c)) else g
  let g := if p.clip ≥ 2 then fmul g q.clipf else g
  let g := if p.decay = 1 then fadd g (fmul p.lambda w) else g
  let (m', v', d) : U32 × U32 × U32 :=
    match p.alg with
    | 0 =>
      let m' := fadd (fmul p.b1 m) (fmul (fsub one p.b1) g)
      let v' := fadd (fmul p.b2 v) (fmul (fsub one p.b2) (fmul g g))
      let mh := if p.bias then fdiv m' q.bc1 else m'
      let vh := if p.bias then fdiv v' q.bc2 else v'
      (m', v', fdiv mh (fadd (fsqrt vh) p.eps))
    | 1 =>
      let m' := fadd (fmul p.b1 m) g
      (m', v, if p.nesterov then fadd g (fmul p.b1 m') else m')
    | _ =>
      let c := fadd (fmul p.b1 m) (fmul (fsub one p.b1) g)
      let d := if flt 0 c then one else if flt c 0 then fneg one else if isNan32 c then c else (0 : U32)
      (fadd (fmul p.b2 m) (fmul (fsub one p.b2) g), v, d)
  let d := if p.decay = 0 then fadd d (fmul p.lambda w) else d
  (fsub w (fmul q.lr d), m', v', fmul q.lr d)

/-- Working copies' code of a master value (R234). -/
def workCode (tw w : U32) : Byte := BitVec.ofNat 8 (Elem.e4m3.conv .rne (val32 (fdiv w tw))).code

/-- Panel codes of a block's master, in order 1 (R195, R219, R234). -/
def workCodes (tw : U32) (master : List U32) : List Byte := master.map (workCode tw)

/-- What the update of a block gives: master, moment bytes, non-finite, update-size trip (R232, R235, R266). -/
structure BlockUpd where
  master : List U32 := []
  moments : List Byte := []
  nf : Bool := false
  big : Bool := false
  deriving DecidableEq, Repr, Inhabited

/-- The update of every element of a block; frozen elements stay (R213, R232). -/
def blockUpdate (q : UpdEnv) (gD : Int) (zeroNf : Bool) (trained : Nat → Bool) (gexp : Int) (pend : List Byte)
    (master : List U32) (mom : List Byte) : BlockUpd :=
  let mc := u16s mom 0 4096
  let vc := u16s mom 8192 4096
  let one (e : Nat) : U32 × Nat × Nat × Bool × Bool :=
    let w := master.getD e 0
    let m0 := mc.getD e 0
    let v0 := vc.getD e 0
    if !trained e then (w, m0, v0, false, false)
    else
      let gd := gdec gexp pend e
      let gd := if zeroNf && !finite32 gd then (0 : U32) else gd
      let (w', m', v', ld) := q.apply gd w (ofBf16 m0) (vlogDec v0)
      let mcv := Elem.bf16.conv .rne (val32 m')
      let vcv := if q.p.alg = 0 then vlogEnc v' else {}
      (w', mcv.code, vcv.code, !finite32 gd || !finite32 w' || mcv.nf || vcv.nf,
        (Ex.rat false 1 1 gD).lt (val32 ld).abs)
  let r := (List.range 4096).map one
  { master := r.map (·.1), moments := u16Bytes (r.map (·.2.1)) ++ u16Bytes (r.map (·.2.2.1)),
    nf := r.any (·.2.2.2.1), big := r.any (·.2.2.2.2) }

/-! ### Clipping norms -/

/-- A block's exact sum of squares of rne_f32(gdec × gm) over its trained elements (R233). -/
def blockSquares (gm : U32) (zeroNf : Bool) (trained : Nat → Bool) (gexp : Int) (pend : List Byte) : Ex :=
  (List.range 4096).foldl (fun s e =>
    if !trained e then s
    else
      let g := gdec gexp pend e
      let g := if zeroNf && !finite32 g then (0 : U32) else g
      let q := val32 (fmul g gm)
      s.add (q.mul q)) Ex.zero

/-- The clipping sum of one logical rank, over a layer or over every layer of the job (R233). -/
def Main.normPart (m : Main) (jid rank : Nat) (layer : Option Nat) : Main × U32 :=
  match m.job? jid with
  | none => (m, 0)
  | some j =>
    let (m, s) := (m.entriesOf jid).foldl (fun (a : Main × Ex) (e : Nat × Nat) =>
      match a.1.getPrt jid e.1 e.2 with
      | (m, none) => (m, a.2)
      | (m, some x) =>
        if x.pend && x.wstep = j.step.toNat && x.rank = rank && layer.all (· = x.layer) then
          match m.engRead e.1 (m.pendDa e.1 e.2) 8192, j.layers.find x.layer with
          | (m, some b), some y =>
            let p := Prof.of ((j.profOpen.find x.prof).getD [])
            (m, a.2.add (blockSquares p.gm (j.disc = .eagerInPlace) (y.trained x.panel) x.gexp b))
          | (m, _), _ => (m, a.2)
        else (m, a.2)) (m, Ex.zero)
    (m, rne32 s)

/-- clipf of a norm (R233). -/
def clipFactor (c total : U32) : U32 :=
  let norm := fsqrt total
  if flt c norm then fdiv c norm else 0x3f800000

/-! ### Landing and applying -/

/-- R19 (b) no longer waits for a panel of the open step. -/
def Job.settlePanel (j : Job) (l p : Nat) : Job :=
  { j with settled := if j.settled.contains (l, p) then j.settled else j.settled ++ [(l, p)] }

/-- The panel of the entry that a job assigned (R220). -/
def Main.panelAt (m : Main) (jid n i : Nat) : Option (Nat × Nat) :=
  ((m.runsOf jid).find? (fun r => r.stack = n && r.entry ≤ i && i < r.entry + r.count)).map (fun r => (r.layer, r.panel + (i - r.entry)))

/-- A block of the open step that cannot be applied: event, discard, and readiness goes on without it (R226, R240, R245). -/
def Main.blockFails (m : Main) (jid n i code : Nat) : Main :=
  let m := if code = 0x2207 then m
    else (m.log! { code := code, cls := .flt, stack := some n, step := m.jobStep jid, par := p4 jid ++ p4 i }).guard jid 10
  let m := m.updBurn n (fun b => { b with wait := b.wait.filter (· != i), waitVer := b.waitVer.filter (· != i) })
  let at_ := m.panelAt jid n i
  m.updJob jid (fun j => match at_ with
    | some e => { j.settlePanel e.1 e.2 with failed := j.failed + 1 }
    | none => { j with failed := j.failed + 1 })

/-- Issues the first fetch that waits and whose entry has none outstanding, while fewer than 64 are (R240). -/
def Main.issueFetch (m : Main) (n : Nat) : Main :=
  let b := m.burnAt n
  match b.toFetch.find? (fun i => !(b.fetch.any (fun f => f.1 = i))) with
  | none => m
  | some i =>
    if b.fetch.length ≥ 64 then m
    else
      let m := m.updBurn n (fun b => { b with toFetch := b.toFetch.erase i, fetch := b.fetch ++ [(i, m.ms)] })
      match m.entryJob n i with
      | none => m
      | some jid =>
        match m.getPrt jid n i with
        | (m, some e) => (m.putPrt jid n i (e.set 6 1 1)).slowAdmit
        | (m, none) => m.slowAdmit

/-- The Burnisher to which a panel is delivered: that of its entry, or that of its layer's stack where none is assigned (R217, R291). -/
def Main.burnOf (m : Main) (jid l p : Nat) (x : Layer) : Nat := ((m.entryOf jid l p).map (·.1)).getD x.stack

/-- The landing queue of a Burnisher has a place (R239). -/
def Burn.room (b : Burn) : Bool := b.queue.length + b.wait.length < 65536

/-- A reduced block waits in the landing queue for the step after the one in hand (R239, R242). -/
def Main.queueBlock (m : Main) (jid n l p : Nat) (step : U32) (g : List U32) : Main :=
  m.updBurn n (fun b => { b with queue := b.queue ++
    [{ job := BitVec.ofNat 32 jid, step := step, layer := BitVec.ofNat 16 l, panel := p, g := g }] })

/-- A reduced block lands at its Burnisher (R229, R239, R240, R242, R266 bits 0 and 3, R295). A block that lands before its layer is in
Updating in an open step, or while the store holds the block's gradient of the open step, waits in the landing queue. -/
def Main.land (m : Main) (jid l p : Nat) (g : List U32) : Main :=
  match m.job? jid with
  | none => m
  | some j =>
    match j.layers.find l with
    | none => m
    | some x =>
      if p ≥ x.panels then m
      else if !j.stepOpen || x.st != .updating then
        if (m.burnAt (m.burnOf jid l p x)).room then m.queueBlock jid (m.burnOf jid l p x) l p j.step g else m
      else if g = [] then m.updJob jid (·.settlePanel l p)
      else
        match m.entryOf jid l p with
        | none => (m.blockFails jid x.stack 0xFFFFFFFF 0x2201).updJob jid (·.settlePanel l p)
        | some (n, i) =>
          match m.getPrt jid n i with
          | (m, none) => m.blockFails jid n i 0x2207
          | (m, some e) =>
            if !e.loaded then m.blockFails jid n i 0x2201
            else if e.pend && e.wstep = j.step.toNat then
              if (m.burnAt n).room then m.queueBlock jid n l p (j.step + 1) g else m
            else
              let (ex, b, nf) := pendEncode j.seed j.step l x p g
              let m := m.engWrite n jid (m.pendDa n i) b
              let e := (((e.set 8 8 ((ex + 256).toNat)).set 5 1 1).set 7 1 nf.toNat).set 32 32 j.step.toNat
              let m := m.putPrt jid n i e
              let m := if nf then m.guard jid 0 else m
              let m := if ex + 14 ≥ j.gG then m.guard jid 3 else m
              let m := m.updBurn n (fun b => { b with wait := b.wait ++ [i], toFetch := if e.place = 0 then b.toFetch else b.toFetch ++ [i] })
              m.issueFetch n

/-- The blocks of a layer that waited in the landing queues for the step now open land, as the layer enters Updating (R242). -/
def Main.landQueued (m : Main) (jid l : Nat) : Main :=
  match m.job? jid with
  | none => m
  | some j =>
    let mine (q : Landed) : Bool := q.job.toNat = jid && q.layer.toNat = l && q.step = j.step
    let due := (m.burn.map (fun b => b.2.queue.filter mine)).flatten
    let m : Main := { m with burn := m.burn.map (fun (b : Nat × Burn) => (b.1, { b.2 with queue := b.2.queue.filter (fun q => !mine q) })) }
    due.foldl (fun m q => m.land jid l q.panel q.g) m

/-- Panels of a reduce-scatter whose wire blocks have all been reduced. -/
def Coll.whole (c : Coll) : List Nat :=
  ((c.part.map (fun e => e.1 / 128)).eraseDups).filter (fun p => (List.range 128).all (fun k => (c.part.find (128 * p + k)).isSome))

/-- A reduce-scatter to which every local rank has made its contribution, and whose panels have landed, ends (R211, R239, R292). -/
def Main.endScatter (m : Main) (jid : Nat) (c : Coll) : Main :=
  m.updJob jid (fun j => { j with colls := j.colls.filter (fun d =>
    !(d.seq = c.seq && d.epoch = c.epoch &&
      (match j.layers.find d.layer.toNat with
       | some x => d.done ≥ 128 * x.panels * (m.localRanks j).2 && d.part.isEmpty
       | none => true))) })

/-- The complete panels of a reduce-scatter land, as far as the landing queues of their Burnishers have places: a full queue holds the
panel back (R239, R291, R295). -/
def Main.landParts (m : Main) (jid : Nat) (c : Coll) : Main :=
  (c.whole.foldl (fun m p =>
    match (m.job? jid).bind (fun j => j.layers.find c.layer.toNat) with
    | none => m
    | some x =>
      if !(m.burnAt (m.burnOf jid c.layer.toNat p x)).room then m
      else
        let vs := (List.range 128).map (fun k => (c.part.find (128 * p + k)).getD [])
        (m.updJob jid (fun j => { j with colls := j.colls.map (fun d =>
          if d.seq = c.seq && d.epoch = c.epoch then { d with part := d.part.filter (fun e => e.1 / 128 != p) } else d) })).land
          jid c.layer.toNat p (if vs.any (· == []) then [] else vs.flatten)) m).endScatter jid c

/-- The reduce-scatters that waited for a place in a landing queue go on (R239). -/
def Main.landWaiting (m : Main) : Main :=
  m.jobs.foldl (fun (m : Main) (e : Nat × Job) =>
    (e.2.colls.filter (fun c => c.kind = .reduceScatter && !c.part.isEmpty)).foldl (fun m c => m.landParts e.1 c) m) m

/-- BLOCK_LANDING (R229). -/
def execBlockLanding (j : U32) (l : U16) (panel : BitVec 20) (g : List U32) : State → Host.Outcome State Fault Refusal :=
  onMain (fun m => m.land j.toNat l.toNat panel.toNat g)

/-- The clipping factor that a block waits for is known, and what it is (R233, R236). -/
def Job.clipOf (j : Job) (x : Layer) (p : Prof) : Option U32 :=
  match p.clip with
  | 2 => x.norm.map (clipFactor p.c)
  | 3 => j.norm.map (clipFactor p.c)
  | _ => some 0x3f800000

/-- A pending block of a Burnisher may start, but for the version it writes (R188, R236, R239, R240). -/
def Main.blockReady (m : Main) (jid n i : Nat) (e : Prt) : Bool :=
  match m.job? jid with
  | none => false
  | some j =>
    let b := m.burnAt n
    match j.layers.find e.layer with
    | none => false
    | some x =>
      !b.stopped && b.wait.contains i && e.pend && e.wstep = j.step.toNat && x.st = .updating &&
      (e.place = 0 || b.fetched.contains i) &&
      (j.clipOf x (Prof.of ((j.profOpen.find e.prof).getD []))).isSome

/-- Every block that landed at the Burnisher before this one waits for something (R239). -/
def Main.firstReady (m : Main) (n i : Nat) : Main × Bool :=
  ((m.burnAt n).wait.takeWhile (· != i)).foldl (fun (a : Main × Bool) k =>
    match a.1.entryJob n k with
    | none => a
    | some q =>
      match a.1.getPrt q n k with
      | (m, none) => (m, a.2)
      | (m, some e) =>
        let free := match m.job? q with
          | some j => j.versionFree e.layer
          | none => false
        (m, a.2 && !(m.blockReady q n k e && free))) (m, true)

/-- Writes an applied block: slots, working copies, entry (R232, R234, R235). -/
def Main.writeBlock (m : Main) (jid n i : Nat) (j : Job) (x : Layer) (e : Prt) (u : BlockUpd) : Main :=
  let inPlace : Bool := j.disc = .eagerInPlace
  let slot := if inPlace then e.live else !e.live
  let r := j.disc.rec_
  let m := m.engWrite n jid (m.masterDa r n i e slot) (f32Bytes u.master)
  let m := m.engWrite n jid (m.momentDa r n i e slot) u.moments
  let m := m.writePanel jid j.single x (!j.single && !j.version) e.panel (workCodes x.tw u.master)
  let e := if inPlace then e.set 5 1 0 else e.set 4 1 1
  let e := if u.nf then e.set 7 1 1 else e
  let m := m.putPrt jid n i e
  let m := m.updBurn n (fun b =>
    { b with wait := b.wait.filter (· != i), waitVer := b.waitVer.filter (· != i), fetched := b.fetched.filter (· != i) })
  let m := m.updJob jid (fun j =>
    { (j.updLayer e.layer (fun y => { y with next := y.next ++ [e.panel] })).settlePanel e.layer e.panel with
      applied := j.applied + 1
      appliedIn := j.appliedIn.put n (j.appliedIn.get n + 1) })
  let m := if u.nf then m.guard jid 0 else m
  if u.big then m.guard jid 5 else m

/-- Counts gradients that eager in place replaced by +0 (R231). -/
def Main.countReplaced (m : Main) (jid n : Nat) (k : Nat) : Main :=
  if k = 0 then m else m.updJob jid (fun j => { j with replaced := j.replaced.put n (j.replaced.get n + k) })

/-- BLOCK_APPLY (R204, R231–R236, R239). -/
def Main.applyBlock (m : Main) (jid n i : Nat) : Main :=
  match m.getPrt jid n i, m.job? jid with
  | (m, none), _ => if (m.burnAt n).wait.contains i then m.blockFails jid n i 0x2207 else m
  | (m, some e), some j =>
    if !m.blockReady jid n i e then m
    else
      match j.layers.find e.layer with
      | none => m
      | some x =>
        if !j.versionFree e.layer then
          (m.updBurn n (fun b => { b with waitVer := if b.waitVer.contains i then b.waitVer else b.waitVer ++ [i] })).logOnce jid e.layer
            { code := 0x1304, cls := .adv, par := p4 jid ++ p2 e.layer }
        else
          match m.firstReady n i with
          | (m, false) => m
          | (m, true) =>
            let r := j.disc.rec_
            match m.engRead n (m.masterDa r n i e e.live) 0x4000 with
            | (m, none) => m.blockFails jid n i 0x2202
            | (m, some w) =>
              match m.engRead n (m.momentDa r n i e e.live) 0x4000 with
              | (m, none) => m.blockFails jid n i 0x2202
              | (m, some mom) =>
                match m.engRead n (m.pendDa n i) 0x2000 with
                | (m, none) => m.blockFails jid n i 0x2202
                | (m, some b) =>
                  let p := Prof.of ((j.profOpen.find e.prof).getD [])
                  let q := UpdEnv.of p j.countOpen.toNat ((j.clipOf x p).getD 0)
                  let zero : Bool := j.disc = .eagerInPlace
                  let u := blockUpdate q j.gD zero (x.trained e.panel) e.gexp b (f32s w 0 4096) mom
                  let k := if zero then ((List.range 4096).filter (fun t => x.trained e.panel t && !finite32 (gdec e.gexp b t))).length else 0
                  (m.countReplaced jid n k).writeBlock jid n i j x e u
  | (m, _), none => m

def execBlockApply (n : Fin 10) (i : BitVec 24) : State → Host.Outcome State Fault Refusal :=
  onMain (fun m =>
    match m.entryJob n.val i.toNat with
    | some jid => (m.applyBlock jid n.val i.toNat).landWaiting
    | none => m)

/-- A fetch ends: FETCH is 0, and a waiting fetch is issued (R240). -/
def Main.endFetch (m : Main) (jid n i : Nat) : Main :=
  let m := m.updBurn n (fun b => { b with fetch := b.fetch.filter (fun f => f.1 != i) })
  let m := match m.getPrt jid n i with
    | (m, some e) => m.putPrt jid n i (e.set 6 1 0)
      | (m, none) => m
  m.issueFetch n

/-- The slots of a fetched block hold poison. -/
def Main.fetchPoison (m : Main) (jid n i : Nat) : Bool :=
  match m.job? jid with
  | none => false
  | some j =>
    let e : Prt := bvOf 256 (m.mem.hbm.read (m.prtDa n i) 32)
    let bad (a : Nat) : Bool := a ≥ 2 ^ 41 && (m.engRead n a 0x4000).2.isNone
    bad (m.masterDa j.disc.rec_ n i e e.live) || bad (m.momentDa j.disc.rec_ n i e e.live)

/-- A fetch ends with its data, with poison or with an error (R240); one whose step has been decided since only ends. -/
def Main.fetchReturn (m : Main) (n i : Nat) (bad : Bool) : Main :=
  match m.entryJob n i with
  | none => m
  | some jid =>
    if !((m.burnAt n).fetch.any (fun f => f.1 = i)) then m
    else if (m.burnAt n).stale.contains i then (m.updBurn n (fun b => { b with stale := b.stale.filter (· != i) })).endFetch jid n i
    else if bad || !(m.bServes (m.stackPartOf n)) || m.fetchPoison jid n i then (m.endFetch jid n i).blockFails jid n i 0x2202
    else (m.endFetch jid n i).updBurn n (fun b => { b with fetched := if b.wait.contains i then b.fetched ++ [i] else b.fetched })

/-- SLOW_TIER_FETCH_RETURN (R240, R312): a fetch that waits for transactions of port B does not return. -/
def execSlowTierFetchReturn (n : Fin 10) (i : BitVec 24) (bad : Bool) : State → Host.Outcome State Fault Refusal :=
  onMain (fun m => if m.slowLive (.burn n.val i.toNat) then (m.fetchReturn n.val i.toNat bad).slowAdmit else m)

/-- SLOW_TIER_FETCH_TIMEOUT (R240). -/
def execSlowTierFetchTimeout (n : Fin 10) (i : BitVec 24) : State → Host.Outcome State Fault Refusal :=
  onMain (fun m => (m.fetchReturn n.val i.toNat true).slowAdmit)

end Sys2Proof.Machine
end

