-- ==== Sys2Proof/Machine/BurnCmds.lean ====
section
/-! DEFINITION. The commands that place, move, load, save and audit parameter state (R222–R228, R237, R244). -/

namespace Sys2Proof.Machine

/-- The job that a state-placement command names, with reasons 0x01 and 0x02 (R225). -/
def Main.placing (m : Main) (jid : Nat) (anyTime : Bool) (body : Job → Reply) : Reply :=
  match m.job? jid with
  | none => refuse m 1
  | some j =>
    if j.stepOpen && !anyTime then refuse m 2
    else
      let r := body j
      if r.2.1 = 0 then (r.1.onceOver jid, r.2) else r

/-- SET_OPTIMISER_PROFILE, 0x0350 (R222–R225). -/
def Main.setProfile (p : Payload) (m : Main) : Reply :=
  let jid := bvAt p 0 4
  m.placing jid false (fun j =>
    let k := bvAt p 4 1
    let da := bvAt p 8 8
    let part := m.diePartOf ((diesOf j.dies).headD 0)
    let rng := m.rngFor part da
    let reach := match rng with
      | .hbm _ _ | .host _ => true
      | _ => false
    if k > 63 then refuse m 5
    else if da % 64 != 0 || !reach || !(m.mapped part da 512) then refuse m 8
    else
      match m.daGet part da 512 with
      | (m, none) => refuse m 8
      | (m, some r) =>
        if !profOk r then refuse m 5
        else if natAt r 2 1 = 3 && j.disc != .stepEnd then refuse m 6
        else ok (m.updJob jid (fun j => { j with prof := j.prof.put k r })) [])

def execSetOptimiserProfile (h : Hdr) (p : Payload) : State → Host.Outcome State Fault Refusal :=
  onMain (fun m => m.command 0x0350 h p [(0, 5), (8, 8)] (Main.setProfile p) (owned := m.ownsJob h.src (bvAt p 0 4)))

def Discipline.of : Nat → Discipline
  | 0 => .eagerShadow | 1 => .eagerInPlace | _ => .stepEnd

def Discipline.num : Discipline → Nat
  | .eagerShadow => 0 | .eagerInPlace => 1 | .stepEnd => 2

/-- SET_UPDATE_DISCIPLINE, 0x0351 (R225, R237). -/
def Main.setDiscipline (p : Payload) (m : Main) : Reply :=
  let jid := bvAt p 0 4
  if bvAt p 4 1 > 2 then reject m 2
  else m.placing jid false (fun j =>
    let d := Discipline.of (bvAt p 4 1)
    if d != j.disc && m.ownedBlocks jid != 0 then refuse m 4
    else if (d = .eagerInPlace && j.guard != 0) || (d != .stepEnd && j.prof.any (fun r => natAt r.2 2 1 = 3)) then refuse m 6
    else
      let m := m.setJob jid { j with disc := d, count := p.extractLsb' 64 32 }
      ok { m with assigned := m.assigned.upd jid (fun a => { a with disc := d }) } [])

def execSetUpdateDiscipline (h : Hdr) (p : Payload) : State → Host.Outcome State Fault Refusal :=
  onMain (fun m => m.command 0x0351 h p [(0, 5), (8, 4)] (Main.setDiscipline p) (owned := m.ownsJob h.src (bvAt p 0 4)))

/-! ### Entry ranges -/

/-- The requester owns the stack, where it is present (R225 reason 0x07). -/
def Main.ownsStack (m : Main) (h : Hdr) (n : Nat) : Bool := n ≥ m.variant.stacks || m.owns h.src (m.variant.stackPart n)

/-- The entries [i, i + c) lie in the PRT region (R225 reason 0x03). -/
def Main.entriesIn (m : Main) (n i c : Nat) : Bool :=
  n < m.variant.stacks && (match m.region? n 1 with
    | some r => 32 * (i + c) ≤ r.2
    | none => false)

/-- The strides of R219 for entries below `e` stay in their regions under a placement (R225 reason 0x03). -/
def Main.stridesIn (m : Main) (r n e place : Nat) : Bool :=
  let fits (k sz : Nat) : Bool := match m.region? n k with
    | some g => sz * e ≤ g.2
    | none => e = 0
  fits 5 0x2000 && (place = 2 || fits 2 r) && (place != 0 || fits 3 r)

/-- The job's entries [i, i + c) are all assigned to it. -/
def Main.assignedAll (m : Main) (jid n i c : Nat) : Bool := (List.range c).all (fun k => m.entryJob n (i + k) = some jid)

/-- Bytes of a block's slow-tier record under a placement (R226). -/
def recBytes (r place : Nat) : Nat := if place = 1 then r else if place = 2 then 2 * r else 0

/-- Slow-tier records of assigned blocks: stack, entry, offset and bytes (R225 reason 0x0A). -/
def Main.slowRecs (m : Main) : List (Nat × Nat × Nat × Nat) :=
  (m.assigned.map (fun a =>
    (m.entriesOf a.1).map (fun e =>
      let x : Prt := bvOf 256 (m.mem.hbm.read (m.prtDa e.1 e.2) 32)
      (e.1, e.2, 0x4000 * x.stoff, recBytes a.2.disc.rec_ x.place)))).flatten

/-- The `c` slow-tier records from STOFF, of entries `i` onwards, are exposed and none overlaps another block's record (R225 reason 0x0A, R428). -/
def Main.slowFree (m : Main) (r place n i c stoff : Nat) : Bool :=
  let one := recBytes r place
  let len := one * c
  let o := 0x4000 * stoff
  let q := m.partAt (m.variant.stackPart n)
  let recs := m.slowRecs
  len = 0 || (stoff + len / 0x4000 ≤ 2 ^ 30 && o + len ≤ m.slowSize && (!m.partOn || (q.base ≤ o && o + len ≤ q.base + q.size)) &&
    (List.range c).all (fun k => recs.all (fun e => (e.1 = n && e.2.1 = i + k) || !overlap (o + one * k) one e.2.2.1 e.2.2.2)))

/-- Entries valid in a stack. -/
def Main.validIn (m : Main) (n : Nat) : Nat :=
  (m.assigned.map (fun a => ((a.2.runs.filter (fun r => r.stack = n)).map (·.count)).sum)).sum

/-- Runs of the module's map (R220). -/
def runCount (t : Table Assigned) : Nat := (t.map (fun a => a.2.runs.length)).sum

/-- Takes the entries [i, i + c) of a stack out of a run (R220). -/
def cutPanels (n i c : Nat) (r : PanelRun) : List PanelRun :=
  if r.stack != n || i + c ≤ r.entry || r.entry + r.count ≤ i then [r]
  else
    (if r.entry < i then [{ r with count := i - r.entry }] else []) ++
    (if i + c < r.entry + r.count then
      [{ r with panel := r.panel + (i + c - r.entry), entry := i + c, count := r.entry + r.count - (i + c) }] else [])

/-- ASSIGN_BLOCKS, 0x0352 (R217, R219, R220, R224–R226). -/
def Main.assign (h : Hdr) (p : Payload) (m : Main) : Reply :=
  let jid := bvAt p 0 4
  let l := bvAt p 4 2
  let n := bvAt p 6 1
  let place := bvAt p 7 1 % 4
  let prof := bvAt p 7 1 / 4
  let p0 := bvAt p 8 4
  let c := bvAt p 12 4
  let i := bvAt p 16 4
  let rank := bvAt p 20 2
  let stoff := bvAt p 24 4
  m.placing jid false (fun j =>
    let r := j.disc.rec_
    let runs := m.runsOf jid
    if !(m.ownsStack h n) then refuse m 7
    else if !(m.entriesIn n i c) then refuse m 3
    else if place = 3 then
      if !(m.assignedAll jid n i c) then refuse m 4
      else
        let t := m.assigned.upd jid (fun a => { a with runs := (a.runs.map (cutPanels n i c)).flatten })
        if runCount t > 65536 then refuse m 3
        else
          let m := (List.range c).foldl (fun m k => m.putPrt jid n (i + k) 0) m
          let m := { m with assigned := t }
          ok m [(4, 4, m.validIn n)]
    else
      match j.layers.find l with
      | none => refuse m 9
      | some x =>
        if p0 + c > x.panels then refuse m 9
        else if rank ≥ j.ranks then reject m 2
        else if (j.prof.find prof).isNone || runs.any (fun q => q.layer = l &&
            Prt.prof (bvOf 256 (m.mem.hbm.read (m.prtDa q.stack q.entry) 32)) != prof) then refuse m 5
        else if (List.range c).any (fun k => (m.entryJob n (i + k)).isSome || (m.entryOf jid l (p0 + k)).isSome) then refuse m 4
        else if !(m.stridesIn r n (i + c) place) || runCount m.assigned ≥ 65536 then refuse m 3
        else if !(m.slowFree r place n i c stoff) then refuse m 10
        else
          let m := (List.range c).foldl (fun m k =>
            m.putPrt jid n (i + k) (Prt.assign place prof l (p0 + k) rank
              (if place = 0 then 0 else stoff + k * (recBytes r place / 0x4000)))) m
          let run : PanelRun := { layer := l, panel := p0, count := c, stack := n, entry := i }
          let m := if c = 0 then m else
            { m with assigned := m.assigned.upd jid (fun a => { disc := j.disc, runs := a.runs ++ [run] }) }
          ok m [(4, 4, m.validIn n)])

def execAssignBlocks (h : Hdr) (p : Payload) : State → Host.Outcome State Fault Refusal :=
  onMain (fun m => m.command 0x0352 h p [(0, 22), (24, 4)]
    (fun m => fillRefused (fun m => [(4, 4, m.validIn (bvAt p 6 1))]) (Main.assign h p m)) (owned := m.ownsJob h.src (bvAt p 0 4)))

/-- The checks that commands 0x0353 to 0x0356 share (R225): ownership, range, assigned entries. -/
def Main.onEntries (m : Main) (h : Hdr) (jid n i c : Nat) (body : Reply) : Reply :=
  if !(m.ownsStack h n) then refuse m 7
  else if !(m.entriesIn n i c) then refuse m 3
  else if !(m.assignedAll jid n i c) then refuse m 4
  else body

/-- Leaves a run at a device address undefined. -/
def Main.forgetDa (m : Main) (a n : Nat) : Main :=
  if a < 2 ^ 41 then m.forgetRun a n
  else
    let o := if a < slowBase2 then a - slowBase else a - slowBase2 + 2 ^ 43
    { m with mem := { m.mem with slow := m.mem.slow.forget o n m.mem.stamp, stamp := m.mem.stamp + 1 } }

/-- The live slots of a block: entry, master, moments; none where poison comes back. -/
def Main.slots (m : Main) (jid r n i : Nat) : Main × Option (Prt × List Byte × List Byte) :=
  match m.getPrt jid n i with
  | (m, none) => (m, none)
  | (m, some e) =>
    match m.engRead n (m.masterDa r n i e e.live) 0x4000 with
    | (m, none) => (m, none)
    | (m, some w) =>
      match m.engRead n (m.momentDa r n i e e.live) 0x4000 with
      | (m, none) => (m, none)
      | (m, some x) => (m, some (e, w, x))

/-- The live slots of a run of blocks, in entry order. -/
def Main.slotsAll (m : Main) (jid r n : Nat) : List Nat → Main × Option (List (Nat × Prt × List Byte × List Byte))
  | [] => (m, some [])
  | i :: is =>
    match m.slots jid r n i with
    | (m, none) => (m, none)
    | (m, some s) =>
      match m.slotsAll jid r n is with
      | (m, none) => (m, none)
      | (m, some l) => (m, some ((i, s) :: l))

/-- Entry of a block under its new placement (R226). -/
def Main.movedPrt (r place stoff first : Nat) (i : Nat) (e : Prt) : Prt :=
  (e.set 1 2 place).set 112 30 (if place = 0 then 0 else stoff + (i - first) * (recBytes r place / 0x4000))

/-- Leaves the old places of a moved block undefined, where its placement changes them (R228). -/
def Main.leaveOld (m : Main) (r n place stoff first : Nat) (b : Nat × Prt × List Byte × List Byte) : Main :=
  let (i, e, _, _) := b
  let f := Main.movedPrt r place stoff first i e
  let old := [(m.masterDa r n i e false, m.masterDa r n i f false), (m.momentDa r n i e false, m.momentDa r n i f false)]
  (old.filter (fun a => a.1 != a.2)).foldl (fun m a => m.forgetDa a.1 r) m

/-- Writes one block's state to its new placement (R226, R228). -/
def Main.moveBlock (m : Main) (jid r n place stoff first : Nat) (b : Nat × Prt × List Byte × List Byte) : Main :=
  let (i, e, w, x) := b
  let f := Main.movedPrt r place stoff first i e
  let m := if (m.masterDa r n i e e.live) = m.masterDa r n i f e.live then m else m.engWrite n jid (m.masterDa r n i f e.live) w
  let m := if (m.momentDa r n i e e.live) = m.momentDa r n i f e.live then m else m.engWrite n jid (m.momentDa r n i f e.live) x
  m.putPrt jid n i f

/-- MOVE_BLOCK_STATE, 0x0353 (R225, R226, R228). -/
def Main.moveState (h : Hdr) (p : Payload) (m : Main) : Reply :=
  let jid := bvAt p 0 4
  let n := bvAt p 4 1
  let place := bvAt p 5 1
  let i := bvAt p 8 4
  let c := bvAt p 12 4
  let stoff := bvAt p 16 4
  m.placing jid false (fun j =>
    let r := j.disc.rec_
    m.onEntries h jid n i c (
      if place > 2 then refuse m 5
      else if !(m.stridesIn r n (i + c) place) then refuse m 3
      else if !(m.slowFree r place n i c stoff) then refuse m 10
      else
        match m.slotsAll jid r n ((List.range c).map (i + ·)) with
        | (m, none) => refuse m 8
        | (m, some l) =>
          let m := l.foldl (fun m b => m.leaveOld r n place stoff i b) m
          let m := l.foldl (fun m b => m.moveBlock jid r n place stoff i b) m
          ok (m.log! { code := 0x2205, cls := .rec_, stack := some n, par := p4 jid ++ p4 c }) [(4, 4, c)]))

def execMoveBlockState (h : Hdr) (p : Payload) : State → Host.Outcome State Fault Refusal :=
  onMain (fun m => m.command 0x0353 h p [(0, 6), (8, 12)] (Main.moveState h p) (owned := m.ownsJob h.src (bvAt p 0 4)))

/-- Loads one block's image (R227, R234, R199). -/
def Main.loadBlock (m : Main) (jid n i : Nat) (j : Job) (img : List Byte) : Main :=
  match m.getPrt jid n i with
  | (m, none) => m
  | (m, some e) =>
    let r := j.disc.rec_
    let alg := natAt ((j.prof.find e.prof).getD []) 0 1
    let m := m.engWrite n jid (m.masterDa r n i e e.live) (img.take 0x4000)
    let mom := (img.drop 0x4000).take 0x4000
    let m := m.engWrite n jid (m.momentDa r n i e e.live) (if alg = 0 then mom else mom.take 0x2000)
    let m := m.putPrt jid n i ((((e.set 22 1 1).set 4 1 0).set 5 1 0).set 7 1 0)
    match j.layers.find e.layer with
    | none => m
    | some x =>
      (m.writePanel jid j.single x j.version e.panel (workCodes x.tw (f32s img 0 4096))).updJob jid
        (fun j => j.updLayer e.layer (·.land e.panel))

/-- The layer of every entry of a run is registered (R225 reason 0x09). -/
def Main.layersKnown (m : Main) (j : Job) (n i c : Nat) : Bool :=
  (List.range c).all (fun k => (j.layers.find (Prt.layer (bvOf 256 (m.mem.hbm.read (m.prtDa n (i + k)) 32)))).isSome)

/-- LOAD_BLOCK_STATE, 0x0354 (R225, R227). -/
def Main.loadState (h : Hdr) (p : Payload) (m : Main) : Reply :=
  let jid := bvAt p 0 4
  let n := bvAt p 4 1
  let i := bvAt p 8 4
  let c := bvAt p 12 4
  m.placing jid false (fun j =>
    m.onEntries h jid n i c (
      if !(m.layersKnown j n i c) then refuse m 9
      else
        match m.daGet (m.stackPartOf n) (bvAt p 16 8) (0x8000 * c) with
        | (m, none) => refuse m 8
        | (m, some l) =>
          let m := (List.range c).foldl (fun m k => m.loadBlock jid n (i + k) j ((l.drop (0x8000 * k)).take 0x8000)) m
          ok (m.log! { code := 0x2206, cls := .rec_, stack := some n, par := p4 jid ++ p4 c }) [(4, 4, c)]))

def execLoadBlockState (h : Hdr) (p : Payload) : State → Host.Outcome State Fault Refusal :=
  onMain (fun m => m.command 0x0354 h p [(0, 5), (8, 16)] (Main.loadState h p) (owned := m.ownsJob h.src (bvAt p 0 4)))

/-- Writes an image at a device address as a base-die engine does (R154). -/
def Main.basePut (m : Main) (jid q a : Nat) (l : List Byte) : Main × Bool :=
  match m.rngFor q a with
  | .hbm _ _ => if m.mapped q a l.length then (m.baseWrite jid a l, true) else (m, false)
  | _ => m.daPut q a l

/-- SAVE_BLOCK_STATE, 0x0355 (R225, R227). -/
def Main.saveState (h : Hdr) (p : Payload) (m : Main) : Reply :=
  let jid := bvAt p 0 4
  let n := bvAt p 4 1
  let i := bvAt p 8 4
  let c := bvAt p 12 4
  m.placing jid false (fun j =>
    m.onEntries h jid n i c (
      if !(m.mapped (m.stackPartOf n) (bvAt p 16 8) (0x8000 * c)) then refuse m 8
      else
        match m.slotsAll jid j.disc.rec_ n ((List.range c).map (i + ·)) with
        | (m, none) => refuse m 8
        | (m, some l) =>
          let img := (l.map (fun b =>
            let alg := natAt ((j.prof.find b.2.1.prof).getD []) 0 1
            b.2.2.1 ++ b.2.2.2.take 0x2000 ++ (if alg = 0 then b.2.2.2.drop 0x2000 else List.replicate 0x2000 0))).flatten
          match m.basePut jid (m.stackPartOf n) (bvAt p 16 8) img with
          | (m, false) => refuse m 8
          | (m, true) => ok m [(4, 4, c)]))

def execSaveBlockState (h : Hdr) (p : Payload) : State → Host.Outcome State Fault Refusal :=
  onMain (fun m => m.command 0x0355 h p [(0, 5), (8, 16)] (Main.saveState h p) (owned := m.ownsJob h.src (bvAt p 0 4)))

/-! ### Drift audit -/

/-- Elements of one block whose working copies differ from the live master: element and order (R244). -/
def Main.auditBlock (m : Main) (jid n i : Nat) (j : Job) : Main × Option (List (Nat × Nat)) :=
  match m.getPrt jid n i with
  | (m, none) => (m, none)
  | (m, some e) =>
    match j.layers.find e.layer with
    | none => (m, none)
    | some x =>
      if x.st != .reading then (m, none)
      else
        match m.engRead n (m.masterDa j.disc.rec_ n i e e.live) 0x4000 with
        | (m, none) => (m, none)
        | (m, some w) =>
          let want := workCodes x.tw (f32s w 0 4096)
          let da := m.recordDa j.single x j.version
          let (m, o1, _) := m.baseRead (da + 4096 * e.panel) 4096
          let (m, o2, _) := m.baseRead (da + x.size + 4096 * x.panel2 e.panel) 4096
          (m, some ((List.range 4096).filterMap (fun t =>
            if o1.getD t 0 != want.getD t 0 then some (t, 1)
            else if o2.getD (transposed t) 0 != want.getD t 0 then some (t, 2)
            else none)))

/-- Audits a run of blocks: blocks audited, mismatches, and the first of them. -/
def Main.auditAll (m : Main) (jid n : Nat) (j : Job) : List Nat → Main × Nat × Nat × Option (Nat × Nat × Nat)
  | [] => (m, 0, 0, none)
  | i :: is =>
    let (m, r) := m.auditBlock jid n i j
    let (m, a, k, f) := m.auditAll jid n j is
    match r with
    | none => (m, a, k, f)
    | some l => (m, a + 1, k + l.length, match l with
        | d :: _ => some (i, d.1, d.2)
        | [] => f)

/-- DRIFT_AUDIT, 0x0356 (R225, R244). -/
def Main.audit (h : Hdr) (p : Payload) (m : Main) : Reply :=
  let jid := bvAt p 0 4
  let n := bvAt p 4 1
  let i := bvAt p 8 4
  let c := bvAt p 12 4
  m.placing jid true (fun j =>
    m.onEntries h jid n i c (
      let (m, a, k, f) := m.auditAll jid n j ((List.range c).map (i + ·))
      match f with
      | none => ok m [(4, 4, a)]
      | some (e, t, o) =>
        ok (m.log! { code := 0x2203, cls := .flt, stack := some n, step := m.jobStep jid,
                     par := p4 jid ++ p4 k ++ p4 e ++ p2 t ++ p1 o })
          [(4, 4, a), (8, 4, k), (12, 4, e), (16, 2, t), (18, 1, o)]))

def execDriftAudit (h : Hdr) (p : Payload) : State → Host.Outcome State Fault Refusal :=
  onMain (fun m => m.command 0x0356 h p [(0, 5), (8, 8)] (Main.audit h p) (owned := m.ownsJob h.src (bvAt p 0 4)))

/-! ### Working weights and status -/

/-- LOAD_WORKING_WEIGHTS, 0x0357 (R225, R228). -/
def Main.loadWeights (h : Hdr) (p : Payload) (m : Main) : Reply :=
  let jid := bvAt p 0 4
  let l := bvAt p 4 2
  let p0 := bvAt p 8 4
  let c := bvAt p 12 4
  m.placing jid false (fun j =>
    match j.layers.find l with
    | none => refuse m 9
    | some x =>
      if !(m.ownsStack h x.stack) then refuse m 7
      else if p0 + c > x.panels || x.st != .landing then refuse m 9
      else
        match m.daGet (m.stackPartOf x.stack) (bvAt p 16 8) (4096 * c) with
        | (m, none) => refuse m 8
        | (m, some b) =>
          let ks := (List.range c).filter (fun k => (m.entryOf jid l (p0 + k)).isNone)
          let m := ks.foldl (fun m k =>
            (m.writePanel jid j.single x j.version (p0 + k) ((b.drop (4096 * k)).take 4096)).updJob jid
              (fun j => j.updLayer l (·.land (p0 + k)))) m
          ok m [(4, 4, ks.length)])

def execLoadWorkingWeights (h : Hdr) (p : Payload) : State → Host.Outcome State Fault Refusal :=
  onMain (fun m => m.command 0x0357 h p [(0, 6), (8, 16)] (Main.loadWeights h p) (owned := m.ownsJob h.src (bvAt p 0 4)))

/-- Entries of a job in a stack whose PEND is set. -/
def Main.pendCount (m : Main) (jid n : Nat) : Main × Nat :=
  ((m.entriesOf jid).filter (fun e => e.1 = n)).foldl (fun (a : Main × Nat) (e : Nat × Nat) =>
    match a.1.getPrt jid n e.2 with
    | (m, some x) => (m, if x.pend then a.2 + 1 else a.2)
    | (m, none) => (m, a.2)) (m, 0)

/-- BURNISHER_STATUS, 0x0358 (R224, R225). -/
def Main.burnStatus (h : Hdr) (p : Payload) (m : Main) : Reply :=
  let jid := bvAt p 0 4
  let n := bvAt p 4 1
  m.placing jid true (fun j =>
    if n ≥ m.variant.stacks then refuse m 3
    else if !(m.ownsStack h n) then refuse m 7
    else
      let (m, k) := m.pendCount jid n
      let b := m.burnAt n
      ok m [(1, 1, j.disc.num), (4, 4, j.count.toNat), (8, 4, j.lastStep.toNat), (12, 1, j.lastVerdict.toNat),
            (16, 4, if j.stepOpen then j.appliedIn.get n else 0), (20, 4, k), (24, 2, b.fetch.length), (26, 2, b.waitVer.length),
            (28, 4, ((m.entriesOf jid).filter (fun e => e.1 = n)).length)])

def execBurnisherStatus (h : Hdr) (p : Payload) : State → Host.Outcome State Fault Refusal :=
  onMain (fun m => m.command 0x0358 h p [(0, 5)] (Main.burnStatus h p) (reads := true)
    (owned := m.ownsJob h.src (bvAt p 0 4)))

end Sys2Proof.Machine
end

