-- ==== Sys2Proof/Machine/Numerics.lean ====
section
/-! DEFINITION. Training numerics: settings, histories, checks, grades and their state images (R252–R270). -/

namespace Sys2Proof.Machine

/-- The job that a numerics command names, closed steps only unless `anyTime` (R253 reasons 0x01, 0x02). -/
def Main.numerics (m : Main) (jid : Nat) (anyTime : Bool) (body : Job → Reply) : Reply :=
  match m.job? jid with
  | none => refuse m 1
  | some j => if j.stepOpen && !anyTime then refuse m 2 else body j

/-- A run of DAs lies in stacks that the requester owns (R253 reason 0x07). -/
def Main.ownsRun (m : Main) (h : Hdr) (a n : Nat) : Bool :=
  (List.range m.variant.stacks).all (fun s => !overlap a n (s * 2 ^ 37) (2 ^ 37) || m.owns h.src (m.variant.stackPart s))

/-- Bytes that a layer's carry takes in a bank (R250). -/
def Layer.carryBytes (x : Layer) : Nat := 33 * x.size / 32

/-- SET_JOB_NUMERICS, 0x0230 (R250–R253). -/
def Main.setJobNumerics (h : Hdr) (p : Payload) (m : Main) : Reply :=
  let jid := bvAt p 0 4
  m.numerics jid false (fun j =>
    let en : BitVec 6 := p.extractLsb' 32 6
    let da := bvAt p 8 8
    let s := bvAt p 16 8
    if en != 0 && j.disc = .eagerInPlace then refuse m 6
    else if bvAt p 25 1 > 64 || bvAt p 27 1 > 32 || s % 0x200000 != 0 then refuse m 4
    else
      let n := 2 * s * (m.localRanks j).2
      let m' := m.setJob jid { j with carry := none }
      if s != 0 && !(m.ownsRun h da n) then refuse m 7
      else if s != 0 && (da % 0x200000 != 0 || da + n > 2 ^ 41 || !(m.mapped (m.diePartOf ((diesOf j.dies).headD 0)) da n) ||
          !(m'.freeRun none da n) || j.layers.any (fun l => l.2.carry + l.2.carryBytes > s)) then refuse m 3
      else ok (m.setJob jid { j with
        guard := en
        carry := if s = 0 then none else some (BitVec.ofNat 56 da, s)
        gG := (p.extractLsb' 192 8).toInt
        gA := bvAt p 25 1
        gD := (p.extractLsb' 208 8).toInt
        gS := bvAt p 27 1 }) [])

def execSetJobNumerics (h : Hdr) (p : Payload) : State → Host.Outcome State Fault Refusal :=
  onMain (fun m => m.command 0x0230 h p [(0, 28)] (Main.setJobNumerics h p) (owned := m.ownsJob h.src (bvAt p 0 4))
    (high := bvAt p 4 4 < 64))

/-- SET_LAYER_NUMERICS, 0x0231 (R246, R252, R253). -/
def Main.setLayerNumerics (p : Payload) (m : Main) : Reply :=
  let jid := bvAt p 0 4
  let l := bvAt p 4 2
  m.numerics jid false (fun j =>
    match j.layers.find l with
    | none => refuse m 5
    | some x =>
      let th : U32 := p.extractLsb' 96 32
      let c := bvAt p 16 8
      if bvAt p 6 1 > 1 || bvAt p 7 1 > 7 || bvAt p 8 1 < 1 || bvAt p 8 1 > 3 || bvAt p 9 1 ≥ bvAt p 8 1 || bvAt p 11 1 > 16 ||
         isNan32 th || !flt 0 th then refuse m 4
      else if c % 64 != 0 || j.carry.any (fun a => c + x.carryBytes > a.2) then refuse m 3
      else ok (m.updJob jid (fun j => j.updLayer l (fun x => { x with
        cls := bvByte p 6
        margin := bvByte p 7
        grades := bvByte p 8
        ceil := bvByte p 9
        promote := p.getLsbD 80
        sample := p.getLsbD 81
        kexp := bvByte p 11
        theta := th
        carry := c }))) [])

def execSetLayerNumerics (h : Hdr) (p : Payload) : State → Host.Outcome State Fault Refusal :=
  onMain (fun m => m.command 0x0231 h p [(0, 24)] (Main.setLayerNumerics p) (owned := m.ownsJob h.src (bvAt p 0 4))
    (high := bvAt p 10 1 < 4))

/-! ### State images -/

/-- One 80-byte record of the numerics state (R261). -/
def Watched.record (w : Watched) : List Byte :=
  p4 w.id.toNat ++ p1 w.hist.length ++ toBytes 11 0 ++ f32Bytes w.hist ++ toBytes (4 * (16 - w.hist.length)) 0

/-- The numerics state image of a job (R261). -/
def Job.numImage (j : Job) : List Byte :=
  let body := (j.watched.map Watched.record).flatten ++
    (List.range 4096).map (fun l => match j.layers.find l with
      | some x => x.grade
      | none => 0)
  p4 0x4D554E56 ++ p4 j.watched.length ++ p4 j.count.toNat ++ p4 (crc32c body).toNat ++ toBytes 48 0 ++ body

/-- SAVE_NUMERICS_STATE, 0x0232 (R261). -/
def Main.saveNumerics (p : Payload) (m : Main) : Reply :=
  m.numerics (bvAt p 0 4) false (fun j =>
    let img := j.numImage
    let part := m.diePartOf ((diesOf j.dies).headD 0)
    if bvAt p 8 8 % 64 != 0 then refuse m 8
    else
      match m.daPut part (bvAt p 8 8) img with
      | (m, false) => refuse m 8
      | (m, true) => ok m [(4, 4, img.length)])

def execSaveNumericsState (h : Hdr) (p : Payload) : State → Host.Outcome State Fault Refusal :=
  onMain (fun m => m.command 0x0232 h p [(0, 4), (8, 8)] (Main.saveNumerics p) (owned := m.ownsJob h.src (bvAt p 0 4)))

/-- The record of a tensor in an image (R261): the rest of what the table keeps stays with an entry of the same ID. -/
def Job.loadRecord (j : Job) (r : List Byte) : Watched :=
  let id := fieldF r 0
  let w := (j.watched.find? (fun w => w.id = id)).getD { layer := 0xFFFF }
  { w with id := id, hist := f32s r 16 (natAt r 4 1) }

/-- A record passes its checks. -/
def recordOk (r : List Byte) : Bool := natAt r 4 1 ≤ 16 && zeroAt r 5 11

/-- LOAD_NUMERICS_STATE, 0x0233 (R261). -/
def Main.loadNumerics (p : Payload) (m : Main) : Reply :=
  let jid := bvAt p 0 4
  let a := bvAt p 8 8
  m.numerics jid false (fun j =>
    let part := m.diePartOf ((diesOf j.dies).headD 0)
    if a % 64 != 0 then refuse m 8
    else
      match m.daGet part a 64 with
      | (m, none) => refuse m 8
      | (m, some hd) =>
        let n := natAt hd 4 4
        if natAt hd 0 4 != 0x4D554E56 || n > 4096 || !zeroAt hd 16 48 then refuse m 8
        else
          match m.daGet part (a + 64) (80 * n + 4096) with
          | (m, none) => refuse m 8
          | (m, some b) =>
            let rs := (List.range n).map (fun k => bytesAt b (80 * k) 80)
            if (crc32c b).toNat != natAt hd 12 4 || !rs.all recordOk then refuse m 8
            else
              let m := m.setJob jid { j with
                watched := rs.map j.loadRecord
                layers := j.layers.map (fun (l : Nat × Layer) => (l.1, { l.2 with grade := b.getD (80 * n + l.1) 0 })) }
              ok (m.log! { code := 0x9103, cls := .rec_, par := p4 jid }) [(4, 4, n)])

def execLoadNumericsState (h : Hdr) (p : Payload) : State → Host.Outcome State Fault Refusal :=
  onMain (fun m => m.command 0x0233 h p [(0, 4), (8, 8)] (Main.loadNumerics p) (owned := m.ownsJob h.src (bvAt p 0 4)))

/-- NUMERICS_STATUS, 0x0234 (R252, R253). -/
def Main.numericsStatus (p : Payload) (m : Main) : Reply :=
  m.numerics (bvAt p 0 4) true (fun j =>
    ok m [(4, 2, j.watched.length), (6, 2, j.jitCount), (8, 2, (j.layers.filter (fun l => l.2.grade != 0)).length),
          (12, 8, j.lastWord.toNat), (20, 4, j.lastStep.toNat)])

def execNumericsStatus (h : Hdr) (p : Payload) : State → Host.Outcome State Fault Refusal :=
  onMain (fun m => m.command 0x0234 h p [(0, 4)] (Main.numericsStatus p) (reads := true)
    (owned := m.ownsJob h.src (bvAt p 0 4)))

/-! ### The scale reduction's checks -/

/-- Checks 1, 2 and 4 of R266 on the reduced values. -/
def Main.scaleChecks (m : Main) (jid : Nat) : Main :=
  match m.job? jid with
  | none => m
  | some j =>
    let m := if j.watched.any (fun w => w.kind != 2 && w.redNf) then m.guard jid 1 else m
    let m := if j.watched.any (fun w => w.redSat.toNat ≥ 2 ^ j.gS) then m.guard jid 2 else m
    let grew (w : Watched) : Bool :=
      let hMax := w.hist.foldl (fun a b => if flt a b then b else a) (0 : U32)
      w.hist.length = 16 && ((val32 hMax).mul (.rat false 1 1 j.gA)).lt (val32 w.redAmax)
    if j.watched.any grew then m.guard jid 4 else m

/-- The error measure E of a sampled tensor (R264). -/
def Watched.measure (w : Watched) : U32 :=
  if w.redOvf then 0x7f800000
  else if w.redErr = 0 then 0
  else if w.redSig = 0 then 0x7f800000
  else fdiv (rne32 (.rat false w.redErr.toNat 1 (-149))) (rne32 (.rat false w.redSig.toNat 1 (-149)))

/-- Appends reduced step amaxes to the histories (R258). -/
def Watched.append (w : Watched) : Watched :=
  if w.redWritten && finite32 w.redAmax && (fmtMax w.fmt.toNat).isSome then
    let l := w.hist ++ [w.redAmax]
    { w with hist := l.drop (l.length - 16) }
  else w

/-- Promotion of one layer on commit (R264). -/
def Main.promoteLayer (m : Main) (jid l : Nat) : Main :=
  match m.job? jid with
  | none => m
  | some j =>
    match j.layers.find l with
    | none => m
    | some x =>
      match j.watched.find? (fun w => w.layer.toNat = l && j.sampledIds.contains w.id && flt x.theta w.measure) with
      | none => m
      | some w =>
        let up := x.promote && x.grade < x.ceil
        let g := if up then x.grade + 1 else x.grade
        let m := if up then m.updJob jid (fun j => j.updLayer l (fun x => { x with grade := g })) else m
        m.log! { code := if up then 0x9201 else 0x9202, cls := if up then .rec_ else .adv, step := j.step,
                 par := p4 jid ++ p2 l ++ p4 w.id.toNat ++ p4 w.measure.toNat ++ p1 g.toNat }

/-- What a commit does to the numerics (R258, R264). -/
def Main.numericsCommit (m : Main) (jid : Nat) : Main :=
  match m.job? jid with
  | none => m
  | some j =>
    let m := (j.layers.map (·.1)).foldl (fun m l => m.promoteLayer jid l) m
    m.updJob jid (fun j => { j with watched := j.watched.map Watched.append })

end Sys2Proof.Machine
end

