-- ==== Sys2Proof/Machine/Collect.lean ====
section
/-! DEFINITION. Collectives of a training step: the fixed order, wire blocks, the rank ring, the exact path, broadcast trees and the packets that carry
them (R22, R54, R248–R251, R257, R264, R268, R280, R290–R296). -/

namespace Sys2Proof.Machine

/-! ### Who holds which rank -/

/-- Own position in the rank map and number of modules in it; alone without a map (R290, R293). -/
def Main.place (m : Main) (j : Job) : Nat × Nat :=
  if j.map = [] then (0, 1)
  else (j.map.findIdx (fun e => m.fab.node.any (fun (x : BitVec 15) => x.toNat = e.1)), j.map.length)

/-- Node ID of the module at a position of the rank map. -/
def Job.nodeAt (j : Job) (k : Nat) : Nat := ((j.map.drop k).head?.map (·.1)).getD 0

/-- Node ID of the module that holds a rank. -/
def Job.nodeOf (j : Job) (r : Nat) : Nat :=
  let rec go : List (Nat × Nat) → Nat → Nat
    | [], _ => 0
    | (n, c) :: t, k => if r < k + c then n else go t (k + c)
  go j.map 0

/-- Panels of the shard of rank `o` (R291). -/
def shardPanels (panels l o : Nat) : Nat × Nat := (panels * o / l, panels * (o + 1) / l)

/-! ### Wire blocks -/

/-- One wire block: exponent code and 32 elements (R248), and the carry record it leaves (R249). -/
structure WireBlk where
  xcode : Byte := 127
  e : List Byte := []
  /-- new carry: exponent code and elements -/
  nx : Byte := 127
  ne : List Byte := []
  nf : Bool := false
  deriving DecidableEq, Repr

/-- hop_encode of one block (R249). `cr` is the carry record: exponent code x + 127 and 32 elements. -/
def hopEncode (seed : U64) (step layer : U32) (el0 h : Nat) (acc : List U32) (cr : Byte × List Byte) : WireBlk :=
  let v := acc.zipIdx.map (fun a =>
    rne32 ((val32 a.1).add ((Elem.e4m3.value (cr.2.getD a.2 0).toNat).mul (.rat false 1 1 ((cr.1.toNat : Int) - 127 - 4)))))
  let amax := amaxFinite v
  let x : Int := if amax = 0 then 0 else max (-127) (min 120 (floorLog32 amax - 7))
  let one (a : U32 × Nat) : Byte × Byte × Bool :=
    if !finite32 a.1 then (0x7F, 0, true)
    else
      let d := srDraw seed step layer (BitVec.ofNat 40 (el0 + a.2)) (BitVec.ofNat 16 h) 0x01
      let w := (Elem.e4m3.conv (.sr (drawHi d)) (val32 (rne32 (shift2 a.1 (-x))))).code
      let r := (val32 a.1).sub ((Elem.e4m3.value w).mul (.rat false 1 1 x))
      let n := (Elem.e4m3.conv (.sr (drawLo d)) (val32 (rne32 (r.mul (.rat false 1 1 (4 - x)))))).code
      (BitVec.ofNat 8 w, BitVec.ofNat 8 n, false)
  let es := v.zipIdx.map one
  { xcode := BitVec.ofNat 8 (x + 127).toNat, e := es.map (·.1), nx := BitVec.ofNat 8 (x + 127).toNat, ne := es.map (·.2.1),
    nf := es.any (·.2.2) }

/-- hop_decode: the exact values of a wire block (R248). -/
def hopDecode (w : List Byte) : List Ex :=
  (List.range 32).map (fun i => (Elem.e4m3.value (w.getD (i + 1) 0).toNat).mul (.rat false 1 1 (((w.getD 0 0).toNat : Int) - 127)))

/-- Bases of the carry banks that a rank reads and writes for a layer, where a carry area is set (R250). -/
def Main.carryBanks (m : Main) (j : Job) (rank : Nat) : Option (Nat × Nat) :=
  match j.carry with
  | none => none
  | some (base, s) =>
    let rho := rank - (m.localRanks j).1
    let b := j.countOpen.toNat % 2
    some (base.toNat + (2 * rho + b) * s, base.toNat + (2 * rho + (1 - b)) * s)

/-- Encodes a block for a hop, with its carry (R249, R250, R266 bit 0). -/
def Main.encodeHop (m : Main) (jid : Nat) (j : Job) (l : Nat) (x : Layer) (rank blk h : Nat) (acc : List U32) : Main × List Byte :=
  let el0 := 32 * blk
  let banks := m.carryBanks j rank
  let (m, cr) : Main × (Byte × List Byte) := match banks with
    | none => (m, (127, []))
    | some (rd, _) =>
      let (m, e, _) := m.hbmGet (m.ownPart rd) (rd + x.carry + el0) 32
      let (m, c, _) := m.hbmGet (m.ownPart rd) (rd + x.carry + x.size + blk) 1
      (m, (c.headD 0, e))
  let w := hopEncode j.seed j.step (BitVec.ofNat 32 l) el0 h acc cr
  let m := match banks with
    | none => m
    | some (_, wr) => (m.hbmPut (m.ownPart wr) (wr + x.carry + el0) w.ne).hbmPut (m.ownPart wr) (wr + x.carry + x.size + blk) [w.nx]
  (if w.nf then m.guard jid 0 else m, w.xcode :: w.e)

/-! ### The Grain Buffer -/

/-- A free FP32 value of a draw. -/
def freeF32 (k i : Nat) : U32 := bvOf 32 ((List.range 4).map (fun b => Config.freeByte k (4 * i + b)))

/-- Changes a collective in flight. -/
def Main.updColl (m : Main) (jid : Nat) (c : Coll) (f : Coll → Coll) : Main :=
  m.updJob jid (fun j => { j with colls := j.colls.map (fun d => if d.seq = c.seq && d.epoch = c.epoch then f d else d) })

/-- A collective has ended on this module. -/
def Main.endColl (m : Main) (jid : Nat) (c : Coll) : Main :=
  m.updJob jid (fun j => { j with colls := j.colls.filter (fun d => !(d.seq = c.seq && d.epoch = c.epoch)) })

/-- The collective in flight of a sequence number of an epoch (R292, R298). -/
def Main.coll? (m : Main) (jid : Nat) (seq epoch : U32) : Option Coll :=
  (m.job? jid).bind (fun j => j.colls.find? (fun c => c.seq = seq && c.epoch = epoch))

/-- The contribution of a local rank to a wire block: the rank's Grain Buffer, which counts the block as read, or +0 for a void hop (R54,
R208, R211, R295). Bytes that come back as poison, and a rank for which the plan names no Grain Buffer, are free (log 70). -/
def Main.grainBlock (m : Main) (jid : Nat) (j : Job) (c : Coll) (x : Layer) (rank blk : Nat) : Main × List U32 :=
  if c.void then (m, List.replicate 32 0)
  else
    let slot := rank - (m.localRanks j).1
    match (j.plan.find? (fun r => r.layer = c.layer)).bind (fun r => (r.parts x.panels).find? (fun p =>
        p.slot = slot && p.first ≤ blk / 128 && blk / 128 < p.last)) with
    | none => (m.draw, (List.range 32).map (freeF32 m.draws))
    | some p =>
      let a := p.die * 2 ^ 31 + 65536 * p.off + 16384 * (blk / 128 - p.first) + 128 * (blk % 128)
      let m := m.updColl jid c (fun d => { d with read := d.read.put p.idx (d.read.get p.idx + 1) })
      let (m, b, bad) := m.pinGet a 128
      if bad then
        let k := m.draws
        (m.draw, f32s (b.mapIdx (fun i x => if (m.mem.pin.badWords (a + i / 8 * 8) 8) != [] then Config.freeByte k (a + i) else x)) 0 32)
      else (m, f32s b 0 32)

/-! ### Packets of collective data -/

/-- Data bytes of a collective that one packet carries at most: 4,096 less the 14 bytes ahead of them and the 24 of a tenant's encryption
(R280, R439; log 136). -/
def collChunk : Nat := 4048

/-- The block whose parity chooses between the two links of the RK-OA63: the wire block, or the panel of an all-gather (R286; log 137). -/
def CollKind.oddBlock (k : CollKind) (first : Nat) : Bool := if k = .allGather then first / 128 % 2 = 1 else first % 2 = 1

/-- Collective data leaves for the module of a node ID as packets of class 2. Each payload holds the owner, the first block, the length of
the whole and the place of this part of it, and then the bytes (R280, R281, R286, R293, R439; log 136). -/
def Main.sendColl (m : Main) (dst jid : Nat) (c : Coll) (hop : Nat) (void : Bool) (owner first : Nat) (data : List Byte) : Main :=
  let part := ((m.job? jid).map (fun j => m.diePartOf ((diesOf j.dies).headD 0))).getD 0
  (List.range (max 1 ((data.length + collChunk - 1) / collChunk))).foldl (fun m i =>
    let body := p2 owner ++ p4 first ++ p4 data.length ++ p4 (collChunk * i) ++ (data.drop (collChunk * i)).take collChunk
    let h : Hd := { dst := dst, src := (m.fab.node.getD 0).toNat, cls := 2, part := part, void := void, len := body.length, epoch := c.epoch,
                    op := 0x20, off := BitVec.ofNat 64 (jid + c.seq.toNat * 2 ^ 32), step := c.step, hop := BitVec.ofNat 16 hop }
    let (m, h, body) := m.tenWrap h body
    (m.sendPacket h body (c.kind.oddBlock first)).1) m

/-! ### Reduce-scatter -/

/-- A wire block of the own shard is reduced; a complete panel lands at its Burnisher (R229, R239, R291, R295). -/
def Main.shardBlock (m : Main) (jid : Nat) (c : Coll) (blk : Nat) (v : List U32) : Main :=
  let m := m.updColl jid c (fun c => { c with part := c.part.put blk v })
  match m.coll? jid c.seq c.epoch with
  | none => m
  | some c => if (List.range 128).all (fun k => (c.part.find (blk / 128 * 128 + k)).isSome) then m.landParts jid c else m

/-- A value has reached a local rank after hop `h`: the rank adds its own and sends it on, on this module or to the next
(R54, R249, R293, R295). `acc` is none for the first rank of a shard. -/
def Main.ringStep (m : Main) (jid : Nat) (c : Coll) (o blk : Nat) : Nat → Nat → Nat → Option (List Ex) → Bool → Main
  | 0, _, _, _, _ => m
  | fuel + 1, rank, h, acc, void =>
    match m.job? jid with
    | none => m
    | some j =>
      match j.layers.find c.layer.toNat with
      | none => m
      | some x =>
        let void := void || c.void
        let (m, own) := m.grainBlock jid j c x rank blk
        let v := match acc with
          | none => own
          | some a => (List.range 32).map (fun i => rne32 ((a.getD i .zero).add (val32 (own.getD i 0))))
        let m := m.updColl jid c (fun c => { c with done := c.done + 1 })
        if rank = o then m.shardBlock jid c blk (if void then [] else v)
        else
          let (m, w) := m.encodeHop jid j c.layer.toNat x rank blk (h + 1) v
          let nxt := (rank + 1) % j.ranks
          let (a, n) := m.localRanks j
          if a ≤ nxt && nxt < a + n then m.ringStep jid c o blk fuel nxt (h + 1) (some (hopDecode w)) void
          else m.sendColl (j.nodeOf nxt) jid c (h + 1) void o blk w

/-- Starts the shards whose ring begins on this module (R54). -/
def Main.startScatter (m : Main) (jid : Nat) (j : Job) (x : Layer) (c : Coll) : Main :=
  let (a, n) := m.localRanks j
  let m := (List.range n).foldl (fun m k =>
    let r := a + k
    let o := (r + j.ranks - 1) % j.ranks
    let (p0, p1) := shardPanels x.panels j.ranks o
    (List.range (128 * (p1 - p0))).foldl (fun m b => m.ringStep jid c o (128 * p0 + b) j.ranks r 0 none false) m) m
  m.endScatter jid c

/-! ### Norms and exact reductions -/

/-- Bytes of one item of an exact reduction: scale values and Calipers values behind their tensor ID, or the verdict word and a mark
(R22, R257, R264, R268; log 69). -/
def CollKind.item : CollKind → Nat
  | .scale => 13 | .calipers => 101 | _ => 9

/-- The items of an exact reduction, and the tensor ID by which two of them are joined. -/
def exactItems (k : CollKind) (d : List Byte) : List (List Byte) := (List.range (d.length / k.item)).map (fun i => bytesAt d (k.item * i) k.item)
def exactId (k : CollKind) (i : List Byte) : List Byte := if k = .verdict then [] else i.take 4

/-- A contribution that is void because of a blank fault alone: it keeps the values that the module has collected (R269, R295; log 138). -/
def Job.faultOnly (j : Job) : Bool := j.tripped.extractLsb' 8 6 = 1

/-- Own contribution to an exact reduction. The mark of a verdict word is 0 at first, 1 when it is issued again undecided, and 2 when it is
the verdict that the module has decided (R22). -/
def Job.exactOwn (j : Job) (c : Coll) : List Byte :=
  let adds : Bool := !c.void || j.faultOnly
  match c.kind with
  | .scale => (j.watched.map (fun w => p4 w.id.toNat ++
      (if adds then p4 w.amax.toNat ++ p1 (w.written.toNat + 2 * w.nf.toNat) ++ p4 w.sat.toNat else toBytes 9 0))).flatten
  | .calipers => ((j.watched.filter (fun w => j.sampledIds.contains w.id)).map (fun w => p4 w.id.toNat ++
      (if adds then bvBytes w.sig 48 ++ bvBytes w.err 48 ++ p1 w.ovf.toNat else toBytes 97 0))).flatten
  | _ =>
    if c.again && j.decided.any (fun d => d.1 = c.step) then p8 j.lastWord.toNat ++ p1 2
    else p8 j.word.toNat ++ p1 c.again.toNat

/-- Combines one item of an exact reduction (R22, R257, R264, R268). -/
def exactItem (k : CollKind) (a b : List Byte) : List Byte :=
  match k with
  | .scale =>
    let am := foldAmax (fieldF a 4) (fieldF b 4)
    a.take 4 ++ p4 am.toNat ++ [a.getD 8 0 ||| b.getD 8 0] ++ p4 (min (2 ^ 32 - 1) (natAt a 9 4 + natAt b 9 4))
  | .calipers =>
    a.take 4 ++ bvBytes (bvOf 384 (bytesAt a 4 48) + bvOf 384 (bytesAt b 4 48)) 48 ++
    bvBytes (bvOf 384 (bytesAt a 52 48) + bvOf 384 (bytesAt b 52 48)) 48 ++ [a.getD 100 0 ||| b.getD 100 0]
  | _ =>
    if a.getD 8 0 = 2 then a
    else if b.getD 8 0 = 2 then b
    else
      p4 (natAt a 0 4 ||| natAt b 0 4) ++ p2 (min 0xFFFF (natAt a 4 2 + natAt b 4 2)) ++ p2 0 ++ [a.getD 8 0 ||| b.getD 8 0]

/-- Joins two sets of items by tensor ID (R257, R264, R268). -/
def exactJoin (k : CollKind) (a b : List Byte) : List Byte :=
  let xs := exactItems k a
  let ys := exactItems k b
  (xs.map (fun x => match ys.find? (fun y => exactId k y = exactId k x) with
    | some y => exactItem k x y
    | none => x)).flatten ++
  (ys.filter (fun y => !(xs.any (fun x => exactId k x = exactId k y)))).flatten

/-- The step commits under a reduced verdict word and its mark: a reduction that was issued again and met no decided verdict discards
(R22, R268). -/
def verdictCommits (d : List Byte) : Bool := natAt d 0 4 = 0 && d.getD 8 0 != 1

/-- The reduced values of an exact reduction reach the job (R22, R257, R264, R268). -/
def Main.exactDone (m : Main) (jid : Nat) (c : Coll) (d : List Byte) : Main :=
  let item (w : Watched) : Option (List Byte) := (exactItems c.kind d).find? (fun i => i.take 4 = p4 w.id.toNat)
  match c.kind with
  | .scale =>
    (m.updJob jid (fun j => { j with
      scaled := true
      watched := j.watched.map (fun w =>
        let i := (item w).getD []
        { w with
          redAmax := fieldF i 4
          redWritten := (i.getD 8 0).getLsbD 0
          redNf := (i.getD 8 0).getLsbD 1
          redSat := fieldF i 9 }) })).scaleChecks jid
  | .calipers =>
    m.updJob jid (fun j => { j with
      calipered := true
      watched := j.watched.map (fun w =>
        match item w with
        | some i => { w with
            redSig := bvOf 384 (bytesAt i 4 48)
            redErr := bvOf 384 (bytesAt i 52 48)
            redOvf := i.getD 100 0 != 0 }
        | none => w) })
  | _ => m.updJob jid (fun j =>
      if j.stepOpen && j.voted && j.step = c.step then { j with reduced := some (bvOf 64 (d.take 8), verdictCommits d) } else j)

/-- Whether a kind runs on the rank ring with FP32 partial sums (R233, R292). -/
def CollKind.norms : CollKind → Bool
  | .norm | .globalNorm => true
  | _ => false

/-- Adds the partial sums of the local ranks in rank order to an arriving value (R233, R293). -/
def Main.addNorms (m : Main) (jid : Nat) (j : Job) (c : Coll) (acc : Option U32) : Main × U32 :=
  let (a, n) := m.localRanks j
  let layer := if c.kind = .norm then some c.layer.toNat else none
  let (m, r) := (List.range n).foldl (fun (s : Main × Option U32) k =>
    let (m, g) := if c.void then (s.1, (0 : U32)) else s.1.normPart jid (a + k) layer
    (m, some (match s.2 with
      | none => g
      | some t => fadd t g))) (m, acc)
  (m, r.getD 0)

/-- The total of a norm reduction reaches the module (R233). -/
def Main.normDone (m : Main) (jid : Nat) (c : Coll) (t : U32) : Main :=
  m.updJob jid (fun j =>
    if c.kind = .norm then j.updLayer c.layer.toNat (fun x => { x with norm := some t }) else { j with norm := some t })

/-- What a chain reduction does on this module with an arriving value, none at its start: it adds its own and passes it on; the
last module starts the distribution (R293; hop indices of the distribution: log 69). -/
def Main.chainStep (m : Main) (jid : Nat) (j : Job) (c : Coll) (acc : Option (List Byte)) (void : Bool) : Main :=
  let (k, n) := m.place j
  let (a, cnt) := m.localRanks j
  let void := void || c.void
  let (m, tot) : Main × List Byte :=
    if c.kind.norms then
      let (m, t) := m.addNorms jid j c (acc.map (fun d => fieldF d 0))
      (m, p4 t.toNat)
    else
      let own := j.exactOwn c
      (m, match acc with
        | none => own
        | some d => exactJoin c.kind d own)
  let top := if c.kind.norms then j.ranks else n
  let out := if c.kind.norms then a + cnt else k + 1
  if k + 1 < n then m.sendColl (j.nodeAt (k + 1)) jid c out void 0 0 tot
  else
    let m := if n > 1 then m.sendColl (j.nodeAt 0) jid c top void 0 0 tot else m
    let m := if c.kind.norms then m.normDone jid c (fieldF tot 0) else m.exactDone jid c tot
    m.endColl jid c

/-- The distributed total arrives and is passed on (R293). -/
def Main.chainTotal (m : Main) (jid : Nat) (j : Job) (c : Coll) (hop : Nat) (void : Bool) (d : List Byte) : Main :=
  let (k, n) := m.place j
  let m := if k + 2 < n then m.sendColl (j.nodeAt (k + 1)) jid c (hop + 1) void 0 0 d else m
  let m := if c.kind.norms then m.normDone jid c (fieldF d 0) else m.exactDone jid c d
  m.endColl jid c

/-! ### The exact path dimension by dimension -/

/-- The element of a list with the least, and with the greatest, measure. -/
def least (f : Nat → Nat) (l : List Nat) : Option Nat :=
  l.foldl (fun b n => match b with
    | none => some n
    | some k => if f n < f k then some n else b) none
def greatest (f : Nat → Nat) (l : List Nat) : Option Nat :=
  l.foldl (fun b n => match b with
    | none => some n
    | some k => if f k < f n then some n else b) none

/-- The module to which a module hands its partial result above 512 members: the next one along its X line; from the end of the line the
end of the next X line of its plane; from the last line of the plane that of the next plane. The last module of all has none (R293; log 69). -/
def upNode (nodes : List Nat) (me : Nat) : Option Nat :=
  let x (n : Nat) := coord n 0
  let y (n : Nat) := coord n 1
  let z (n : Nat) := coord n 2
  let plane := nodes.filter (fun n => z n = z me)
  match least x (plane.filter (fun n => y n = y me && x me < x n)) with
  | some n => some n
  | none =>
    match least y (plane.filter (fun n => y me < y n)) with
    | some r => greatest x (plane.filter (fun n => y n = y r))
    | none =>
      match least z (nodes.filter (fun n => z me < z n)) with
      | none => none
      | some q =>
        let next := nodes.filter (fun n => z n = z q)
        (greatest y next).bind (fun r => greatest x (next.filter (fun n => y n = y r)))

/-- The membership holds more than 512 modules (R293). -/
def Main.wide (m : Main) : Bool := (m.fab.member.filter (fun e => e.2 = 2)).length > 512

/-- Node IDs of the rank map, and those of them that hand their partial results to this module. -/
def Job.nodes (j : Job) : List Nat := j.map.map (·.1)
def Main.below (m : Main) (j : Job) : List Nat :=
  j.nodes.filter (fun n => m.fab.node.any (fun (me : BitVec 15) => upNode j.nodes n = some me.toNat))

/-- The total goes back to the modules below this one (R293). -/
def Main.treeDown (m : Main) (jid : Nat) (j : Job) (c : Coll) (d : List Byte) : Main :=
  let m := (m.below j).foldl (fun m n => m.sendColl n jid c 1 c.void 0 0 d) m
  (m.exactDone jid c d).endColl jid c

/-- Once every module below has sent, the combined values go up, or are the total (R293). -/
def Main.treeUp (m : Main) (jid : Nat) (j : Job) (c : Coll) : Main :=
  if c.heard < (m.below j).length then m
  else
    match m.fab.node.bind (fun (me : BitVec 15) => upNode j.nodes me.toNat) with
    | some n => m.sendColl n jid c 0 c.void 0 0 c.acc
    | none => m.treeDown jid j c c.acc

/-- Own values, or values from below, enter the reduction (R293). -/
def Main.treeAdd (m : Main) (jid : Nat) (j : Job) (c : Coll) (d : List Byte) (more : Nat) (void : Bool) : Main :=
  let c := { c with acc := exactJoin c.kind c.acc d, heard := c.heard + more, void := c.void || void }
  (m.updColl jid c (fun _ => c)).treeUp jid j c

/-! ### All-gather -/

/-- Nodes that a packet passes from one node to another in dimension order, the last included (R282, R296). -/
def Main.pathTo (m : Main) (src dst : Nat) : List Nat :=
  ([0, 1, 2].foldl (fun (a : Nat × List Nat) d =>
    let p := ringPath a.1 d (m.ringSize d) (coord dst d) (m.shortPlus a.1 d (coord dst d))
    (setCoord a.1 d (coord dst d), a.2 ++ p)) (src, [])).2

/-- The module from which a module of the rank map receives the panels of an owner: the last one before it on the way from the owner (R296). -/
def Main.treeParent (m : Main) (nodes : List Nat) (owner n : Nat) : Nat :=
  (((m.pathTo owner n).dropLast.reverse).find? nodes.contains).getD owner

/-- The modules to which this one passes the panels of an owner (R296). -/
def Main.gatherKids (m : Main) (j : Job) (owner : Nat) : List Nat :=
  j.nodes.filter (fun n => n != owner && m.fab.node.any (fun (me : BitVec 15) => n != me.toNat && m.treeParent j.nodes owner n = me.toNat))

/-- An all-gather panel is written in both orders of the current version, while the layer is in Landing (R24, R204, R296). -/
def Main.gatherPanel (m : Main) (jid l p : Nat) (d : List Byte) : Main :=
  match m.job? jid with
  | none => m
  | some j =>
    match j.layers.find l with
    | none => m
    | some x =>
      if x.st != .landing || p ≥ x.panels || (m.entryOf jid l p).isSome || d.length != 4096 then m
      else
        let m := (m.writePanel jid j.single x j.version p d).updJob jid (fun j => j.updLayer l (·.land p))
        m.updJob jid (fun j =>
          if (j.layers.find l).any (fun y => y.st = .reading) then
            { j with colls := j.colls.filter (fun c => !(c.kind = .allGather && c.layer.toNat = l)) }
          else j)

/-- Sends the own panels of a layer along the broadcast tree (R24, R296). -/
def Main.sendPanels (m : Main) (jid : Nat) (j : Job) (c : Coll) (x : Layer) : Main :=
  let k := (m.place j).1
  let own := (List.range x.panels).filter (fun p => (m.entryOf jid c.layer.toNat p).isSome)
  let da := m.recordDa j.single x j.version
  let kids := m.gatherKids j (j.nodeAt k)
  own.foldl (fun m p =>
    let (m, b, _) := m.hbmGet (m.ownPart da) (da + 4096 * p) 4096
    kids.foldl (fun m n => m.sendColl n jid c 0 false k (128 * p) b) m) m

/-! ### The fixed order -/

/-- The collectives of a step in their order, up to the verdict (R292). -/
def Job.order (j : Job) : List (CollKind × Nat) :=
  (j.plan.map (fun r => (CollKind.reduceScatter, r.layer.toNat) :: (if r.norm then [(CollKind.norm, r.layer.toNat)] else []))).flatten ++
  [(.scale, 0), (.calipers, 0)] ++
  (if j.disc = .stepEnd && j.profOpen.any (fun p => natAt p.2 2 1 = 3) then [(.globalNorm, 0)] else []) ++ [(.verdict, 0)]

/-- The module will contribute discard with a bit of HARD set (R295). -/
def Job.hard (j : Job) : Bool := j.tripped.extractLsb' 8 6 != 0

/-- A reduce-scatter has not landed on the module. -/
def Job.scatters (j : Job) (l : Option Nat) : Bool :=
  j.colls.any (fun c => c.kind = .reduceScatter && l.all (· = c.layer.toNat))

/-- The condition of the next collective holds (R257, R264, R292, R295). -/
def Main.mayIssue (m : Main) (j : Job) (k : CollKind) (l : Nat) : Bool :=
  j.hard ||
  match k with
  | .reduceScatter =>
    match j.plan.find? (fun r => r.layer.toNat = l) with
    | some r => r.pieces.all (fun p => j.ended.contains (p.1, r.trigger))
    | none => false
  | .norm => !(j.scatters (some l))
  | .scale => !(m.trainingOn j) && (j.plan != [] || j.trained)
  | .calipers => j.scaled
  | .globalNorm => !(j.scatters none)
  | _ => false

/-- Puts a collective in flight (R28, R292). -/
def Main.putColl (m : Main) (jid : Nat) (k : CollKind) (l : Nat) (step : U32) (void again : Bool) : Main × Coll :=
  let c : Coll := { seq := m.fab.seq, epoch := m.fab.epoch, kind := k, layer := BitVec.ofNat 16 l, step := step, void := void,
                    reading := k = .reduceScatter && !void, again := again }
  ({ m with fab := { m.fab with seq := m.fab.seq + 1 } }.updJob jid (fun j =>
    { j with colls := j.colls ++ [c], issued := j.issued.put c.seq.toNat step }), c)

/-- The layer's reduce-scatter is issued: a layer in Reading enters Updating, and blocks that waited for it land (R200, R206, R242). -/
def Main.scatterIssued (m : Main) (jid l : Nat) : Main :=
  (m.updJob jid (fun j => j.updLayer l (fun x =>
    if x.st = .reading then { x with issued := true, st := .updating, updated := true } else { x with issued := true }))).landQueued jid l

/-- What the module does when it issues a collective (R54, R200, R211, R257, R264, R292, R293). -/
def Main.startColl (m : Main) (jid : Nat) (c : Coll) : Main :=
  match m.job? jid with
  | none => m
  | some j =>
    match c.kind with
    | .reduceScatter =>
      let m := m.scatterIssued jid c.layer.toNat
      match (m.job? jid).bind (fun j => j.layers.find c.layer.toNat) with
      | some x => m.startScatter jid j x c
      | none => m.endColl jid c
    | .allGather =>
      match j.layers.find c.layer.toNat with
      | some x =>
        let m := m.sendPanels jid j c x
        if x.st = .landing then m else m.endColl jid c
      | none => m.endColl jid c
    | k =>
      if m.wide && !k.norms then m.treeAdd jid j c (j.exactOwn c) 0 false
      else if (m.place j).1 = 0 then m.chainStep jid j c none false else m

/-- Data of a collective in flight (R293–R296). -/
def Main.takeColl (m : Main) (jid : Nat) (j : Job) (c : Coll) (d : CollData) : Main :=
  match c.kind with
  | .reduceScatter =>
    let o := d.owner.toNat
    let rank := (o + d.hop.toNat + 1) % j.ranks
    let (a, n) := m.localRanks j
    if !(a ≤ rank && rank < a + n) then m
    else
      let m := (List.range (d.data.length / 33)).foldl (fun m k =>
        m.ringStep jid c o (d.first.toNat + k) j.ranks rank d.hop.toNat (some (hopDecode (bytesAt d.data (33 * k) 33))) d.void) m
      m.endScatter jid c
  | .allGather =>
    let m := (m.gatherKids j (j.nodeAt d.owner.toNat)).foldl (fun m n =>
      m.sendColl n jid c (d.hop.toNat + 1) d.void d.owner.toNat d.first.toNat d.data) m
    (List.range (d.data.length / 4096)).foldl (fun m k =>
      m.gatherPanel jid c.layer.toNat (d.first.toNat / 128 + k) (bytesAt d.data (4096 * k) 4096)) m
  | k =>
    if m.wide && !k.norms then
      if d.hop = 0 then m.treeAdd jid j c d.data 1 d.void else m.treeDown jid j c d.data
    else
      let top := if k.norms then j.ranks else (m.place j).2
      if d.hop.toNat ≥ top then m.chainTotal jid j c d.hop.toNat d.void d.data else m.chainStep jid j c (some d.data) d.void

/-- Collective data carries a step other than the module's own (R28, R299). -/
def Main.stepMismatch (m : Main) (jid : Nat) (d : CollData) : Main :=
  ((m.send (.mismatch d.job d.seq d.step)).log!
    { code := 0x5403, cls := .flt, step := m.jobStep jid, par := p4 jid }).guard jid 12

/-- Data for a collective that is in flight. -/
def Main.deliverColl (m : Main) (jid : Nat) (d : CollData) : Main :=
  match m.job? jid, m.coll? jid d.seq d.epoch with
  | some j, some c => if d.step != c.step then m.stepMismatch jid d else m.takeColl jid j c d
  | _, _ => m

/-! ### The hold area -/

/-- Bytes that a held packet takes of the hold area (R280, R294; log 71). -/
def collSize (d : CollData) : Nat := d.data.length + 32

/-- The hold area of a job has room for data (R290, R294). -/
def Job.holds (j : Job) (d : CollData) : Bool := (j.held.map collSize).sum + collSize d ≤ (j.hold.map (·.2)).getD 0

/-- Data that found the hold area full moves into it as room appears, and gives its input buffer back (R277, R294). -/
def Main.unstick (m : Main) (jid : Nat) : Main :=
  match m.job? jid with
  | none => m
  | some j => j.stuck.foldl (fun m e =>
      match m.job? jid with
      | some j => if j.holds e.2 then (m.setJob jid { j with held := j.held ++ [e.2], stuck := j.stuck.erase e }).freeFlits e.1 else m
      | none => m) m

/-- Consumes what the hold area, and the input buffers behind it, keep for a collective (R294). -/
def Main.consumeHeld (m : Main) (jid : Nat) (c : Coll) : Main :=
  match m.job? jid with
  | none => m
  | some j =>
    let mine (d : CollData) : Bool := d.seq = c.seq && d.epoch = c.epoch
    let m := m.setJob jid { j with held := j.held.filter (fun d => !mine d), stuck := j.stuck.filter (fun e => !mine e.2) }
    let m := (j.held.filter mine).foldl (fun m d => m.deliverColl jid d) m
    ((j.stuck.filter (fun e => mine e.2)).foldl (fun m e => (m.deliverColl jid e.2).freeFlits e.1) m).unstick jid

/-- Issues a collective: in flight, own part, held data (R292, R294). -/
def Main.issueColl (m : Main) (jid : Nat) (k : CollKind) (l : Nat) (step : U32) (void : Bool) (again : Bool := false) : Main :=
  let (m, c) := m.putColl jid k l step void again
  (m.startColl jid c).consumeHeld jid c

/-! ### The verdict word -/

/-- The module's verdict word (R266, R267). -/
def Job.verdictWord (j : Job) : U64 :=
  let t := j.tripped.toNat ||| (if j.unrec then 2 ^ 13 else 0)
  let lo := (t % 64 &&& j.guard.toNat) + (t / 256 % 64) * 256
  BitVec.ofNat 64 (lo + (if lo = 0 then 0 else 2 ^ 32))

/-- Logs each Burnisher's count of gradients that eager in place replaced by +0, once per step (R231). -/
def Main.noteReplaced (m : Main) (jid : Nat) (j : Job) : Main :=
  j.replaced.foldl (fun m c => m.log! { code := 0x2204, cls := .rec_, stack := some c.1, step := j.step, par := p4 jid ++ p4 c.2 }) m

/-- Contributes the verdict word to the verdict reduction (R268). -/
def Main.contribute (m : Main) (jid : Nat) : Main :=
  match m.job? jid with
  | none => m
  | some j =>
    let m := (m.noteReplaced jid j).updJob jid (fun j => { j with voted := true, word := j.verdictWord, next := j.order.length })
    m.issueColl jid .verdict 0 j.step false

/-! ### Issuing -/

/-- Issues the next all-gather of the last commit, or else the next reduction that is issued again, or else the next collective of the open
step, the verdict last and once the module is to contribute (R21, R268, R292, R299). -/
def Main.issueNext (m : Main) (jid : Nat) : Main :=
  match m.job? jid with
  | none => m
  | some j =>
    if j.colls.length ≥ 8 then m
    else
      match j.gather, j.redo, j.order.drop j.next with
      | l :: r, _, _ => (m.setJob jid { j with gather := r }).issueColl jid .allGather l (j.step - 1) false
      | [], (k, step) :: r, _ =>
        (m.setJob jid { j with redo := r }).issueColl jid k 0 step (k != .verdict && j.hard) true
      | [], [], (k, l) :: _ =>
        if !j.stepOpen then m
        else if k = .verdict then (if j.due && !j.voted then m.contribute jid else m)
        else if m.mayIssue j k l then
          (m.issueColl jid k l j.step j.hard).updJob jid (fun x => { x with next := j.next + 1 })
        else m
      | [], [], [] => m

/-- Issues up to `k` collectives. -/
def Main.issueMany (m : Main) (jid : Nat) : Nat → Main
  | 0 => m
  | k + 1 => (m.issueNext jid).issueMany jid k

/-- Issues what the job's order lets it issue now, as far as 8 may be in flight (R292, R295). -/
def Main.pumpColls (m : Main) (jid : Nat) : Main :=
  match m.job? jid with
  | none => m
  | some j => m.issueMany jid (j.gather.length + j.redo.length + j.order.length)

/-- COLLECTIVE_ISSUE (R292). -/
def execCollectiveIssue (j : U32) : State → Host.Outcome State Fault Refusal := onMain (fun m => m.issueNext j.toNat)

/-! ### Arrival -/

/-- COLLECTIVE_DATA_RECEIVE (R28, R294, R439): `org` names the input buffer that the data holds until the hold area or the collective has
taken it (R277). -/
def Main.collData (m : Main) (d : CollData) (org : Option (Nat × Nat × Nat) := none) : Main :=
  let jid := d.job.toNat
  match m.job? jid with
  | none => m.freeFlits org
  | some j =>
    if !d.tagOk then
      ((m.log! { code := 0x7203, cls := .rec_, step := m.jobStep jid, par := p1 (m.diePartOf ((diesOf j.dies).headD 0)) }).guard jid 8).freeFlits org
    else if (m.coll? jid d.seq d.epoch).isSome then (m.deliverColl jid d).freeFlits org
    else if d.epoch < m.fab.epoch then { m with fab := { m.fab with dropped := m.fab.dropped + 1 } }.freeFlits org
    else if d.epoch = m.fab.epoch && d.seq < m.fab.seq then
      (if (j.issued.find d.seq.toNat).any (· != d.step) then m.stepMismatch jid d else m).freeFlits org
    else if j.holds d then (m.setJob jid { j with held := j.held ++ [d] }).freeFlits org
    else (m.setJob jid { j with stuck := j.stuck ++ [(org, d)] }).logOnce jid 0 { code := 0x5404, cls := .adv, par := p4 jid }

def execCollectiveDataReceive (c : CollData) : State → Host.Outcome State Fault Refusal := onMain (fun m => m.collData c)

/-- ALL_GATHER_PANEL_RECEIVE (R24). -/
def execAllGatherPanelReceive (j : U32) (l : U16) (panel : BitVec 20) (d : List Byte) : State → Host.Outcome State Fault Refusal :=
  onMain (fun m => m.gatherPanel j.toNat l.toNat panel.toNat d)

end Sys2Proof.Machine
end

