-- ==== Sys2Proof/Machine/Release.lean ====
section
/-! DEFINITION. Clearing, scrubbing and releasing a partition (R433 S2, R434, R436). -/

namespace Sys2Proof.Machine

def Main.partDies (m : Main) (p : Nat) : List Nat := (List.range 4).filter (fun d => m.variant.diePart d = p)
def Main.partStacks (m : Main) (p : Nat) : List Nat := (List.range m.variant.stacks).filter (fun n => m.variant.stackPart n = p)

/-- Host mailboxes bound while a partition is sealed (R426). -/
def Main.partBoxes (m : Main) (p : Nat) : List Nat :=
  (List.range (match m.variant with
    | .oa101 => 6
    | _ => 3)).map (fun i => 3 * p + i)

/-- A disabled engine with an empty ring (R433 S2). -/
def Engine.reset (_ : Engine) : Engine := {}

/-- Step S2 of a claim: the partition's Tailstock regions, copy engines, state regions, shavings areas, pinned pools and inbound-map
entries (R433). -/
def Main.partClear (m : Main) (p : Nat) : Main :=
  let ds := m.partDies p
  let ns := m.partStacks p
  let fab : Fabric := { m.fab with inmap := m.fab.inmap.map (fun (e : Nat × InEntry) => if e.2.part.toNat = p then (e.1, {}) else e) }
  let m : Main := { m with
    region := m.region.filter (fun r => !ds.contains (r.1 / 1024))
    eng := m.eng.map (fun (e : Nat × Engine) => if m.variant.engPart e.1 = p then (e.1, e.2.reset) else e)
    assigned := m.assigned.map (fun (a : Nat × Assigned) => (a.1, { a.2 with runs := a.2.runs.filter (fun r => !ns.contains r.stack) }))
    fab := fab }
  let m := ns.foldl (fun m n => m.updHbm n (fun s => { s with region := [] })) m
  ds.foldl (fun m d => (m.updSram d (fun s => { s with p1 := 0, p2 := 0 })).updDie d (fun v => { v with shavings := none })) m

/-- The stores of a tile that a scrub zeroes (R434). -/
def Tile.scrub (t : Tile) : Tile :=
  { t with store := {}, treg := [], parity := [], grp := [], q := [], steer := t.steer.map (fun e => (e.1, { e.2 with ctl := {} })),
           cache := [] }

/-- Scrubs one memory stack with its base die and Burnisher (R434). -/
def Main.scrubStack (m : Main) (n : Nat) : Main :=
  let h := m.mem.hbm.zero (n * 2 ^ 37) (2 ^ 37)
  let h := { h with pageErr := h.pageErr.filter (fun e => e.1 / 2 ^ 26 != n) }
  let m : Main := { m with mem := { m.mem with hbm := h } }
  (m.updHbm n (fun s => { s with ch := s.ch.map (fun (c : Nat × Channel) => (c.1, { c.2 with remap := [] })), red := [], redLines := 0 })).updBurn n
    (fun b => { stopped := b.stopped })

/-- Scrubs one compute stack: both layers, its slices and the stores of its tiles (R434). -/
def Main.scrubDie (m : Main) (d : Nat) : Main :=
  let m : Main := { m with
    mem := { m.mem with pin := m.mem.pin.zero (d * 2 ^ 31) (2 ^ 31) }
    tile := m.tile.map (fun (t : Nat × Tile) => if t.1 / 512 = d then (t.1, t.2.scrub) else t) }
  m.updSram d (fun s => { s with slices := s.slices.map (fun (e : Nat × Slice) => (e.1, { e.2 with lines := [], bankq := [], fullSince := [] })) })

/-- The scrub of a partition; whether it met a write fault is a free value (R434; log 104). -/
def Main.scrub (m : Main) (p : Nat) : Main :=
  let m := (m.partStacks p).foldl Main.scrubStack m
  let m := (m.partDies p).foldl Main.scrubDie m
  m.draw.updPart p (fun x => { x with scrub := Config.scrubFault m.draws })

/-- A job is open on a die of the partition. -/
def Main.partBusy (m : Main) (p : Nat) : Bool := m.jobs.any (fun j => (m.partDies p).any (fun d => j.2.dies.getLsbD d))

/-- Steps 3 to 5 of a release (R436), and the answer to what asked for it. -/
def Main.endRelease (m : Main) (p : Nat) : Main :=
  let x := m.partAt p
  let m := m.updPart p (fun x => { x with key := none, pub := 0, area := 0, idle := 0, sess := none })
  let m := ((m.partClear p).scrub p).updPart p (fun x => { x with st := .opened, waiting := none })
  let m : Main := { m with
    box := (m.partBoxes p).foldl (fun t k => t.upd k (fun b => { b with bound := false, part := 0 })) m.box
    spdm := { m.spdm with sess := m.spdm.sess.map (fun s => if s.part = some (BitVec.ofNat 2 p) then { s with part := none } else s) } }
  let m := m.log! { code := 0x7102, cls := .rec_, par := p1 p ++ p1 x.cause.toNat }
  let m := if x.cause = 0 then m.send (.tenant [0]) else m
  match x.waiting with
  | some r => { m with resps := m.resps ++ [r] }
  | none => m

/-- Releases that waited for the close of their jobs go on (R436). -/
def Main.releasesEnd (m : Main) : Main :=
  m.variant.parts.foldl (fun m p =>
    if (m.partAt p).st = .releasing && (m.partAt p).cause != 3 && !(m.partBusy p) then m.endRelease p else m) m

end Sys2Proof.Machine
end

