-- ==== Sys2Proof/Machine/StepCtl.lean ====
section
/-! DEFINITION. Jobs, steps, the verdict and its application (R15–R31, R241–R243, R266–R269, R409–R412). -/

namespace Sys2Proof.Machine

/-! ### Opening a step -/

/-- A watched tensor as a step opens (R256, R263). -/
def Watched.opening (w : Watched) : Watched := { id := w.id, fmt := w.fmt, kind := w.kind, layer := w.layer, hist := w.hist }

/-- The state of a job as a step opens (R213, R223, R232, R250, R256, R411). -/
def Job.opening (j : Job) (now : Nat) : Job :=
  { j with
    stepOpen := true
    opened := now
    countOpen := j.count
    profOpen := j.prof
    layers := j.layers.map (fun (l : Nat × Layer) => (l.1, { l.2 with updated := false, issued := false, next := [], norm := none }))
    watched := j.watched.map Watched.opening
    tripped := 0
    voted := false
    word := 0
    next := 0
    ended := []
    trained := false
    lastBack := none
    scaled := false
    calipered := false
    norm := none
    aborted := []
    redo := []
    due := false
    reduced := none
    applied := 0
    appliedIn := []
    settled := []
    failed := 0
    once := []
    replaced := []
    refetches := 0 }

/-- Reads the masks of every layer of a job (R213). -/
def Main.maskAll (m : Main) (jid : Nat) : Main :=
  match m.job? jid with
  | none => m
  | some j => j.layers.foldl (fun m l =>
      let (m, x) := m.readMasks l.2
      m.updJob jid (fun j => j.updLayer l.1 (fun y => { y with blkBits := x.blkBits, rowBits := x.rowBits }))) m

/-- STEP_OPEN, 0x0203 (R411). -/
def Main.openStep (p : Payload) (m : Main) : Reply :=
  let jid := bvAt p 0 4
  match m.job? jid with
  | none => refuse m 1
  | some j =>
    if j.stepOpen then refuse m 2
    else if j.unrec || j.restoring then refuse m 4
    else if p.extractLsb' 32 32 != j.step then refuse m 3
    else ok (((m.setJob jid (j.opening m.ms)).maskAll jid).jitNote jid) []

def execStepOpen (h : Hdr) (p : Payload) : State → Host.Outcome State Fault Refusal :=
  onMain (fun m => m.command 0x0203 h p [(0, 8)] (Main.openStep p) (owned := m.ownsJob h.src (bvAt p 0 4)))

/-! ### Readiness and contribution -/

/-- Every panel that the module owns of a layer updated in the step has been applied, was void, or cannot be applied (R19, R240, R295). -/
def Main.allSettled (m : Main) (jid : Nat) (j : Job) : Bool :=
  (m.runsOf jid).all (fun r => !((j.layers.find r.layer).any (·.updated)) ||
    (List.range r.count).all (fun k => j.settled.contains (r.layer, r.panel + k)))

/-- The first open condition of R19, (a) to (d) as 0 to 3 (log 75). A reduction that was aborted keeps its condition open until it has been
issued again and has ended (R269, R299). -/
def Main.openCond (m : Main) (jid : Nat) (j : Job) : Option Nat :=
  let rest := j.order.drop j.next
  let aborted (p : Nat → Bool) : Bool := j.aborted.any (fun a => p a.2)
  if rest.any (fun e => e.1 = .reduceScatter) || j.scatters none || aborted (· = 1) then some 0
  else if !(m.allSettled jid j) then some 1
  else if m.tail.any (fun t => t.job.toNat = jid && t.step = j.step && t.rec_.op = 2) then some 2
  else if rest.any (fun e => e.1 != .verdict) || j.colls.any (fun c => c.kind = .scale || c.kind = .calipers || c.kind.norms) ||
      j.redo.any (fun e => e.1 != .verdict) || aborted (fun k => 2 ≤ k && k ≤ 4) then some 3
  else none

/-- Layers that have not entered Updating during the step (R205). -/
def Main.notUpdated (m : Main) (jid : Nat) (j : Job) : Main :=
  (j.layers.filter (fun l => !l.2.updated)).foldl (fun m l =>
    (m.log! { code := 0x1305, cls := .flt, step := j.step, par := p4 jid ++ p2 l.1 }).guard jid 11) m

/-- The module is to contribute: what stands before the verdict in the order is issued, then the verdict, as far as 8 may be in flight
(R21, R268, R292, R295). -/
def Main.vote (m : Main) (jid : Nat) : Main := (m.updJob jid (fun j => { j with due := true })).pumpColls jid

/-- VERDICT_CONTRIBUTION (R19, R205, R268); it waits while core 3 is stopped (R387). -/
def execVerdictContribution (j : U32) : State → Host.Outcome State Fault Refusal :=
  onMain (fun m =>
    match m.job? j.toNat with
    | none => m
    | some v =>
      if (m.core.get 3).runs && v.stepOpen && !v.voted && (m.openCond j.toNat v).isNone then (m.notUpdated j.toNat v).vote j.toNat else m)

/-- A step that ran out of time: bit 9, event 0x9303 with its condition, the rest void, and the contribution (R21, R295). -/
def Main.timeUp (m : Main) (jid : Nat) (cond : Nat) : Main :=
  ((m.log! { code := 0x9303, cls := .flt, step := m.jobStep jid, par := p4 jid ++ p1 cond }).guard jid 9).vote jid

/-! ### The verdict -/

/-- The Burnishers drop what waits for a job, but for landed blocks of steps after `keep`; a fetch still out only ends (R21, R241, R242). -/
def Main.clearQueues (m : Main) (jid : Nat) (keep : Option U32 := none) : Main :=
  let mine (n i : Nat) : Bool := m.entryJob n i = some jid
  { m with burn := m.burn.map (fun (b : Nat × Burn) => (b.1, { b.2 with
      queue := b.2.queue.filter (fun q => q.job.toNat != jid || keep.any (fun k => q.step = k + 1))
      stale := b.2.stale ++ (b.2.fetch.map (·.1)).filter (fun i => mine b.1 i && !b.2.stale.contains i)
      wait := b.2.wait.filter (fun i => !mine b.1 i)
      waitVer := b.2.waitVer.filter (fun i => !mine b.1 i)
      fetched := b.2.fetched.filter (fun i => !mine b.1 i)
      toFetch := b.2.toFetch.filter (fun i => !mine b.1 i) })) }

/-- What a commit does to a layer (R199, R200, R204). -/
def Layer.commit (x : Layer) (step : U32) : Layer :=
  { x with st := .landing, landed := x.next, next := [], lastCommit := step }.settle

/-- What a discard does to a layer (R200). -/
def Layer.discard (x : Layer) (single : Bool) : Layer :=
  { x with st := if x.st = .updating then (if single then .restoring else .reading) else x.st, next := [] }

/-- Steps C2 to C4 of R241: ring, count, versions, layer states. -/
def Job.decide (j : Job) (word : U64) (c : Bool) : Job :=
  { j with
    ring := ((j.step, c) :: j.ring).take 4
    lastVerdict := if c then 1 else 2
    lastWord := word
    lastStep := j.step
    decided := some (j.step, c)
    count := if c then j.count + 1 else j.count
    version := if c && !j.single then !j.version else j.version
    layers := j.layers.map (fun (l : Nat × Layer) =>
      (l.1, { (if c then l.2.commit j.step else l.2.discard j.single) with
        updated := false
        issued := false }))
    unrec := j.unrec || (!c && j.disc = .eagerInPlace)
    gather := if c then j.layers.map (·.1) else []
    once := []
    colls := j.colls.filter (fun x => x.kind != .verdict)
    due := false
    reduced := none
    stepOpen := false
    step := j.step + 1 }

/-- Steps 1 to 4 of a job close (R410). The tile stores and the shavings areas of its dies belong to it no more (R100, R133), and the stop
ramp begins (R367). -/
def Main.closeJob (m : Main) (jid : Nat) : Main :=
  match m.job? jid with
  | none => m
  | some j =>
    let ds := diesOf j.dies
    let m := ds.foldl (fun m d => m.force true d) m
    let m := (m.entriesOf jid).foldl (fun m e => (m.getPrt jid e.1 e.2).1) m
    let m := m.clearQueues jid
    let m := j.stuck.foldl (fun m e => m.freeFlits e.1) m
    let m := ((m.region.map (·.1)).filter (fun r => ds.contains (r / 1024))).foldl Main.freeRegion m
    let m : Main := { m with
      tail := m.tail.filter (fun t => t.job.toNat != jid)
      region := m.region.filter (fun r => !ds.contains (r.1 / 1024))
      hbm := m.hbm.map (fun (s : Nat × Stack) => (s.1, { s.2 with region := s.2.region.del (256 + jid) }))
      jobs := m.jobs.del jid }
    (ds.foldl (fun m d => m.updDie d (fun v => { v with job := 0, storeJob := 0, shavings := none })) m).stopRamp

/-- A forced close that waited for the verdict goes on, and its response is ready (R410). -/
def Main.finishClose (m : Main) (jid : Nat) : Main :=
  match m.closing.find jid with
  | none => m
  | some r =>
    let m := m.closeJob jid
    { m with closing := m.closing.del jid, resps := if r = ({} : Resp) then m.resps else m.resps ++ [r] }.releasesEnd

/-- A module that has left the torus applies no verdict (R22). -/
def Main.inTorus (m : Main) : Bool :=
  match m.fab.node with
  | none => true
  | some n => m.fab.member.get n.toNat = 2

/-- The decided verdict is applied: steps C1 to C5 of R241 (R16–R18, R22, R221, R242, R258, R264, R268). The reduction's result must have
reached the module, and the event carries its word. -/
def Main.applyVerdict (m : Main) (jid : Nat) (word : U64) : Main :=
  match m.job? jid with
  | none => m
  | some j =>
    match j.reduced with
    | none => m
    | some (w, c) =>
      if !j.stepOpen || !j.voted || w != word || !m.inTorus then m
      else
        let m := if c then m.numericsCommit jid else m
        let m := (m.updJob jid (fun j => j.decide word c)).clearQueues jid (some j.step)
        let m := if c then m
          else m.log! { code := 0x9301, cls := .rec_, step := j.step, par := p4 jid ++ p8 word.toNat ++ p8 j.word.toNat }
        let m := if !c && j.disc = .eagerInPlace && !j.unrec then m.log! { code := 0x9304, cls := .rec_, step := j.step, par := p4 jid } else m
        (if c then m.pumpColls jid else m).finishClose jid

/-- VERDICT_APPLY (R241). -/
def execVerdictApply (j : U32) (word : U64) : State → Host.Outcome State Fault Refusal :=
  onMain (fun m => m.applyVerdict j.toNat word)

/-- STEP_END_TIMEOUT (R21, R410). -/
def execStepEndTimeout (j : U32) : State → Host.Outcome State Fault Refusal :=
  onMain (fun m =>
    match m.job? j.toNat with
    | none => m
    | some v =>
      if !v.stepOpen || v.lastBack.isNone then m
      else
        let m := match v.voted, m.openCond j.toNat v with
          | false, some c => m.timeUp j.toNat c
          | _, _ => m
        m.finishClose j.toNat)

/-- STEP_LIMIT_EXPIRY (R21): condition (e). -/
def execStepLimitExpiry (j : U32) : State → Host.Outcome State Fault Refusal :=
  onMain (fun m =>
    match m.job? j.toNat with
    | none => m
    | some v => if v.stepOpen && !v.voted then m.timeUp j.toNat 4 else m)

/-- BACKGROUND_RESOLVE, step C6 (R241): every cached entry of a Burnisher is resolved. -/
def execBackgroundResolve (n : Fin 10) : State → Host.Outcome State Fault Refusal :=
  onMain (fun m => (m.burnAt n.val).cache.foldl (fun m i =>
    match m.entryJob n.val i with
    | some jid => (m.getPrt jid n.val i).1
    | none => m) m)

/-- Re-derives the working copies of one owned block from its live master (R200, R234). -/
def Main.rederive (m : Main) (jid : Nat) (j : Job) (e : Nat × Nat) : Main :=
  match m.getPrt jid e.1 e.2 with
  | (m, none) => m
  | (m, some x) =>
    match m.engRead e.1 (m.masterDa j.disc.rec_ e.1 e.2 x x.live) 0x4000, j.layers.find x.layer with
    | (m, some w), some y => m.writePanel jid j.single y j.version x.panel (workCodes y.tw (f32s w 0 4096))
    | (m, _), _ => m

/-- REDERIVATION_COMPLETE, step C7 (R200, R241). -/
def execRederivationComplete (j : U32) (l : U16) : State → Host.Outcome State Fault Refusal :=
  onMain (fun m =>
    match m.job? j.toNat with
    | none => m
    | some v =>
      if !((v.layers.find l.toNat).any (fun x => x.st = .restoring)) then m
      else
        let es := (((m.runsOf j.toNat).filter (fun r => r.layer = l.toNat)).map
          (fun r => (List.range r.count).map (fun k => (r.stack, r.entry + k)))).flatten
        let m := (es.foldl (fun m e => m.rederive j.toNat v e) m).onceOver j.toNat
        (m.updJob j.toNat (fun v => v.updLayer l.toNat (fun x => { x with st := .reading }))).log!
          { code := 0x1307, cls := .rec_, par := p4 j.toNat ++ p2 l.toNat })

/-- GENERATOR_PROBE, 0x0931 (R49). -/
def execGeneratorProbe (h : Hdr) (p : Payload) : State → Host.Outcome State Fault Refusal :=
  onMain (fun m => m.command 0x0931 h p [(0, 21), (24, 3)] (fun m =>
    ok m [(0, 8, (srDraw (p.extractLsb' 0 64) (p.extractLsb' 64 32) (p.extractLsb' 96 32) (p.extractLsb' 128 40)
      (p.extractLsb' 192 16) (bvByte p 26)).toNat)]) (reads := true) (high := bvAt p 26 1 ≤ 2))

/-! ### Jobs -/

/-- JOB_OPEN, 0x0201 (R17, R100, R133, R258, R266, R319, R409, R414, R445). `vane` for TCS 2. A job that reopens with blocks assigned under
eager in place runs under it again, with the guard off. -/
def Main.openJob (h : Hdr) (p : Payload) (vane : Bool) (m : Main) : Reply :=
  let jid := bvAt p 0 4
  let mask : BitVec 4 := p.extractLsb' 32 4
  let l := bvAt p 6 2
  let t := bvAt p 16 4
  let lim := bvAt p 24 4
  let ds := diesOf mask
  if mask = 0 then reject m 2
  else if jid = 0 || (m.job? jid).isSome then refuse m 1
  else if ds.any (fun d => (m.dieAt d).job != 0) then refuse m 2
  else if l = 0 || 32768 < l then refuse m 3
  else if (t != 0 && (t < 10 || 600000 < t)) || 3600 < lim then refuse m 4
  else if !(m.ownsDies h.src mask) ||
      (m.sup.tlock && ds.any (fun d => !m.partOn || !(m.sealed (m.variant.diePart d)))) then refuse m 5
  else
    let j : Job := {
      dies := mask, ranks := l, seed := p.extractLsb' 64 64, timeout := if t = 0 then 10000 else t
      limit := if lim = 0 then 600 else lim, step := p.extractLsb' 160 32, vane := vane
      tenant := match h.src with
        | .tenant q => some q
        | _ => none
      disc := (m.assigned.get jid).disc
      guard := if (m.assigned.get jid).disc = .eagerInPlace then 0 else 0x3f
      key := some (match h.src with
        | .tenant q => (m.partAt q.toNat).opens.toNat
        | _ => m.draws) }
    let m := (m.setJob jid j).draw
    let m := match h.src with
      | .tenant q => m.updPart q.toNat (fun x => { x with opens := x.opens + 1 })
      | _ => m
    let m : Main := { m with region := m.region.filter (fun r => !ds.contains (r.1 / 1024)) }
    ok (ds.foldl (fun m d => m.updDie d (fun v => { v with job := BitVec.ofNat 32 jid, storeJob := 0, shavings := none })) m) []

/-- Reserved bits of the mask byte of 0x0201. -/
def openRsv (p : Payload) : Bool := bvAt p 4 1 < 16

def execJobOpen (h : Hdr) (p : Payload) : State → Host.Outcome State Fault Refusal :=
  onMain (fun m => m.command 0x0201 h p [(0, 5), (6, 22)] (Main.openJob h p false) (high := openRsv p))

/-- JOB_CLOSE, 0x0202 (R410): at once, or after the verdict of the open step where it is forced. -/
def Main.closeBody (p : Payload) (m : Main) : Reply :=
  let jid := bvAt p 0 4
  match m.job? jid with
  | none => refuse m 1
  | some j =>
    if !j.stepOpen then ok (m.closeJob jid) []
    else if !p.getLsbD 32 then refuse m 2
    else ok { m.guard jid 8 with closing := m.closing.put jid {} } []

/-- Moves the response of a forced close that waits to its place (R410). -/
def Main.deferClose (m : Main) (jid : Nat) : Main :=
  match m.closing.find jid, m.resps.getLast? with
  | some c, some r => if c = {} then { m with closing := m.closing.put jid r, resps := m.resps.dropLast } else m
  | _, _ => m

def execJobClose (h : Hdr) (p : Payload) : State → Host.Outcome State Fault Refusal :=
  onMain (fun m => (m.command 0x0202 h p [(0, 5)] (Main.closeBody p) (owned := m.ownsJob h.src (bvAt p 0 4))
    (high := bvAt p 4 1 < 2)).deferClose (bvAt p 0 4))

/-- Begin of a restore (R412). -/
def Main.restoreBegin (m : Main) (jid : Nat) : Main :=
  let m := (m.entriesOf jid).foldl (fun m e =>
    match m.getPrt jid e.1 e.2 with
    | (m, some x) => m.putPrt jid e.1 e.2 ((x.set 22 1 0).set 5 1 0)
    | (m, none) => m) m
  (m.clearQueues jid).updJob jid (fun j => { j with
    restoring := true
    layers := j.layers.map (fun (l : Nat × Layer) => (l.1, { l.2 with st := .landing, landed := [], next := [] })) })

/-- Every valid entry of a job has LOADED set. -/
def Main.allLoaded (m : Main) (jid : Nat) : Bool :=
  (m.entriesOf jid).all (fun e => Prt.loaded (bvOf 256 (m.mem.hbm.read (m.prtDa e.1 e.2) 32)))

/-- RESTORE_JOB, 0x0204 (R412). -/
def Main.restore (p : Payload) (m : Main) : Reply :=
  let jid := bvAt p 0 4
  match m.job? jid with
  | none => refuse m 1
  | some j =>
    if bvAt p 4 1 > 1 then reject m 2
    else if j.stepOpen then refuse m 2
    else if bvAt p 4 1 = 0 then
      if j.layers.any (fun l => l.2.st = .updating || l.2.st = .restoring) then refuse m 2
      else ok (m.restoreBegin jid) []
    else if !j.restoring then refuse m 4
    else if !(m.allLoaded jid) || j.layers.any (fun l => l.2.st != .reading) then refuse m 3
    else
      let step : U32 := p.extractLsb' 64 32
      ok ((m.setJob jid { j with restoring := false, unrec := false, step := step }).log!
        { code := 0x9305, cls := .rec_, step := step, par := p4 jid }) []

def execRestoreJob (h : Hdr) (p : Payload) : State → Host.Outcome State Fault Refusal :=
  onMain (fun m => m.command 0x0204 h p (if bvAt p 4 1 = 1 then [(0, 5), (8, 4)] else [(0, 5)]) (Main.restore p)
    (owned := m.ownsJob h.src (bvAt p 0 4)))

end Sys2Proof.Machine
end

