-- ==== Sys2Proof/Machine/Fabric.lean ====
section
/-! DEFINITION. The Tenon ports: status and control, bring-up, flits, replays, packets, link keys (R271–R289, R300–R303, R439). -/

namespace Sys2Proof.Machine

/-! ### Port commands -/

/-- State byte of port status (R302). -/
def PortSt.num : PortSt → Nat
  | .down => 0 | .training => 1 | .up => 2 | .standby => 3 | .held => 4

/-- Lanes that run (R302). -/
def lanesUp (l : Byte) : Nat := ((List.range 8).filter l.getLsbD).length

/-- PORT_STATUS, 0x0801 (R302): the FEC counts of the last second are the port's own, taken as free values (log 81). -/
def Main.portStatus (p : Payload) (m : Main) : Reply :=
  let i := bvAt p 0 1
  if i ≥ m.variant.ports then reject m 2
  else
    let m := m.draw.updPort i (fun k => { k with
      nCorr := (Config.random m.draws).extractLsb' 0 32
      nUncorr := (Config.random m.draws).extractLsb' 32 32 })
    let k := m.portAt i
    ok m [(0, 1, k.st.num), (1, 1, lanesUp k.lanes), (2, 2, k.node.toNat), (4, 1, k.nport.toNat),
          (8, 4, (recent m.us 1000000 k.replays).length), (12, 4, k.nCorr.toNat), (16, 4, k.nUncorr.toNat)]

def execPortStatus (h : Hdr) (p : Payload) : State → Host.Outcome State Fault Refusal :=
  onMain (fun m => m.command 0x0801 h p [(0, 1)] (Main.portStatus p) (reads := true))

/-- The second link of the RK-OA63 carries a packet that came in on `inp`: by its addresses, and collective data on the link of the same
number as the one that it came in on (R286; log 137). -/
def Hd.second (h : Hd) (inp : Option Nat := none) : Bool :=
  if h.cls = 2 then inp = some 6 || inp = some 7 else (h.src ^^^ h.dst ^^^ h.off.toNat / 2 ^ 12) % 2 = 1

/-- Answers a request packet (R280, R289, R439). -/
def Main.replyPacket (m : Main) (h : Hd) (status : Nat) (body : List Byte) : Main :=
  let r : Hd := { dst := h.src, src := (m.fab.node.getD 0).toNat, cls := 1, part := h.part, len := body.length, epoch := m.fab.epoch,
                  op := (if status != 0 then 0x12 else if h.op = 1 then 0x10 else 0x11), status := status, tag := h.tag, step := h.step }
  let (m, r, body) := m.tenWrap r body
  (m.sendPacket r body r.second).1

/-- Passes a packet on; a request that no link takes is answered (R284, R285). -/
def Main.forward (m : Main) (h : Hd) (body : List Byte) (inp : Option Nat := none) (flits : Nat := 0) : Main :=
  match m.sendPacket h body (h.second inp) inp flits with
  | (m, true) => m
  | (m, false) =>
    let m := m.freeFlits (inp.map (fun p => (p, h.vc, flits)))
    if h.cls = 0 && 1 ≤ h.op && h.op ≤ 4 then m.replyPacket { h with tenant := false } 5 [] else m

/-- Packets that waited at a port that is down take their route anew, as they came in (R283, R285). -/
def Main.reroute (m : Main) (w : List Pkt) : Main :=
  w.foldl (fun m e => m.forward (Hd.of e.hdr0) e.body e.inp e.flits) m

/-- A port that no longer runs its link. -/
def Port.dead (k : Port) : Port :=
  { k with st := .down, step := 0, hold := false, standsFor := none, wait := [], sent := [], replay := [], rx := [], lanes := 0 }

/-- A port carries, or holds, the traffic of an active link (R276, R279). -/
def Port.active (k : Port) : Bool := k.st = .up || k.st = .held || k.hold

/-- The unacknowledged and the waiting packets of a link move to the standby link that joins the same modules (R279; log 136). -/
def Main.takeOver (m : Main) (p q : Nat) : Main :=
  let k := m.portAt p
  let m := m.updPort q (fun x => { x with
    st := .up
    standsFor := some p
    wait := k.sent.map (·.2) ++ k.wait ++ x.wait })
  let m := m.updPort p Port.dead
  (m.log! { code := 0x5106, cls := .rec_, par := p1 p }).pump q

/-- The standby port that joins the same two modules as a port (R279). -/
def Main.standbyOf (m : Main) (p : Nat) : Option Nat :=
  (m.fab.port.find? (fun e => e.2.st = .standby && e.2.node = (m.portAt p).node && e.1 != p)).map (·.1)

/-- A port loses its link: the standby takes over for an active link that fails; otherwise the waiting packets take another route
(R279, R285). -/
def Main.loseLink (m : Main) (p : Nat) (fails : Bool) : Main :=
  let k := m.portAt p
  match (m.standbyOf p).filter (fun _ => fails && k.active) with
  | some q => m.takeOver p q
  | none => (m.updPort p Port.dead).reroute k.wait

/-- A port goes down, in a step of its bring-up or in none (R278, R302). -/
def Main.portDown (m : Main) (p step : Nat) (fails : Bool := true) : Main :=
  if (m.portAt p).st = .down then m
  else (m.log! { code := 0x5102, cls := .rec_, par := p1 p ++ p1 step }).loseLink p fails

/-- A port starts to come up; a retired port stays down (R278, R301, R488). -/
def Main.portUp (m : Main) (p : Nat) : Main :=
  let k := m.portAt p
  if k.retired || k.st != .down then m
  else m.updPort p (fun k => { k with st := .training, step := 1, lockedDown := false, hold := false })

/-- PORT_CONTROL, 0x0802 (R302). -/
def Main.portControl (p : Payload) (m : Main) : Reply :=
  let mask : U16 := p.extractLsb' 0 16
  let act := bvAt p 2 1
  if act > 1 || mask.toNat ≥ 2 ^ m.variant.ports then reject m 2
  else
    let ps := (List.range m.variant.ports).filter mask.getLsbD
    ok (ps.foldl (fun m i => if act = 0 then m.portDown i 0 false else m.portUp i) m) []

def execPortControl (h : Hdr) (p : Payload) : State → Host.Outcome State Fault Refusal :=
  onMain (fun m => m.command 0x0802 h p [(0, 3)] (Main.portControl p))

/-- ARBITRATION_WEIGHTS, 0x0803 (R287, R302). -/
def Main.arbWeights (p : Payload) (m : Main) : Reply :=
  let w (i : Nat) := bvAt p i 1
  if (List.range 3).any (fun i => w i < 1 || 15 < w i) then reject m 2
  else ok { m with fab := { m.fab with weight := (BitVec.ofNat 4 (w 0), BitVec.ofNat 4 (w 1), BitVec.ofNat 4 (w 2)) } } []

def execArbitrationWeights (h : Hdr) (p : Payload) : State → Host.Outcome State Fault Refusal :=
  onMain (fun m => m.command 0x0803 h p [(0, 3)] (Main.arbWeights p))

/-! ### Bring-up -/

/-- The port is the variant's standby port (R271). -/
def Variant.standbyPort : Variant → Option Nat
  | .oa82 => none | .oa101 => some 2 | .oa63 => some 8

/-- The membership in force names a node (R278, R297). -/
def Main.named (m : Main) (node : U16) : Bool := node.toNat < 2 ^ 15 && m.fab.member.get node.toNat != 0

/-- Lanes that a bring-up runs on: all eight, or one whole half (R274). -/
def laneSet (tr : Byte) : Byte :=
  if tr = 0xFF then 0xFF else if tr &&& 0x0F = 0x0F then 0x0F else if tr &&& 0xF0 = 0xF0 then 0xF0 else 0

/-- The port of the peer to which a port is cabled: the one of the opposite direction, or another standby port (R272). -/
def Variant.peerPort (v : Variant) (p : Nat) : Nat :=
  if v.standbyPort = some p then p else if p < 6 then (if p % 2 = 0 then p + 1 else p - 1) else if p = 6 then 7 else 6

/-- Node IDs to which a port of this module may lead: the neighbour of its direction, or for a standby port a neighbour of its dimension,
X on the RK-OA101 and Y on the RK-OA63 (R272, R297). -/
def Main.neighbours (m : Main) (n p : Nat) : List Nat :=
  let near (dim : Nat) (plus : Bool) : Nat :=
    let size := m.ringSize dim
    setCoord n dim ((coord n dim + (if plus then 1 else size - 1)) % size)
  if m.variant.standbyPort = some p then
    let dim := if m.variant = .oa101 then 0 else 1
    [near dim true, near dim false]
  else if p < 6 then [near (p / 2) (p % 2 = 0)] else [near 0 (p = 6)]

/-- The identity exchange of step B4 shows the module and port that the port's role names, as far as node IDs are set: a peer without one
gives a number of 2^15 or more (R272, R278). -/
def Main.roleOk (m : Main) (p : Nat) (r : BringUp) : Bool :=
  r.port.toNat = m.variant.peerPort p &&
  match m.fab.node with
  | none => true
  | some me => 2 ^ 15 ≤ r.node.toNat || (m.neighbours me.toNat p).contains r.node.toNat

/-- Lanes that fail step B1 on three consecutive bring-ups are retired; with no whole half left, so is the port (R484, R488). -/
def Main.countLanes (m : Main) (p : Nat) (tr : Byte) : Main :=
  let k := m.portAt p
  let bad := (List.range 8).filter (fun i => !(k.laneRet.getLsbD i) && !(tr.getLsbD i))
  let now := bad.filter (fun i => k.laneFail.get i ≥ 2)
  let m := m.updPort p (fun k => { k with
    laneFail := (List.range 8).foldl (fun t i => t.put i (if bad.contains i then t.get i + 1 else 0)) k.laneFail
    laneRet := now.foldl (fun r i => r ||| (1 <<< i)) k.laneRet })
  let m := now.foldl (fun m _ => m.log! { code := 0x5108, cls := .rec_, par := p1 p }) m
  if now != [] && laneSet (~~~(m.portAt p).laneRet) = 0 then
    (m.updPort p (fun k => { k with retired := true })).log! { code := 0x5109, cls := .rec_, par := p1 p }
  else m

/-- The port is up: state, standby roles, held traffic; what waited at the port that stood for it moves back (R278, R279, R302). -/
def Main.portReady (m : Main) (p : Nat) : Main :=
  let k := m.portAt p
  let st : PortSt :=
    if m.variant.standbyPort = some p && k.standsFor.isNone then .standby else if m.named k.node then .up else .held
  let back := ((m.fab.port.filter (fun e => e.2.standsFor = some p)).map (fun e => e.2.wait)).flatten
  let m := { m with fab := { m.fab with port := m.fab.port.map (fun (e : Nat × Port) =>
    if e.2.standsFor = some p then (e.1, { e.2 with standsFor := none, st := .standby, wait := [] }) else e) } }
  ((m.updPort p (fun k => { k with st := st, step := 0, hold := false, wait := back ++ k.wait })).log!
    { code := 0x5101, cls := .rec_, par := p1 p }).pump p

/-- A bring-up step leaves the port down with an event of its own (R4, R272, R300). -/
def Main.portStays (m : Main) (p code : Nat) : Main := (m.log! { code := code, cls := .flt, par := p1 p }).loseLink p true

/-- Step B3 and step B5: counters at 0, all credits, empty buffers and new keys; held traffic waits from its first unacknowledged packet on
(R276, R277, R278, R300; log 136). -/
def Port.fresh (k : Port) (r : BringUp) (stamp : Nat) : Port :=
  { k with
    node := r.node
    nport := r.port
    txSeq := 0
    txAck := 0
    rxSeq := 0
    dropping := false
    nak := false
    replay := []
    sent := []
    wait := if k.hold then k.sent.map (·.2) ++ k.wait else k.wait
    credit := (List.range 8).map (fun v => (v, 512))
    rx := []
    inbuf := []
    freed := []
    key := stamp
    gen := 0
    phase := false
    oldKey := false
    packets := 0
    rxPackets := 0 }

/-- PORT_BRING_UP (R274, R277, R278, R300, R484): steps B1 to B6. -/
def Main.bringUp (m : Main) (p : Nat) (r : BringUp) : Main :=
  let k := m.portAt p
  if p ≥ m.variant.ports || k.st != .training || k.retired then m
  else
    let tr := r.lanes &&& ~~~k.laneRet
    let m := m.countLanes p tr
    let l := laneSet tr
    if (m.portAt p).retired || l = 0 then m.portDown p 1
    else
      let m := m.updPort p (fun k => { k with lanes := l })
      let m := if l = 0xFF then m else m.log! { code := 0x5107, cls := .rec_, par := p1 p }
      if r.part.toNat != m.variant.code then m.portStays p 0x5103
      else if !(m.roleOk p r) then m.portStays p 0x5104
      else if !r.auth then m.portStays p 0x7502
      else
        let stamp := m.draws
        (m.draw.updPort p (fun k => k.fresh r (stamp + 1))).portReady p

def execPortBringUp (p : Fin 9) (r : BringUp) : State → Host.Outcome State Fault Refusal := onMain (fun m => m.bringUp p.val r)

/-- PORT_BRING_UP_STEP_TIMEOUT (R278): step B1 to B5 by `b` 0 to 4; step B6 has no bound. -/
def execPortBringUpStepTimeout (p : Fin 9) (b : Fin 6) : State → Host.Outcome State Fault Refusal :=
  onMain (fun m => if (m.portAt p.val).st = .training && b.val < 5 then m.portDown p.val (b.val + 1) else m)

/-! ### Packets that arrive -/

/-- A port runs its link (R276). -/
def Port.runs (k : Port) : Bool := k.st = .up || k.st = .standby || k.st = .held

/-- A port goes back to step B1 with its traffic held (R276, R301). -/
def Main.retrain (m : Main) (p : Nat) : Main := m.updPort p (fun k => { k with st := .training, step := 1, hold := true, rx := [] })

/-- A link tag fails: retraining with new keys, or down on the third failure within 1 s (R301). -/
def Main.tagFails (m : Main) (p : Nat) : Main :=
  let l := m.ms :: recent m.ms 1000 (m.portAt p).tagFail
  let m := (m.updPort p (fun k => { k with tagFail := l })).log! { code := 0x7501, cls := .rec_, par := p1 p }
  if l.length < 3 then m.retrain p
  else (m.updPort p (fun k => { k with lockedDown := true })).portDown p 0

/-- A request packet for this module (R288, R289, R439). -/
def Main.request (m : Main) (h : Hd) (body : List Byte) : Main :=
  if h.epoch != m.fab.epoch then m.replyPacket h 4 []
  else
    match m.tenUnwrap h body with
    | none => (m.log! { code := 0x7203, cls := .rec_, par := p1 h.part }).replyPacket h 1 []
    | some b =>
      let e := m.fab.inmap.get (h.off.toNat / 2 ^ 36)
      if e.valid && m.partOn && m.sealed e.part.toNat && !h.tenant then m.replyPacket h 1 []
      else
        let (m, st, d) := m.inbound h.op h.part h.off.toNat h.len b
        m.replyPacket h st d

/-- What the response to lines `first` to `first + k - 1` does to a request (R289). -/
def Req.peerGot (r : Req) (status first k : Nat) (body : List Byte) : Req :=
  if status != 0 then { r with bad := true, err := if r.kind = .load then 0 else 0x5301 }
  else
    let got := if r.kind = .load then
        ((List.range k).filter (fun i => !(r.served.contains (first + i)))).foldl
          (fun (g : Table (BitVec 1024)) i => g.put (first + i) (bvOf 1024 (bytesAt body (128 * i) 128))) r.got
      else r.got
    { r with served := r.served ++ ((List.range k).map (· + first)).filter (fun i => !(r.served.contains i)), got := got }

/-- A response releases the request tag of a copy engine, or reaches the requester's slot: an error, or the last line of the request, ends
the request there (R69, R88, R92, R281, R289). -/
def Main.peerAnswer (m : Main) (tag : U16) (status : Nat) (body : List Byte) : Main :=
  match m.fab.peer.find? (fun e => e.1 = tag) with
  | none => { m with fab := { m.fab with copies := m.fab.copies.filter (· != tag) } }
  | some (_, id, slot, first, k) =>
    let m := { m with fab := { m.fab with peer := m.fab.peer.filter (fun e => e.1 != tag) } }
    match (m.tileAt id.toNat).slots.find slot.toNat with
    | none => m
    | some r =>
      let r := r.peerGot status first k body
      let m := m.updTile id.toNat (fun t => { t with slots := t.slots.put slot.toNat r })
      if r.bad || r.served.length ≥ r.lines then (m.respond id.toNat slot.toNat false).forceGo (id.toNat / 512) else m

/-- PEER_RESPONSE (R289). -/
def execPeerResponse (tag : U16) (status : Byte) (body : List Byte) : State → Host.Outcome State Fault Refusal :=
  onMain (fun m => m.peerAnswer tag status.toNat body)

/-- One packet of collective data, decrypted: its whole is handed on once every part of it is here (R280, R293; log 136). `org`: the input
buffer that the packet holds. -/
def Main.collPart (m : Main) (h : Hd) (b : List Byte) (org : Option (Nat × Nat × Nat)) : Main :=
  let whole := natAt b 6 4
  let d : CollData := { job := h.off.extractLsb' 0 32, epoch := h.epoch, seq := h.off.extractLsb' 32 32, step := h.step, hop := h.hop,
                        void := h.void, owner := BitVec.ofNat 16 (natAt b 0 2), first := BitVec.ofNat 32 (natAt b 2 4), data := b.drop 14 }
  let mine (e : Nat × Nat × CollData) : Bool := e.1 = h.src && e.2.1 = whole && { e.2.2 with data := [] } = { d with data := [] }
  let before := ((m.fab.asm.find? mine).map (·.2.2.data)).getD []
  let keep := m.fab.asm.filter (fun e => !mine e)
  if natAt b 10 4 != before.length then m.freeFlits org
  else
    let d := { d with data := before ++ d.data }
    if whole ≤ d.data.length then { m with fab := { m.fab with asm := keep } }.collData d org
    else { m with fab := { m.fab with asm := keep ++ [(h.src, whole, d)] } }.freeFlits org

/-- A packet of collective data for this module: under sealed tenancy its payload must be tenant-encrypted and its tag must hold
(R280, R294, R439). -/
def Main.collPacket (m : Main) (h : Hd) (body : List Byte) (org : Option (Nat × Nat × Nat)) : Main :=
  match (m.tenUnwrap h body).filter (fun _ => h.tenant || !(m.tenDue h)) with
  | some b => m.collPart h b org
  | none => m.collData { job := h.off.extractLsb' 0 32, epoch := h.epoch, seq := h.off.extractLsb' 32 32, step := h.step, tagOk := false } org

/-- A packet for this module, decrypted on the link (R280). What a control packet holds the spec leaves open (log 136). -/
def Main.consume (m : Main) (h : Hd) (body : List Byte) (org : Option (Nat × Nat × Nat) := none) : Main :=
  if h.cls = 2 && h.op = 0x20 then m.collPacket h body org
  else
    let m := m.freeFlits org
    if h.cls = 0 && 1 ≤ h.op && h.op ≤ 4 then m.request h body
    else if h.cls = 1 && 0x10 ≤ h.op && h.op ≤ 0x12 then
      match m.tenUnwrap h body with
      | some b => m.peerAnswer h.tag h.status b
      | none => m.log! { code := 0x7203, cls := .rec_, par := p1 h.part }
    else m

/-- Key generation under which a packet of a phase is read: the present one, or the old one while it is valid (R300). -/
def Port.genOf (k : Port) (phase : Bool) : Option Nat :=
  if phase = k.phase then some k.gen else if k.oldKey then some (k.gen - 1) else none

/-- A packet has arrived on a port, with the flits of the input buffer that it holds (R280, R284, R285, R300, R301). -/
def Main.packetIn (m : Main) (p : Nat) (hb : BitVec 256) (body : List Byte) (tag : BitVec 128) (flits : Nat := 0) : Main :=
  let k := m.portAt p
  if !k.runs then m
  else
    let h := Hd.of hb
    let nonce (key : List Byte) := linkNonce key k.rxPackets
    let key := (k.genOf h.phase).map (linkKey k.key false)
    match key.filter (fun key => Config.gcmTag (key.take 32) (nonce key) (bvBytes hb 32) body = tag) with
    | none => (m.freeFlits (some (p, h.vc, flits))).tagFails p
    | some key =>
      let m := m.updPort p (fun k => { k with rxPackets := k.rxPackets + 1 })
      let plain := gcmXor (key.take 32) (nonce key) body
      if m.fab.node.any (fun (n : BitVec 15) => n.toNat = h.dst) then m.consume h plain (some (p, h.vc, flits))
      else m.forward h plain (some p) flits

/-- PACKET_RECEIVE (R280): a packet that arrives whole. -/
def execPacketReceive (p : Fin 9) (hdr : BitVec 256) (body : List Byte) (tag : BitVec 128) :
    State → Host.Outcome State Fault Refusal := onMain (fun m => m.packetIn p.val hdr body tag)

/-! ### Flits that arrive -/

/-- Packets that the bytes received of a channel complete, and the bytes left over: `inside` while a packet is in progress; else the next one
starts at `start`, or at once unless only zeros follow, which fill the flit (R275, R280; log 136). -/
def rxSplit : Nat → List Byte → Bool → Option Nat → List (List Byte) × List Byte
  | 0, l, _, _ => ([], l)
  | fuel + 1, l, inside, start =>
    let size := 48 + natAt l 6 2
    if inside then
      if l.length < 32 || l.length < size then ([], l)
      else
        let r := rxSplit fuel (l.drop size) false ((start.filter (size ≤ ·)).map (· - size))
        (l.take size :: r.1, r.2)
    else
      match start with
      | some s => rxSplit fuel (l.drop s) true none
      | none => if l.all (· = 0) then ([], []) else rxSplit fuel l true none

/-- The body of a flit enters its channel's input buffer, and the packets that it completes go on (R275, R277, R280). -/
def Main.bodyIn (m : Main) (p vc : Nat) (body : List Byte) (start : Option Nat) : Main :=
  let (n, old) := ((m.portAt p).rx.find vc).getD (0, [])
  let (ps, rest) := rxSplit (2 * (old.length + 246)) (old ++ body) (old != []) (start.map (· + old.length))
  let m := m.updPort p (fun k => { k with
    inbuf := k.inbuf.put vc (k.inbuf.get vc + 1)
    rx := k.rx.put vc (if ps = [] then n + 1 else 0, rest) })
  let m := ps.zipIdx.foldl (fun m e =>
    let size := e.1.length
    m.packetIn p (bvOf 256 (e.1.take 32)) (bytesAt e.1 32 (size - 48)) (bvOf 128 (e.1.drop (size - 16))) (if e.2 = 0 then n + 1 else 0)) m
  if ps = [] && rest = [] then
    (m.updPort p (fun k => { k with rx := k.rx.put vc (0, []) })).freeFlits (some (p, vc, n + 1))
  else m

/-- The sender replays from ACK + 1; the 16th replay within 1 ms retrains the port (R276). -/
def Main.replayPort (m : Main) (p : Nat) : Main :=
  let l := m.us :: recent m.us 1000000 (m.portAt p).replays
  let m := m.updPort p (fun k => { k with replays := l })
  if 16 ≤ (recent m.us 1000 l).length then (m.retrain p).log! { code := 0x5105, cls := .rec_, par := p1 p }
  else
    let k := m.portAt p
    k.replay.zipIdx.foldl (fun m e => m.send (.flit p (reflit e.1 k.rxSeq (k.nak && e.2 = 0))))
      (m.updPort p (fun k => { k with nak := k.nak && k.replay = [] }))

/-- Takes ACK of a good flit: acknowledged flits leave the replay buffer, and packets whose last flit is acknowledged are done
(R275, R276). -/
def Port.takeAck (k : Port) (ack : BitVec 12) : Port :=
  let n := (ack - k.txAck).toNat
  if n ≤ k.replay.length then { k with
    txAck := ack
    replay := k.replay.drop n
    sent := k.sent.filter (fun e => n < (e.1 - k.txAck).toNat) }
  else k

/-- An idle flit leaves when an acknowledgement, credits or a NAK is due and no flit has carried it (R275–R277; log 136). -/
def Main.owe (m : Main) (p : Nat) (before : Port) : Main :=
  let k := m.portAt p
  let due : Bool := k.nak || k.freed.any (fun e => e.2 != 0) || (k.rxSeq != before.rxSeq && k.txSeq = before.txSeq)
  if k.runs && due then m.putFlit p 0 none none else m

/-- FLIT_RECEIVE (R275–R277): a flit with a bad CRC, and a later one than the next, are discarded up to the replay. -/
def Main.flit (m : Main) (p : Nat) (f : BitVec 2048) : Main :=
  let k := m.portAt p
  let seq : BitVec 12 := f.extractLsb' 0 12
  let later : Bool := seq != k.rxSeq && seq != k.rxSeq + 1 && (seq - k.rxSeq).toNat < 2048
  if !k.runs then m
  else if crc32c (bvBytes f 252) != f.extractLsb' 2016 32 then (m.updPort p (fun k => { k with dropping := true, nak := true })).owe p k
  else if later then (m.updPort p (fun k => { k with dropping := true, nak := k.nak || !k.dropping })).owe p k
  else
    let cvc := (f.extractLsb' 37 3).toNat
    let m := m.updPort p (fun k => k.takeAck (f.extractLsb' 12 12))
    let m :=
      if seq != k.rxSeq + 1 then m
      else
        let m := m.updPort p (fun k => { k with
          rxSeq := seq
          dropping := false
          credit := k.credit.put cvc (min 512 (k.credit.get cvc + (f.extractLsb' 40 7).toNat)) })
        if f.getLsbD 27 then
          m.bodyIn p (f.extractLsb' 24 3).toNat (bytesAt (bvBytes f 252) 6 246)
            (if f.getLsbD 28 then some (f.extractLsb' 29 8).toNat else none)
        else m
    let m := if f.getLsbD 47 && (m.portAt p).runs then m.replayPort p else m
    (m.pump p).owe p k

def execFlitReceive (p : Fin 9) (flit : BitVec 2048) : State → Host.Outcome State Fault Refusal := onMain (fun m => m.flit p.val flit)

/-- LINK_REPLAY_TIMEOUT (R276). -/
def execLinkReplayTimeout (p : Fin 9) : State → Host.Outcome State Fault Refusal :=
  onMain (fun m => if (m.portAt p.val).runs && (m.portAt p.val).replay != [] then m.replayPort p.val else m)

/-- ACTIVE_LINK_FAILURE (R279). -/
def execActiveLinkFailure (p : Fin 9) : State → Host.Outcome State Fault Refusal :=
  onMain (fun m => if (m.portAt p.val).active then m.portDown p.val 0 else m)

/-- LINK_REKEY (R300). -/
def execLinkRekey (p : Fin 9) : State → Host.Outcome State Fault Refusal :=
  onMain (fun m => if (m.portAt p.val).runs then
    m.updPort p.val (fun k => { k with gen := k.gen + 1, phase := !k.phase, oldKey := true }) else m)

/-- OLD_KEY_EXPIRY (R300). -/
def execOldKeyExpiry (p : Fin 9) : State → Host.Outcome State Fault Refusal :=
  onMain (fun m => m.updPort p.val (fun k => { k with oldKey := false }))

end Sys2Proof.Machine
end

