-- ==== Sys2Proof/Machine/Member.lean ====
section
/-! DEFINITION. Membership, rank map, collective plan, collective status and re-issue, inbound map (R288, R290, R297–R299). -/

namespace Sys2Proof.Machine

/-- State of a node ID in a membership table: 2 bits per node ID (R297). -/
def memberOf (t : List Byte) (n : Nat) : BitVec 2 := (t.getD (n / 4) 0).extractLsb' (n % 4 * 2) 2

/-- The membership table by its listed nodes (R297). -/
def memberTable (t : List Byte) : Table (BitVec 2) :=
  (List.range 32768).filterMap (fun n => if memberOf t n = 0 then none else some (n, memberOf t n))

/-- Ports carry traffic when the membership names their neighbour, and are held otherwise (R278, R302). -/
def Main.holdPorts (m : Main) : Main :=
  let m := { m with fab := { m.fab with port := m.fab.port.map (fun (e : Nat × Port) =>
    (e.1, if e.2.st = .up || e.2.st = .held then { e.2 with st := if m.named e.2.node then .up else .held } else e.2)) } }
  (List.range m.variant.ports).foldl (fun m i => m.pump i) m

/-- Collective codes (R292). -/
def CollKind.code : CollKind → Nat
  | .reduceScatter => 1 | .norm => 2 | .scale => 3 | .calipers => 4 | .globalNorm => 2 | .verdict => 5 | .allGather => 6

/-- Step M2: the collectives of jobs that a falling member takes part in end with an abort (R298, R299). -/
def Main.abortColls (m : Main) (falls : Nat → Bool) : Main :=
  m.jobs.foldl (fun (m : Main) (e : Nat × Job) =>
    if !(e.2.map.any (fun x => falls x.1)) then m
    else e.2.colls.foldl (fun (m : Main) (c : Coll) =>
      let m := { m with fab := { m.fab with lastAbort := (c.seq, c.kind.code) } }
      ((m.updJob e.1 (fun j => { j with aborted := j.aborted ++ [(c.seq, c.kind.code)] })).endColl e.1 c).log!
        { code := 0x5402, cls := .rec_, step := c.step, par := p4 e.1 }) m) m

/-- Data that a job keeps under an epoch older than the new one is dropped and counted; sequence numbers begin anew (R294, R298). -/
def Main.dropOld (m : Main) (jid : Nat) (j : Job) (epoch : U32) : Main :=
  let old (d : CollData) : Bool := d.epoch < epoch
  let stuck := j.stuck.filter (fun e => old e.2)
  let m := m.setJob jid { j with
    held := j.held.filter (fun d => !old d)
    stuck := j.stuck.filter (fun e => !old e.2)
    issued := [] }
  let m := { m with fab := { m.fab with dropped := m.fab.dropped + (j.held.filter old).length + stuck.length } }
  (stuck.foldl (fun m e => m.freeFlits e.1) m).unstick jid

/-- MEMBERSHIP_CHANGE, 0x0810 (R297, R298): steps M1 to M4. -/
def Main.membership (p : Payload) (m : Main) : Reply :=
  let epoch : U32 := p.extractLsb' 0 32
  let d (i : Nat) := bvAt p (4 + i) 1
  let node := bvAt p 8 2
  let range := (List.range 3).all (fun i => 1 ≤ d i && d i ≤ 32 && coord node i < d i)
  if epoch != m.fab.epoch + 1 || !range || (m.variant = .oa101 && (d 1 != 1 || d 2 != 1)) || node ≥ 2 ^ 15 ||
      m.fab.node.any (fun (x : BitVec 15) => x.toNat != node) || !(m.mapped 4 (bvAt p 16 8) 8192) then reject m 2
  else
    match m.daGet 4 (bvAt p 16 8) 8192 with
    | (_, none) => reject m 2
    | (m', some t) =>
      if (List.range 32768).any (fun n => memberOf t n = 3) then reject m 2
      else
        let new := memberTable t
        let old := m.fab.member
        let m := m'.abortColls (fun n => old.get n = 2 && new.get n != 2)
        let m := { m with fab := { m.fab with epoch := epoch, dim := (d 0, d 1, d 2), node := some (BitVec.ofNat 15 node),
                                              member := new, seq := 0 } }
        let m := m.jobs.foldl (fun (m : Main) e => m.dropOld e.1 e.2 epoch) m
        ok (m.holdPorts.log! { code := 0x5401, cls := .rec_ }) []

def execMembershipChange (h : Hdr) (p : Payload) : State → Host.Outcome State Fault Refusal :=
  onMain (fun m => m.command 0x0810 h p [(0, 7), (8, 2), (16, 8)] (Main.membership p))

/-- A command that sets a job's map or plan: its job is open and no step is (R290; log 83). -/
def Main.between (m : Main) (jid : Nat) (body : Job → Reply) : Reply :=
  match m.job? jid with
  | none => refuse m 1
  | some j => if j.stepOpen then refuse m 2 else body j

/-- Partition of a job's dies (R426). -/
def Main.jobPart (m : Main) (j : Job) : Nat := m.diePartOf ((diesOf j.dies).headD 0)

/-- RANK_MAP, 0x0811 (R290). -/
def Main.rankMap (p : Payload) (m : Main) : Reply :=
  let jid := bvAt p 0 4
  let l := bvAt p 4 2
  let n := bvAt p 6 2
  let da := bvAt p 8 8
  m.between jid (fun j =>
    if l < 1 || 32768 < l || l != j.ranks || n = 0 || !(m.mapped (m.jobPart j) da (4 * n)) then refuse m 3
    else
      match m.daGet (m.jobPart j) da (4 * n) with
      | (_, none) => refuse m 3
      | (m', some b) =>
        let es := (List.range n).map (fun i => (natAt b (4 * i) 2, natAt b (4 * i + 2) 2))
        if (es.map (·.2)).sum != l || es.any (fun e => e.2 = 0 || e.1 ≥ 2 ^ 15) then refuse m 3
        else ok (m'.updJob jid (fun j => { j with map := es })) [])

def execRankMap (h : Hdr) (p : Payload) : State → Host.Outcome State Fault Refusal :=
  onMain (fun m => m.command 0x0811 h p [(0, 16)] (Main.rankMap p) (owned := m.ownsJob h.src (bvAt p 0 4)))

/-- A plan record of 64 bytes (R290). -/
def planRec (b : List Byte) : PlanRec :=
  { layer := BitVec.ofNat 16 (natAt b 0 2), norm := natAt b 2 1 % 2 = 1, trigger := BitVec.ofNat 32 (natAt b 4 4),
    pieces := (List.range (natAt b 3 1)).map (fun i => (natAt b (8 + 12 * i) 1, natAt b (12 + 12 * i) 4, natAt b (16 + 12 * i) 4)) }

/-- A plan record is well formed: the pieces of each local rank in panel order, on the job's dies, reserved bytes zero (R11, R208,
R290; log 70). -/
def planOk (j : Job) (b : List Byte) : Bool :=
  let k := natAt b 3 1
  natAt b 2 1 < 2 && 1 ≤ k && k ≤ 4 && zeroAt b (8 + 12 * k) (64 - (8 + 12 * k)) &&
  (List.range k).all (fun i =>
    natAt b (8 + 12 * i) 1 < 4 && j.dies.getLsbD (natAt b (8 + 12 * i) 1) && zeroAt b (9 + 12 * i) 3 &&
    natAt b (16 + 12 * i) 4 < 2 ^ 15 && (i = 0 || natAt b (12 + 12 * i) 4 = 0 || natAt b (12 * i) 4 < natAt b (12 + 12 * i) 4))

/-- COLLECTIVE_PLAN, 0x0812 (R290). -/
def Main.collPlan (h : Hdr) (p : Payload) (m : Main) : Reply :=
  let jid := bvAt p 0 4
  let n := bvAt p 4 2
  let da := bvAt p 8 8
  let ha := bvAt p 16 8
  let hs := bvAt p 24 8
  m.between jid (fun j =>
    let m0 := m.setJob jid { j with hold := none }
    if ha % 0x200000 != 0 || hs < 2 ^ 26 || 2 ^ 30 < hs || ha + hs > 2 ^ 41 || !(m.mapped (m.jobPart j) ha hs) ||
        !(m0.freeRun none ha hs) || !(m.ownsRun h ha hs) || !(m.mapped (m.jobPart j) da (64 * n)) then refuse m 3
    else
      match m.daGet (m.jobPart j) da (64 * n) with
      | (_, none) => refuse m 3
      | (m', some b) =>
        let rs := (List.range n).map (fun i => bytesAt b (64 * i) 64)
        if !(rs.all (planOk j)) then refuse m 3
        else ok (m'.updJob jid (fun j => { j with plan := rs.map planRec, hold := some (BitVec.ofNat 56 ha, hs) })) [])

def execCollectivePlan (h : Hdr) (p : Payload) : State → Host.Outcome State Fault Refusal :=
  onMain (fun m => m.command 0x0812 h p [(0, 6), (8, 24)] (Main.collPlan h p) (owned := m.ownsJob h.src (bvAt p 0 4)))

/-- COLLECTIVE_STATUS, 0x0813 (R299; the layout of its response is log 84). -/
def execCollectiveStatus (h : Hdr) (p : Payload) : State → Host.Outcome State Fault Refusal :=
  onMain (fun m => m.command 0x0813 h p [] (fun m =>
    ok m [(0, 4, m.fab.epoch.toNat), (4, 4, m.fab.seq.toNat), (8, 4, (m.jobs.map (fun e => e.2.colls.length)).sum),
          (12, 4, m.fab.lastAbort.1.toNat), (16, 1, m.fab.lastAbort.2)]) (reads := true))

/-- REISSUE_REDUCTION, 0x0814 (R22, R269, R292, R299): an aborted reduction waits again for a place in flight, with the contribution that the
module has kept or, for a step that it has decided, with that verdict. -/
def Main.reissue (p : Payload) (m : Main) : Reply :=
  let jid := bvAt p 0 4
  let code := bvAt p 4 1
  let step : U32 := p.extractLsb' 64 32
  if code < 3 || 5 < code then reject m 2
  else
    match m.job? jid with
    | none => refuse m 1
    | some j =>
      let decided : Bool := code = 5 && j.decided.any (fun d => d.1 = step)
      if !decided && (j.aborted.all (fun a => a.2 != code) || !j.stepOpen || step != j.step) then refuse m 3
      else
        let k : CollKind := if code = 3 then .scale else if code = 4 then .calipers else .verdict
        ok ((m.setJob jid { j with
          aborted := j.aborted.filter (fun a => a.2 != code)
          redo := j.redo ++ [(k, step)] }).pumpColls jid) []

def execReissueReduction (h : Hdr) (p : Payload) : State → Host.Outcome State Fault Refusal :=
  onMain (fun m => m.command 0x0814 h p [(0, 5), (8, 4)] (Main.reissue p) (owned := m.ownsJob h.src (bvAt p 0 4)))

/-- SET_INBOUND_MAP_ENTRY, 0x0820 (R288). -/
def Main.setInmap (p : Payload) (m : Main) : Reply :=
  let e := bvAt p 0 1
  let f := bvAt p 1 1
  let base := bvAt p 8 8
  if e > 15 || f > 31 || !(base = pinBase || (base % 2 ^ 36 = 0 && base < 2 ^ 41)) then reject m 2
  else
    let x : InEntry :=
      { valid := f % 2 = 1, write := f / 2 % 2 = 1, redg := f / 4 % 2 = 1, part := BitVec.ofNat 2 (f / 8), base := BitVec.ofNat 56 base }
    ok { m with fab := { m.fab with inmap := m.fab.inmap.put e x } } []

def execSetInboundMapEntry (h : Hdr) (p : Payload) : State → Host.Outcome State Fault Refusal :=
  onMain (fun m => m.command 0x0820 h p [(0, 2), (8, 8)] (Main.setInmap p)
    (owned := !m.partOn || (m.owns h.src (bvAt p 1 1 / 8 % 4) &&
      (!((m.fab.inmap.get (bvAt p 0 1)).valid) || m.owns h.src (m.fab.inmap.get (bvAt p 0 1)).part.toNat))))

end Sys2Proof.Machine
end

