-- ==== Sys2Proof/Machine/Cxl.lean ====
section
/-! DEFINITION. CXL links, the slow-tier map, host ranges, and requests of tiles on port B (R304–R313). -/

namespace Sys2Proof.Machine

/-! ### Links -/

/-- Number of a mode in events and responses: the rows of R307 from 1, 0 for a port that is down (log 87). -/
def modeNum : LinkMode → Nat
  | .down => 0 | .cxl31 => 1 | .cxl30 => 2 | .cxl20 => 3 | .cxl11 => 4 | .pcie6 => 5 | .pcie5 => 6 | .pcie4 => 7

/-- Updates port B when `b`, else port A. -/
def Cxl.upd (c : Cxl) (b : Bool) (f : CxlPort → CxlPort) : Cxl := if b then { c with b := f c.b } else { c with a := f c.a }

/-- A request of a tile on a port ends with an error (R309, R312, R313). -/
def Req.portError (r : Req) : Req :=
  if r.served.length ≥ r.lines && !r.put then r else { r with bad := true, put := false, err := if r.kind = .load then 0 else 0x6102 }

/-- Every request of a tile on port A or B ends with an error (R309, R313). -/
def Main.failPort (m : Main) (b : Bool) : Main :=
  { m with tile := m.tile.map (fun (e : Nat × Tile) => (e.1, { e.2 with slots := e.2.slots.map (fun (s : Nat × Req) =>
      (s.1, if s.2.target = (if b then .slow else .host) then s.2.portError else s.2)) })) }

/-- An IDE stream of a port leaves the secure state (R441): `mem` for CXL.cachemem, else the selective stream. A stream that some
sealed partition requires logs event 0x7202, with the lowest such partition (log 113). -/
def Main.ideLost (m : Main) (b mem : Bool) : Main :=
  let c := if b then m.cxl.b else m.cxl.a
  let was : Bool := if mem then c.ideMem else c.ideIo
  let needs (p : Nat) : Bool := m.partOn && m.sealed p && (if b then mem && (m.partAt p).size != 0 else !mem || !m.cxl.a.pcie)
  let m := { m with cxl := m.cxl.upd b (fun c => if mem then { c with ideMem := false } else { c with ideIo := false }) }
  match was, m.variant.parts.find? needs with
  | true, some p => m.log! { code := 0x7202, cls := .rec_, par := p1 p }
  | _, _ => m

/-- Host offsets at which a host physical address is mapped (R310). -/
def Main.hostOffs (m : Main) (hpa : Nat) : List Nat :=
  (List.range 4).filterMap (fun k =>
    let e := m.cxl.host.get k
    if e.1 ≤ hpa && hpa < e.1 + e.2 then some (((List.range k).map (fun i => (m.cxl.host.get i).2)).sum + (hpa - e.1)) else none)

/-- HOST_SNOOP (R306, R320, R321): answered without data; 0 RspIHitI, 1 RspSHitSE, 2 RspIHitSE (log 88). -/
def Main.snoop (m : Main) (op : SnoopOp) (hpa : Nat) : Main :=
  if !m.cxl.a.cxl then m
  else
    let line := hpa / 64 * 64
    let offs := m.hostOffs line
    let held := m.region.any (fun e => e.2.st != .free && e.2.st != .writing && e.2.st != .stored && offs.any (fun o => overlap o 64 e.2.hoff e.2.len))
    if op = .inv then (offs.foldl (fun m o => m.tearRange o 64) m).send (.snoop (if held then 2 else 0))
    else m.send (.snoop (if held then 1 else 0))

def execHostSnoop (op : SnoopOp) (hpa : U64) : State → Host.Outcome State Fault Refusal := onMain (fun m => m.snoop op hpa.toNat)

/-! ### Requests of tiles to the slow tier -/

/-- The transactions of a tile's request on port B have ended: it is carried out, or ends with an error (R312, R313, R324). One that comes
after an older request in program order waits for it (R65). -/
def Main.slowReq (m : Main) (id : Nat) (r : Req) (poison fails : Bool) : Main × Req :=
  let n := 128 * r.lines
  let o := slowOff r.da.toNat
  if fails || !(m.bServes (m.diePartOf (id / 512))) then (m, r.portError)
  else if r.put then (m, { r with put := false })
  else if (List.range r.lines).any (fun i => m.heldBack id r (r.lineDa i)) then (m, r)
  else if r.kind = .load then
    match m.slowGet o n with
    | (m, some b) =>
      (m, { r with bad := r.bad || poison, served := List.range r.lines,
                   got := (List.range r.lines).map (fun i => (i, bvOf 1024 (bytesAt b (128 * i) 128))) })
    | (m, none) => (m, { r with bad := true })
  else (m.slowPut o r.body, { r with served := List.range r.lines })

/-- A tile's slot meets the end of its transactions on port B, once the port carries them (R312). -/
def Main.slowEnd (m : Main) (id slot : Nat) (poison fails : Bool) : Main :=
  match (m.tileAt id).slots.find slot with
  | none => m
  | some r =>
    if !r.onSlow || !(m.slowLive (.tile id slot)) then m
    else
      let (m, r) := m.slowReq id r poison fails
      (m.updTile id (fun t => { t with slots := t.slots.put slot r })).slowAdmit

/-- SLOW_TIER_TRANSACTION_COMPLETE (R312). -/
def execSlowTierTransactionComplete (t : TileRef) (slot : Fin 64) (poison : Bool) : State → Host.Outcome State Fault Refusal :=
  onMain (fun m => m.slowEnd t.id slot.val poison false)

/-- SLOW_TIER_TRANSACTION_TIMEOUT (R312). -/
def execSlowTierTransactionTimeout (t : TileRef) (slot : Fin 64) : State → Host.Outcome State Fault Refusal :=
  onMain (fun m => m.slowEnd t.id slot.val false true)

/-! ### The slow-tier map -/

/-- One range of the slow-tier map table (R311). -/
def slowRange (b : List Byte) : SlowRange :=
  { gib := natAt b 0 4, ways := natAt b 4 1, dev := (List.range (natAt b 4 1)).map (fun i => natAt b (8 + i) 1) }

/-- A range record is well formed, its devices aside (R311). -/
def slowRangeOk (b : List Byte) : Bool :=
  let w := natAt b 4 1
  1 ≤ natAt b 0 4 && [1, 2, 4, 8].contains w && zeroAt b 5 3 && (List.range 8).all (fun i => i < w || natAt b (8 + i) 1 = 0xFF)

/-- SET_SLOW_TIER_MAP, 0x0360 (R311, R327): what an offset holds under a different map is undefined (log 89). -/
def Main.setSlowMap (h : Hdr) (p : Payload) (m : Main) : Reply :=
  let n := bvAt p 0 1
  let da := bvAt p 8 8
  if m.jobs != [] then refuse m 1
  else if !(Src.operator h.src) || !(m.ownsRun h da (16 * n)) then refuse m 5
  else if n = 0 || 8 < n || !(m.mapped 4 da (16 * n)) then refuse m 2
  else if !m.cxl.b.cxl then refuse m 4
  else
    match m.daGet 4 da (16 * n) with
    | (_, none) => refuse m 2
    | (m', some b) =>
      let rs := (List.range n).map (fun i => bytesAt b (16 * i) 16)
      let map := rs.map slowRange
      if !(rs.all slowRangeOk) || (map.map (·.gib)).sum > 16384 then refuse m 2
      else if map.any (fun r => r.dev.any (fun d => m.cxl.devs.length ≤ d)) then refuse m 4
      else
        let m := m'
        let m : Main := if map = m.cxl.map then m else { m with
          cxl := { m.cxl with map := map }
          mem := { m.mem with slow := m.mem.slow.forget 0 (2 ^ 44) m.mem.stamp, stamp := m.mem.stamp + 1 } }
        ok (m.log! { code := 0x6101, cls := .rec_, par := p1 1 }) [(8, 8, m.slowSize)]

def execSetSlowTierMap (h : Hdr) (p : Payload) : State → Host.Outcome State Fault Refusal :=
  onMain (fun m => m.command 0x0360 h p [(0, 1), (8, 8)] (fun m => fillRefused (fun m => [(8, 8, m.slowSize)]) (Main.setSlowMap h p m)))

/-- Enumerates port B's hierarchy: what lies below the port is outside the module (R311; log 90). -/
def Main.enumerate (m : Main) : Main :=
  if !m.cxl.b.cxl then m
  else
    let l := (Config.devices m.draws).take 16
    { m.draw with cxl := { m.cxl with devs := l } }

/-- SLOW_TIER_DEVICE, 0x0361 (R311, R327). -/
def Main.slowDevice (h : Hdr) (p : Payload) (m : Main) : Reply :=
  let i := bvAt p 0 1
  let again := bvAt p 1 1 = 1
  if bvAt p 1 1 > 1 then reject m 2
  else if !(Src.operator h.src) then refuse m 5
  else if !m.cxl.b.cxl then refuse m 4
  else
    let m := if again then m.enumerate else m
    let f := [(1, 1, m.cxl.devs.length), (2, 1, modeNum m.cxl.b.mode), (3, 1, m.cxl.b.width.toNat), (8, 2, m.slowOutstanding)]
    if m.cxl.devs.length ≤ i then (m, if again then 0 else 3, payload ((0, 1, 4) :: f))
    else ok m ((4, 4, m.cxl.devs.getD i 0) :: f)

def execSlowTierDevice (h : Hdr) (p : Payload) : State → Host.Outcome State Fault Refusal :=
  onMain (fun m => m.command 0x0361 h p [(0, 2)] (Main.slowDevice h p))

/-- SET_HOST_RANGE, 0x0362 (R310, R327). -/
def Main.setHostRange (h : Hdr) (p : Payload) (m : Main) : Reply :=
  let k := bvAt p 0 1
  let base := bvAt p 8 8
  let size := bvAt p 16 8
  let others := (List.range 4).filter (· != k)
  let total := (others.map (fun i => (m.cxl.host.get i).2)).sum + size
  if m.jobs != [] || m.eng.any (fun e => e.2.en) then refuse m 1
  else if !(Src.operator h.src) then refuse m 5
  else if k > 3 || base % 4096 != 0 || size % 4096 != 0 || base + size > 2 ^ 64 || total > 2 ^ 44 then refuse m 2
  else if others.any (fun i => overlap base size (m.cxl.host.get i).1 (m.cxl.host.get i).2) then refuse m 3
  else
    let m := { m with cxl := { m.cxl with host := if size = 0 then m.cxl.host.del k else m.cxl.host.put k (base, size) } }
    ok m [(8, 8, m.hostSize)]

def execSetHostRange (h : Hdr) (p : Payload) : State → Host.Outcome State Fault Refusal :=
  onMain (fun m => m.command 0x0362 h p [(0, 1), (8, 16)] (fun m => fillRefused (fun m => [(8, 8, m.hostSize)]) (Main.setHostRange h p m)))

end Sys2Proof.Machine
end

