-- ==== Sys2Proof/Machine/Tailstock.lean ====
section
/-! DEFINITION. The Tailstock: its area, records, leases, tags and signals (R314–R324, R327). -/

namespace Sys2Proof.Machine

/-- SET_TAILSTOCK_AREA, 0x0363 (R319, R327): 256 MiB that only the Tailstock writes. -/
def Main.setTailArea (h : Hdr) (p : Payload) (m : Main) : Reply :=
  let jid := bvAt p 0 4
  let da := bvAt p 8 8
  let n := 2 ^ 28
  match m.job? jid with
  | none => refuse m 1
  | some j =>
    let drop : Main := { m with hbm := m.hbm.map (fun (s : Nat × Stack) => (s.1, { s.2 with region := s.2.region.del (256 + jid) })) }
    if !(m.ownsJob h.src jid) || !(m.ownsRun h da n) then refuse m 5
    else if da % 0x200000 != 0 || da + n > 2 ^ 41 || !(m.mapped (m.jobPart j) da n) then refuse m 2
    else if !(drop.freeRun none da n) then refuse m 3
    else
      let m := drop.updHbm (da / 2 ^ 37) (fun s => { s with region := s.region.put (256 + jid) (da % 2 ^ 37, n) })
      ok ((m.forgetRun da n).updJob jid (fun j => { j with area := some (BitVec.ofNat 56 da) })) []

def execSetTailstockArea (h : Hdr) (p : Payload) : State → Host.Outcome State Fault Refusal :=
  onMain (fun m => m.command 0x0363 h p [(0, 4), (8, 8)] (Main.setTailArea h p))

/-- TAILSTOCK_STATUS, 0x0364 (R327). -/
def Main.tailStatus (p : Payload) (m : Main) : Reply :=
  let jid := bvAt p 0 4
  match m.job? jid with
  | none => refuse m 1
  | some j =>
    let mine (e : Nat × Region) : Bool := (diesOf j.dies).contains (e.1 / 1024)
    ok m [(2, 2, (m.region.filter (fun e => mine e && e.2.st = .leased)).length),
          (4, 2, (m.region.filter (fun e => mine e && e.2.st = .torn)).length),
          (6, 2, (m.tail.filter (fun t => t.job.toNat = jid && t.started)).length),
          (8, 4, j.refetches.toNat), (12, 4, j.tears.toNat), (16, 4, j.dropped.toNat)]

def execTailstockStatus (h : Hdr) (p : Payload) : State → Host.Outcome State Fault Refusal :=
  onMain (fun m => m.command 0x0364 h p [(0, 4)] (Main.tailStatus p) (reads := true)
    (owned := m.ownsJob h.src (bvAt p 0 4)))

/-! ### Records -/

/-- Module-wide number of a record's region (R314, R320). -/
def TailRun.key (t : TailRun) : Nat := t.die * 1024 + t.rec_.region.toNat

/-- A record is through: its signal is given, held or dropped (R316). -/
def Main.tailSignal (m : Main) (t : TailRun) : Main :=
  let r := t.rec_
  let jid := t.job.toNat
  if !r.signal then m
  else
    match m.job? jid with
    | none => m
    | some j =>
      let v := m.dieAt t.die
      let here : Bool := v.run.any (fun b => b.section_ = r.section_)
      let id := t.die * 512 + r.tile.toNat
      if v.job = t.job && here && (v.st = .running || v.st = .ending) then m.addSignal id r.wc
      else if v.job = t.job && !(j.gone.contains (t.die, r.section_)) && !(here && (v.st = .faulted || v.st = .forcing)) then
        m.setJob jid { j with signals := j.signals ++ [(BitVec.ofNat 11 id, r.wc, r.section_)] }
      else
        let n := satAdd j.dropped 1
        (m.setJob jid { j with dropped := n }).log!
          { code := 0x6204, cls := .rec_, die := some t.die, step := m.jobStep jid, par := p4 jid ++ p4 n.toNat }

/-- The started record of a region leaves the list, and its signal is given where it completed (R315, R316). -/
def Main.tailDone (m : Main) (t : TailRun) (signal : Bool) : Main :=
  let m := { m with tail := m.tail.filter (fun x => !(x.started && x.key = t.key)) }
  if signal then m.tailSignal t else m

/-- The started record of region `r` with operation `op`. -/
def Main.tailOf (m : Main) (r op : Nat) : Option TailRun := m.tail.find? (fun t => t.started && t.key = r && t.rec_.op.toNat = op)

/-- A waiting record may start: fewer than 16 run, and no earlier record of its region is left (R315). -/
def Main.tailMay (m : Main) (i : Nat) : Bool :=
  match m.tail[i]? with
  | none => false
  | some t => !t.started && !((m.tail.take i).any (fun x => x.key = t.key))

/-- A record whose request ended with an error, or that may not write its target, ends with an error status: nothing is signalled, and an
off-load leaves its region Free, a fetch the region as it was (R169, R180, R309; DESIGN CHOICE, log 93). -/
def Main.tailError (m : Main) (t : TailRun) : Main :=
  let back (x : Region) : Region :=
    { x with
      st := if t.rec_.op.toNat = 1 then .free else if x.tornNow then .torn else if m.cxl.a.pcie then .stored else .leased
      tornNow := false
      err := true }
  (m.updRegion t.key back).tailDone t false

/-- What a record does as it starts (R315, R320, R321); a release gives the lease up line by line (R304, R320). -/
def Main.tailBegin (m : Main) (t : TailRun) : Main :=
  let r := t.rec_
  if r.op.toNat = 1 then
    m.updRegion t.key (fun x => { st := .writing, tornNow := false, gen := x.gen + 1, hoff := r.hoff, len := r.len })
  else if r.op.toNat = 2 then
    m.updRegion t.key (fun x => { x with st := .fetching, tornNow := x.st = .torn, err := false })
  else (m.freeRegion t.key).tailDone t true

/-- TAILSTOCK_RECORD_START (R315): records start in the order in which they were triggered. -/
def Main.tailStart (m : Main) (i : Nat) : Main :=
  if (m.tail.filter (·.started)).length ≥ 16 || !(m.tailMay i) || (List.range i).any m.tailMay then m
  else
    let m := { m with tail := m.tail.mapIdx (fun k (t : TailRun) => if k = i then { t with started := true } else t) }
    match m.tail[i]? with
    | some t => m.tailBegin t
    | none => m

def execTailstockRecordStart (i : Nat) : State → Host.Outcome State Fault Refusal := onMain (fun m => m.tailStart i)

/-! ### Tags and transfers -/

/-- The job belongs to a tenant's sealed partition: its host copies are encrypted (R323, R324). -/
def Main.tailSealed (m : Main) (j : Job) : Option Nat := j.tenant.bind (fun p => if m.sealed p.toNat then some p.toNat else none)

/-- The Tailstock key of a job (R323, R437). -/
def Main.tailKey (m : Main) (jid : Nat) (j : Job) : List Byte :=
  match m.tailSealed j with
  | some p => Config.shake256 (textBytes "VLN-TAIL" ++ m.dataKey p ++ p4 jid ++ p8 (j.key.getD 0)) 32
  | none => bvBytes (Config.random (j.key.getD 0)) 32

/-- Stored form and tag of one 4 KiB block of a host copy (R323): ciphertext under sealed tenancy, else the plaintext under GMAC. -/
def tailSeal (sealed : Bool) (key nonce aad plain : List Byte) : List Byte × BitVec 128 :=
  if sealed then
    let c := gcmXor key nonce plain
    (c, Config.gcmTag key nonce aad c)
  else (plain, Config.gcmTag key nonce (aad ++ plain) [])

/-- Tag of a stored block as the Tailstock checks it, with its plaintext. -/
def tailOpen (sealed : Bool) (key nonce aad stored : List Byte) : List Byte × BitVec 128 :=
  if sealed then (gcmXor key nonce stored, Config.gcmTag key nonce aad stored)
  else (stored, Config.gcmTag key nonce (aad ++ stored) [])

/-- Address of a block's tag in the job's area (R319). -/
def Job.tagDa (j : Job) (r b : Nat) : Nat := (j.area.map (·.toNat)).getD 0 + 65536 * r + 16 * b

/-- Writes the blocks and tags of an off-load (R315, R319, R323); false where a block could not be read or written (R169). -/
def Main.offload (m : Main) (t : TailRun) : Main × Bool :=
  match m.job? t.job.toNat with
  | none => (m, false)
  | some j =>
    let p := m.diePartOf t.die
    let g := m.regionAt t.key
    let key := m.tailKey t.job.toNat j
    (List.range (t.rec_.len / 4096)).foldl (fun (acc : Main × Bool) b =>
      match acc with
      | (m, false) => (m, false)
      | (m, true) =>
        match m.daGet p (t.rec_.da.toNat + 4096 * b) 4096 with
        | (m, none) => (m, false)
        | (m, some plain) =>
          let h := t.rec_.hoff + 4096 * b
          let (c, tag) := tailSeal (m.tailSealed j).isSome key (nonce96 t.key g.gen b) (p8 h) plain
          match m.daPut p (hostBase + h) c with
          | (m, false) => (m, false)
          | (m, true) =>
            let a := j.tagDa t.key b
            (m.hbmPut (m.payPart p a) a (bvBytes tag 16), true)) (m, true)

/-- OFFLOAD_WRITES_COMPLETE (R304, R308, R320): the read-back starts with RdShared for each line; under plain PCIe there is none, and the
off-load is complete without a lease. -/
def Main.offloadWritten (m : Main) (r : Nat) : Main :=
  match m.tailOf r 1 with
  | none => m
  | some t =>
    if t.written then m
    else
      match m.offload t with
      | (m, false) => m.tailError t
      | (m, true) =>
        if m.cxl.a.pcie then (m.updRegion r (fun x => { x with st := .stored })).tailDone t true
        else
          { m with tail := m.tail.map (fun (x : TailRun) => if x.started && x.key = r then { x with written := true } else x) }.d2h
            .rdShared t.rec_.hoff t.rec_.len

def execOffloadWritesComplete (r : BitVec 12) : State → Host.Outcome State Fault Refusal := onMain (fun m => m.offloadWritten r.toNat)

/-- LEASE_READBACK_COMPLETE (R320). -/
def Main.leaseDone (m : Main) (r : Nat) : Main :=
  match m.tailOf r 1 with
  | some t => if t.written then (m.updRegion r (fun x => { x with st := .leased })).tailDone t true else m
  | none => m

def execLeaseReadbackComplete (r : BitVec 12) : State → Host.Outcome State Fault Refusal := onMain (fun m => m.leaseDone r.toNat)

/-- A record's fault: the blank of its die, or the event alone where no blank is left to fault, with discard where the record's blank took
part in training (R20, R31, R321). -/
def Main.tailFault (m : Main) (t : TailRun) (code : Nat) : Main :=
  let v := m.dieAt t.die
  let par := p2 t.rec_.region.toNat
  if v.st = .idle || v.st = .faulted || v.st = .forcing then
    let m := m.log! { code := code, cls := .flt, die := some t.die, step := m.jobStep t.job.toNat, par := par }
    if t.training then m.trip t.job.toNat 8 else m
  else m.blankFault t.die code par (t.die * 512) 0 0

/-- The host copy of a record's region can be read, and its target may be written by the Tailstock (R169, R180). -/
def Main.fetchOk (m : Main) (t : TailRun) : Bool :=
  let p := m.diePartOf t.die
  let a := t.rec_.da.toNat
  m.aServes p && m.mapped p (hostBase + t.rec_.hoff) t.rec_.len && (m.hostBytes t.rec_.hoff t.rec_.len).isSome &&
    m.mapped p a t.rec_.len && !(m.inRegion a t.rec_.len)

/-- Reads and checks the blocks of a host copy; none where a tag does not check (R321, R323). -/
def Main.fetchBlocks (m : Main) (t : TailRun) (j : Job) : Option (List Byte) :=
  let g := m.regionAt t.key
  let key := m.tailKey t.job.toNat j
  (List.range (t.rec_.len / 4096)).foldl (fun (acc : Option (List Byte)) b =>
    let h := t.rec_.hoff + 4096 * b
    match acc, m.hostBytes h 4096, m.hbmGet (m.payPart (m.diePartOf t.die) (j.tagDa t.key b)) (j.tagDa t.key b) 16 with
    | some l, some c, (_, tag, false) =>
      let (plain, want) := tailOpen (m.tailSealed j).isSome key (nonce96 t.key g.gen b) (p8 h) c
      if want = bvOf 128 tag then some (l ++ plain) else none
    | _, _, _ => none) (some [])

/-- TAILSTOCK_FETCH_COMPLETE (R321): a fetch has read the host copy with RdCurr, a refetch with RdShared, which takes the lease anew (R304). -/
def Main.fetchDone (m : Main) (r : Nat) : Main :=
  match m.tailOf r 2 with
  | none => m
  | some t =>
    let g := m.regionAt r
    let jid := t.job.toNat
    let m := m.d2h (if g.st = .refetching then .rdShared else .rdCurr) g.hoff g.len
    if g.st = .refetching && g.tornNow then
      ((m.updRegion r (fun x => { x with st := .torn, tornNow := false })).tailDone t false).tailFault t 0x6201
    else if g.tornNow then
      let m := (m.updRegion r (fun x => { x with st := .refetching, tornNow := false })).updJob jid (fun j => { j with refetches := j.refetches + 1 })
      m.logOnce jid 0 { code := 0x6203, cls := .adv, par := p4 jid ++ p4 (((m.job? jid).map (·.refetches.toNat)).getD 0) }
    else if !(m.fetchOk t) then m.tailError t
    else
      let done : RegionSt := if m.cxl.a.pcie then .stored else .leased
      match (m.job? jid).bind (m.fetchBlocks t) with
      | none => ((m.updRegion r (fun x => { x with st := done })).tailDone t false).tailFault t 0x6202
      | some l =>
        let m := ((m.daPut (m.diePartOf t.die) t.rec_.da.toNat l).1).updRegion r (fun x => { x with st := done })
        (if t.rec_.release then m.freeRegion r else m).tailDone t true

def execTailstockFetchComplete (r : BitVec 12) : State → Host.Outcome State Fault Refusal := onMain (fun m => m.fetchDone r.toNat)

end Sys2Proof.Machine
end

