-- ==== Sys2Proof/Machine/CopyEng.lean ====
section
/-! DEFINITION. The copy engines: commits, rings and descriptors (R325, R326, R446). -/

namespace Sys2Proof.Machine

def Main.engAt (m : Main) (e : Nat) : Engine := m.eng.get e
def Main.updEng (m : Main) (e : Nat) (f : Engine → Engine) : Main := { m with eng := m.eng.upd e f }

/-- The engine is stopped (R325). -/
def Engine.stopped (x : Engine) : Bool := (!x.en || x.halt) && x.inflight = 0

/-- Its staged BASE or SIZE differs from the one in force. -/
def Engine.moved (x : Engine) : Bool := x.stBase != x.base || x.stSize != x.size

/-- The engine's staged values break a rule of R325. -/
def Main.engBad (m : Main) (e : Nat) : Bool :=
  let x := m.engAt e
  12 ≤ x.stSize.toNat || (x.stEn && m.partOn && m.sealed (m.variant.engPart e)) || (x.moved && !x.stopped)

/-- The transactions of a descriptor in flight have ended, or port B carries them (R309, R312). -/
def Main.copyLive (m : Main) (e i : Nat) : Bool :=
  (m.engAt e).cut.contains i || !(m.copyOn e i Rng.isSlow) || m.slowLive (.copy e i)

/-- Starts descriptors in ring order, at most 4 in flight; one that waits starts only when no earlier one is in flight (R326). -/
def Main.copyPump (m : Main) (e : Nat) : Nat → Main
  | 0 => m.slowAdmit
  | k + 1 =>
    let x := m.engAt e
    let i := (x.head.toNat + x.inflight) % x.ring
    if !x.en || x.halt || x.inflight ≥ 4 || i = x.tail.toNat % x.ring then m.slowAdmit
    else
      let waits : Bool := match m.copyDesc e i with
        | some d => natAt d 20 2 / 2 % 2 = 1
        | none => false
      if waits && x.inflight != 0 then m.slowAdmit
      else (m.updEng e (fun x => { x with inflight := x.inflight + 1 })).copyPump e k

/-- Puts an engine's staged values in force (R325). -/
def Engine.commit (x : Engine) : Engine :=
  { x with
    base := x.stBase
    size := x.stSize
    en := x.stEn
    vec := x.stVec
    head := if x.moved then 0 else x.head
    tail := if x.moved then 0 else x.tail
    halt := x.halt && !x.moved && !x.stEn }

/-- A commit of the copy-engine block: all eight engines or none (R325). -/
def Main.copyCommit (m : Main) : Main :=
  match (List.range 8).find? m.engBad with
  | some e => { m with ectl := { m.ectl with rej := true, who := BitVec.ofNat 4 e } }
  | none =>
    let m := (List.range 8).foldl (fun m e => m.updEng e Engine.commit) m
    let m := { m with ectl := { m.ectl with rej := false, gen := m.ectl.gen + 1 } }
    (List.range 8).foldl (fun m e => m.copyPump e 4) m

/-- A write to the copy-engine control register: REJ is W1C, then COMMIT (R325). -/
def Main.copyCtl (m : Main) (v : U64) : Main :=
  let m := if v.getLsbD 1 then { m with ectl := { m.ectl with rej := false } } else m
  if v.getLsbD 0 then m.copyCommit else m

/-- COPY_ENGINE_COMMIT (R325). -/
def execCopyEngineCommit (v : U64) : State → Host.Outcome State Fault Refusal := onMain (fun m => m.copyCtl (v ||| 1))

/-- COPY_ENGINE_TAIL_WRITE (R325). -/
def execCopyEngineTailWrite (e : Fin 8) (v : U64) : State → Host.Outcome State Fault Refusal :=
  onMain (fun m => (m.updEng e.val (fun x => { x with tail := v.extractLsb' 0 16 })).copyPump e.val 4)

/-! ### Descriptors -/

/-- A run reaches a memory stack's base-die area (R170). -/
def Main.inBaseDie (m : Main) (a n : Nat) : Bool :=
  (List.range m.variant.stacks).any (fun s => overlap a n (s * 2 ^ 37 + 0x1FF8000000) 0x8000000)

/-- Node of a peer-window address that names a member (R171). -/
def Main.peerNode (m : Main) (a n : Nat) : Option Nat :=
  match m.rng a with
  | .peer k off =>
    if off + n ≤ 2 ^ 40 && (m.fab.node = some (BitVec.ofNat 15 k) || m.fab.member.get k = 2) then some k else none
  | _ => none

/-- The port that an address needs does not serve the partition (R312, R313, R441). -/
def Main.portFails (m : Main) (p a : Nat) : Bool :=
  match m.rng a with
  | .host _ => !(m.aServes p)
  | .slow _ => !(m.bServes p)
  | _ => false

/-- Status that refuses a descriptor, 1 when none does (R326; log 91). -/
def Main.copyCheck (m : Main) (p : Nat) (d : List Byte) : Nat :=
  let src := natAt d 0 8
  let dst := natAt d 8 8
  let len := natAt d 16 4
  let reach (a : Nat) : Bool := m.mapped p a len || (m.peerNode a len).isSome
  if natAt d 20 2 ≥ 8 || !(zeroAt d 22 2) || !(zeroAt d 25 3) || len = 0 || 2 ^ 30 < len || len % 64 != 0 then 6
  else if m.inRegion dst len || m.inBaseDie dst len || (!(reach dst) && m.mapped 4 dst len) then 4
  else if !(reach src) || !(reach dst) then 2
  else if m.portFails p src || m.portFails p dst then 5
  else 1

/-- Reads 64 bytes for a copy engine; what another module's window holds is a free value (log 92). -/
def Main.copyRead (m : Main) (p a : Nat) : Main × Option (List Byte) :=
  match m.rng a with
  | .peer k off =>
    if m.fab.node = some (BitVec.ofNat 15 k) then
      match m.inbound 1 p off 64 [] with
      | (m, 0, b) => (m, some b)
      | (m, _, _) => (m, none)
    else (m.draw, some ((List.range 64).map (fun i => Config.freeByte m.draws i)))
  | _ => m.daGet p a 64

/-- Writes 64 bytes for a copy engine; a write to another module leaves as a packet (R280). -/
def Main.copyWrite (m : Main) (p a : Nat) (l : List Byte) : Main :=
  match m.rng a with
  | .peer k off =>
    if m.fab.node = some (BitVec.ofNat 15 k) then (m.inbound 2 p off 64 l).1
    else
      let h : Hd := { dst := k, src := (m.fab.node.getD 0).toNat, part := p, len := 64, epoch := m.fab.epoch, op := 2, tag := m.freeTag,
                      off := BitVec.ofNat 64 off }
      let second := h.second
      let (m, h, l) := m.tenWrap h l
      match m.sendPacket h l second with
      | (m, true) => { m with fab := { m.fab with copies := m.fab.copies ++ [h.tag] } }
      | (m, false) => m
  | _ => (m.daPut p a l).1

/-- Copies 64-byte lines until one is poisoned: the state and the lines copied. -/
def Main.copyLines (m : Main) (p src dst n : Nat) : Main × Nat :=
  let r := (List.range n).foldl (fun (acc : Main × Nat × Bool) i =>
    if !acc.2.2 then acc
    else
      match acc.1.copyRead p (src + 64 * i) with
      | (m, some b) => (m.copyWrite p (dst + 64 * i) b, acc.2.1 + 1, true)
      | (m, none) => (m, acc.2.1, false)) (m, 0, true)
  (r.1, r.2.1)

/-- A destination that overlaps its source has undefined contents (R326). -/
def Main.forgetAny (m : Main) (a n : Nat) : Main :=
  let st := m.mem.stamp
  match m.rng a with
  | .hbm _ _ => m.forgetRun a n
  | .pin _ _ => { m with mem := { m.mem with pin := m.mem.pin.forget (a - pinBase) n st, stamp := st + 1 } }
  | .slow o => { m with mem := { m.mem with slow := m.mem.slow.forget o n st, stamp := st + 1 } }
  | .host o =>
    match m.hostAt o with
    | some (_, h) => { m with mem := { m.mem with host := m.mem.host.forget h n st, stamp := st + 1 } }
    | none => m
  | _ => m

/-- Carries out a descriptor: the state, its status and the bytes done (R326). Where `fail` names the status of a timeout, of a port that
went down or of poison from a device, the bytes done are a free value. -/
def Main.copyRun (m : Main) (e : Nat) (d : List Byte) (fail : Option Nat) : Main × Nat × Nat :=
  let p := m.engPartOf e
  let src := natAt d 0 8
  let dst := natAt d 8 8
  let n := natAt d 16 4 / 64
  let st := m.copyCheck p d
  if st != 1 && !(fail = some 5 && st = 5) then (m, st, 0)
  else
    match fail with
    | some f =>
      let k := (Config.random m.draws).toNat % n
      let (m, done) := m.draw.copyLines p src dst k
      (m, f, 64 * done)
    | none =>
      let (m, done) := m.copyLines p src dst n
      if done < n then (m, 3, 64 * done)
      else (if overlap src (64 * n) dst (64 * n) then m.forgetAny dst (64 * n) else m, 1, 64 * n)

/-- COPY_DESCRIPTOR_COMPLETE (R309, R312, R326): the engine's oldest descriptor in flight, once port B carries it where it reaches the
slow tier. A descriptor in flight on a port that went down ends as after a timeout (DESIGN CHOICE, log 91). -/
def Main.copyDone (m : Main) (e : Nat) (how : CopyEnd) : Main :=
  let x := m.engAt e
  let i := x.head.toNat % x.ring
  if x.inflight = 0 || !(m.copyLive e i) then m
  else
    let p := m.engPartOf e
    let da := x.desc i
    let fail : Option Nat := if how = .timedOut || x.cut.contains i then some 5 else if how = .poison then some 3 else none
    let (m, st, flags) : Main × Nat × Nat :=
      match m.daGet p da 32 with
      | (m, some d) =>
        let (m, st, done) := m.copyRun e d fail
        (((m.daPut p (da + 24) (p1 st)).1.daPut p (da + 28) (p4 done)).1, st, natAt d 20 2)
      | (m, none) => (m, if m.mapped p da 32 then 3 else 2, 0)
    let bad := st != 1
    let m := m.updEng e (fun x => { x with
      head := BitVec.ofNat 16 ((x.head.toNat + 1) % x.ring)
      inflight := x.inflight - 1
      cut := x.cut.filter (· != i)
      last := BitVec.ofNat 8 st
      halt := x.halt || bad })
    let m := if bad || flags % 2 = 1 then m.send (.msix x.vec) else m
    let m := if bad then m.log! { code := 0x6301, cls := .flt, par := p1 e } else m
    m.copyPump e 4

def execCopyDescriptorComplete (e : Fin 8) (how : CopyEnd) : State → Host.Outcome State Fault Refusal :=
  onMain (fun m => m.copyDone e.val how)

end Sys2Proof.Machine
end

