-- ==== Sys2Proof/Machine/Links.lean ====
section
/-! DEFINITION. CXL links coming up and going down (R307–R309, R313). -/

namespace Sys2Proof.Machine

/-- Under plain PCIe leases do not exist: a region that holds one keeps its host copy without it (R308). -/
def Region.unleased (r : Region) : Region :=
  if r.st = .leased || r.st = .torn then { r with st := .stored, tornNow := false }
  else if r.st = .fetching || r.st = .refetching then { r with tornNow := false } else r

/-- CXL_PORT_LINK_UP (R307, R308): port B programs the decoders from the map in force before it sends a request (R313). -/
def Main.linkUp (m : Main) (b : Bool) (mode : LinkMode) (x16 : Bool) : Main :=
  if mode = .down then m
  else
    let w := if x16 then 16 else 8
    let par := p1 b.toNat ++ p1 (modeNum mode) ++ p1 w
    let m := { m with cxl := m.cxl.upd b (fun c => { c with mode := mode, width := BitVec.ofNat 8 w }) }
    let m : Main := if !b && m.cxl.a.pcie then { m with region := m.region.map (fun (r : Nat × Region) => (r.1, r.2.unleased)) } else m
    let m := m.log! { code := 0x6001, cls := .rec_, par := par }
    if mode = .cxl31 && x16 then m else m.log! { code := 0x6002, cls := .adv, par := par }

def execCxlPortLinkUp (b : Bool) (m : LinkMode) (x16 : Bool) : State → Host.Outcome State Fault Refusal :=
  onMain (fun s => s.linkUp b m x16)

/-- Records of the Tailstock that have started end with an error status as port A goes down (R169, R309). -/
def Main.failTails (m : Main) : Main := (m.tail.filter (·.started)).foldl Main.tailError m

/-- Descriptors in flight that reach memory behind a port, or whose ring lies there, end with an error (R309, R313). -/
def Main.cutCopies (m : Main) (b : Bool) : Main :=
  let hit : Rng → Bool := fun r => match r with
    | .slow _ => b
    | .host _ => !b
    | _ => false
  { m with eng := m.eng.map (fun (e : Nat × Engine) =>
      (e.1, { e.2 with cut := e.2.flying.filter (fun i => e.2.cut.contains i || hit (m.rng (e.2.desc i)) || m.copyOn e.1 i hit) })) }

/-- CXL_PORT_LINK_DOWN (R309, R313, R441): every request outstanding on the port ends with an error, Burnisher fetches under R240. -/
def Main.linkDown (m : Main) (b : Bool) : Main :=
  if (if b then m.cxl.b.mode else m.cxl.a.mode) = .down then m
  else
    let m := (m.ideLost b false).ideLost b true
    let m := if b then m else m.failTails
    let m := m.cutCopies b
    let m := { m with cxl := m.cxl.upd b (fun c => { c with mode := .down, width := 0 }) }
    let m := (m.log! { code := 0x6003, cls := .rec_, par := p1 b.toNat }).failPort b
    if !b then m
    else ((List.range m.variant.stacks).foldl (fun m n => (m.burnAt n).fetch.foldl (fun m f => m.fetchReturn n f.1 true) m) m).slowAdmit

def execCxlPortLinkDown (b : Bool) : State → Host.Outcome State Fault Refusal := onMain (fun m => m.linkDown b)

end Sys2Proof.Machine
end

