-- ==== Sys2Proof/Machine/Beat.lean ====
section
/-! DEFINITION. Operating points, characterised tables, the wear ledger and the Steady Rest (R329–R348). -/

namespace Sys2Proof.Machine

/-- What core `c` does goes undone while it is stopped: the hardware holds the safe state of R387 meanwhile. -/
def byCore (c : Nat) (f : Main → Main) (m : Main) : Main := if (m.core.get c).runs then f m else m

/-! ### Rates -/

/-- Enabled tile IDs of a die, or of one region of it, that are not retired (R332, R485). -/
def Main.liveTiles (m : Main) (d : Nat) (r : Option Nat := none) : List Nat :=
  ((List.range 288).filter (fun c => r.all (· = c / 36))).filterMap (fun c =>
    let id := d * 512 + c / 36 * 64 + c % 36
    if (m.tileAt id).retired then none else some id)

def minOf (l : List Nat) (dflt : Nat) : Nat := l.foldl min (l.headD dflt)
def maxOf (l : List Nat) : Nat := l.foldl max 0

/-- Lowest rate and highest coefficient over tiles at a point (R333). -/
def minTable (ids : List Nat) (p : Nat) : Nat × Nat :=
  (minOf (ids.map (fun id => Config.charRate id p)) 0, maxOf (ids.map (fun id => Config.charCoef id p)))

/-- A tabled rate at a temperature in 0.001 °C, times 10⁹, in M beats/s (R332). -/
def rateAt (rk : Nat × Nat) (t : Int) : Int := (rk.1 : Int) * (1000000000 - (rk.2 : Int) * (t - 60000))

/-- Floor rate of a die at a point and temperature, times 10⁹: its minimum table, and a region's beat monitor where one has fallen
below it (R333, R334). -/
def Main.dieRate (m : Main) (d p : Nat) (t : Int) : Int :=
  ((m.dpAt d).monitor.map (fun (e : Nat × Nat) => (e.2 : Int) * 1000000000)).foldl min (rateAt (minTable (m.liveTiles d) p) t)

/-- T_g in 0.001 °C: the highest trusted junction reading of the last 100 ms plus 10 °C (R342, R362). -/
def Main.tg (m : Main) (d : Nat) : Int :=
  let x := m.dpAt d
  let now := (x.govern.map (·.2)).foldl max ((x.govern.head?.map (·.2)).getD 0)
  ((x.hot.filter (fun e => m.us < e.1 + 100000)).map (·.2)).foldl max now + 10000

/-- The die's floor at point `p` gives at least 1.03 × a pace of `n` × 12.5 M beats/s (R342). -/
def Main.sustains (m : Main) (d n p : Nat) : Bool := decide ((n : Int) * 12875 * 1000000000 ≤ 1000 * m.dieRate d p (m.tg d))

/-- Lowest point that R342 allows for a pace; 7 where no point does. -/
def Main.pacePoint (m : Main) (d n : Nat) : Nat := ((List.range 7).find? (m.sustains d n)).getD 7

/-- Highest point that a paced die may hold (R343). -/
def Main.paceTop (m : Main) (d : Nat) : Nat := if (m.dpAt d).wcap then 4 else 5

/-- Highest pace up to `n` that a point sustains, 80 at the least (R343, R345). -/
def Main.bestPace (m : Main) (d p : Nat) : Nat → Nat
  | 0 => 80
  | n + 1 => if n + 1 ≤ 80 then 80 else if m.sustains d (n + 1) p then n + 1 else m.bestPace d p n

/-- The pace setting in effect on a die: the fallback's, or the Steady Rest setting in force (R345). -/
def Main.paceSet (m : Main) (d : Nat) : Option Nat :=
  let x := m.dpAt d
  if m.pow.x = .fallback then some (m.bestPace d 3 184) else if x.en then some x.pace.toNat else none

/-! ### Selection -/

/-- Ceilings of a die with their sources, in the order of CSRC (R335, R346, R359). -/
def DiePow.ceilings (x : DiePow) (fallback : Bool) : List (BitVec 3 × Csrc) :=
  [(if x.ceilElec < x.ceilCap then x.ceilElec else x.ceilCap, .cap), (x.ceilTherm, .dieTemp), (x.ceilMem, .memTemp),
   (if x.wcap then 4 else 6, .wear), (x.ceilBoost, .boost)] ++ (if fallback then [(3, .fallback)] else [])

/-- The lowest ceiling and its source (R335, R346). -/
def DiePow.ceil (x : DiePow) (fallback : Bool) : BitVec 3 × Csrc :=
  (x.ceilings fallback).foldl (fun b e => if e.1 < b.1 then e else b) (6, .none)

/-- Target of a die that is not paced: min(max(pref, floor), ceil) (R335). -/
def DiePow.free (x : DiePow) (ceil : BitVec 3) : BitVec 3 :=
  let p := x.pref.get x.eff.toNat
  let p := if p < x.floor then x.floor else p
  if ceil < p then ceil else p

/-- Selection of a paced die: the point of R342 at once upwards, the pace lowered and restored under R343 and R344. -/
def Main.selectPaced (m : Main) (d n : Nat) : Main :=
  let x := m.dpAt d
  let top := m.paceTop d
  let need := m.pacePoint d n
  let low : Bool := top < need
  let pace := if low then m.bestPace d top n else n
  let p := min top (m.pacePoint d pace)
  let m :=
    if low && (!x.plow || BitVec.ofNat 8 pace < x.paceF) then
      m.log! { code := 0x4503, cls := .rec_, die := some d, par := p1 d ++ p1 need ++ p1 top }
    else if !low && x.plow then m.log! { code := 0x4504, cls := .rec_, die := some d, par := p1 d }
    else m
  m.updDp d (fun x => { x with
    plow := low
    target := if x.target.toNat < p || top < x.target.toNat then BitVec.ofNat 3 p else x.target
    lowerFor := if p < x.target.toNat then x.lowerFor + 1 else 0
    paceF := if p ≤ x.point.toNat || BitVec.ofNat 8 pace < x.paceF then BitVec.ofNat 8 pace else x.paceF
    paceNext := if p ≤ x.point.toNat then none else some (BitVec.ofNat 8 pace) })

/-- Selection of one die (R335, R342–R345). -/
def Main.selectDie (m : Main) (d : Nat) : Main :=
  let fb : Bool := m.pow.x = .fallback
  let c := (m.dpAt d).ceil fb
  let m := m.updDp d (fun x => { x with csrc := if fb then .fallback else c.2 })
  match m.paceSet d with
  | some n => m.selectPaced d n
  | none => m.updDp d (fun x => { x with paceF := 0, paceNext := none, plow := false, lowerFor := 0, target := x.free c.1 })

/-- POINT_MOVE (R331, R344): one move between adjacent points; a pace raise that waited for the point goes ahead. -/
def Main.pointMove (m : Main) (d : Nat) : Main :=
  let m := m.updDp d (fun x => { x with
    point := if x.point < x.target then x.point + 1 else if x.target < x.point then x.point - 1 else x.point })
  let x := m.dpAt d
  match x.paceNext with
  | some n => if m.pacePoint d n.toNat ≤ x.point.toNat then m.updDp d (fun x => { x with paceF := n, paceNext := none }) else m
  | none => m

def execPointMove (d : Fin 4) : State → Host.Outcome State Fault Refusal := onMain (fun m => m.pointMove d.val)

/-- PACED_POINT_LOWER (R342): the rule has allowed a lower point for 1 s without interruption. -/
def execPacedPointLower (d : Fin 4) : State → Host.Outcome State Fault Refusal :=
  onMain (byCore 1 (fun m => m.updDp d.val (fun x =>
    if x.paceF != 0 && x.lowerFor != 0 && x.target != 0 then { x with target := x.target - 1, lowerFor := 0 } else x)))

/-- PHASE_DWELL_EXPIRY (R336). -/
def execPhaseDwellExpiry (d : Fin 4) : State → Host.Outcome State Fault Refusal :=
  onMain (byCore 1 (fun m => m.updDp d.val (fun x => { x with eff := (m.dieAt d.val).phase })))

/-- Governing temperature of a region, 0.001 °C (R362). -/
def DiePow.regionTemp (x : DiePow) (r : Nat) : Int := max (x.govern.get (3 * r)) (max (x.govern.get (3 * r + 1)) (x.govern.get (3 * r + 2)))

/-- BEAT_MONITOR_CHECK (R334): `rate` in M beats/s. -/
def Main.monitorCheck (m : Main) (d r rate : Nat) : Main :=
  let x := m.dpAt d
  let floor := rateAt (minTable (m.liveTiles d (some r)) x.point.toNat) (x.regionTemp r)
  let hour := m.sec / 3600 + 1
  if (m.dieAt d).parked.getLsbD r || m.liveTiles d (some r) = [] || decide (floor * 95 ≤ (rate : Int) * 100 * 1000000000) then m
  else
    let m := m.updDp d (fun x => { x with monitor := x.monitor.put r rate, hour4505 := x.hour4505.put r hour })
    if x.hour4505.get r = hour then m
    else m.log! { code := 0x4505, cls := .adv, die := some d, par := p1 d ++ p1 r }

def execBeatMonitorCheck (d : Fin 4) (r : Fin 8) (rate : Nat) : State → Host.Outcome State Fault Refusal :=
  onMain (fun m => m.monitorCheck d.val r.val rate)

/-! ### Commands -/

/-- SET_PREFERRED_POINTS, 0x0401 (R337). -/
def Main.setPref (h : Hdr) (p : Payload) (m : Main) : Reply :=
  let mask : BitVec 4 := p.extractLsb' 0 4
  let pt (i : Nat) := bvAt p (2 + i) 1
  let dw := bvAt p 8 2
  if !(m.ownsDies h.src mask) then refuse m 2
  else if (List.range 6).any (fun i => 6 < pt i && pt i != 0xFF) || 1000 < dw then refuse m 1
  else
    ok ((diesOf mask).foldl (fun (m : Main) d => m.updDp d (fun x => { x with
      pref := (List.range 6).foldl (fun t i => if pt i = 0xFF then t else t.put i (BitVec.ofNat 3 (pt i))) x.pref
      dwell := if dw = 0 then x.dwell else dw })) m) []

def execSetPreferredPoints (h : Hdr) (p : Payload) : State → Host.Outcome State Fault Refusal :=
  onMain (fun m => m.command 0x0401 h p [(0, 1), (2, 8)] (Main.setPref h p) (high := bvAt p 0 1 < 16))

/-- A tile ID names an enabled tile (R1, R58). -/
def tileIdOk (id : Nat) : Bool := id < 2048 && id % 64 < 36

/-- READ_CHARACTERISED_TABLE, 0x0403 (R333). -/
def Main.readChar (p : Payload) (m : Main) : Reply :=
  let id := bvAt p 0 2
  let sel := bvAt p 2 1
  let answer (f : Nat → Nat × Nat) : Reply :=
    ok m ((List.range 7).map (fun k => (2 + 2 * k, 2, (f k).1)) ++ (List.range 7).map (fun k => (16 + 2 * k, 2, (f k).2)))
  if sel > 1 then refuse m 2
  else if sel = 0 then
    if !(tileIdOk id) || (m.tileAt id).retired then refuse m 1 else answer (minTable [id])
  else if id ≥ 2048 || id % 512 != 0 then refuse m 1
  else answer (minTable (m.liveTiles (id / 512)))

def execReadCharacterisedTable (h : Hdr) (p : Payload) : State → Host.Outcome State Fault Refusal :=
  onMain (fun m => m.command 0x0403 h p [(0, 3)] (Main.readChar p) (reads := true)
    (owned := m.owns h.src (m.variant.diePart (bvAt p 0 2 / 512 % 4))))

/-- Balance of a wear ledger, ms (R338). -/
def DiePow.balance (x : DiePow) : Int := 60000 + ((3 * x.opMs / 100 : Nat) : Int) - (x.boostMs : Int)

/-- READ_WEAR_LEDGER, 0x0404 (R340). -/
def Main.readWear (p : Payload) (m : Main) : Reply :=
  let d := bvAt p 0 1
  if d > 3 then reject m 2
  else
    let x := m.dpAt d
    ok m [(0, 4, x.opMs / 1000), (4, 4, x.boostMs / 1000), (8, 4, ((x.balance / 1000) % 2 ^ 32).toNat), (12, 1, x.wcap.toNat)]

def execReadWearLedger (h : Hdr) (p : Payload) : State → Host.Outcome State Fault Refusal :=
  onMain (fun m => m.command 0x0404 h p [(0, 1)] (Main.readWear p) (reads := true)
    (owned := m.owns h.src (m.variant.diePart (bvAt p 0 1 % 4))))

/-! ### The Steady Rest -/

/-- Reason that refuses a Steady Rest setting of a die, 0 for none (R346, R347). -/
def Main.paceBad (m : Main) (d : Nat) (en : Bool) (pace : Nat) : Nat :=
  if !en then 0 else if pace < 80 || 184 < pace then 1 else if m.paceTop d < m.pacePoint d pace then 2 else 0

/-- Puts a Steady Rest setting in force; a die that changes to paced logs it (R347). -/
def Main.paceApply (m : Main) (d : Nat) (en : Bool) (pace : Byte) : Main :=
  let x := m.dpAt d
  let m := m.updDp d (fun x => { x with stEn := en, stPace := pace, en := en, pace := pace })
  if en && !x.en then m.log! { code := 0x4501, cls := .rec_, die := some d, par := p1 d ++ p1 pace.toNat } else m

/-- SET_STEADY_REST, 0x0405 (R347). -/
def Main.setPace (h : Hdr) (p : Payload) (m : Main) : Reply :=
  let d := bvAt p 0 1
  let en : Bool := p.getLsbD 64
  let pace := bvAt p 9 1
  if d > 3 then reject m 2
  else if !(m.owns h.src (m.variant.diePart d)) then refuse m 3
  else
    let r := m.paceBad d en pace
    if r != 0 then refuse m r else ok (m.paceApply d en (BitVec.ofNat 8 pace)) []

def execSetSteadyRest (h : Hdr) (p : Payload) : State → Host.Outcome State Fault Refusal :=
  onMain (fun m => m.command 0x0405 h p [(0, 1), (8, 2)] (Main.setPace h p) (high := bvAt p 8 1 < 2))

def Main.updBctl (m : Main) (f : BlockCtl → BlockCtl) : Main :=
  let w : Power := { m.pow with bctl := f m.pow.bctl }
  { m with pow := w }

/-- The first die whose staged setting breaks a rule, with the reason (R346, R347, R446). -/
def Main.paceFirst (m : Main) : Option (Nat × Nat) :=
  ((List.range 4).map (fun d =>
    let x := m.dpAt d
    let r := m.paceBad d x.stEn x.stPace.toNat
    let sealed : Bool := m.partOn && m.masked (m.variant.diePart d) && (x.stEn != x.en || x.stPace != x.pace)
    (d, if r != 0 then r else if sealed then 3 else 0))).find? (fun e => e.2 != 0)

/-- A commit of the beat and pace block: all four dies or none (R347). -/
def Main.paceCommit (m : Main) : Main :=
  match m.paceFirst with
  | some (d, r) =>
    (m.updBctl (fun b => { b with rej := true, who := BitVec.ofNat 4 d, rsn := BitVec.ofNat 8 r })).log!
      { code := 0x4502, cls := .rec_, die := some d, par := p1 d ++ p1 r }
  | none =>
    let m := m.updBctl (fun b => { b with rej := false, gen := b.gen + 1 })
    (List.range 4).foldl (fun m d => m.paceApply d (m.dpAt d).stEn (m.dpAt d).stPace) m

/-- A snapshot of the beat and skip counters; what they have counted since the last one is a free value (R346; log 98). -/
def Main.beatSnap (m : Main) : Main :=
  (List.range 4).foldl (fun (m : Main) d => m.draw.updDp d (fun x =>
    let b := x.beats + BitVec.ofNat 64 (Config.beatsIn m.draws d)
    let k := x.skips + BitVec.ofNat 48 (Config.skipsIn m.draws d)
    { x with beats := b, skips := k, snBeats := b, snSkips := k })) m

/-- A write to the beat and pace control register: REJ is W1C, then COMMIT and SNAP (R346). -/
def Main.beatCtl (m : Main) (v : U64) : Main :=
  let m := if v.getLsbD 2 then m.updBctl (fun b => { b with rej := false }) else m
  let m := if v.getLsbD 0 then m.paceCommit else m
  if v.getLsbD 3 then m.beatSnap else m

/-- PACE_COMMIT (R347). -/
def execPaceCommit (v : U64) : State → Host.Outcome State Fault Refusal := onMain (fun m => m.beatCtl (v ||| 1))

/-- BEAT_SNAPSHOT (R346). -/
def execBeatSnapshot (v : U64) : State → Host.Outcome State Fault Refusal := onMain (fun m => m.beatCtl (v ||| 8))

/-! ### The wear ledger -/

/-- One millisecond of a die's ledger (R338, R339). -/
def Main.wearTick (m : Main) (d : Nat) (boost : Bool) : Main :=
  let m := m.updDp d (fun x => { x with opMs := x.opMs + 1, boostMs := if boost then x.boostMs + 1 else x.boostMs })
  let x := m.dpAt d
  if !x.wcap && decide (x.balance ≤ 0) then
    (m.updDp d (fun x => { x with wcap := true })).log! { code := 0x4601, cls := .rec_, die := some d, par := p1 d }
  else if x.wcap && decide (60000 ≤ x.balance) then
    (m.updDp d (fun x => { x with wcap := false })).log! { code := 0x4602, cls := .rec_, die := some d, par := p1 d }
  else m

/-- WEAR_LEDGER_TICK (R338, R339): `boost` names the dies whose VDD_CORE stood at 0.86 V or above in the millisecond. -/
def execWearLedgerTick (boost : BitVec 4) : State → Host.Outcome State Fault Refusal :=
  onMain (fun m => if m.sup.rails then (List.range 4).foldl (fun m d => m.wearTick d (boost.getLsbD d)) m else m)

/-- Writes every ledger to flash; `orderly` at an orderly power-down (R340). -/
def Main.wearSave (m : Main) (orderly : Bool) : Main :=
  (List.range 4).foldl (fun (m : Main) d => m.updDp d (fun x => { x with saved := (x.opMs, x.boostMs, x.point = 6, orderly) })) m

/-- WEAR_LEDGER_SAVE (R340). -/
def execWearLedgerSave : State → Host.Outcome State Fault Refusal := onMain (fun m => m.wearSave false)

end Sys2Proof.Machine
end

