-- ==== Sys2Proof/Machine/Power.lean ====
section
/-! DEFINITION. The activity estimate, caps, limits, parking, the Flywheel and the power commands (R349–R359, R365–R371). -/

namespace Sys2Proof.Machine

def Main.updPow (m : Main) (f : Power → Power) : Main := { m with pow := f m.pow }

/-! ### Estimate -/

/-- Fitted weight of a counter row: the unit's fused one until a refit (R353, R355). Row 15 is a bridge crossing of row 11. -/
def Power.rowWeight (w : Power) (i : Nat) : Nat := (w.weight.find i).getD (Config.fusedWeight i)

/-- Hottest governing temperature of a die, 0.001 °C (R362). -/
def DiePow.hottest (x : DiePow) : Int := (x.govern.map (·.2)).foldl max ((x.govern.head?.map (·.2)).getD 0)

/-- Energy of one die over 4 µs in pJ: rows 1–7 and 11 scaled with the voltage, rows 8–10, and the leakage (R353). -/
def Main.dieEnergy (m : Main) (d : Nat) (n : List Nat) : Nat :=
  let x := m.dpAt d
  let mv := 600 + 50 * x.point.toNat
  let row (i : Nat) := m.pow.rowWeight i * n.getD (i - 1) 0
  let dyn := ([1, 2, 3, 4, 5, 6, 7, 11].map row).sum + m.pow.rowWeight 15 * n.getD 11 0
  dyn * (mv * mv) / 562500 + ([8, 9, 10].map row).sum + 4 * Config.leakage d mv x.hottest

/-- Count of row 14, in nominal watts: 10 for each memory stack, 50 for each I/O die that has a Tenon port up, 20 for the controller and
the meter. Row 14's weight is the energy over 4 µs of a nominal watt, so that a refit scales the three terms together; the spec names no
I/O die for the CXL ports (R353; log 157). -/
def Main.fixedWatts (m : Main) : Nat :=
  let up (i : Nat) : Bool := (List.range m.variant.ports).any (fun p => m.variant.portDie p = some i && (m.portAt p).st = .up)
  10 * m.variant.stacks + 50 * ((List.range m.variant.ioDies).filter up).length + 20

/-- The activity estimate E in mW (R353): pJ over 4 µs, divided by the regulator efficiency at the previous estimate. -/
def Main.estimate (m : Main) (a : Activity) : Nat :=
  let dies := ((List.range 4).map (fun d => m.dieEnergy d (a.dies.getD d []))).sum
  let fixed := m.pow.rowWeight 12 * a.hbms + m.pow.rowWeight 13 * a.ports + m.pow.rowWeight 14 * m.fixedWatts
  (dies + fixed) * 250 / max 1 (Config.eta m.pow.est)

/-- A master's cap in W (R356). -/
def Main.capOf (m : Main) (c : CapCfg) : Nat := (c.cap.map (·.toNat)).getD m.variant.rated

/-- The cap in force in mW (R356). -/
def Main.capNow (m : Main) : Nat := 1000 * min m.variant.rated (min (m.capOf m.pow.host) (m.capOf m.pow.board))

/-- The boost window applies: the cap in force is P_R and both masters allow boost (R356, R359). -/
def Main.boostOn (m : Main) : Bool := m.capNow = 1000 * m.variant.rated && m.pow.host.boost && m.pow.board.boost

/-- Limits in mW with the draw that cuts at once (R357, R359, R366): (trigger, hold). -/
def Main.fastLimits (m : Main) : List (Nat × Nat) :=
  let cap := m.capNow
  let pr := 1000 * m.variant.rated
  [(3200000, 2600000)] ++
  (if m.boostOn then [] else [(cap * 11 / 10, cap)]) ++
  ((List.range 4).filterMap (fun d => if (m.dpAt d).ceilElec < (m.dpAt d).point then some (2600000, 2600000) else none)) ++
  (if m.pow.exhausted && (List.range 4).any (fun d => (m.dpAt d).paceF != 0) then [(pr, pr)] else []) ++
  (if m.pow.fly.en then [(m.pow.dhigh, m.pow.dhigh)] else [])

/-- The firing ratio that the fast loop gives: cut in proportion where a limit is passed, given back by a sixteenth otherwise. -/
def fastRatio (now draw : Nat) (limits : List (Nat × Nat)) : Nat :=
  let cuts := (limits.filter (fun l => l.1 < draw)).map (fun l => max 1 (now * l.2 / draw))
  if cuts = [] then min 16 (now + 1) else cuts.foldl min now

/-- Every die reports the idle phase (R367). -/
def Main.allIdle (m : Main) : Bool := (List.range 4).all (fun d => (m.dieAt d).phase = 5)

/-- FAST_POWER_LOOP (R353, R355, R357, R359, R366): one period of 4 µs. -/
def Main.fastLoop (m : Main) (a : Activity) : Main :=
  let e := m.estimate a
  let c := m.pow.capping e
  let hist := ((e, c) :: m.pow.hist).take 250
  let avg := (hist.map (·.2)).sum / hist.length
  let elec := recent m.us 100000 m.pow.elec
  let pr := 1000 * m.variant.rated
  let budget := if pr < avg then m.pow.budget - 4 else min 2000000 (m.pow.budget + 1)
  let lift : Bool := m.pow.exhausted && 500000 ≤ budget
  let idle := m.allIdle
  let m := m.updPow (fun w => { w with
    est := e
    hist := hist
    avg := avg
    elec := if 2600000 < c then m.us :: elec else elec
    budget := budget
    exhausted := w.exhausted && !lift
    idleFor := if idle then w.idleFor + 4 else 0
    rampFor := if w.ramp = .none then w.rampFor else w.rampFor + 4 })
  let m := if lift then (List.range 4).foldl (fun m d => m.updDp d (fun x => { x with ceilBoost := 6 })) m else m
  let lim := m.fastLimits
  (List.range 4).foldl (fun m d => m.updDp d (fun x => { x with fast := BitVec.ofNat 5 (fastRatio x.fast.toNat c lim) })) m

def execFastPowerLoop (act : Activity) : State → Host.Outcome State Fault Refusal := onMain (byCore 1 (fun m => m.fastLoop act))

/-! ### Cross-check -/

/-- The state of R355 starts a refit, or skips it while the mirror is lost (R355, R384). -/
def Main.startRefit (m : Main) : Main :=
  if !m.mir.lost then m.updPow (fun w => { w with refit := true })
  else if m.pow.refitSkipped then m
  else (m.updPow (fun w => { w with refitSkipped := true })).log! { code := 0xA005, cls := .rec_ }

/-- Enters a state of R355. -/
def Main.enterX (m : Main) (x : XState) (code : Nat) : Main :=
  let m := m.updPow (fun w => { w with x := x, xFor := 0, xSince := 0, refitSkipped := false })
  let m := if code = 0 then m else m.log! { code := code, cls := .rec_ }
  if x = .agree then m else m.startRefit

/-- Disagreement in units of 0.1 % (R354, R370). -/
def Power.disagree (w : Power) : Nat := (max w.mean w.meas - min w.mean w.meas) * 1000 / max 1 w.meas

/-- TELEMETRY_CROSS_CHECK (R354, R355): M and Ē of a window of 100 µs, in mW. -/
def Main.crossCheck (m : Main) (meas mean : Nat) : Main :=
  let bad : Bool := 12 * meas < 100 * (max mean meas - min mean meas)
  let m := m.updPow (fun w => { w with
    meas := meas
    mean := mean
    xFor := if bad = w.xBad then w.xFor + 100 else 100
    xBad := bad
    xSince := w.xSince + 100 })
  if m.pow.x = .agree && bad && 10000 ≤ m.pow.xFor then m.enterX .disagree 0x4101 else m

def execTelemetryCrossCheck (meas : Nat) (mean : Nat) : State → Host.Outcome State Fault Refusal := onMain (byCore 1 (fun m => m.crossCheck meas mean))

/-- ESTIMATE_FALLBACK_TIMER (R355): 10 s of disagreement, or 100 ms or 60 s of agreement, has passed. -/
def Main.fallbackTimer (m : Main) : Main :=
  match m.pow.x, m.pow.xBad with
  | .disagree, true => m.enterX .fallback 0x4103
  | .disagree, false => m.enterX .agree 0
  | .fallback, false => m.enterX .agree 0x4104
  | _, _ => m

def execEstimateFallbackTimer : State → Host.Outcome State Fault Refusal := onMain (byCore 1 Main.fallbackTimer)

/-- A refitted weight: within 40 % of the fused value, and at most twice the value at the start of the refit (R355). -/
def refitWeight (fused old new : Nat) : Nat := min (2 * old) (min (14 * fused / 10) (max (6 * fused / 10) new))

/-- ACTIVITY_REFIT_COMPLETE (R355): the fitted weights of rows 1–14 in pJ or mW. -/
def Main.refitDone (m : Main) (l : List Nat) : Main :=
  if m.mir.lost || !(m.pow.refit || m.pow.x = .fallback) then m
  else
    (m.updPow (fun w => { w with
      refit := false
      weight := (List.range 14).foldl (fun (t : Table Nat) i =>
        match l[i]? with
        | some v => t.put (i + 1) (refitWeight (Config.fusedWeight (i + 1)) (w.rowWeight (i + 1)) v)
        | none => t) w.weight })).log! { code := 0x4102, cls := .rec_ }

def execActivityRefitComplete (w : List Nat) : State → Host.Outcome State Fault Refusal := onMain (byCore 1 (fun m => m.refitDone w))

/-! ### Caps -/

/-- Draw projected with every die at a point, in mW, from the dies' projections and what is not charged to them. -/
def Main.projected (m : Main) (proj : List (List Nat)) (p : Nat) : Nat :=
  let at_ (d q : Nat) := (proj.getD d []).getD q 0
  let now := ((List.range 4).map (fun d => at_ d (m.dpAt d).point.toNat)).sum
  (m.pow.capping m.pow.est - now) + ((List.range 4).map (fun d => at_ d p)).sum

/-- Share of the cap that a die may draw, in mW (R356): what the module's own rows leave, in proportion to the dies' draws at their
targets, within the die cap. -/
def Main.dieShare (m : Main) (proj : List (List Nat)) (d : Nat) : Nat :=
  let at_ (d q : Nat) := (proj.getD d []).getD q 0
  let now := ((List.range 4).map (fun d => at_ d (m.dpAt d).point.toNat)).sum
  let fixed := m.pow.capping m.pow.est - now
  let targets := ((List.range 4).map (fun d => at_ d (m.dpAt d).target.toNat)).sum
  let s := (m.capNow - fixed) * at_ d (m.dpAt d).target.toNat / max 1 targets
  let cap := (m.dpAt d).cap.toNat
  if cap = 0 then s else min s (1000 * cap)

/-- One step of the cap's control on a die (R357 steps 1 and 2, and back). A die at P0 whose own estimate passes its die cap skips beats
as for the module's cap (R356). -/
def Main.capStep (m : Main) (proj : List (List Nat)) (d : Nat) : Main :=
  let x := m.dpAt d
  let at_ (q : Nat) := (proj.getD d []).getD q 0
  let share := m.dieShare proj d
  let boost : Bool := m.boostOn && x.cap = 0
  let fits : Bool := boost || at_ x.ceilCap.toNat ≤ share
  let ownOver : Bool := x.cap != 0 && x.point = 0 && 1000 * x.cap.toNat < at_ 0
  let over_ : Bool := ownOver || (!boost && m.capNow < m.pow.avg)
  let paced : Bool := (m.paceSet d).isSome
  m.updDp d (fun x =>
    if over_ && (paced || x.point = 0) then { x with fire := if x.fire > 1 then x.fire - 1 else x.fire }
    else if !fits && !paced then { x with ceilCap := if x.ceilCap = 0 then 0 else x.ceilCap - 1 }
    else if over_ || x.parkCap != 0 then x
    else if x.fire < 16 then { x with fire := x.fire + 1 }
    else if x.ceilCap < 6 && (boost || at_ (x.ceilCap.toNat + 1) ≤ share) then { x with ceilCap := x.ceilCap + 1 }
    else x)

/-- The electrical ceiling rises one point per 100 ms while the next point is projected at or below 2,600 W (R359). -/
def Main.elecRise (m : Main) (proj : List (List Nat)) : Main :=
  let c := (m.dpAt 0).ceilElec
  if c < 6 && m.pow.elecStep + 100000 ≤ m.us && m.projected proj (c.toNat + 1) ≤ 2600000 then
    (List.range 4).foldl (fun m d => m.updDp d (fun x => { x with ceilElec := c + 1 })) (m.updPow (fun w => { w with elecStep := m.us }))
  else m

/-- POINT_SELECTION (R335, R336, R342–R345, R357, R387; held while core 2 is stopped): `proj` gives each die's projected draw at each point, in mW. -/
def Main.selection (m : Main) (proj : List (List Nat)) : Main :=
  let m := m.elecRise proj
  if !(m.core.get 2).runs then m else (List.range 4).foldl (fun m d => (m.capStep proj d).selectDie d) m

def execPointSelection (proj : List (List Nat)) : State → Host.Outcome State Fault Refusal := onMain (byCore 1 (fun m => m.selection proj))

/-- Regions in the order in which they are parked (R352). -/
def parkOrder : List (Nat × Nat) := ((List.range 8).map (fun i => (List.range 4).map (fun d => (d, 7 - i)))).flatten

/-- Regions parked for the cap. -/
def Main.capParked (m : Main) : Nat := (parkOrder.filter (fun e => (m.dpAt e.1).parkCap.getLsbD e.2)).length

/-- Parks or unparks one region for the cap and records the changed count (R352). -/
def Main.parkOne (m : Main) (e : Nat × Nat) (on : Bool) : Main :=
  let m := (m.updDp e.1 (fun x => { x with
    parkCap := if on then x.parkCap ||| (1#8 <<< e.2) else x.parkCap &&& ~~~(1#8 <<< e.2) })).reparked e.1
  let n := m.capParked
  (m.updPow (fun w => { w with parkCount := n })).log! { code := if on then 0x4204 else 0x4205, cls := .rec_, par := p4 n }

/-- Tenon ports that are up. -/
def Main.portsUp (m : Main) : Nat := ((List.range m.variant.ports).filter (fun p => (m.portAt p).st = .up)).length

/-- Predicted floor draw, W (R357, R358). -/
def Main.floorDraw (m : Main) : Nat := (Config.predictedFloor m.portsUp).toNat

/-- REGION_PARK_TICK (R352, R357 steps 3 and 4): parks once every die fires 1 in 16, unparks first when the cap allows. -/
def Main.parkTick (m : Main) (unpark : Bool) : Main :=
  if unpark then
    match parkOrder.reverse.find? (fun e => (m.dpAt e.1).parkCap.getLsbD e.2) with
    | some e => m.parkOne e false
    | none => m
  else if !((List.range 4).all (fun d => (m.dpAt d).fire = 1)) then m
  else
    match parkOrder.find? (fun e => !((m.dpAt e.1).parkCap.getLsbD e.2)) with
    | some e =>
      let m := m.parkOne e true
      if m.capParked = 32 then m.log! { code := 0x4203, cls := .rec_, par := p2 m.floorDraw } else m
    | none => m

def execRegionParkTick (unpark : Bool) : State → Host.Outcome State Fault Refusal := onMain (byCore 1 (fun m => m.parkTick unpark))

/-- Highest point projected at or below a draw, P0 where none is. -/
def highestAt (proj : List Nat) (limit : Nat) : BitVec 3 :=
  BitVec.ofNat 3 (((List.range 7).filter (fun p => proj.getD p 0 ≤ limit)).getLastD 0)

/-- ELECTRICAL_LIMIT_TIMER (R359): `proj` gives the module's projected draw at each point, in mW. -/
def execElectricalLimitTimer (proj : List Nat) : State → Host.Outcome State Fault Refusal :=
  onMain (fun m =>
    let p := highestAt proj 2600000
    let m := (List.range 4).foldl (fun m d => m.updDp d (fun x => { x with ceilElec := p })) m
    (m.updPow (fun w => { w with elecStep := m.us })).log! { code := 0x4201, cls := .rec_ })

/-- BOOST_WINDOW_EXHAUSTED (R359). -/
def execBoostWindowExhausted (proj : List Nat) : State → Host.Outcome State Fault Refusal :=
  onMain (fun m =>
    if !m.boostOn then m
    else
      let p := highestAt proj (1000 * m.variant.rated)
      let m := (List.range 4).foldl (fun m d => m.updDp d (fun x => { x with ceilBoost := p })) m
      (m.updPow (fun w => { w with budget := 0, exhausted := true })).log! { code := 0x4202, cls := .rec_ })

/-! ### The Flywheel -/

/-- A point of a straight line from `a` to `b` over `n` µs, after `t`. -/
def lineAt (a b n t : Nat) : Nat :=
  if n ≤ t then b else if a ≤ b then a + (b - a) * t / n else a - (a - b) * t / n

/-- The bounds of R366, with the ramps of R367. -/
def Main.bounds (m : Main) (a1 aw : Nat) : Nat × Nat :=
  let w := m.pow
  let r := 10000 * w.fly.ramp.toNat
  let hi := a1 + r
  let lo := max (a1 - r) (w.fly.floor.toNat * aw / 100)
  match w.ramp with
  | .offset => (lo, min hi w.rampDraw)
  | .start => (lo, min hi (lineAt w.rampDraw m.capNow (100000 * w.fly.start.toNat) w.rampFor))
  | .stop => (max lo (lineAt w.rampDraw Config.idleDraw (100000 * w.fly.stop.toNat) w.rampFor), hi)
  | .none => (lo, hi)

/-- Dies on which the Flywheel raises ballast next: those in the idle phase, then in collective-wait, then the others (R366). -/
def Main.ballastDies (m : Main) : List Nat :=
  let may (d : Nat) : Bool := (m.dpAt d).ballast < 16 && !(m.dieAt d).tripped &&
    (List.range 8).any (fun r => !((m.dieAt d).parked.getLsbD r) && !((m.dpAt d).throttled.getLsbD r))
  let cls (f : Nat → Bool) := (List.range 4).filter (fun d => may d && f d)
  let a := cls (fun d => (m.dieAt d).phase = 5)
  let b := cls (fun d => (m.dieAt d).phase = 4)
  if a != [] then a else if b != [] then b else cls (fun _ => true)

/-- FLYWHEEL_PERIOD (R366, R367): averages a1(t − 10 ms) and aw(t) in mW; `full` when ballast has been full and the draw short for
the 10 ms after which the floor point moves. -/
def Main.flywheel (m : Main) (a1 aw : Nat) (full : Bool) : Main :=
  if !m.pow.fly.en then
    (List.range 4).foldl (fun m d => m.updDp d (fun x => { x with ballast := 0, floor := 0 }))
      (m.updPow (fun w => { w with dlow := 0, dhigh := 0, ramp := .none, lowFor := 0 }))
  else
    let (lo, hi) := m.bounds a1 aw
    let draw := m.pow.capping m.pow.est
    let short : Bool := draw < lo
    let ends : Bool := (m.pow.ramp = .start && 100000 * m.pow.fly.start.toNat ≤ m.pow.rampFor) ||
      (m.pow.ramp = .stop && 100000 * m.pow.fly.stop.toNat ≤ m.pow.rampFor)
    let low := if short then m.pow.lowFor + 100 else 0
    let sec := m.sec + 1
    let report : Bool := 10000 ≤ low && m.pow.sec4403 != sec
    let m := m.updPow (fun w => { w with
      dlow := lo
      dhigh := hi
      ramp := if ends then .none else w.ramp
      lowFor := low
      sec4403 := if report then sec else w.sec4403 })
    let m := if report then m.log! { code := 0x4403, cls := .adv } else m
    let m := if m.pow.fly.bal then m else (List.range 4).foldl (fun m d => m.updDp d (fun x => { x with ballast := 0 })) m
    let waiting := (List.range 4).filter (fun d => (m.dieAt d).phase = 5 || (m.dieAt d).phase = 4)
    if short && m.pow.fly.bal && draw < m.capNow && m.ballastDies != [] && !full then
      m.ballastDies.foldl (fun m d => m.updDp d (fun x => { x with ballast := x.ballast + 1 })) m
    else if short && full then
      waiting.foldl (fun m d => m.updDp d (fun x => { x with floor := if x.floor < 3 then x.floor + 1 else x.floor })) m
    else if lo < draw then
      if (List.range 4).any (fun d => (m.dpAt d).ballast != 0) then
        (List.range 4).foldl (fun m d => m.updDp d (fun x => { x with ballast := if x.ballast = 0 then 0 else x.ballast - 1 })) m
      else (List.range 4).foldl (fun m d => m.updDp d (fun x => { x with floor := if x.floor = 0 then 0 else x.floor - 1 })) m
    else m

def execFlywheelPeriod (a1 : Nat) (aw : Nat) (full : Bool) : State → Host.Outcome State Fault Refusal :=
  onMain (byCore 1 (fun m => m.flywheel a1 aw full))

/-- Start offset in ms: from the unit serial, or the host's value (R367). -/
def Main.startOffset (m : Main) : Nat :=
  if m.pow.fly.offm then m.pow.fly.offv.toNat else (crc32c (bvBytes m.serial 16)).toNat % 1001

/-- START_OFFSET_EXPIRY (R367). -/
def execStartOffsetExpiry : State → Host.Outcome State Fault Refusal :=
  onMain (byCore 1 (fun m => if m.pow.ramp = .offset && 1000 * m.startOffset ≤ m.pow.rampFor then
    m.updPow (fun w => { w with ramp := .start, rampFor := 0 }) else m))

/-- STOP_RAMP (R367): every die idle during an open job; a job close begins the ramp by itself (`Main.closeJob`). -/
def execStopRamp : State → Host.Outcome State Fault Refusal :=
  onMain (byCore 1 (fun m => if m.allIdle && m.jobs != [] then m.stopRamp else m))

/-! ### Settings -/

/-- A Flywheel setting from its register (R368). -/
def FlyCfg.of (v : U64) : FlyCfg :=
  { en := v.getLsbD 0, bal := v.getLsbD 1, ramp := v.extractLsb' 2 8, floor := v.extractLsb' 10 7, win := v.extractLsb' 17 8,
    start := v.extractLsb' 25 8, stop := v.extractLsb' 33 8, offm := v.getLsbD 41, offv := v.extractLsb' 42 10 }

/-- The fields are within their ranges (R368). -/
def FlyCfg.fits (f : FlyCfg) : Bool :=
  5 ≤ f.ramp.toNat && f.ramp.toNat ≤ 100 && f.floor.toNat ≤ 90 && 5 ≤ f.win.toNat && 20 ≤ f.start.toNat && 20 ≤ f.stop.toNat &&
  f.offv.toNat ≤ 1000

/-- A cap and die caps are within their ranges (R358, R368). -/
def Main.capFits (m : Main) (cap : Nat) : Bool := 100 ≤ cap && cap ≤ m.variant.rated
def dieCapFits (c : Nat) : Bool := c = 0 || (50 ≤ c && c ≤ 1100)

/-- A claim or release scrub runs (R368, R446). -/
def Main.scrubbing (m : Main) : Bool := m.part.any (fun e => e.2.st = .claiming || e.2.st = .releasing)

/-- Reason that rejects a commit of the power block, 0 for none (R368). -/
def Main.powBad (m : Main) : Nat :=
  if !m.pow.stFly.fits then 1
  else if !(m.capFits (m.capOf m.pow.stHost)) || !(m.capFits (m.capOf m.pow.stBoard)) ||
      (List.range 4).any (fun d => !(dieCapFits (m.dpAt d).stCap.toNat)) then 2
  else if m.scrubbing then 3
  else 0

/-- A commit of the power and load block (R369). -/
def Main.powCommit (m : Main) : Main :=
  let r := m.powBad
  if r != 0 then m.updPow (fun w => { w with ctl := { w.ctl with rej := true, rsn := BitVec.ofNat 8 r } })
  else
    let m := m.updPow (fun w => { w with
      fly := w.stFly, host := w.stHost, board := w.stBoard, ctl := { w.ctl with rej := false, gen := w.ctl.gen + 1 } })
    (List.range 4).foldl (fun m d => m.updDp d (fun x => { x with cap := x.stCap })) m

/-- Lowest firing ratio on a die (R349, R350, R368). -/
def DiePow.ratio (x : DiePow) : Nat :=
  ([x.fire, x.fast, x.fireMem, x.fireTherm].map (·.toNat) ++ x.fireReg.map (·.2.toNat)).foldl min 16

/-- Present value of the first snapshot register (R368). -/
def Main.powA (m : Main) : U64 :=
  let w := m.pow
  let est := (w.hist.map (·.1)).sum / max 1 w.hist.length
  let x := match w.x with
    | .agree => 0
    | .disagree => 1
    | .fallback => 2
  BitVec.ofNat 64 (min (est / 1000) 4095 + min (w.meas / 1000) 4095 * 2 ^ 12 + x * 2 ^ 24 + w.budget / 10000 * 2 ^ 26 +
    min (w.dlow / 1000) 4095 * 2 ^ 34 + (if w.fly.en then min (w.dhigh / 1000) 4095 else 0) * 2 ^ 46)

/-- Present value of the second snapshot register (R368). -/
def Main.powB (m : Main) : U64 :=
  BitVec.ofNat 64 (((List.range 4).map (fun d => (m.dieAt d).parked.toNat * 2 ^ (8 * d) + (m.dpAt d).ratio * 2 ^ (32 + 5 * d))).sum)

def Main.powSnap (m : Main) : Main := m.updPow (fun w => { w with snA := m.powA, snB := m.powB })

/-- A write to the power and load control register: REJ is W1C, then COMMIT and SNAP (R368). -/
def Main.powCtl (m : Main) (v : U64) : Main :=
  let m := if v.getLsbD 2 then m.updPow (fun w => { w with ctl := { w.ctl with rej := false } }) else m
  let m := if v.getLsbD 0 then m.powCommit else m
  if v.getLsbD 3 then m.powSnap else m

/-- POWER_COMMIT (R369). -/
def execPowerCommit (v : U64) : State → Host.Outcome State Fault Refusal := onMain (fun m => m.powCtl (v ||| 1))

/-- POWER_SNAPSHOT (R368). -/
def execPowerSnapshot (v : U64) : State → Host.Outcome State Fault Refusal := onMain (fun m => m.powCtl (v ||| 8))

/-- The draw that the cap in force lets the module attain, and the predicted floor (R356–R358, R370). -/
def Main.capFields (m : Main) : List (Nat × Nat × Nat) := [(2, 2, max (m.capNow / 1000) m.floorDraw), (4, 2, m.floorDraw)]

/-- Response of 0x0402 once a cap stands (R358, R370, R404). -/
def Main.capReply (m : Main) (cap : Nat) : Reply := ok m ((0, 1, if cap < m.floorDraw then 3 else 0) :: m.capFields)

/-- SET_POWER_LIMITS, 0x0402 (R356, R358, R370). -/
def Main.setLimits (h : Hdr) (p : Payload) (m : Main) : Reply :=
  let cap := bvAt p 0 2
  let boost : Bool := p.getLsbD 16
  let dc (d : Nat) := bvAt p (4 + 2 * d) 2
  let c : CapCfg := { cap := some (BitVec.ofNat 12 cap), boost := boost }
  let side := Src.isSide h.src
  if !(m.capFits cap) || (List.range 4).any (fun d => !(dieCapFits (dc d))) then refuse m 1
  else if side && (List.range 4).any (fun d => dc d != 0) then refuse m 2
  else if side then
    let changed : Bool := m.capOf m.pow.board != cap || m.pow.board.boost != boost
    let m := m.updPow (fun w => { w with stBoard := c, board := c })
    (if changed then m.setCause 6 else m).capReply cap
  else
    ((List.range 4).foldl (fun (m : Main) d => m.updDp d (fun x => { x with stCap := BitVec.ofNat 12 (dc d), cap := BitVec.ofNat 12 (dc d) }))
      (m.updPow (fun w => { w with stHost := c, host := c }))).capReply cap

def execSetPowerLimits (h : Hdr) (p : Payload) : State → Host.Outcome State Fault Refusal :=
  onMain (fun m => m.command 0x0402 h p [(0, 3), (4, 8)] (fun m => fillRefused Main.capFields (Main.setLimits h p m)) (high := bvAt p 2 1 < 2))

/-- 0x0406 (R370). -/
def Main.powerStatus (m : Main) : Reply :=
  ok m ([(0, 8, m.pow.snA.toNat), (8, 8, m.pow.snB.toNat), (16, 2, min 65535 m.pow.disagree)] ++
    (List.range 4).map (fun d => (18 + d, 1, (m.dpAt d).ballast.toNat)))

/-- POWER_STATUS, 0x0406 (R370). -/
def execPowerStatus (h : Hdr) (p : Payload) : State → Host.Outcome State Fault Refusal :=
  onMain (fun m => m.command 0x0406 h p [] Main.powerStatus (reads := true))

/-- SET_FLYWHEEL, 0x0410 (R370). -/
def Main.setFly (p : Payload) (m : Main) : Reply :=
  let f := FlyCfg.of (p.extractLsb' 64 64)
  if !f.fits then refuse m 1
  else if m.scrubbing then refuse m 3
  else ok (m.updPow (fun w => { w with stFly := f, fly := f })) []

def execSetFlywheel (h : Hdr) (p : Payload) : State → Host.Outcome State Fault Refusal :=
  onMain (fun m => m.command 0x0410 h p [(8, 8)] (Main.setFly p) (high := bvAt p 14 2 < 16))

end Sys2Proof.Machine
end

