-- ==== Sys2Proof/Machine/Thermal.lean ====
section
/-! DEFINITION. Diodes, the column model, governing temperatures, heat tokens and thermal ceilings (R360–R364, R370). -/

namespace Sys2Proof.Machine

/-- Limit of a layer in 0.001 °C: 105 °C for compute regions, 95 °C for M1 and M2 (R359). -/
def layerLimit (l : Nat) : Int := if l = 0 then 105000 else 95000

/-- Regions that share an edge with a region of the 4 × 2 grid (R361). -/
def regionNext (r : Nat) : List Nat :=
  (List.range 8).filter (fun q =>
    (q / 4 = r / 4 && (q % 4 + 1 = r % 4 || r % 4 + 1 = q % 4)) || (q % 4 = r % 4 && q / 4 != r / 4))

/-- A diode is believed (R361). -/
def DiePow.trusts (x : DiePow) (s : Nat) : Bool := !(x.distrust.getLsbD s) && !(x.diodeRet.getLsbD s)

/-- Trusted in-layer neighbours of a sensor (R361). -/
def DiePow.neighbours (x : DiePow) (s : Nat) : List Nat :=
  ((regionNext (s / 3)).map (fun r => 3 * r + s % 3)).filter x.trusts

def meanInt (l : List Int) : Int := l.sum / (l.length : Int)

/-- Check `k` of R361 fails at a sensor in this sample: 0 model, 1 layer order, 2 neighbours. -/
def DiePow.checkFails (x : DiePow) (s k : Nat) : Bool :=
  let rd (i : Nat) := x.reading.get i
  let md (i : Nat) := x.model.get i
  match k with
  | 0 => decide (rd s + 6000 < md s)
  | 1 => s % 3 != 2 && decide (rd s + 3000 < rd (s + 1))
  | _ =>
    let ns := x.neighbours s
    ns != [] && decide (10000 < (rd s - meanInt (ns.map rd)).natAbs) && decide ((md s - meanInt (ns.map md)).natAbs ≤ 3000)

/-- The two values that event 0x4301 gives for a check: the reading and what it is held against (R361). -/
def DiePow.checkPair (x : DiePow) (s k : Nat) : Int × Int :=
  (x.reading.get s, match k with
    | 0 => x.model.get s
    | 1 => x.reading.get (s + 1)
    | _ => meanInt ((x.neighbours s).map x.reading.get))

/-- A temperature in whole °C as one byte. -/
def degrees (t : Int) : Nat := ((t / 1000) % 256).toNat

/-- Governing temperature of a sensor's site before its columns (R362). -/
def DiePow.base (x : DiePow) (s : Nat) : Int :=
  if x.diodeRet.getLsbD s then
    ((x.neighbours s).map x.reading.get).foldl max (x.model.get s)
  else if x.distrust.getLsbD s then x.model.get s
  else x.reading.get s

/-- Governing temperature of a column in a layer, 0.001 °C (R362). -/
def DiePow.column (x : DiePow) (d c l : Nat) : Int :=
  x.base (3 * (c / 36) + l) + (if l = 0 then 0 else Config.modelDiff d c l)

/-- Governing temperature of a sensor: its compute region, or the highest over the region's columns in the layer (R362). -/
def DiePow.governed (x : DiePow) (d s : Nat) : Int :=
  if s % 3 = 0 then x.base s
  else ((List.range 36).map (fun i => x.column d (36 * (s / 3) + i) (s % 3))).foldl max (x.column d (36 * (s / 3)) (s % 3))

/-- One sample of a sensor against the checks of R361: distrust, trust again, retirement. -/
def Main.checkDiode (m : Main) (d s : Nat) : Main :=
  let x := m.dpAt d
  if x.diodeRet.getLsbD s then m
  else
    let bad (k : Nat) : Bool := x.checkFails s k
    let any : Bool := (List.range 3).any bad
    let fails := (List.range 3).foldl (fun (t : Table Nat) k => t.put (3 * s + k) (if bad k then x.fails.get (3 * s + k) + 1 else 0)) x.fails
    let passes := if any then 0 else if x.passes.get s = 0 then m.us + 1 else x.passes.get s
    let m := m.updDp d (fun x => { x with fails := fails, passes := x.passes.put s passes })
    let diode := p1 d ++ p1 s
    if x.trusts s then
      match (List.range 3).find? (fun k => 3 ≤ fails.get (3 * s + k)) with
      | some k =>
        let v := x.checkPair s k
        (m.updDp d (fun x => { x with distrust := x.distrust ||| (1#24 <<< s) })).log!
          { code := 0x4301, cls := .rec_, die := some d, par := diode ++ p1 k ++ p1 (degrees v.1) ++ p1 (degrees v.2) }
      | none => m
    else if passes != 0 && passes + 1000000 ≤ m.us + 1 && decide (x.model.get s < x.reading.get s + 3000) then
      let n := x.episodes.get s + 1
      let m := (m.updDp d (fun x => { x with distrust := x.distrust &&& ~~~(1#24 <<< s), episodes := x.episodes.put s n })).log!
        { code := 0x4302, cls := .rec_, die := some d, par := diode }
      if 3 ≤ n then
        (m.updDp d (fun x => { x with diodeRet := x.diodeRet ||| (1#24 <<< s) })).log! { code := 0x4303, cls := .rec_, die := some d, par := diode }
      else m
    else m

/-- New offset of a region's model: at most 0.1 °C per second since the last period of the loop, within ±3 °C, from diodes that have passed
every check for 10 s (R360). -/
def DiePow.newOffset (x : DiePow) (now r : Nat) : Int :=
  let use := ((List.range 3).map (fun l => 3 * r + l)).filter (fun s => x.trusts s && x.passes.get s != 0 && x.passes.get s + 10000000 ≤ now + 1)
  let err := (use.map (fun s => x.reading.get s - x.model.get s)).sum
  let o := x.offset.get r
  let step : Int := ((now - (x.hot.head?.map (·.1)).getD now : Nat) : Int)
  if 0 < err then min 30000000 (o + step) else if err < 0 then max (-30000000) (o - step) else o

/-- I/O dies at 105 °C have their injection halved (R364). -/
def Main.ioThermal (m : Main) (read : List Int) : Main :=
  (read.take m.variant.ioDies).zipIdx.foldl (fun (m : Main) (e : Int × Nat) =>
    let hot : Bool := decide (105000 ≤ e.1)
    let was : Bool := m.pow.ioHalf.getLsbD e.2
    let m := m.updPow (fun w => { w with
      ioTemp := w.ioTemp.put e.2 e.1
      ioHalf := if hot then w.ioHalf ||| (1#3 <<< e.2) else w.ioHalf &&& ~~~(1#3 <<< e.2) })
    if hot && !was then m.log! { code := 0x4308, cls := .rec_, par := p1 e.2 } else m) m

/-- Every governing temperature of the die is at least 5 °C below its limit (R364). -/
def DiePow.cool (x : DiePow) : Bool := (List.range 24).all (fun s => decide (x.govern.get s + 5000 ≤ layerLimit (s % 3)))

/-- THERMAL_LOOP (R360–R362, R364): `read` gives the 24 diodes of the stack in sensor order and then the I/O-die diodes, in 0.001 °C;
`act` the counters of rows 1–11. -/
def Main.thermal (m : Main) (d : Nat) (read : List Int) (act : List Nat) : Main :=
  let m := m.updDp d (fun x =>
    let off := (List.range 8).foldl (fun (t : Table Int) r => t.put r (x.newOffset m.us r)) x.offset
    { x with
      offset := off
      reading := (List.range 24).foldl (fun (t : Table Int) s => t.put s (read.getD s (x.reading.get s))) x.reading
      model := (List.range 24).foldl (fun (t : Table Int) s =>
        t.put s (Config.modelStep d s (x.model.get s) act m.pow.inlet + (off.get (s / 3) / 10000 - x.offset.get (s / 3) / 10000))) x.model })
  let m := (List.range 24).foldl (fun m s => m.checkDiode d s) m
  let m := m.updDp d (fun x =>
    let g := (List.range 24).foldl (fun (t : Table Int) s => t.put s (x.governed d s)) x.govern
    let hot := (g.map (·.2)).foldl max (g.get 0)
    { x with
      govern := g
      hot := (m.us, hot) :: x.hot.filter (fun e => m.us < e.1 + 100000) })
  let m := if (m.dpAt d).parkHot != 0 && (m.dpAt d).cool then (m.updDp d (fun x => { x with parkHot := 0 })).reparked d else m
  m.ioThermal (read.drop 24)

def execThermalLoop (d : Fin 4) (read : List Int) (act : List Nat) : State → Host.Outcome State Fault Refusal :=
  onMain (byCore 2 (fun m => m.thermal d.val read act))

/-! ### Heat tokens -/

/-- Thermal factor of a margin in 0.001 °C, in parts per million (R363). -/
def heatFactor (margin : Int) : Nat := (min 1000000 (max 62500 (1000000 - (3000 - margin) * 250))).toNat

/-- Stacking factor in parts per million: `a` is the fraction, in parts per million, of beats in which the tile below fired (R363). -/
def stackFactor (margin : Int) (a : Nat) : Nat := if margin < 8000 then 1000000 - min a 1000000 / 2 else 1000000

/-- A grant: max(1, ceil(16 × g × s)) (R363). -/
def heatGrant (g s : Nat) : Nat := max 1 ((16 * g * s + 10 ^ 12 - 1) / 10 ^ 12)

/-- Margin of a column in a layer (R363). -/
def DiePow.margin (x : DiePow) (d c l : Nat) : Int := layerLimit l - x.column d c l

/-- Lowest thermal factor of a region (R363). -/
def DiePow.regionFactor (x : DiePow) (d r : Nat) : Nat :=
  ((List.range 36).map (fun i =>
    min (heatFactor (x.margin d (36 * r + i) 1)) (heatFactor (x.margin d (36 * r + i) 2)))).foldl min (heatFactor (x.margin d (36 * r) 0))

/-- HEAT_TOKEN_PLAN (R363): `busy` gives, by column, the parts per million of the last window's beats with a matrix firing below. -/
def Main.heatPlan (m : Main) (d : Nat) (busy : List Nat) : Main :=
  let x := m.dpAt d
  let grant (l c : Nat) : BitVec 5 := BitVec.ofNat 5 (heatGrant (heatFactor (x.margin d c l)) (stackFactor (x.margin d c l) (busy.getD c 0)))
  let hour := m.sec / 3600 + 1
  let low := (List.range 8).filter (fun r => x.regionFactor d r < 1000000)
  let m := m.updDp d (fun x => { x with
    grantLo := (List.range 288).map (fun c => (c, grant 1 c))
    grantHi := (List.range 288).map (fun c => (c, grant 2 c))
    fireReg := (List.range 8).map (fun r => (r, BitVec.ofNat 5 ((16 * x.regionFactor d r + 999999) / 1000000)))
    throttled := low.foldl (fun t r => t ||| (1 <<< r)) 0 })
  low.foldl (fun m r =>
    if (m.dpAt d).hour4304.get r = hour then m
    else (m.updDp d (fun x => { x with hour4304 := x.hour4304.put r hour })).log!
      { code := 0x4304, cls := .rec_, die := some d, par := p1 d ++ p1 r }) m

def execHeatTokenPlan (d : Fin 4) (busy : List Nat) : State → Host.Outcome State Fault Refusal := onMain (byCore 2 (fun m => m.heatPlan d.val busy))

/-- DIE_THERMAL_CEILING_STEP (R343, R364): lowered after 10 ms with a factor below 1, raised after 100 ms with margin; a paced die
skips beats instead. -/
def Main.ceilingStep (m : Main) (d : Nat) : Main :=
  let x := m.dpAt d
  if x.throttled != 0 then
    if x.ceilTherm = 0 then m.updDp d (fun x => { x with fireTherm := if x.fireTherm > 1 && x.paceF != 0 then x.fireTherm - 1 else x.fireTherm })
    else
      (m.updDp d (fun x => { x with
        ceilTherm := x.ceilTherm - 1
        fireTherm := if x.fireTherm > 1 && x.paceF != 0 then x.fireTherm - 1 else x.fireTherm })).log!
        { code := 0x4305, cls := .rec_, die := some d, par := p1 d }
  else if x.cool then
    m.updDp d (fun x => { x with
      ceilTherm := if x.ceilTherm < 6 then x.ceilTherm + 1 else x.ceilTherm
      fireTherm := if x.fireTherm < 16 then x.fireTherm + 1 else x.fireTherm })
  else m

def execDieThermalCeilingStep (d : Fin 4) : State → Host.Outcome State Fault Refusal := onMain (byCore 2 (fun m => m.ceilingStep d.val))

/-- REGION_PARKED_AT_CRITICAL_TEMPERATURE (R364). -/
def execRegionParkedAtCriticalTemperature (d : Fin 4) (r : Fin 8) : State → Host.Outcome State Fault Refusal :=
  onMain (fun m =>
    if (m.dpAt d.val).parkHot.getLsbD r.val then m
    else ((m.updDp d.val (fun x => { x with parkHot := x.parkHot ||| (1#8 <<< r.val) })).reparked d.val).log!
      { code := 0x4306, cls := .rec_, die := some d.val, par := p1 d.val ++ p1 r.val })

/-- HARDWARE_THERMAL_TRIP (R364, R392): the die is off until a reset, and THERMTRIP# is asserted. -/
def Main.thermTrip (m : Main) (d : Nat) : Main :=
  if (m.dieAt d).tripped then m
  else
    let m := (m.log! { code := 0x4307, cls := .flt, die := some d, par := p1 d }).send .thermtrip
    let m := ((((m.tripRun d).drain d).unhold d).dropTails d).forceGone d
    ((m.updDie d (fun v => { v with tripped := true, staged := [] })).toIdle d).setState .halted

def execHardwareThermalTrip (d : Fin 4) : State → Host.Outcome State Fault Refusal := onMain (fun m => m.thermTrip d.val)

/-- THERMAL_STATUS, 0x0407 (R370). -/
def Main.thermalStatus (p : Payload) (m : Main) : Reply :=
  let d := bvAt p 0 1
  let sel := bvAt p 1 1
  if d > 3 || sel > 2 then reject m 2
  else
    let x := m.dpAt d
    let t := if sel = 0 then x.reading else if sel = 1 then x.model else x.govern
    let trust := ((List.range 24).map (fun s => (if x.diodeRet.getLsbD s then 2 else if x.distrust.getLsbD s then 1 else 0) * 4 ^ s)).sum
    ok m ((List.range 24).map (fun s => (s, 1, degrees (t.get s))) ++ [(24, 6, trust)])

def execThermalStatus (h : Hdr) (p : Payload) : State → Host.Outcome State Fault Refusal :=
  onMain (fun m => m.command 0x0407 h p [(0, 2)] (Main.thermalStatus p) (reads := true)
    (owned := m.owns h.src (m.variant.diePart (bvAt p 0 1 % 4))))

end Sys2Proof.Machine
end

