-- ==== Sys2Proof/Machine/Meter.lean ====
section
/-! DEFINITION. The Jarzesa meter, its records and log, and the mirror on the main side (R372–R386). -/

namespace Sys2Proof.Machine

/-! ### The meter -/

/-- Writes a metrological log entry: the first 1,024 are kept, the others only counted (R381). -/
def Meter.enter (t : Meter) (code : U16) : Meter :=
  let e : MLog := { code := code, pcyc := t.pcyc, secs := t.secs, energy := t.energy }
  { t with log := if t.log.length < 1024 then t.log ++ [e] else t.log, written := t.written + 1 }

/-- Enters an event on a condition. -/
def Meter.enterIf (t : Meter) (c : Bool) (code : U16) : Meter := if c then t.enter code else t

/-- Adds imported energy in µJ to the register, which never decreases (R372): 3,600,000 µJ are 1 mWh; at the top it stays (log 100). -/
def Meter.register (t : Meter) (uj : Nat) : Meter :=
  let n := t.part + uj
  let e := min (2 ^ 64 - 1) (t.energy.toNat + n / 3600000)
  let k := e / 100 - t.energy.toNat / 100
  { t with energy := BitVec.ofNat 64 e, part := n % 3600000, pulse := t.pulse || k != 0, pulses := t.pulses + k }

/-- One millisecond of the meter's own operating time (R374). -/
def Meter.clock (t : Meter) : Meter :=
  if t.ms + 1 = 1000 then { t with ms := 0, secs := t.secs + 1 } else { t with ms := t.ms + 1 }

/-- Voltage outside 48–58 V and current above 80 A: flags at once, log entries after more than 1 s (R379, R381). -/
def Meter.range (t : Meter) (volt curr : U32) : Meter :=
  let v : Bool := volt.toNat < 48000 || 58000 < volt.toNat
  let c : Bool := 80000 < curr.toNat
  let vf := if v then t.voltFor + 1 else 0
  let cf := if c then t.currFor + 1 else 0
  ({ t with fVolt := t.fVolt || v, fCurr := t.fCurr || c, voltFor := vf, currFor := cf }.enterIf (vf = 1001) 3).enterIf (cf = 1001) 4

/-- METER_UPDATE (R372, R381, R382): one update of 1 ms with the energy imported in it, in µJ, and its mean power in mW, voltage in mV
and current in mA. Current flowing back is not registered: `imported` is what flowed in. -/
def execMeterUpdate (imported : Nat) (power volt curr : U32) : State → Host.Outcome State Fault Refusal :=
  onMeter (fun t =>
    if !t.running then t
    else
      let u := (t.register imported).clock
      { u with power := power, volt := volt, curr := curr }.range volt curr)

/-- VERIFICATION_PULSE_END (R382). -/
def execVerificationPulseEnd : State → Host.Outcome State Fault Refusal := onMeter (fun t => { t with pulse := false })

/-- A broken wire is logged once and flagged for good (R376). -/
def Meter.broken (t : Meter) : Meter := if t.cover then t else { t with cover := true }.enter 5

/-- METER_START (R374, R376, R381): `broken` is the break-wire as read, `selfTest` that the self-test fails. -/
def execMeterStart (broken : Bool) (selfTest : Bool) : State → Host.Outcome State Fault Refusal :=
  onMeter (fun t =>
    if t.running then t
    else
      let u := { t with running := true, pcyc := t.pcyc + 1, ms := 0, voltFor := 0, currFor := 0, fTest := selfTest }.enter 1
      let u := if broken then u.broken else u
      u.enterIf selfTest 6)

/-- METER_SUPPLY_LOSS (R374, R381): the register is saved and the meter stops. -/
def execMeterSupplyLoss : State → Host.Outcome State Fault Refusal :=
  onMeter (fun t => if t.running then { t with running := false, fSupply := true, pulse := false }.enter 2 else t)

/-- COVER_OPENED (R376): read while the meter runs; a break while it is off is read at its start. -/
def execCoverOpened : State → Host.Outcome State Fault Refusal := onMeter (fun t => if t.running then t.broken else t)

/-- The flags field (R379). -/
def Meter.flags (t : Meter) : Nat :=
  t.fVolt.toNat + 2 * t.fCurr.toNat + 4 * t.cover.toNat + 8 * t.fSupply.toNat + 16 * t.fTest.toNat +
    (if 1024 ≤ t.log.length then 32 else 0)

/-- Bytes 0–159 of an energy record (R379). -/
def Meter.record (t : Meter) (nonce : BitVec 256) : List Byte :=
  p4 0x4A5A5231 ++ p2 1 ++ p2 t.flags ++ bvBytes Config.meterSerial 16 ++ p4 t.seq.toNat ++ p4 t.secs.toNat ++ p4 t.pcyc.toNat ++
    bvBytes nonce 32 ++ p8 t.energy.toNat ++ p4 t.power.toNat ++ p4 t.volt.toNat ++ p4 t.curr.toNat ++ p4 t.written.toNat ++ p4 0 ++
    bytesAt Config.meterHash 0 64

def Meter.answer (t : Meter) (o : MOut) : Meter := { t with out := o :: t.out }

/-- READ_ENERGY_RECORD (R378, R379): the record takes the next sequence number and the flags since the last record. -/
def execReadEnergyRecord (nonce : BitVec 256) : State → Host.Outcome State Fault Refusal :=
  onMeter (fun t =>
    if !t.running then t
    else
      let u := { t with seq := t.seq + 1 }
      { u with fVolt := false, fCurr := false, fSupply := false }.answer (.vendor (p1 0 ++ u.record nonce) true))

/-- The 24 bytes of a log entry (R381). -/
def MLog.bytes (e : MLog) : List Byte :=
  p2 e.code.toNat ++ toBytes 3 e.pcyc.toNat ++ toBytes 3 0 ++ p4 e.secs.toNat ++ p4 0 ++ p8 e.energy.toNat

/-- READ_LOG (R378, R381): the entries that exist of `count` from `first`; status 0x01 for a count outside 1–8 (log 100). -/
def execReadLog (nonce : BitVec 256) (first : U16) (count : Byte) : State → Host.Outcome State Fault Refusal :=
  onMeter (fun t =>
    if !t.running then t
    else if count.toNat = 0 || 8 < count.toNat then t.answer (.vendor (p1 1) false)
    else t.answer (.vendor (p1 0 ++ toBytes 3 0 ++ bvBytes Config.meterSerial 16 ++ bvBytes nonce 32 ++
      ((t.log.drop first.toNat).take count.toNat).flatMap MLog.bytes) true))

/-- METER_IDENTITY (R378); the nonce enters nothing, since the answer is unsigned. -/
def execMeterIdentity (_nonce : BitVec 256) : State → Host.Outcome State Fault Refusal :=
  onMeter (fun t =>
    if !t.running then t
    else t.answer (.vendor (p1 0 ++ bvBytes Config.meterSerial 16 ++ bvBytes Config.meterName 16 ++ p4 Config.meterVersion.toNat ++
      bytesAt Config.meterHash 0 64) false))

/-- The SPDM answers of the meter: versions, its own chain, its digest and its single measurement (R377; codes of log 101). -/
def Meter.spdm (code : Byte) (body : List Byte) : MOut :=
  match code.toNat with
  | 0x84 => .spdm 0x04 [0x12, 0x13] false
  | 0xE1 => .spdm 0x61 [] false
  | 0xE3 => .spdm 0x63 [] false
  | 0x81 => .spdm 0x01 (Config.sha3 Config.meterChain) false
  | 0x82 => .spdm 0x02 ((Config.meterChain.drop (natAt body 1 2)).take (natAt body 3 2)) false
  | 0x83 => .spdm 0x03 (Config.sha3 Config.meterChain ++ bytesAt body 1 32) true
  | 0xE0 => .spdm 0x60 (bytesAt Config.meterHash 0 64 ++ bytesAt body 1 32) true
  | _ => .spdmError

/-- METER_SPDM_REQUEST (R377). -/
def execMeterSpdmRequest (code : Byte) (body : List Byte) : State → Host.Outcome State Fault Refusal :=
  onMeter (fun t => if t.running then t.answer (Meter.spdm code body) else t)

/-! ### The mirror -/

def Main.updMir (m : Main) (f : Mirror → Mirror) : Main := { m with mir := f m.mir }

/-- The hourly advisory of dropped frames (R386). -/
def Main.mirrorAdvise (m : Main) : Main :=
  let hour := m.sec / 3600 + 1
  if m.mir.dropped.toNat = m.mir.advised || m.mir.hour = hour then m
  else (m.updMir (fun r => { r with advised := r.dropped.toNat, hour := hour })).log!
    { code := 0xA003, cls := .adv, par := p4 m.mir.dropped.toNat }

/-- A good frame: its values, the end of a loss, and flags not yet recorded in this power cycle (R383, R384, R386). -/
def Main.mirrorTake (m : Main) (energy : U64) (gain flags : Nat) (seq power volt curr : U32) : Main :=
  let fresh : BitVec 6 := BitVec.ofNat 6 flags &&& ~~~m.mir.logged
  let was := m.mir.lost
  let m := m.updMir (fun r => { r with
    energy := energy, power := power, volt := volt, curr := curr, flags := BitVec.ofNat 16 flags, seq := seq, lost := false
    gain := BitVec.ofNat 32 gain
    logged := r.logged ||| fresh })
  let m := if was then m.log! { code := 0xA002, cls := .rec_ } else m
  ((List.range 6).filter fresh.getLsbD).foldl (fun m _ => m.log! { code := 0xA004, cls := .rec_, par := p2 flags }) m

/-- MIRROR_FRAME (R383, R384): the one path from the meter to the main side. `good` says that its CRC-32C holds; power, voltage and
current are means over 10 ms. -/
def execMirrorFrame (seq : U32) (power volt curr : U32) (good : Bool) (s : State) : Host.Outcome State Fault Refusal :=
  if !s.meter.running || !s.main.sup.aux then .next s
  else
    let gain := s.meter.energy.toNat - s.meter.framed.toNat
    let m := if good then s.main.mirrorTake s.meter.energy gain s.meter.flags seq power volt curr
      else s.main.updMir (fun r => { r with dropped := r.dropped + 1 })
    .next { s with main := m.mirrorAdvise, meter := { s.meter with framed := s.meter.energy } }

/-- MIRROR_LOST (R384): any refit in progress is abandoned. -/
def Main.mirrorLost (m : Main) : Main :=
  if m.mir.lost || !m.sup.aux then m
  else ((m.updMir (fun r => { r with lost := true })).updPow (fun w => { w with refit := false })).log! { code := 0xA001, cls := .rec_ }

def execMirrorLost : State → Host.Outcome State Fault Refusal := onMain Main.mirrorLost

/-- METER_MIRROR_STATUS, 0x0420 (R385). -/
def execMeterMirrorStatus (h : Hdr) (p : Payload) : State → Host.Outcome State Fault Refusal :=
  onMain (fun m => m.command 0x0420 h p [] (fun m =>
    ok m [(0, 8, m.mir.energy.toNat), (8, 4, m.mir.power.toNat), (12, 4, m.mir.volt.toNat), (16, 4, m.mir.curr.toNat),
      (20, 2, m.mir.flags.toNat), (22, 1, m.mir.lost.toNat), (24, 4, m.mir.dropped.toNat), (28, 4, m.mir.seq.toNat)]) (reads := true))

end Sys2Proof.Machine
end

