-- ==== Sys2Proof/Machine/Bar0.lean ====
section
/-! DEFINITION. BAR0, interrupts, the summary and snapshot blocks, mailboxes and the device commands (R12, R390–R400, R408). -/

namespace Sys2Proof.Machine

/-! ### Status -/

def DevState.num : DevState → Nat
  | .romBoot => 0 | .auxOnly => 1 | .starting => 2 | .ready => 3 | .degraded => 4 | .recovery => 5 | .halted => 6

/-- A tile, column, channel, lane or port is retired (R392, R484). -/
def Main.reduced (m : Main) : Bool :=
  m.tile.any (fun t => t.2.retired) || m.sram.any (fun s => s.2.retired != []) || m.hbm.any (fun s => s.2.retired != 0 || s.2.offline) ||
  m.fab.port.any (fun p => p.2.laneRet != 0 || p.2.retired)

/-- Some partition is sealed (R392 SEALED). -/
def Main.anySealed (m : Main) : Bool := m.variant.parts.any m.sealed

/-- The status register (R392). -/
def Main.statusReg (m : Main) : Nat :=
  m.sup.state.num + m.sup.stage.toNat * 2 ^ 4 + m.anySealed.toNat * 2 ^ 8 + m.sup.tlock.toNat * 2 ^ 9 + m.sup.recov.toNat * 2 ^ 10 +
  m.fw.active.toNat * 2 ^ 11 + ((List.range 4).map (fun c => (m.core.get c).runs.toNat * 2 ^ (12 + c))).sum + m.reduced.toNat * 2 ^ 16

/-- TICK (R392). -/
def Main.tickNow (m : Main) : Nat := m.ms % 2 ^ 32

/-- Manifest version of a bank (R449). -/
def Bank.version (b : Bank) : Nat := natAt b.manifest 12 4

/-- The active bank (R392, R456). -/
def Firm.bank (f : Firm) (b : Bool) : Bank := if b then f.bankB else f.bankA

/-- Part number in ASCII (R1, R408). -/
def Variant.name : Variant → Nat
  | .oa82 => 0x003238414F2D4B52
  | .oa101 => 0x313031414F2D4B52
  | .oa63 => 0x003336414F2D4B52

/-- 0x0101 (R408). -/
def Main.identity (m : Main) : Reply :=
  ok m [(0, 8, m.variant.name), (8, 16, m.serial.toNat), (24, 1, m.variant.code), (25, 1, 3), (26, 2, 1),
    (28, 4, if m.sup.state = .recovery || !m.fw.booted then 0 else (m.fw.bank m.fw.active).version)]

/-- DEVICE_IDENTITY, 0x0101 (R408). -/
def execDeviceIdentity (h : Hdr) (p : Payload) : State → Host.Outcome State Fault Refusal :=
  onMain (fun m => m.command 0x0101 h p [] Main.identity (reads := true))

/-- 0x0102 (R392, R408). -/
def Main.devStatus (p : Payload) (m : Main) : Reply :=
  match bvAt p 0 1 with
  | 0 => ok m [(0, 8, m.statusReg), (8, 4, m.opsec.toNat), (12, 3, m.pcyc.toNat), (16, 4, m.tickNow), (20, 4, m.cmds.toNat),
      (24, 4, m.log.next.toNat), (28, 2, m.log.recs.length), (30, 1, m.log.full.toNat)]
  | 1 => ok m [(0, 2, m.log.fcode.toNat), (2, 4, m.log.fseq.toNat)]
  | _ => reject m 2

/-- DEVICE_STATUS, 0x0102 (R408): executed in every state. -/
def execDeviceStatus (h : Hdr) (p : Payload) : State → Host.Outcome State Fault Refusal :=
  onMain (fun m => m.command 0x0102 h p [(0, 1)] (Main.devStatus p) (reads := true) (anyState := true))

/-! ### Interrupt, summary and snapshot blocks -/

def Main.updIntr (m : Main) (f : Intr → Intr) : Main := { m with intr := f m.intr }

/-- A commit of the vector map (R393). -/
def Main.vmapCommit (m : Main) : Main := m.updIntr (fun i => { i with vmap := i.stVmap, gen := i.gen + 1 })

/-- A write to the interrupt control register (R393). -/
def Main.intrCtl (m : Main) (v : U64) : Main := if v.getLsbD 0 then m.vmapCommit else m

/-- INTERRUPT_COMMIT (R393). -/
def execInterruptCommit (v : U64) : State → Host.Outcome State Fault Refusal := onMain (fun m => m.intrCtl (v ||| 1))

/-- The rules of a staged block of R395 reject its commit now. -/
def Main.blockRejects (m : Main) (b : Nat) : Bool :=
  match b with
  | 0 => m.regBad.isSome
  | 1 => (List.range 8).any m.engBad
  | 2 => m.paceFirst.isSome
  | 3 => m.powBad != 0
  | _ => false

/-- The commit of a staged block of R395: applied, or rejected with its reason fields. -/
def Main.blockCommit (m : Main) (b : Nat) : Main :=
  match b with
  | 0 => m.regCommit
  | 1 => m.copyCommit
  | 2 => m.paceCommit
  | 3 => m.powCommit
  | _ => m.vmapCommit

/-- A multi-commit: every named block, or, where one would reject, the rejections alone (R395). -/
def Main.multiCommit (m : Main) (v : U64) : Main :=
  let named := (List.range 5).filter v.getLsbD
  let bad := named.filter m.blockRejects
  (if bad = [] then named else bad).foldl Main.blockCommit m

/-- MULTI_COMMIT (R395). -/
def execMultiCommit (v : U64) : State → Host.Outcome State Fault Refusal := onMain (fun m => m.multiCommit v)

/-- A global snapshot: this block's registers and every SN field of BAR0 (R396). -/
def Main.globalSnap (m : Main) : Main :=
  let s : Snap := { sseq := m.snap.sseq + 1, sopsec := m.opsec, stick := BitVec.ofNat 32 m.ms, scmds := m.cmds, snext := m.log.next }
  (({ m with snap := s }.regSnap).beatSnap).powSnap

/-- A write to the snapshot control register (R396). -/
def Main.snapCtl (m : Main) (v : U64) : Main := if v.getLsbD 0 then m.globalSnap else m

/-- GLOBAL_SNAPSHOT (R396). -/
def execGlobalSnapshot (v : U64) : State → Host.Outcome State Fault Refusal := onMain (fun m => m.snapCtl (v ||| 1))

/-! ### Host mailboxes -/

def Main.updBox (m : Main) (k : Nat) (f : Mailbox → Mailbox) : Main := { m with box := m.box.upd k f }

/-- VEC of a mailbox, m + 1 after reset (R397). -/
def Main.boxVec (m : Main) (k : Nat) : BitVec 6 := ((m.box.get k).vec).getD (BitVec.ofNat 6 (k + 1))

/-- A write to a mailbox control register (R397–R399, R430): DONE is W1C, CIE, CMEM and VEC are taken, and GO hands the mailbox over. -/
def Main.boxCtl (m : Main) (k : Nat) (v : U64) : Main :=
  let m := m.updBox k (fun b => { b with
    done := b.done && !v.getLsbD 2, cie := v.getLsbD 3, cmem := v.getLsbD 4, vec := some (v.extractLsb' 8 6) })
  let b := m.box.get k
  if !v.getLsbD 0 || b.own || b.bound then m
  else
    (m.updBox k (fun b => { b with
      own := true, done := false, lCie := b.cie, lCmem := b.cmem, lVec := v.extractLsb' 8 6, lOffs := b.offs })).handOver
      (.host (BitVec.ofNat 4 k)) b.cmd

/-- MAILBOX_GO (R398). -/
def execMailboxGo (m : BitVec 4) (v : U64) : State → Host.Outcome State Fault Refusal := onMain (fun x => x.boxCtl m.toNat (v ||| 1))

/-- Steps 6 and 7 of R398 for a host mailbox; with `visible` false the completion write fails on port A and is dropped (R399). -/
def Main.completeHost (m : Main) (k : Nat) (r : Resp) (visible : Bool) : Main :=
  let b := m.box.get k
  let out := r.bytes (b.seq + 1) m.us
  let m := if b.lCmem && visible then (m.daPut 4 (hostBase + b.lOffs.toNat * 64) (bvBytes out 64)).1 else m
  let m := m.updBox k (fun b => { b with resp := out, seq := b.seq + 1, done := true, own := false })
  if b.lCie then m.send (.msix b.lVec) else m

/-- A tenant command's completion: its response goes to the session, SEQ, DONE and MSI-X to the partition's first bound mailbox
(R430, R432; log 48). -/
def Main.completeTenant (m : Main) (p : Nat) (r : Resp) : Main :=
  let k := 3 * p
  let b := m.box.get k
  let m := (m.updBox k (fun b => { b with seq := b.seq + 1, done := true })).send (.tenant (0 :: bvBytes (r.bytes (b.seq + 1) m.us) 64))
  if b.cie then m.send (.msix (m.boxVec k)) else m

/-- COMMAND_COMPLETION (R398, R400): the oldest response is written; nothing is written while its core is stopped (R387). -/
def Main.completeNext (m : Main) (visible : Bool) : Main :=
  match m.resps with
  | [] => m
  | r :: rest =>
    let rom : Bool := m.sup.state = .recovery
    let next : Main := { m with resps := rest, cmds := m.cmds + 1 }
    if !((m.core.get 0).runs || rom) then m
    else
      let (next, r) := next.poolDone r
      match r.src with
      | .host k => next.completeHost k.toNat r visible
      | .tenant p => next.completeTenant p.toNat r
      | .side k =>
        if !((m.core.get 3).runs || rom) then m
        else
          let b := m.side.get k.toNat
          let out := r.bytes (b.seq + 1) m.us
          { next with side := m.side.put k.toNat { busy := false, seq := b.seq + 1, resp := out } }.send (.side (k.setWidth 8) 0x81 out)

def execCommandCompletion (visible : Bool) : State → Host.Outcome State Fault Refusal := onMain (fun m => m.completeNext visible)

/-- The side-band answers: core 3 runs, or ROM in recovery (R387, R460). -/
def Main.sideUp (m : Main) : Bool := m.sup.aux && ((m.core.get 3).runs || m.sup.state = .recovery)

/-- SIDEBAND_MAILBOX_REQUEST (R400): `body` is the message from its code byte on; taken only from the endpoint that assigned the ID. -/
def Main.sideRequest (m : Main) (eid : Byte) (body : List Byte) : Main :=
  let k := natAt body 1 1
  if !m.sideUp || m.sb.eid = 0 || eid != m.sb.owner then m
  else if body.length != 66 || natAt body 0 1 != 1 || 3 < k then m.send (.side (BitVec.ofNat 8 k) 0x83 0)
  else if (m.side.get k).busy then m.send (.side (BitVec.ofNat 8 k) 0x82 0)
  else { m with side := m.side.upd k (fun b => { b with busy := true }) }.handOver (.side (BitVec.ofNat 2 k)) (bvOf 512 (body.drop 2))

def execSidebandMailboxRequest (eid : Byte) (body : List Byte) : State → Host.Outcome State Fault Refusal :=
  onMain (fun m => m.sideRequest eid body)

/-! ### Register writes -/

/-- Replaces `n` bytes at offset `o` of a 64-byte buffer. -/
def putBytes (b : BitVec 512) (o n : Nat) (v : BitVec 512) : BitVec 512 :=
  let mask : BitVec 512 := (((1 : BitVec 512) <<< (8 * n)) - 1) <<< (8 * o)
  (b &&& ~~~mask) ||| ((v <<< (8 * o)) &&& mask)

/-- Bits [31:0] of a regulator configuration register (R183). -/
def RegCfg.bits (c : RegCfg) : Nat := c.guar.toNat + c.ceil.toNat * 2 ^ 8 + c.burst.toNat * 2 ^ 16 + c.en.toNat * 2 ^ 31

/-- The Flywheel register (R368). -/
def FlyCfg.bits (f : FlyCfg) : Nat :=
  f.en.toNat + f.bal.toNat * 2 + f.ramp.toNat * 2 ^ 2 + f.floor.toNat * 2 ^ 10 + f.win.toNat * 2 ^ 17 + f.start.toNat * 2 ^ 25 +
  f.stop.toNat * 2 ^ 33 + f.offm.toNat * 2 ^ 41 + f.offv.toNat * 2 ^ 42

/-- A register's RW or ST fields with the half or whole that a write covers replaced (R391). -/
def merged (cur : Nat) (v mask : U64) : U64 := (BitVec.ofNat 64 cur &&& ~~~mask) ||| (v &&& mask)

/-- A write to a register of host mailbox `k` (R397, R399). -/
def Main.boxWrite (m : Main) (k o : Nat) (v mask : U64) : Main :=
  let b := m.box.get k
  if o = 0x80 && mask.getLsbD 0 then m.boxCtl k v
  else if o = 0x88 then
    m.updBox k (fun x => { x with offs := (merged (b.offs.toNat * 64) v mask).extractLsb' 6 38 })
  else m

/-- A write to a register of the memory-regulator block (R183). -/
def Main.regWrite (m : Main) (o : Nat) (v mask : U64) : Main :=
  let n := (o - 0x100) / 0x40
  let p := (o - 0x100) / 0x10 % 4
  if o = 0 then m.regCtl (v &&& mask)
  else if o < 0x100 || n ≥ m.variant.stacks || o % 0x10 != 0 then m
  else
    m.updHbm n (fun s => { s with reg := s.reg.upd p (fun r =>
      { r with staged := RegCfg.of ((merged r.staged.bits v mask).extractLsb' 0 32) }) })

/-- A write to a register of the copy-engine block (R325). -/
def Main.copyRegWrite (m : Main) (o : Nat) (v mask : U64) : Main :=
  let e := (o - 0x100) / 0x40
  if o = 0 then m.copyCtl (v &&& mask)
  else if o < 0x100 || e ≥ 8 then m
  else
    match (o - 0x100) % 0x40 with
    | 0x00 => m.updEng e (fun x => { x with stBase := (merged (x.stBase.toNat * 4096) v mask).extractLsb' 12 44 })
    | 0x08 => m.updEng e (fun x =>
        let w := merged (x.stSize.toNat + x.stEn.toNat * 16 + x.stVec.toNat * 2 ^ 16) v mask
        { x with stSize := w.extractLsb' 0 4, stEn := w.getLsbD 4, stVec := w.extractLsb' 16 6 })
    | 0x10 => if mask.getLsbD 0 then (m.updEng e (fun x => { x with tail := v.extractLsb' 0 16 })).copyPump e 4 else m
    | _ => m

/-- A write to a register of the beat and pace block (R346). -/
def Main.beatWrite (m : Main) (o : Nat) (v mask : U64) : Main :=
  let d := (o - 0x100) / 0x40
  if o = 0 then m.beatCtl (v &&& mask)
  else if o < 0x100 || d ≥ 4 || o % 0x40 != 0 then m
  else
    m.updDp d (fun x =>
      let w := merged (x.stEn.toNat + x.stPace.toNat * 2 ^ 8) v mask
      { x with stEn := w.getLsbD 0, stPace := w.extractLsb' 8 8 })

/-- A write to a register of the power and load block (R368). -/
def Main.powWrite (m : Main) (o : Nat) (v mask : U64) : Main :=
  match o with
  | 0x000 => m.powCtl (v &&& mask)
  | 0x100 => m.updPow (fun w => { w with stFly := FlyCfg.of (merged w.stFly.bits v mask) })
  | 0x108 =>
    let w := merged (m.capOf m.pow.stHost + m.pow.stHost.boost.toNat * 2 ^ 12) v mask
    let c : CapCfg := { cap := some (w.extractLsb' 0 12), boost := w.getLsbD 12 }
    m.updPow (fun x => { x with stHost := c })
  | 0x110 =>
    (List.range 4).foldl (fun m d => m.updDp d (fun x => { x with
      stCap := (merged (x.stCap.toNat * 2 ^ (16 * d)) v mask).extractLsb' (16 * d) 12 })) m
  | _ => m

/-- A write to the 8-byte register at offset `r`; `mask` is the half or whole that is written. Everything else ignores writes
(R12, R390, R391). -/
def Main.regSet (m : Main) (r : Nat) (v mask : U64) : Main :=
  let o := r % 0x1000
  match r / 0x1000 with
  | 0x01 =>
    match o with
    | 0x00 => m.updIntr (fun i => { i with cause := i.cause &&& ~~~((v &&& mask).extractLsb' 0 8) })
    | 0x08 => m.updIntr (fun i => { i with en := (merged i.en.toNat v mask).extractLsb' 0 8 })
    | 0x10 => m.updIntr (fun i => { i with stVmap := (merged i.stVmap.toNat v mask).extractLsb' 0 48 })
    | 0x18 => m.intrCtl (v &&& mask)
    | _ => m
  | 0x02 => if o = 8 then m.multiCommit (v &&& mask) else m
  | 0x03 => if o = 0 then m.snapCtl (v &&& mask) else m
  | 0x10 => m.boxWrite (o / 0x100) (o % 0x100) v mask
  | 0x20 => m.regWrite o v mask
  | 0x21 => m.copyRegWrite o v mask
  | 0x22 => m.beatWrite o v mask
  | 0x23 => m.powWrite o v mask
  | _ => m

/-- An access that R391 does not accept: event 0xF004, at most once per second. -/
def Main.malformed (m : Main) (off : Nat) : Main := m.logRate 1 0 { code := 0xF004, cls := .adv, par := p8 off }

/-- The offset lies in a mailbox command buffer. -/
def inCmd (off : Nat) : Bool := 0x10000 ≤ off && off < 0x11000 && off % 0x100 < 0x40

/-- The offset lies in the MSI-X table (R390). -/
def inMsix (off : Nat) : Bool := 0x3F0000 ≤ off && off < 0x3F0400

/-- REGISTER_WRITE (R12, R390, R391): command buffers and the MSI-X table take 4 to 64 bytes, registers 4 or 8, naturally aligned. -/
def Main.barWrite (m : Main) (off size : Nat) (v : BitVec 512) : Main :=
  let wide : Bool := inCmd off || inMsix off
  if !([4, 8, 16, 32, 64].contains size) || off % size != 0 || (8 < size && !wide) then m.malformed off
  else if inCmd off then
    let k := (off - 0x10000) / 0x100
    if (m.box.get k).own || (m.box.get k).bound then m
    else m.updBox k (fun b => { b with cmd := putBytes b.cmd (off % 0x100) size v })
  else if inMsix off then
    m.updIntr (fun i => { i with table := (List.range size).foldl (fun t j => cellPut t (off - 0x3F0000 + j) (bvByte v j)) i.table })
  else
    let sh := 8 * (off % 8)
    let mask : U64 := if size = 8 then 0xFFFFFFFFFFFFFFFF else 0xFFFFFFFF <<< sh
    m.regSet (off / 8 * 8) ((v.setWidth 64) <<< sh) mask

def execRegisterWrite (off : BitVec 22) (size : BitVec 7) (v : BitVec 512) : State → Host.Outcome State Fault Refusal :=
  onMain (fun m => m.barWrite off.toNat size.toNat v)

end Sys2Proof.Machine
end

