-- ==== Sys2Proof/Machine/RingCmds.lean ====
section
/-! DEFINITION. The ring-log commands, authorisations and the flash copy (R462, R465, R468–R471). -/

namespace Sys2Proof.Machine

def Main.updLog (m : Main) (f : RingLog → RingLog) : Main := { m with log := f m.log }

/-- 0x0701 (R468). -/
def Main.readRecord (p : Payload) (m : Main) : Reply :=
  match m.log.recs[bvAt p 0 4]? with
  | some r => (m, 0, r.bits)
  | none => reject m 2

/-- READ_RECORD, 0x0701 (R468). -/
def execReadRecord (h : Hdr) (p : Payload) : State → Host.Outcome State Fault Refusal :=
  onMain (fun m => m.command 0x0701 h p [(0, 4)] (Main.readRecord p) (reads := true))

/-- SEQ of a record (R463). -/
def LogRec.seq (r : LogRec) : Nat := (r.bits.extractLsb' 32 32).toNat

/-- RING_LOG_STATUS, 0x0702 (R468). -/
def execRingLogStatus (h : Hdr) (p : Payload) : State → Host.Outcome State Fault Refusal :=
  onMain (fun m => m.command 0x0702 h p [] (fun m =>
    let l := m.log
    ok m [(4, 4, l.next.toNat), (8, 4, l.recs.length), (12, 4, (l.recs.headD {}).seq), (16, 4, l.lost.toNat), (20, 4, l.clears.toNat),
      (24, 1, l.full.toNat + 2 * l.key.isSome.toNat)]) (reads := true))

/-! ### Authorisations -/

/-- The staging buffer of a requester (R470). -/
def Main.staged (m : Main) (side : Bool) : List (Nat × Byte) := if side then m.log.stageS else m.log.stageH
def Main.setStaged (m : Main) (side : Bool) (b : List (Nat × Byte)) : Main :=
  m.updLog (fun l => if side then { l with stageS := b } else { l with stageH := b })

/-- GET_NONCE, 0x0704 (R470): fresh random bits, which are a free value. -/
def execGetNonce (h : Hdr) (p : Payload) : State → Host.Outcome State Fault Refusal :=
  onMain (fun m => m.command 0x0704 h p [] (fun m =>
    let n : BitVec 128 := (Config.random m.draws).setWidth 128
    ok ((m.draw.updLog (fun l => { l with nonce := some n })).setStaged (Src.isSide h.src) []) [(8, 16, n.toNat)]))

/-- NONCE_EXPIRY (R470). -/
def execNonceExpiry : State → Host.Outcome State Fault Refusal := onMain (fun m => m.updLog (fun l => { l with nonce := none }))

/-- 0x0705: chunk `k` fills bytes 24k to 24k + 23, of which 242 to 263 must be 0 (R470). -/
def Main.stageAuth (h : Hdr) (p : Payload) (m : Main) : Reply :=
  let k := bvAt p 0 1
  if 10 < k || (k = 10 && bvAt p 10 22 != 0) then reject m 2
  else
    let side := Src.isSide h.src
    ok (m.setStaged side ((List.range 24).foldl (fun b i => cellPut b (24 * k + i) (bvByte p (8 + i))) (m.staged side))) []

/-- STAGE_AUTHORISATION, 0x0705 (R470). -/
def execStageAuthorisation (h : Hdr) (p : Payload) : State → Host.Outcome State Fault Refusal :=
  onMain (fun m => m.command 0x0705 h p [(0, 1), (8, 24)] (Main.stageAuth h p))

/-- Bytes 0–241 of the staged object (R469). -/
def Main.authBytes (m : Main) (side : Bool) : List Byte := (List.range 242).map (fun i => ((cellGet (m.staged side) i).getD 0))

/-- The object meets R469 but for its signature: magic, operation, reserved fields, serial and the nonce in force (R470). -/
def Main.authFits (m : Main) (b : List Byte) (op : Nat) : Bool :=
  natAt b 0 4 = 0x47434C52 && natAt b 4 1 = op && zeroAt b 6 2 && natAt b 8 16 = m.serial.toNat &&
  m.log.nonce = some (bvOf 128 (bytesAt b 24 16)) && (op = 2 || zeroAt b 40 57) && zeroAt b 97 31

/-- The key that the object's signer names, where R470 lets that signer sign it. -/
def Main.authKey (m : Main) (b : List Byte) (op : Nat) : Option (BitVec 456) :=
  match natAt b 5 1, op, m.log.key with
  | 0, _, some k => some k
  | 1, 1, _ => some Config.serviceKey
  | 1, _, some _ => some Config.serviceKey
  | 2, 2, none => some (bvOf 456 (bytesAt b 40 57))
  | _, _, _ => none

/-- Checks a staged object: 0 to go on, 1 for a mismatch, 9 for a failed signature (R470). -/
def Main.authCheck (m : Main) (b : List Byte) (op : Nat) : Nat :=
  if !m.authFits b op then 1
  else
    match m.authKey b op with
    | none => 1
    | some k => if Config.edVerify k (b.take 128) (bvOf 912 (bytesAt b 128 114)) then 0 else 9

/-- The staged object and the nonce are used up (R470). -/
def Main.authUse (m : Main) (side : Bool) : Main := (m.setStaged side []).updLog (fun l => { l with nonce := none })

/-- A clear: the records go, and event 0xF010 is record 0 (R471). -/
def Main.clearLog (m : Main) (signer : Nat) (side : Bool) : Main :=
  let n := m.log.recs.length
  (m.updLog (fun l => { l with recs := [], full := false, lost := 0, clears := l.clears + 1, flashed := 0 })).log!
    { code := 0xF010, cls := .rec_, par := p4 n ++ p1 signer ++ p1 side.toNat }

/-- 0x0703 and 0x0706 up to what they do (R470). -/
def Main.authorised (side : Bool) (op : Nat) (act : List Byte → Main → Main) (m : Main) : Reply :=
  let b := m.authBytes side
  let c := m.authCheck b op
  let m := m.authUse side
  if c = 0 then ok (act b m) [] else if c = 9 then reject m 9 else refuse m 1

/-- CLEAR, 0x0703 (R470, R471). -/
def execClear (h : Hdr) (p : Payload) : State → Host.Outcome State Fault Refusal :=
  onMain (fun m => m.command 0x0703 h p [] (Main.authorised (Src.isSide h.src) 1
    (fun b m => m.clearLog (natAt b 5 1) (Src.isSide h.src))))

/-- SET_LOG_CLEAR_KEY, 0x0706 (R470, R471). -/
def execSetLogClearKey (h : Hdr) (p : Payload) : State → Host.Outcome State Fault Refusal :=
  onMain (fun m => m.command 0x0706 h p [] (Main.authorised (Src.isSide h.src) 2
    (fun b m => (m.updLog (fun l => { l with key := some (bvOf 456 (bytesAt b 40 57)) })).log!
      { code := 0xF011, cls := .rec_, par := p1 (natAt b 5 1) })))

/-! ### Flash -/

/-- LOG_FLASH_PROGRAM (R462): the next record is programmed. -/
def execLogFlashProgram : State → Host.Outcome State Fault Refusal :=
  onMain (fun m => m.updLog (fun l => { l with flashed := min l.recs.length (l.flashed + 1) }))

/-- OPERATING_SECONDS_SAVE (R465). -/
def execOperatingSecondsSave : State → Host.Outcome State Fault Refusal := onMain (fun m => { m with opSaved := m.opsec })

end Sys2Proof.Machine
end

