-- ==== Sys2Proof/Machine/Spdm.lean ====
section
/-! DEFINITION. The SPDM responder: certificates, measurements and sessions (R419–R424, R435). -/

namespace Sys2Proof.Machine

def Main.updSpdm (m : Main) (f : Spdm → Spdm) : Main := { m with spdm := f m.spdm }

/-- The responder runs: core 0, or ROM in recovery (R387, R460). -/
def Main.spdmUp (m : Main) : Bool := m.sup.aux && ((m.core.get 0).runs || m.sup.state = .recovery)

/-- An SPDM request is answered, while the responder runs (R387). -/
def Main.spdmDo (m : Main) (f : Main → Main) : Main := if m.spdmUp then f m else m

/-- An SPDM ERROR response with a code of log 101. -/
def Main.spdmErr (m : Main) (code : Byte) : Main := m.send (.spdm 0x7F [code, 0] false)

/-- A request whose negotiation has completed (R423; log 112). -/
def Main.spdmReady (m : Main) (f : Main → Main) : Main :=
  m.spdmDo (fun m => if m.spdm.version && m.spdm.caps && m.spdm.algs then f m else m.spdmErr 0x04)

/-- secmode: the TLOCK strap and ROM recovery mode (R420). -/
def Main.secmode (m : Main) : Nat := m.sup.tlock.toNat + 2 * (m.sup.state = .recovery : Bool).toNat

/-- Component entry of a type in a manifest (R450). -/
def Bank.entry (b : Bank) (t : Nat) : List Byte :=
  match (List.range 4).find? (fun i => natAt b.manifest (256 + 160 * i) 1 = t) with
  | some i => bytesAt b.manifest (256 + 160 * i) 160
  | none => List.replicate 160 0

/-- Listed hash of a component of the booted bank (R424, R450). -/
def Main.imageHash (m : Main) (t : Nat) : List Byte := bytesAt ((m.fw.bank m.fw.active).entry t) 32 64

/-- The certificate chain: the unit certificate carries the part number that 0x0101 returns, and the alias certificate is this boot's (R3,
R421). -/
def Main.chain (m : Main) : List Byte :=
  Config.certChain (BitVec.ofNat 64 m.variant.name) m.serial (m.imageHash 1 ++ p1 m.secmode)

/-- GET_VERSION (R423): 1.2 and 1.3. -/
def execGetVersion : State → Host.Outcome State Fault Refusal :=
  onMain (fun m => m.spdmDo (fun m =>
    (m.updSpdm (fun s => { s with version := true, caps := false, algs := false })).send (.spdm 0x04 [0x12, 0x13] false)))

/-- The capability flags of R423 at the places of log 101. -/
def capFlags : Nat := 0x62F6

/-- GET_CAPABILITIES (R423). -/
def execGetCapabilities (_caps : U32) : State → Host.Outcome State Fault Refusal :=
  onMain (fun m => m.spdmDo (fun m =>
    if !m.spdm.version then m.spdmErr 0x04
    else (m.updSpdm (fun s => { s with caps := true })).send (.spdm 0x61 (p4 capFlags) false)))

/-- NEGOTIATE_ALGORITHMS (R423): `ok` says that the request offers the algorithms of R423. -/
def execNegotiateAlgorithms (ok : Bool) : State → Host.Outcome State Fault Refusal :=
  onMain (fun m => m.spdmDo (fun m =>
    if !m.spdm.version || !m.spdm.caps then m.spdmErr 0x04
    else if !ok then m.spdmErr 0x01
    else (m.updSpdm (fun s => { s with algs := true })).send (.spdm 0x63 [] false)))

/-- GET_DIGESTS (R423): slot 0 alone. -/
def execGetDigests : State → Host.Outcome State Fault Refusal :=
  onMain (fun m => m.spdmReady (fun m => m.send (.spdm 0x01 (0x01 :: Config.sha3 m.chain) false)))

/-- GET_CERTIFICATE (R421): a portion of the chain of slot 0 and what remains of it. -/
def execGetCertificate (slot : Byte) (off len : U16) : State → Host.Outcome State Fault Refusal :=
  onMain (fun m => m.spdmReady (fun m =>
    if slot != 0 || m.chain.length ≤ off.toNat then m.spdmErr 0x01
    else
      let part := (m.chain.drop off.toNat).take len.toNat
      m.send (.spdm 0x02 (p2 part.length ++ p2 (m.chain.length - off.toNat - part.length) ++ part) false)))

/-- CHALLENGE (R422): signed by the alias key. -/
def execChallenge (slot : Byte) (nonce : BitVec 256) : State → Host.Outcome State Fault Refusal :=
  onMain (fun m => m.spdmReady (fun m =>
    if slot != 0 then m.spdmErr 0x01 else m.send (.spdm 0x03 (Config.sha3 m.chain ++ bvBytes nonce 32) true)))

/-! ### Measurements -/

def PartSt.num : PartSt → Nat
  | .opened => 0 | .claiming => 1 | .sealed => 2 | .releasing => 3

/-- Partitions that are Claiming, Sealed or Releasing, as a mask (R444). -/
def Main.maskBits (m : Main) : Nat := (m.variant.parts.map (fun p => if m.masked p then 2 ^ p else 0)).sum

/-- DSTATE (R444). -/
def Main.dstate (m : Main) : Nat := if m.sup.tlock || m.clock then 2 else if m.maskBits != 0 then 1 else 0

/-- IDE of the ports, 1 in force (R424, R441). -/
def Main.ideA (m : Main) : Bool := m.cxl.a.mode != .down && m.cxl.a.ideIo && (m.cxl.a.pcie || m.cxl.a.ideMem)
def Main.ideB (m : Main) : Bool := m.cxl.b.cxl && m.cxl.b.ideMem

/-- DMTF type and content of a measurement block (R424). -/
def Main.measure (m : Main) (i : Nat) : Option (Nat × List Byte) :=
  let man := (m.fw.bank m.fw.active).manifest
  match i with
  | 1 => some (0x00, bytesAt Config.romHash 0 64)
  | 2 => some (0x01, m.imageHash 1)
  | 3 => some (0x01, m.imageHash 2)
  | 4 => some (0x01, m.imageHash 3)
  | 5 => some (0x01, m.imageHash 4)
  | 6 => some (0x03, bytesAt man 12 4 ++ bytesAt man 16 4 ++ p1 (natAt man 21 1 % 2))
  | 7 => some (0x02, p1 m.variant.code ++ p1 m.partOn.toNat ++
      p1 (m.variant.parts.map (fun p => if m.sealed p then 2 ^ p else 0)).sum ++ p1 m.secmode ++ p1 m.dstate ++ p1 m.ideA.toNat ++ p1 m.ideB.toNat)
  | _ =>
    if 16 ≤ i && m.variant.parts.contains (i - 16) then
      let x := m.partAt (i - 16)
      some (0x02, p1 x.st.num ++ p4 x.claims.toNat ++ Config.shake256 (bvBytes x.pub 57) 64 ++ p8 x.area.toNat ++ p8 x.base ++ p8 x.size ++
        p1 x.scrub.toNat)
    else none

/-- A block as returned: its index, its type with bit 7 set for a raw bit stream, its size and content (R424). -/
def Main.block (m : Main) (i : Nat) : List Byte :=
  match m.measure i with
  | some (t, c) => p1 i ++ p1 (0x80 + t) ++ p2 c.length ++ c
  | none => []

/-- GET_MEASUREMENTS (R424): one block, all of them for index 0xFF, or their number for index 0. -/
def execGetMeasurements (index : Byte) (sign : Bool) (nonce : BitVec 256) : State → Host.Outcome State Fault Refusal :=
  onMain (fun m => m.spdmReady (fun m =>
    let all := ([1, 2, 3, 4, 5, 6, 7, 16, 17, 18, 19].filter (fun i => (m.measure i).isSome))
    let tail := if sign then bvBytes nonce 32 else []
    if index = 0 then m.send (.spdm 0x60 (p1 all.length ++ tail) sign)
    else if index = 0xFF then m.send (.spdm 0x60 (p1 all.length ++ all.flatMap m.block ++ tail) sign)
    else if (m.measure index.toNat).isNone then m.spdmErr 0x01
    else m.send (.spdm 0x60 (p1 1 ++ m.block index.toNat ++ tail) sign)))

/-! ### Sessions -/

/-- A session, established or in its handshake. -/
def Main.session? (m : Main) (sid : U32) : Option Session := m.spdm.sess.find? (fun s => s.id = sid)

def Main.updSession (m : Main) (sid : U32) (f : Session → Session) : Main :=
  m.updSpdm (fun s => { s with sess := s.sess.map (fun x => if x.id = sid then f x else x) })

/-- A session ends; a partition attached to it stays sealed (R435). -/
def Main.endSession (m : Main) (sid : U32) : Main :=
  let m := m.updSpdm (fun s => { s with sess := s.sess.filter (fun x => x.id != sid) })
  { m with part := m.part.map (fun (p : Nat × Part) => if p.2.sess = some sid then (p.1, { p.2 with sess := none }) else p) }

/-- KEY_EXCHANGE (R423): a ninth session receives SessionLimitExceeded; none in recovery (R460). -/
def execKeyExchange (doe : Bool) (_exch : BitVec 768) : State → Host.Outcome State Fault Refusal :=
  onMain (fun m => m.spdmReady (fun m =>
    if m.sup.state = .recovery then m.spdmErr 0x07
    else if 8 ≤ m.spdm.sess.length then m.spdmErr 0x0A
    else
      let x : Session := { id := m.spdm.next, doe := doe }
      (m.updSpdm (fun s => { s with sess := s.sess ++ [x], next := s.next + 1 })).send (.spdm 0x64 (p4 x.id.toNat) true)))

/-- FINISH (R423): the session stands once its MAC verifies, and ends otherwise. -/
def execFinish (sid : U32) (mac : BitVec 512) : State → Host.Outcome State Fault Refusal :=
  onMain (fun m => m.spdmReady (fun m =>
    match m.session? sid with
    | none => m.spdmErr 0x01
    | some x =>
      if x.est then m.spdmErr 0x04
      else if Config.finishOk sid mac then (m.updSession sid (fun x => { x with est := true })).send (.spdm 0x65 [] false)
      else (m.endSession sid).spdmErr 0x06))

/-- A request inside an established session. -/
def Main.inSession (m : Main) (sid : U32) (f : Main → Main) : Main :=
  m.spdmDo (fun m => if (m.session? sid).any (·.est) then f m else m.spdmErr 0x01)

/-- HEARTBEAT (R423). -/
def execHeartbeat (sid : U32) : State → Host.Outcome State Fault Refusal :=
  onMain (fun m => m.inSession sid (fun m => m.send (.spdm 0x68 [] false)))

/-- SPDM_HEARTBEAT_TIMEOUT (R435). -/
def execSpdmHeartbeatTimeout (sid : U32) : State → Host.Outcome State Fault Refusal :=
  onMain (fun m => if (m.session? sid).isSome then m.endSession sid else m)

/-- KEY_UPDATE (R423). -/
def execKeyUpdate (sid : U32) : State → Host.Outcome State Fault Refusal :=
  onMain (fun m => m.inSession sid (fun m => (m.updSession sid (fun x => { x with updates := x.updates + 1 })).send (.spdm 0x69 [] false)))

/-- END_SESSION (R435). -/
def execEndSession (sid : U32) : State → Host.Outcome State Fault Refusal :=
  onMain (fun m => m.inSession sid (fun m => (m.endSession sid).send (.spdm 0x6C [] false)))

end Sys2Proof.Machine
end

