-- ==== Sys2Proof/Machine/Tenancy.lean ====
section
/-! DEFINITION. Partitioning, sealing, release, sealed transfers, IDE and the debug block (R425–R446). -/

namespace Sys2Proof.Machine

/-! ### Partitioning -/

/-- 0x0501 (R425). -/
def Main.setPartitioning (p : Payload) (m : Main) : Reply :=
  let mode := bvAt p 0 1
  if 1 < mode then reject m 2
  else if m.jobs != [] || m.maskBits != 0 then refuse m 1
  else ok { m with partOn := mode = 1 } []

/-- SET_PARTITIONING, 0x0501 (R425). -/
def execSetPartitioning (h : Hdr) (p : Payload) : State → Host.Outcome State Fault Refusal :=
  onMain (fun m => m.command 0x0501 h p [(0, 1)] (Main.setPartitioning p))

/-- 0x0502 (R428): shares are whole GiB of the slow tier and overlap no other share. -/
def Main.setResources (p : Payload) (m : Main) : Reply :=
  let q := bvAt p 0 1
  let base := bvAt p 8 8
  let size := bvAt p 16 8
  if !m.partOn then refuse m 1
  else if !(m.variant.parts.contains q) then refuse m 2
  else if m.masked q then refuse m 3
  else if m.partBusy q then refuse m 1
  else if base % 2 ^ 30 != 0 || size % 2 ^ 30 != 0 || (size != 0 && m.slowSize < base + size) ||
      m.variant.parts.any (fun o => o != q && overlap base size (m.partAt o).base (m.partAt o).size) then refuse m 2
  else ok (m.updPart q (fun x => { x with hostMask := p.extractLsb' 8 4, base := base, size := size })) []

/-- SET_PARTITION_RESOURCES, 0x0502 (R428). -/
def execSetPartitionResources (h : Hdr) (p : Payload) : State → Host.Outcome State Fault Refusal :=
  onMain (fun m => m.command 0x0502 h p [(0, 2), (8, 16)] (Main.setResources p) (high := bvAt p 1 1 < 16))

/-- PARTITION_STATUS, 0x0503 (R431, R441). -/
def Main.partStatus (p : Payload) (m : Main) : Reply :=
  let q := bvAt p 0 1
  if !(m.variant.parts.contains q) then reject m 2
  else
    let x := m.partAt q
    ok m [(0, 1, x.st.num), (1, 1, x.sess.isSome.toNat), (2, 4, x.claims.toNat), (6, 1, m.ideA.toNat), (7, 1, m.ideB.toNat)]

def execPartitionStatus (h : Hdr) (p : Payload) : State → Host.Outcome State Fault Refusal :=
  onMain (fun m => m.command 0x0503 h p [(0, 1)] (Main.partStatus p) (reads := true)
    (owned := match h.src with
      | .tenant q => q.toNat = bvAt p 0 1
      | _ => true))

/-! ### Release -/

/-- Commands of a partition in flight end with status 0x05 (R436). -/
def Main.dropTenant (m : Main) (p : Nat) : Main :=
  let mine (q : Queued) : Bool := q.src = .tenant (BitVec.ofNat 2 p)
  let answer (q : Queued) : Resp :=
    { src := q.src, op := BitVec.ofNat 16 (bvAt q.cmd 2 2), tag := q.cmd.extractLsb' 32 32, status := 5, since := m.us }
  { m with queue := m.queue.filter (fun q => !mine q), resps := m.resps ++ (m.queue.filter mine).map answer }

/-- Closes a job with force, at once or after the verdict of its open step (R410, R436). -/
def Main.forceClose (m : Main) (jid : Nat) : Main :=
  match m.job? jid with
  | none => m
  | some j =>
    if !j.stepOpen then m.closeJob jid
    else if (m.closing.find jid).isSome then m
    else { m.guard jid 8 with closing := m.closing.put jid {} }

/-- Starts a release (R436); it ends once the partition's jobs are closed. -/
def Main.startRelease (m : Main) (p cause : Nat) (w : Option Resp) : Main :=
  let m := m.updPart p (fun x => { x with st := .releasing, cause := BitVec.ofNat 8 cause, waiting := w })
  let ids := (m.jobs.filter (fun j => (m.partDies p).any (fun d => j.2.dies.getLsbD d))).map (·.1)
  ((ids.foldl Main.forceClose m).dropTenant p).releasesEnd

/-- FORCED_RELEASE, 0x0504 (R436): answered once the release has ended. -/
def Main.forcedRelease (m : Main) (h : Hdr) (p : Payload) : Main :=
  let q := bvAt p 0 1
  let body (m : Main) : Reply := if m.variant.parts.contains q then ok m [] else reject m 2
  let r := m.command 0x0504 h p [(0, 1)] body
  match r.resps.getLast? with
  | some x =>
    if r.resps.length = m.resps.length || x.status != 0 || !m.sealed q then r
    else { r with resps := r.resps.dropLast }.startRelease q 1 (some x)
  | none => r

def execForcedRelease (h : Hdr) (p : Payload) : State → Host.Outcome State Fault Refusal := onMain (fun m => m.forcedRelease h p)

/-! ### Tenant requests -/

/-- A tenant request inside an established session (R432); in no session it cannot be read. -/
def Main.tenantDo (m : Main) (sid : U32) (f : Session → Main → Main) : Main :=
  match m.session? sid with
  | some x => if m.spdmUp && x.est then f x m else m
  | none => m

/-- A tenant response: a status and what follows it (R432). -/
def Main.tell (m : Main) (status : Nat) (l : List Byte := []) : Main := m.send (.tenant (p1 status ++ l))

/-- Bytes of the seal area: 24 for every 4 KiB of the share (R433, R438). -/
def Part.sealBytes (x : Part) : Nat := 24 * (x.size / 4096)

/-- The preconditions of a claim (R433, R441). -/
def Main.claimable (m : Main) (p : Nat) (x : Session) (area : Nat) : Bool :=
  let q := m.partAt p
  m.partOn && x.part.isNone && !m.partBusy p && m.ideA && (q.size = 0 || m.ideB) && area % 2 ^ 21 = 0 && area < 2 ^ 41 &&
  m.variant.stackPart (area / 2 ^ 37) = p && m.mapped p area (max 1 q.sealBytes)

/-- CLAIM, 0x10 (R433): steps S1 to S5. -/
def Main.claim (m : Main) (x : Session) (p : Nat) (idle : U32) (pub : BitVec 456) (key : BitVec 256) (area : Nat) : Main :=
  if !(m.variant.parts.contains p) || key = 0 then m.tell 1
  else if m.masked p then m.tell 2
  else if !(m.claimable p x area) then m.tell 3
  else
    let m := (m.partClear p).scrub p
    let m := m.updPart p (fun q => { q with
      st := .sealed, claims := q.claims + 1, pub := pub, key := some key, sess := some x.id, idle := idle, area := BitVec.ofNat 56 area })
    let m := m.updHbm (area / 2 ^ 37) (fun s => { s with region := s.region.put 6 (area % 2 ^ 37, (m.partAt p).sealBytes) })
    let m := m.updSession x.id (fun s => { s with part := some (BitVec.ofNat 2 p) })
    let fab : Fabric := { m.fab with tenCtr := m.fab.tenCtr.put p 0 }
    let m : Main := { m with
      fab := fab
      box := (m.partBoxes p).foldl (fun t k => t.upd k (fun b => { b with bound := true, part := BitVec.ofNat 2 p })) m.box }
    (m.log! { code := 0x7101, cls := .rec_, par := p1 p }).tell 0 (p4 (m.partAt p).claims.toNat)

def execClaim (sid : U32) (part : Byte) (idle : U32) (pub : BitVec 456) (key : BitVec 256) (area : U64) :
    State → Host.Outcome State Fault Refusal :=
  onMain (fun m => m.tenantDo sid (fun x m => m.claim x part.toNat idle pub key area.toNat))

/-- ATTACH, 0x11 (R432, R435). -/
def Main.attach (m : Main) (x : Session) (p : Nat) (sig : BitVec 912) : Main :=
  if !(m.variant.parts.contains p) then m.tell 1
  else if !m.sealed p then m.tell 6
  else if !(Config.edVerify (m.partAt p).pub (Config.th2 x.id) sig) then m.tell 4
  else
    let m := m.updSpdm (fun s => { s with sess := s.sess.map (fun y =>
      if y.id = x.id then { y with part := some (BitVec.ofNat 2 p) }
      else if y.part = some (BitVec.ofNat 2 p) then { y with part := none }
      else y) })
    ((m.updPart p (fun q => { q with sess := some x.id })).log! { code := 0x7103, cls := .rec_, par := p1 p }).tell 0

def execAttach (sid : U32) (part : Byte) (sig : BitVec 912) : State → Host.Outcome State Fault Refusal :=
  onMain (fun m => m.tenantDo sid (fun x m => m.attach x part.toNat sig))

/-- The partition is sealed to the session. -/
def Main.sealedTo (m : Main) (p : Nat) (sid : U32) : Bool := m.sealed p && (m.partAt p).sess = some sid

/-- RELEASE, 0x12 (R432, R436): answered once the release has ended. -/
def execRelease (sid : U32) (part : Byte) : State → Host.Outcome State Fault Refusal :=
  onMain (fun m => m.tenantDo sid (fun _ m =>
    if !(m.variant.parts.contains part.toNat) then m.tell 1
    else if !(m.sealedTo part.toNat sid) then m.tell 6
    else m.startRelease part.toNat 0 none))

/-- TENANT_COMMAND, 0x13 (R430, R432): handed over to the queue of R405. -/
def execTenantCommand (sid : U32) (cmd : BitVec 512) : State → Host.Outcome State Fault Refusal :=
  onMain (fun m => m.tenantDo sid (fun x m =>
    match x.part with
    | some p => if m.sealedTo p.toNat sid then m.handOver (.tenant p) cmd else m.tell 6
    | none => m.tell 6))

/-- INACTIVITY_TIMEOUT (R435). -/
def execInactivityTimeout (p : Fin 4) : State → Host.Outcome State Fault Refusal :=
  onMain (fun m =>
    if m.sealed p.val && (m.partAt p.val).sess.isNone && (m.partAt p.val).idle != 0 then m.startRelease p.val 2 none else m)

/-! ### Sealed import and export -/

/-- Transfer key of a partition (R437). -/
def Main.xferKey (m : Main) (p : Nat) : List Byte := Config.shake256 (textBytes "VLN-XFER" ++ m.dataKey p) 32

/-- Nonce of a block: stream and block index, most significant byte first (R440; log 86). -/
def xferNonce (stream k : Nat) : List Byte := (p4 stream).reverse ++ (p8 k).reverse

/-- A run lies in the partition's memory stacks or pinned windows. -/
def Main.inPart (m : Main) (p a n : Nat) : Bool :=
  m.mapped p a n && (match m.rngFor p a with
    | .hbm _ _ | .pin _ _ => true
    | _ => false)

/-- A run lies in host memory granted to the partition. -/
def Main.inHost (m : Main) (p a n : Nat) : Bool :=
  m.mapped p a n && (match m.rngFor p a with
    | .host _ => true
    | _ => false)

/-- The ranges and alignments of a sealed transfer (R440; log 114). -/
def Main.xferOk (m : Main) (p host part tags len : Nat) : Bool :=
  4096 ≤ len && len ≤ 2 ^ 30 && len % 4096 = 0 && host % 4096 = 0 && part % 4096 = 0 && tags % 16 = 0 &&
  m.inHost p host len && m.inPart p part len && m.inHost p tags (len / 256)

/-- Imports block `k`: none once imported, else the reason it stops on (R440). -/
def Main.importBlock (m : Main) (p host part tags stream k : Nat) : Main × Nat :=
  match m.daGet p (host + 4096 * k) 4096 with
  | (m, none) => (m, 3)
  | (m, some c) =>
    match m.daGet p (tags + 16 * k) 16 with
    | (m, none) => (m, 3)
    | (m, some t) =>
      let n := xferNonce stream k
      if Config.gcmTag (m.xferKey p) n (p8 (4096 * k)) c = bvOf 128 t then ((m.daPut p (part + 4096 * k) (gcmXor (m.xferKey p) n c)).1, 0)
      else (m, 2)

/-- Exports block `k` (R440). -/
def Main.exportBlock (m : Main) (p host part tags stream k : Nat) : Main × Nat :=
  match m.daGet p (part + 4096 * k) 4096 with
  | (m, none) => (m, 3)
  | (m, some b) =>
    let n := xferNonce stream k
    let c := gcmXor (m.xferKey p) n b
    let t := bvBytes (Config.gcmTag (m.xferKey p) n (p8 (4096 * k)) c) 16
    (((m.daPut p (host + 4096 * k) c).1.daPut p (tags + 16 * k) t).1, 0)

/-- Transfers blocks until one stops: the state, the blocks written and the reason. -/
def xferRun (f : Main → Nat → Main × Nat) (m : Main) (n : Nat) : Main × Nat × Nat :=
  (List.range n).foldl (fun (a : Main × Nat × Nat) k =>
    if a.2.2 != 0 then a
    else
      match f a.1 k with
      | (m, 0) => (m, a.2.1 + 1, 0)
      | (m, r) => (m, a.2.1, r)) (m, 0, 0)

/-- SEALED_IMPORT, 0x0520 (R440): status 0x03 only where no block was written (R404). -/
def Main.sealedImport (h : Hdr) (p : Payload) (m : Main) : Reply :=
  match h.src with
  | .tenant q =>
    let q := q.toNat
    let len := bvAt p 16 4
    if !(m.xferOk q (bvAt p 0 8) (bvAt p 8 8) (bvAt p 24 8) len) then refuse m 1
    else
      let (m, n, r) := xferRun (fun m k => m.importBlock q (bvAt p 0 8) (bvAt p 8 8) (bvAt p 24 8) (bvAt p 20 4) k) m (len / 4096)
      (m, if r != 0 && n = 0 then 3 else 0, payload [(0, 1, r), (4, 4, n), (12, 4, if r = 0 then 0 else n)])
  | _ => reject m 4

def execSealedImport (h : Hdr) (p : Payload) : State → Host.Outcome State Fault Refusal :=
  onMain (fun m => m.command 0x0520 h p [(0, 32)] (Main.sealedImport h p))

/-- SEALED_EXPORT, 0x0521 (R440): under the next stream of the partition's counter. -/
def Main.sealedExport (h : Hdr) (p : Payload) (m : Main) : Reply :=
  match h.src with
  | .tenant q =>
    let q := q.toNat
    let len := bvAt p 16 4
    if !(m.xferOk q (bvAt p 8 8) (bvAt p 0 8) (bvAt p 24 8) len) then refuse m 1
    else
      let s := (m.partAt q).stream
      let m := m.updPart q (fun x => { x with stream := x.stream + 1 })
      let (m, n, r) := xferRun (fun m k => m.exportBlock q (bvAt p 8 8) (bvAt p 0 8) (bvAt p 24 8) s.toNat k) m (len / 4096)
      (m, if r != 0 && n = 0 then 3 else 0, payload [(0, 1, r), (4, 4, n), (8, 4, s.toNat)])
  | _ => reject m 4

def execSealedExport (h : Hdr) (p : Payload) : State → Host.Outcome State Fault Refusal :=
  onMain (fun m => m.command 0x0521 h p [(0, 20), (24, 8)] (Main.sealedExport h p))

/-! ### IDE and the debug block -/

/-- IDE_STREAM_LOST (R441). -/
def execIdeStreamLost (b : Bool) (mem : Bool) : State → Host.Outcome State Fault Refusal := onMain (fun m => m.ideLost b mem)

/-- IDE_KM (R441): the stream of a port that is up enters the secure state. -/
def execIdeKm (b : Bool) (mem : Bool) : State → Host.Outcome State Fault Refusal :=
  onMain (fun m =>
    let c := if b then m.cxl.b else m.cxl.a
    if c.mode = .down || (mem && c.pcie) then m
    else { m with cxl := m.cxl.upd b (fun c => if mem then { c with ideMem := true } else { c with ideIo := true }) })

/-- DEBUG_LOCK, 0x0510 (R444). -/
def execDebugLock (h : Hdr) (p : Payload) : State → Host.Outcome State Fault Refusal :=
  onMain (fun m => m.command 0x0510 h p [] (fun m => ok { m with clock := true } []))

/-- The debug control register (R444). -/
def Main.debugCtl (m : Main) : Nat := m.dstate + m.maskBits * 4 + m.sup.tlock.toNat * 64 + m.clock.toNat * 128

/-- DEBUG_WINDOW_ACCESS (R444): `w` is the value written, if any. A refused window reads 0 and ignores writes; what an open one reads
is a free value, and writes to it have no effect that the interface gives (log 115). -/
def Main.debugAccess (m : Main) (off : Nat) (w : Option U64) : Main :=
  let answer (m : Main) (v : Nat) : Main := if w.isNone then m.send (.bar0 (BitVec.ofNat 512 v)) else m
  if off = 0 then answer m m.debugCtl
  else if m.dstate = 2 || (m.dstate = 1 && Config.debugReaches off m.maskBits) then
    answer (m.logRate 1 0 { code := 0x7302, cls := .adv, par := p1 ((m.variant.parts.find? m.masked).getD 0) }) 0
  else answer m.draw (Config.debugRead m.draws off).toNat

def execDebugWindowAccess (off : BitVec 20) (w : Option U64) : State → Host.Outcome State Fault Refusal :=
  onMain (fun m => m.debugAccess off.toNat w)

end Sys2Proof.Machine
end

