-- ==== Sys2Proof/Machine/Boot.lean ====
section
/-! DEFINITION. Supplies, resets, start-up, boot failures, coolant and the controller cores (R387–R389, R457, R459, R460, R491–R505). -/

namespace Sys2Proof.Machine

def Main.updSup (m : Main) (f : Supply → Supply) : Main := { m with sup := f m.sup }
def Main.updFw (m : Main) (f : Firm → Firm) : Main := { m with fw := f m.fw }
def Firm.setBank (f : Firm) (b : Bool) (k : Bank) : Firm := if b then { f with bankB := k } else { f with bankA := k }

/-- The bank that an update writes: the inactive one, in recovery the one other than the last confirmed (R454, R461). -/
def Main.target (m : Main) : Bool :=
  if m.sup.state = .recovery then (match m.fw.confirmed with
    | some c => !c
    | none => false) else !m.fw.active

/-- An update ends without a result; its bank is invalid (R455). -/
def Main.abortUpdate (m : Main) (cause : Nat) : Main :=
  if m.fw.st != 1 then m
  else (m.updFw (fun f => { f.setBank m.target {} with st := 0, step := 0, man := [], outp := [], pldm := none, fd := 0 })).log!
    { code := 0x800A, cls := .rec_, par := p1 cause }

/-! ### Manifests -/

/-- Component entry `i` of a manifest (R450). -/
def manEntry (b : List Byte) (i : Nat) : List Byte := bytesAt b (256 + 160 * i) 160

/-- Delta block count of entry `i` (R450). -/
def manBlocks (b : List Byte) (i : Nat) : Nat := natAt (manEntry b i) 12 4

/-- Longest image of a component type, none for a type that R450 does not name. -/
def maxImage (t : Nat) : Option Nat :=
  match t with
  | 1 | 2 => some (32 * 2 ^ 20)
  | 3 => some (16 * 2 ^ 20)
  | 4 => some (8 * 2 ^ 20)
  | _ => none

/-- A component entry meets R450. -/
def entryFits (e : List Byte) : Bool :=
  zeroAt e 1 3 && zeroAt e 16 16 &&
  (match maxImage (natAt e 0 1) with
   | some top => natAt e 8 4 % 4096 = 0 && decide (natAt e 8 4 ≤ top)
   | none => false)

/-- Every field of a manifest meets R449 and R450, and each type appears once (R451). -/
def manifestFits (b : List Byte) : Bool :=
  natAt b 0 4 = 0x4D464E56 && natAt b 4 2 = 3 && natAt b 6 2 = 256 && natAt b 8 4 = 1010 && decide (natAt b 20 1 ≤ 64) &&
  decide (natAt b 21 1 ≤ 1) && natAt b 22 1 = 4 && decide (natAt b 23 1 ≤ 3) && (natAt b 21 1 = 1 || zeroAt b 24 16) &&
  zeroAt b 42 22 && zeroAt b 121 135 && (List.range 4).all (fun i => entryFits (manEntry b i)) &&
  [1, 2, 3, 4].all (fun t => (List.range 4).any (fun i => natAt (manEntry b i) 0 1 = t))

/-- The signer's key is the ROM key the manifest names, and the signature verifies (R451). -/
def manifestSigned (b : List Byte) : Bool :=
  Config.shake256 (bytesAt b 64 57) 64 = Config.romKey (natAt b 23 1) &&
  Config.edVerify (bvOf 456 (bytesAt b 64 57)) (b.take 896) (bvOf 912 (bytesAt b 896 114))

/-- The unit may boot the manifest: R451 without its base hashes, and its hardware type, binding and security version (R457, R458). -/
def Main.manifestBoots (m : Main) (b : List Byte) : Bool :=
  manifestFits b && manifestSigned b && natAt b 16 4 = 2 && (natAt b 21 1 = 0 || natAt b 24 16 = m.serial.toNat) &&
  decide (m.fw.minsec ≤ natAt b 20 1)

/-- Every image of a bank has the hash that its entry lists (R457). -/
def Bank.hashesFit (b : Bank) : Bool :=
  (List.range 4).all (fun i =>
    let e := manEntry b.manifest i
    Config.shake256 ((b.image.find (natAt e 0 1)).getD []) 64 = bytesAt e 32 64)

/-- ROM's check of the selected bank (R457): `good` says that the flash reads back whole. What the confirmed bank held at manufacture is not
in the spec, so that `good` alone decides on it; an erased bank never boots (log 161). -/
def Main.bankBoots (m : Main) (good : Bool) : Bool :=
  let b := m.fw.bank m.fw.active
  good && (if b.manifest = [] then m.fw.confirmed = some m.fw.active else m.manifestBoots b.manifest && b.hashesFit)

/-! ### What a power-down leaves (R500) -/

/-- What flash keeps of a tile (R484, R500). -/
def Tile.lost (t : Tile) : Tile := { retired := t.retired, ucAddrs := t.ucAddrs, parErr := t.parErr }

/-- What flash keeps of a compute stack: sparing and retirement records (R140, R500). -/
def Sram.lost (s : Sram) : Sram :=
  let x : Sram := { retired := s.retired, dowels := s.dowels.map (fun (e : Nat × DowelDir) => (e.1, { map := e.2.map })), ucAddrs := s.ucAddrs }
  { x with below := x.live < 0x10000000 }

/-- What is left of a memory stack: retirements, remap tables and the regulators (R500). -/
def Stack.lost (s : Stack) : Stack := { ch := s.ch.map (fun (c : Nat × Channel) => (c.1, { c.2 with lanes := [] })), offline := s.offline, retired := s.retired, hour := s.hour, day := s.day, reg := s.reg }

/-- A die without supply; a hardware trip lasts until a module or cold reset (R495). -/
def Die.lost (v : Die) : Die := { tripped := v.tripped }

/-- A Tenon port without supply; retirements stay (R488, R500). -/
def Port.lost (p : Port) : Port := { laneRet := p.laneRet, laneFail := p.laneFail, retired := p.retired }

/-- Beat, pace and wear state kept over a MAIN loss (R500). -/
def DiePow.lost (x : DiePow) : DiePow :=
  { pref := x.pref, dwell := x.dwell, stEn := x.stEn, stPace := x.stPace, en := x.en, pace := x.pace, snBeats := x.snBeats
    snSkips := x.snSkips, stCap := x.stCap, cap := x.cap, opMs := x.opMs, boostMs := x.boostMs, wcap := x.wcap, saved := x.saved
    episodes := x.episodes, diodeRet := x.diodeRet, offset := x.offset, hour4304 := x.hour4304, hour4505 := x.hour4505 }

/-- Wear ledger, episode counts, retired diodes and stored settings, which every reset keeps (R500). -/
def DiePow.cleared (x : DiePow) : DiePow :=
  { opMs := x.opMs, boostMs := x.boostMs, wcap := x.wcap, saved := x.saved, episodes := x.episodes, diodeRet := x.diodeRet, offset := x.offset }

/-- Power and load state kept over a MAIN loss (R500). -/
def Power.lost (w : Power) : Power :=
  { stFly := w.stFly, fly := w.fly, stHost := w.stHost, host := w.host, stBoard := w.stBoard, board := w.board, ctl := w.ctl, bctl := w.bctl
    weight := w.weight, budget := w.budget, exhausted := w.exhausted, sec4403 := w.sec4403, snA := w.snA, snB := w.snB, inlet := w.inlet
    outlet := w.outlet, minCool := w.minCool }

/-- The stored settings and the coolant readings (R500). -/
def Power.cleared (w : Power) : Power := { weight := w.weight, inlet := w.inlet, outlet := w.outlet }

/-- A partition whose keys went with the power is released at the next start-up (R436). -/
def Part.lost (x : Part) : Part := if x.st = .opened then x else { x with st := .releasing, key := none, cause := 3, waiting := none, sess := none }

/-- What a partition keeps over a cold or module reset (log 116). -/
def Part.cleared (x : Part) : Part :=
  { st := x.st, cause := x.cause, claims := x.claims, stream := x.stream, opens := x.opens, scrub := x.scrub, area := x.area }

def CxlPort.lost (_ : CxlPort) : CxlPort := {}

/-- Responses that waited for a job or a release that the power loss has ended (R399, R500). -/
def Main.waiting (m : Main) : List Resp :=
  (m.closing.map (·.2)).filter (fun r => r != ({} : Resp)) ++ m.part.filterMap (fun p => p.2.waiting)

/-- The MAIN-fed rails go: the MAIN-loss column of R500. An orderly power-down saves the wear ledgers and programs every record
(R340, R462). -/
def Main.powerDown (m : Main) (orderly : Bool) : Main :=
  let m := if orderly then (m.wearSave true).updLog (fun l => { l with flashed := l.recs.length }) else m
  let resps := m.resps.map (fun r => { r with stack := none }) ++ m.waiting
  let mem : Mems := { slow := m.mem.slow, host := m.mem.host, stamp := m.mem.stamp }
  let fab : Fabric := { port := m.fab.port.map (fun (p : Nat × Port) => (p.1, p.2.lost)) }
  let cxl : Cxl := { m.cxl with a := m.cxl.a.lost, b := m.cxl.b.lost }
  let sess := (m.spdm.sess.filter (fun s => !s.doe)).map (fun (s : Session) => { s with part := none })
  let spdm : Spdm := { m.spdm with sess := sess }
  let m : Main := { m with
    mem := mem, fab := fab, cxl := cxl, spdm := spdm, resps := resps, jobs := [], assigned := [], closing := [], region := [], tail := []
    eng := [], ectl := {}, burn := [], pow := m.pow.lost
    tile := m.tile.map (fun (t : Nat × Tile) => (t.1, t.2.lost))
    die := m.die.map (fun (d : Nat × Die) => (d.1, d.2.lost))
    sram := m.sram.map (fun (s : Nat × Sram) => (s.1, s.2.lost))
    hbm := m.hbm.map (fun (s : Nat × Stack) => (s.1, s.2.lost))
    dp := m.dp.map (fun (x : Nat × DiePow) => (x.1, x.2.lost))
    part := m.part.map (fun (p : Nat × Part) => (p.1, p.2.lost)) }
  (m.updSup (fun s => { s with rails := false })).updLog (fun l => { l with nonce := none })

/-- What a cold and a module reset clear beyond a MAIN loss (R500; log 116). -/
def Main.clearAll (m : Main) : Main :=
  let cxl : Cxl := { perst := m.cxl.perst, refclk := m.cxl.refclk }
  let fw : Firm := { m.fw with booted := false, st := 0, step := 0, man := [], outp := [], pldm := none, fd := 0 }
  let m : Main := { m with
    cxl := cxl, fw := fw, rctl := {}, pow := m.pow.cleared, intr := {}, box := [], side := [], queue := [], resps := [], snap := {}
    sb := { sbaddr := m.sb.sbaddr }, spdm := {}, partOn := false, core := [], restartedAll := 0, mir := {}
    die := []
    hbm := m.hbm.map (fun (s : Nat × Stack) => (s.1, { s.2 with reg := [] }))
    dp := m.dp.map (fun (x : Nat × DiePow) => (x.1, x.2.cleared))
    part := m.part.map (fun (p : Nat × Part) => (p.1, p.2.cleared)) }
  m.updLog (fun l => { l with stageH := [], stageS := [] })

/-- Start-up from stage 1 with AUX held (R499, R505). -/
def Main.restart (m : Main) : Main :=
  ((m.powerDown true).clearAll).updSup (fun s => { aux := s.aux, main := s.main, recov := s.recov, tlock := s.tlock, hot := s.hot, stage := 1 })

/-- A module reset with its cause and requester (R499, R501; log 117). -/
def Main.moduleReset (m : Main) (cause requester : Nat) : Main :=
  ((m.log! { code := 0xF022, cls := .rec_, par := p1 cause ++ p1 requester }).abortUpdate 3).restart

/-! ### Boot failures and recovery -/

/-- ROM enters recovery: cause 0 for the strap, 1 for no bank left to try (R460; log 117). -/
def Main.enterRecovery (m : Main) (cause : Nat) : Main :=
  (((m.updFw (fun f => { f with booted := false })).setState .recovery).flushBuf).log! { code := 0x8009, cls := .rec_, par := p1 cause }

/-- A failed boot of the selected bank (R457). -/
def Main.bootFail (m : Main) : Main :=
  let f := m.fw
  let b := f.selB
  let n := f.fails + 1
  if f.trial && 2 ≤ n then
    ((m.updFw (fun f => { f.setBank b { f.bank b with verified := false } with selB := !b, trial := false, fails := 0 })).log!
      { code := 0x8007, cls := .rec_, par := p1 b.toNat }).moduleReset 2 2
  else if f.trial || n < 3 then (m.updFw (fun f => { f with fails := n })).moduleReset 2 2
  else if !f.tried && (f.bank (!b)).verified then
    (m.updFw (fun f => { f with selB := !b, fails := 0, tried := true })).moduleReset 2 2
  else (m.updFw (fun f => { f with fails := n })).restart.enterRecovery 1

/-! ### Supplies -/

/-- MAIN enable: MAIN is present, the coolant check passes and no rail fault holds (R495, R496 stage 4, R502). -/
def Main.mainEnable (m : Main) : Main :=
  if m.sup.stage = 4 && m.sup.state = .auxOnly && m.sup.main && !m.sup.hot && !m.sup.railFault then m.setState .starting else m

/-- A ledger as flash gives it back; without an orderly record, boost in use is charged 60 s (R340). -/
def DiePow.reload (x : DiePow) : DiePow :=
  let (op, boost, inUse, orderly) := x.saved
  { x with opMs := op, boostMs := if inUse && !orderly then boost + 60000 else boost }

/-- Loads the wear ledgers at AUX up (R340). -/
def Main.wearLoad (m : Main) : Main :=
  (List.range 4).foldl (fun m d =>
    let (_, _, inUse, orderly) := (m.dpAt d).saved
    let m := m.updDp d DiePow.reload
    if inUse && !orderly then m.log! { code := 0x4603, cls := .rec_, die := some d, par := p1 d } else m) m

/-- AUX_UP (R465, R496, R499, R505): a cold reset. -/
def Main.auxUp (m : Main) (recov tlock : Bool) (sbaddr : BitVec 3) : Main :=
  if m.sup.aux then m
  else
    let st := m.fw.st
    let cut := if m.fw.booted then !m.fw.active else !(m.fw.confirmed.getD true)
    let m := (m.clearAll).updSup (fun s => { aux := true, main := s.main, recov := recov, tlock := tlock, stage := 1 })
    let sb : SideBand := { sbaddr := sbaddr }
    let m : Main := { m with us := 0, opsec := m.opSaved, pcyc := m.pcyc + 1, cmds := 0, clock := false, sb := sb }
    let m := m.wearLoad
    if st != 1 then m
    else (m.updFw (fun f => f.setBank cut {})).log! { code := 0x800A, cls := .rec_, par := p1 2 }

def execAuxUp (recov tlock : Bool) (sbaddr : BitVec 3) : State → Host.Outcome State Fault Refusal :=
  onMain (fun m => m.auxUp recov tlock sbaddr)

/-- Records younger than their programming are lost with AUX; SEQ goes on from the last one kept (R462; log 111). -/
def RingLog.auxLost (l : RingLog) : RingLog :=
  let kept := l.recs.take l.flashed
  let seq (r : LogRec) : U32 := r.bits.extractLsb' 32 32
  let next := match kept.getLast? with
    | some r => seq r + 1
    | none => match l.recs.head? with
      | some r => seq r
      | none => l.next
  { l with recs := kept, next := next, full := kept.length = 32768, buf := [], bufLost := 0, nonce := none }

/-- AUX_LOSS (R492): the sequencer removes the MAIN-fed rails; no core is needed, and nothing is saved or logged. -/
def Main.auxLoss (m : Main) : Main :=
  if !m.sup.aux then m
  else
    let m := (m.powerDown false).updLog RingLog.auxLost
    let core : Table CoreSt := []
    { m with core := core }.updSup (fun s => { s with aux := false, stage := 0, state := .romBoot })

def execAuxLoss : State → Host.Outcome State Fault Refusal := onMain Main.auxLoss

/-- MAIN_PRESENT (R493). -/
def execMainPresent : State → Host.Outcome State Fault Refusal :=
  onMain (fun m => (m.updSup (fun s => { s with main := true })).mainEnable)

/-- The MAIN-fed rails are up or coming up (R496 stages 4 to 10). -/
def Main.enabled (m : Main) : Bool :=
  m.sup.aux && (m.sup.state = .starting || m.sup.state = .ready || m.sup.state = .degraded || m.sup.state = .halted)

/-- STATE 1 again, to resume at MAIN enable (R493, R495). -/
def Main.toAuxOnly (m : Main) : Main := ((m.powerDown true).updSup (fun s => { s with stage := 4 })).setState .auxOnly

/-- MAIN_INPUT_LOST (R493). -/
def execMainInputLost : State → Host.Outcome State Fault Refusal :=
  onMain (fun m =>
    let on := m.enabled
    let m := m.updSup (fun s => { s with main := false })
    if on then (m.log! { code := 0x4701, cls := .rec_ }).toAuxOnly else m)

/-- RAIL_OUT_OF_TOLERANCE (R494, R495): rails 0 VDD_AUX, 1 VDD_ANA, 2 VDD_IO, 3–5 HBM_VPP, HBM_VDDC, HBM_VDDQ, 6 VDD_SRAM, 7–10
VDD_CORE0–3, 11 VDD_MTR, of which 1–10 are fed by MAIN. -/
def execRailOutOfTolerance (rail : Fin 12) : State → Host.Outcome State Fault Refusal :=
  onMain (fun m =>
    let r := rail.val
    if !m.sup.rails || r = 0 || r = 11 || (7 ≤ r && (m.dieAt (r - 7)).tripped) then m
    else ((m.log! { code := 0x4702, cls := .flt, par := p1 r }).updSup (fun s => { s with railFault := true })).toAuxOnly)

/-- COOLANT_CHECK (R502): temperatures in 0.001 °C, and the seconds for which they have been out of range. -/
def Main.coolant (m : Main) (inlet outlet : Int) (secs : Nat) : Main :=
  let hot : Bool := decide (45000 < inlet)
  let bad : Bool := hot || decide (25000 < outlet - inlet)
  let min_ := m.sec / 60 + 1
  let report : Bool := bad && 1 ≤ secs && m.sup.rails && m.pow.minCool != min_
  let m := m.updPow (fun w => { w with inlet := inlet, outlet := outlet, minCool := if report then min_ else w.minCool })
  let m := if report then m.log! { code := 0x4703, cls := .adv, par := p1 (degrees inlet) ++ p1 (degrees outlet) } else m
  (m.updSup (fun s => { s with hot := hot })).mainEnable

def execCoolantCheck (inlet outlet : Int) (secs : Nat) : State → Host.Outcome State Fault Refusal :=
  onMain (fun m => m.coolant inlet outlet secs)

/-! ### Start-up stages -/

def Main.toStage (m : Main) (n : Nat) : Main := m.updSup (fun s => { s with stage := BitVec.ofNat 4 n })

/-- The stored settings are reset when the booted manifest's settings format differs (R459). -/
def Main.settings (m : Main) : Main :=
  let fmt : U16 := BitVec.ofNat 16 (natAt (m.fw.bank m.fw.active).manifest 40 2)
  if fmt = m.fw.setFmt then m
  else
    let old := m.fw.setFmt
    let m := (m.updFw (fun f => { f with setFmt := fmt })).updPow (fun w => { w with weight := [] })
    let m : Main := { m with dp := m.dp.map (fun (x : Nat × DiePow) => (x.1, { x.2 with offset := [] })) }
    m.log! { code := 0x8008, cls := .rec_, par := p2 old.toNat ++ p2 fmt.toNat }

/-- Stage 2 ends: the four cores start (R496). -/
def Main.coresUp (m : Main) : Main :=
  let core : Table CoreSt := (List.range 4).map (fun c => (c, { runs := true }))
  (({ m with core := core }.updFw (fun f => { f with booted := true })).flushBuf).settings

/-- Stage 6: failing tiles and columns retire, both layers and every tile store are zeroed (R496). -/
def Main.stackTest (m : Main) (r : StageResult) : Main :=
  let m := r.tiles.foldl (fun m t => m.retireTile t.id) m
  let m := r.cols.foldl (fun m c => m.retireColumn c.1.val c.2.val true) m
  { m with
    mem := { m.mem with pin := {} }
    tile := m.tile.map (fun (t : Nat × Tile) => (t.1, { t.2 with store := {} })) }

/-- Stage 7 (R174, R448, R496): channels that do not train are marked, repaired data lanes join the maps in flash, and every map is applied. -/
def Main.hbmTrain (m : Main) (r : StageResult) : Main :=
  let m := r.chans.foldl (fun m c => m.markChannel c.1.val c.2.val) m
  let m := r.lanes.foldl (fun m e =>
    m.updChan e.1.val e.2.1.val (fun c => { c with repair := if c.repair.contains e.2.2 then c.repair else c.repair ++ [e.2.2] })) m
  (List.range m.variant.stacks).foldl (fun m n =>
    m.updHbm n (fun s => { s with ch := s.ch.map (fun (c : Nat × Channel) => (c.1, { c.2 with lanes := c.2.repair })) })) m

/-- Memory initialisation of one stack: zeros, the remap tables from flash, marked channels retired, the stack offline after its third
(R481, R486, R487, R496 stage 8). -/
def Main.initStack (m : Main) (n : Nat) : Main :=
  let marked := (List.range 32).filter (fun c => ((m.hbmAt n).ch.get c).st = 1)
  let m := m.updHbm n (fun s => { s with
    ch := s.ch.map (fun (c : Nat × Channel) => (c.1, { c.2 with remap := c.2.kept, st := if c.2.st = 1 then 2 else c.2.st }))
    retired := marked.foldl (fun k c => k ||| (1#32 <<< c)) s.retired })
  let m := marked.foldl (fun m c => m.log! { code := 0x2507, cls := .rec_, stack := some n, par := p1 c }) m
  if 3 ≤ (m.hbmAt n).nRetired && !(m.hbmAt n).offline then
    (m.updHbm n (fun s => { s with offline := true })).log! { code := 0x2508, cls := .rec_, stack := some n }
  else m

/-- Stage 8 (R496). -/
def Main.memInit (m : Main) : Main :=
  (List.range m.variant.stacks).foldl Main.initStack { m with mem := { m.mem with hbm := {} } }

/-- STATE once start-up has ended (R389, R495). -/
def Main.readyState (m : Main) : DevState :=
  if m.die.any (fun d => d.2.tripped) then .halted else if m.sup.degraded then .degraded else .ready

/-- Stage 10: partitions released at start-up, the trial bank confirmed, STATE 3 and event 0xF021 (R436, R457, R496, R497). -/
def Main.toReady (m : Main) (ms : U32) : Main :=
  let m := m.variant.parts.foldl (fun m p => if (m.partAt p).st = .releasing then m.endRelease p else m) m
  let m := (m.toStage 10).updSup (fun s => { s with wasReady := true })
  let m := m.updFw (fun f => { f with trial := false, confirmed := some f.active, fails := 0, tried := false })
  ({ m with restartedAll := 0 }.setState m.readyState).log! { code := 0xF021, cls := .rec_, par := p4 ms.toNat }

/-- Stage 9: the Tenon ports start to come up and port B's devices are numbered, at most 16 (R278, R304, R311, R496). -/
def Main.linksUp (m : Main) (r : StageResult) : Main :=
  let cxl : Cxl := { m.cxl with devs := r.devs.take 16 }
  (List.range m.variant.ports).foldl Main.portUp { m with cxl := cxl }

/-- START_UP_STAGE_COMPLETE (R496). -/
def Main.stageDone (m : Main) (r : StageResult) : Main :=
  if !m.sup.aux || m.sup.state = .recovery then m
  else
    match m.sup.stage.toNat with
    | 1 => if m.sup.recov then m.enterRecovery 0 else (m.updFw (fun f => { f with active := f.selB })).toStage 2
    | 2 => if m.bankBoots r.good then (m.coresUp).toStage 3 else m.bootFail
    | 3 => ((m.toStage 4).setState .auxOnly).mainEnable
    | 4 => if m.sup.state = .starting then m.toStage 5 else m
    | 5 =>
      let m := (m.updSup (fun s => { s with rails := true })).toStage 6
      (m.wearSave false).updMir (fun x => { x with dropped := 0, advised := 0 })
    | 6 => (m.stackTest r).toStage 7
    | 7 => (m.hbmTrain r).toStage 8
    | 8 => m.memInit.toStage 9
    | 9 => (m.linksUp r).toReady r.ms
    | _ => m

def execStartUpStageComplete (r : StageResult) : State → Host.Outcome State Fault Refusal := onMain (fun m => m.stageDone r)

/-- START_UP_STAGE_OVER_BOUND (R496): stage 4's wait for MAIN and the coolant is not counted. -/
def execStartUpStageOverBound : State → Host.Outcome State Fault Refusal :=
  onMain (fun m =>
    let n := m.sup.stage.toNat
    if !m.sup.aux || m.sup.state = .recovery || n = 0 || 9 < n || (n = 4 && m.sup.state != .starting) then m
    else (m.log! { code := 0xF020, cls := .flt, par := p1 n }).bootFail)

/-! ### Resets of port A -/

/-- Every leased region is torn (R321, R500). -/
def Main.tearAll (m : Main) : Main :=
  let hit (r : Region) : Bool := r.st = .leased || (!m.cxl.a.pcie && (r.st = .fetching || r.st = .refetching))
  let m := m.region.foldl (fun (m : Main) (e : Nat × Region) =>
    if hit e.2 then m.updJob (m.dieAt (e.1 / 1024)).job.toNat (fun j => { j with tears := j.tears + 1 }) else m) m
  { m with region := m.region.map (fun (e : Nat × Region) =>
      (e.1, if e.2.st = .leased then { e.2 with st := .torn } else if hit e.2 then { e.2 with tornNow := true } else e.2)) }

/-- Mailbox registers after a reset of port A: a command in flight stays handed over, a binding stays (R399, R500; log 118). -/
def Mailbox.portReset (b : Mailbox) : Mailbox :=
  { own := b.own, lCie := b.lCie, lCmem := b.lCmem, lVec := b.lVec, lOffs := b.lOffs, bound := b.bound, part := b.part
    cmd := if b.own then b.cmd else 0 }

/-- The PERST# and function-reset columns of R500. -/
def Main.portAReset (m : Main) : Main :=
  let doe := (m.spdm.sess.filter (·.doe)).map (·.id)
  let m := (m.tearAll).failPort false
  let m : Main := { m with intr := {}, box := m.box.map (fun (b : Nat × Mailbox) => (b.1, b.2.portReset)), eng := [], ectl := {} }
  (doe.foldl Main.endSession m).updLog (fun l => { l with nonce := none })

/-- PERST_ASSERT (R499, R500): port A is held in reset. -/
def execPerstAssert : State → Host.Outcome State Fault Refusal :=
  onMain (fun m =>
    if m.cxl.perst then m
    else
      let m := (m.linkDown false).portAReset
      { m with cxl := { m.cxl with perst := true } })

/-- PERST_DEASSERT (R498): with the reference running and stage 5 completed, port A may train. -/
def execPerstDeassert (refclk : Bool) : State → Host.Outcome State Fault Refusal :=
  onMain (fun m => { m with cxl := { m.cxl with perst := false, refclk := refclk } })

/-- FUNCTION_RESET (R499): as PERST#, without loss of the link. -/
def execFunctionReset : State → Host.Outcome State Fault Refusal := onMain Main.portAReset

/-! ### Controller cores -/

/-- The hardware holds the duties of a stopped core in its safe state (R387). -/
def Main.safeState (m : Main) (c : Nat) : Main :=
  let cut (p : BitVec 3) : BitVec 3 := if 3 < p then 3 else p
  match c with
  | 1 => (List.range 4).foldl (fun m d => m.updDp d (fun x => { x with
      point := cut x.point, target := cut x.target, fast := if 8 < x.fast then 8 else x.fast })) m
  | 2 => (List.range 4).foldl (fun m d => m.updDp d (fun x => { x with
      point := 0, target := 0, fireTherm := 8, grantLo := (List.range 288).map (fun i => (i, 8)), grantHi := (List.range 288).map (fun i => (i, 8)) })) m
  | _ => m

/-- Number of a command's mailbox in event 0xF005: host 0–15, side-band 16–19, a tenant's first bound one (R388; log 110). -/
def Src.boxNum : Src → Nat
  | .host k => k.toNat
  | .side k => 16 + k.toNat
  | .tenant p => 3 * p.toNat

/-- Core 0 stops with a command that it may have been executing, which then ends with status 0x07 (R388; log 46). -/
def Main.interrupted (m : Main) : Main :=
  match m.queue with
  | [] => m
  | q :: rest =>
    let m := m.draw
    if !Config.executing m.draws then m
    else
      let two : Bool := bvAt q.cmd 0 1 = 2
      let op := if two then bvAt q.cmd 1 1 else bvAt q.cmd 2 2
      let tag : U32 := if two then BitVec.ofNat 32 (bvAt q.cmd 2 2) else q.cmd.extractLsb' 32 32
      let r : Resp := { src := q.src, tcs2 := two, op := BitVec.ofNat 16 op, tag := tag, status := 7, since := m.us }
      { m with queue := rest, resps := m.resps ++ [r] }.log! { code := 0xF005, cls := .rec_, par := p2 op ++ p1 (Src.boxNum q.src) }

/-- The third restart of a core within one hour (R389). -/
def Main.degrade (m : Main) : Main :=
  let m := (m.updSup (fun s => { s with degraded := true })).log! { code := 0xF002, cls := .rec_ }
  if m.sup.state = .ready then m.setState .degraded else m

/-- CORE_HEARTBEAT_MISS (R387–R389, R455, R457): the fifth heartbeat missed in a row; the watchdog restarts the core. -/
def Main.coreMiss (m : Main) (c : Nat) : Main :=
  if !(m.core.get c).runs then m
  else
    let rs := recent m.sec 3600 (m.core.get c).restarts ++ [m.sec]
    let m : Main := { m with core := m.core.put c { runs := false, restarts := rs } }
    let m := (m.safeState c).log! { code := 0xF001, cls := .rec_, par := p1 c }
    let m := if c = 0 then m.interrupted else if c = 3 then m.abortUpdate 1 else m
    let m := if 3 ≤ rs.length then m.degrade else m
    if m.sup.wasReady then m
    else
      let all := m.restartedAll ||| (1#4 <<< c)
      let m : Main := { m with restartedAll := all }
      if all = 0xF then m.bootFail else m

def execCoreHeartbeatMiss (c : Fin 4) : State → Host.Outcome State Fault Refusal := onMain (fun m => m.coreMiss c.val)

/-- Core 3's buffered records are stored, and those lost are counted (R387, R388). -/
def Main.logBack (m : Main) : Main :=
  let n := m.log.bufLost
  let m := m.flushBuf
  if n = 0 then m else (m.updLog (fun l => { l with bufLost := 0 })).log! { code := 0xF007, cls := .rec_, par := p4 n }

/-- CORE_RESTARTED (R387, R388): the core resumes from the settings in force. -/
def Main.coreBack (m : Main) (c : Nat) : Main :=
  if !m.sup.aux || !m.fw.booted || (m.core.get c).runs then m
  else
    let m : Main := { m with core := m.core.upd c (fun k => { k with runs := true, bad := 0 }) }
    match c with
    | 2 => (List.range 4).foldl (fun m d => m.updDp d (fun x => { x with fireTherm := 16 })) m
    | 3 => m.logBack
    | _ => m

def execCoreRestarted (c : Fin 4) : State → Host.Outcome State Fault Refusal := onMain (fun m => m.coreBack c.val)

/-- SETTINGS_COPY_CHECK (R388): on the second mismatch in a row the core reloads its copy; the model holds the master copy alone. -/
def Main.copyCheckCore (m : Main) (c : Nat) (same : Bool) : Main :=
  let k := m.core.get c
  if !k.runs then m
  else if same || k.bad = 0 then { m with core := m.core.put c { k with bad := if same then 0 else 1 } }
  else { m with core := m.core.put c { k with bad := 0 } }.log! { code := 0xF003, cls := .rec_, par := p1 c }

def execSettingsCopyCheck (c : Fin 4) (same : Bool) : State → Host.Outcome State Fault Refusal := onMain (fun m => m.copyCheckCore c.val same)

end Sys2Proof.Machine
end

