-- ==== Sys2Proof/Machine/Matrix.lean ====
section
/-! DEFINITION. Matrix-engine and accumulation-group instructions: each row is one beat of a tile in which the spindle's next instruction is the given one. -/

namespace Sys2Proof.Machine

/-- MMA (R70). -/
def execMma (t : TileRef) (k : Fin 8) (f : Fields) : State → Host.Outcome State Fault Refusal :=
  onMain (fun m => m.issueRow t k 0x40 f)

/-- AMOV (R79). -/
def execAmov (t : TileRef) (k : Fin 8) (f : Fields) : State → Host.Outcome State Fault Refusal :=
  onMain (fun m => m.issueRow t k 0x41 f)

/-- ALOAD (R78). -/
def execAload (t : TileRef) (k : Fin 8) (f : Fields) : State → Host.Outcome State Fault Refusal :=
  onMain (fun m => m.issueRow t k 0x42 f)

/-- ACLOSE (R74). -/
def execAclose (t : TileRef) (k : Fin 8) (f : Fields) : State → Host.Outcome State Fault Refusal :=
  onMain (fun m => m.issueRow t k 0x43 f)

end Sys2Proof.Machine
end

