-- ==== Sys2Proof/Machine/Update.lean ====
section
/-! DEFINITION. Firmware update, activation and the module-reset command (R448–R461, R501). -/

namespace Sys2Proof.Machine

/-! ### Manifests and packages -/

/-- Length of the package of a manifest (R451). -/
def packageLen (b : List Byte) : Nat := 4096 * (1 + ((List.range 4).map (manBlocks b)).sum)

/-- A base hash is 0, or that of the component in the active bank; in recovery it is 0 (R451, R461). -/
def Main.baseFits (m : Main) (e : List Byte) : Bool :=
  zeroAt e 96 64 || (m.sup.state != .recovery && bytesAt e 96 64 = bytesAt ((m.fw.bank m.fw.active).entry (natAt e 0 1)) 32 64)

/-- What the first 4,096 bytes of a package with `len` bytes give: status and reason, both 0 where it is accepted (R451, R453;
order of log 121). -/
def Main.packageCheck (m : Main) (b : List Byte) (len : Nat) : Nat × Nat :=
  if !manifestFits b || !zeroAt b 1010 3086 || len != packageLen b then (3, 2)
  else if !manifestSigned b then (9, 0)
  else if natAt b 16 4 != 2 || (natAt b 21 1 = 1 && natAt b 24 16 != m.serial.toNat) then (3, 3)
  else if natAt b 20 1 < m.fw.minsec then (3, 4)
  else if !(List.range 4).all (fun i => m.baseFits (manEntry b i)) then (3, 5)
  else (0, 0)

/-- Bytes of a package in host memory; none where the read fails or returns poison, or the address is not in host memory (R453). -/
def Main.packageRead (m : Main) (a n : Nat) : Main × Option (List Byte) :=
  match m.rngFor 4 a with
  | .host _ => m.daGet 4 a n
  | _ => (m, none)

/-! ### The update -/

/-- U1 has passed: the update runs, at U2 (R454). -/
def Main.updateRuns (m : Main) (man : List Byte) : Main :=
  (m.updFw (fun f => { f with st := 1, step := 2, man := man, blocks := 0, comp := 0, outp := [] })).log!
    { code := 0x8001, cls := .rec_, par := p4 (natAt man 12 4) ++ p1 m.fw.side.toNat }

/-- 0x0601 (R453, R454 U1). -/
def Main.startUpd (h : Hdr) (p : Payload) (m : Main) : Reply :=
  if m.fw.st = 1 then refuse m 1
  else
    let a := bvAt p 0 8
    let len := bvAt p 8 4
    let (m, r) := m.packageRead a 4096
    match r with
    | none => refuse m 8
    | some b =>
      match m.packageCheck b len with
      | (0, _) =>
        let m := m.updFw (fun f => { f with side := Src.isSide h.src, pkg := BitVec.ofNat 56 a, plen := len, pldm := none, fd := 0 })
        ok (m.updateRuns (b.take 1010)) [(4, 4, natAt b 12 4)]
      | (3, n) => refuse m n
      | (s, _) => reject m s

/-- START_UPDATE, 0x0601 (R453, R454). -/
def execStartUpdate (h : Hdr) (p : Payload) : State → Host.Outcome State Fault Refusal :=
  onMain (fun m => m.command 0x0601 h p [(0, 8), (8, 4)] (Main.startUpd h p))

/-- The update fails: the bank it writes is left invalid (R454). -/
def Main.updateFails (m : Main) (code : Nat) (par : List Byte) : Main :=
  (m.updFw (fun f => { f.setBank m.target {} with st := 3, man := [], outp := [], pldm := none, fd := 0 })).log!
    { code := code, cls := .rec_, par := par }

/-- The operations of a delta block, of which `left` bytes are used: output after them, none where one is malformed, leaves those bytes or
the base image, or makes the output longer than `top`. After END the rest of the block is 0 (R452). -/
def deltaOps (base : Option (List Byte)) (top : Nat) : Nat → Nat → List Byte → List Byte → Option (List Byte)
  | 0, _, _, _ => none
  | n + 1, left, ops, out =>
    let rest := ops.drop 1
    let code : Byte := ops.headD 0
    if left = 0 then some out
    else if code = 0x00 then (if zeroAt rest 0 rest.length then some out else none)
    else if code = 0x01 then
      let off := natAt rest 0 4
      let len := natAt rest 4 4
      (match base with
       | some img =>
         if left < 9 || img.length < off + len || top < out.length + len then none
         else deltaOps base top n (left - 9) (rest.drop 8) (out ++ (img.drop off).take len)
       | none => none)
    else if code = 0x02 then
      let len := natAt rest 0 2
      if left < 3 + len || len = 0 || 4077 < len || top < out.length + len then none
      else deltaOps base top n (left - 3 - len) (rest.drop (2 + len)) (out ++ (rest.drop 2).take len)
    else if code = 0x03 then
      let len := natAt rest 0 4
      if left < 5 || top < out.length + len then none
      else deltaOps base top n (left - 5) (rest.drop 4) (out ++ List.replicate len 0)
    else none

/-- A delta block at its index, applied to the output so far: none where its check fails (R452). -/
def deltaBlock (base : Option (List Byte)) (top index : Nat) (b out : List Byte) : Option (List Byte) :=
  let used := natAt b 4 2
  let crc := crc32c (b.take 8 ++ [0, 0, 0, 0] ++ b.drop 12)
  if b.length != 4096 || natAt b 0 4 != index || used = 0 || 4080 < used || !zeroAt b 6 2 || !zeroAt b 12 4 || natAt b 8 4 != crc.toNat
  then none
  else deltaOps base top 4081 used (b.drop 16) out

/-- Block of the package, counted over it after the manifest: from the PLDM transfer, where it is taken once it has arrived, or from
host memory (R453). The inner none is a failed read, the outer one a block that has not arrived. -/
def Main.packageBlock (m : Main) (k : Nat) : Main × Option (Option (List Byte)) :=
  match m.fw.pldm with
  | some l => (m, if l.length < 4096 * (k + 2) then none else some (some (bytesAt l (4096 * (k + 1)) 4096)))
  | none => let (m, r) := m.packageRead (m.fw.pkg.toNat + 4096 * (k + 1)) 4096; (m, some r)

/-- The last block of the component in hand has been applied: the output is its image, exactly as long as its entry says (R452). -/
def Main.endComponent (m : Main) (k : Nat) : Main :=
  let e := manEntry m.fw.man m.fw.comp
  let t := natAt e 0 1
  if m.fw.outp.length != natAt e 8 4 then m.updateFails 0x8003 (p1 t ++ p4 k)
  else
    let b := m.fw.bank m.target
    let m := m.updFw (fun f => { f.setBank m.target { b with image := b.image.put t f.outp } with comp := f.comp + 1, outp := [] })
    if m.fw.comp = 4 then m.updFw (fun f => { f with step := 4, comp := 0 }) else m

/-- U3: the next block of the package, or the end of a component without blocks (R454). -/
def Main.updateBlock (m : Main) : Main :=
  let e := manEntry m.fw.man m.fw.comp
  let t := natAt e 0 1
  let count := natAt e 12 4
  let first := ((List.range m.fw.comp).map (manBlocks m.fw.man)).sum
  let k := m.fw.blocks.toNat - first
  if count = 0 then m.endComponent 0
  else
    let (m, r) := m.packageBlock m.fw.blocks.toNat
    match r with
    | none => m
    | some none => m.updateFails 0x8003 (p1 t ++ p4 k)
    | some (some b) =>
      let base := if zeroAt e 96 64 then none else some (((m.fw.bank m.fw.active).image.find t).getD [])
      match deltaBlock base (natAt e 8 4) k b m.fw.outp with
      | none => m.updateFails 0x8003 (p1 t ++ p4 k)
      | some out =>
        let m := m.updFw (fun f => { f with outp := out, blocks := f.blocks + 1 })
        if k + 1 = count then m.endComponent k else m

/-- U4: one rebuilt image against its entry; VerifyComplete follows the last (R453, R454). -/
def Main.updateHash (m : Main) : Main :=
  let e := manEntry m.fw.man m.fw.comp
  let t := natAt e 0 1
  let img := ((m.fw.bank m.target).image.find t).getD []
  if Config.shake256 img 64 != bytesAt e 32 64 then m.updateFails 0x8004 (p1 t)
  else
    let m := m.updFw (fun f => { f with comp := f.comp + 1 })
    if m.fw.comp != 4 then m
    else
      let m := m.updFw (fun f => { f with step := 5 })
      if m.fw.pldm.isSome then (m.updFw (fun f => { f with fd := 5 })).send (.pldm 0x17 [5, 0]) else m

/-- Activation of the verified bank: the boot selector names it as trial (R456). -/
def Main.activateBank (m : Main) : Main :=
  let b := m.target
  (m.updFw (fun f => { f with selB := b, trial := true, fails := 0 })).log!
    { code := 0x8006, cls := .rec_, par := p1 b.toNat ++ p4 (m.fw.bank b).version }

/-- U5: the manifest is programmed and the bank is marked verified; in recovery the bank is activated, and the module resets unless
the strap is asserted (R454, R461). -/
def Main.updateEnds (m : Main) : Main :=
  let b := m.target
  let k := m.fw.bank b
  let byPldm := m.fw.pldm.isSome
  let m := m.updFw (fun f => { f.setBank b { k with manifest := f.man, verified := true } with st := 2, man := [], pldm := none, fd := if byPldm then 6 else 0 })
  let m := m.log! { code := 0x8005, cls := .rec_, par := p1 b.toNat }
  let m := if byPldm then m.send (.pldm 0x18 [5, 0]) else m
  if m.sup.state != .recovery then m
  else
    let m := m.activateBank
    if m.sup.recov then m else m.moduleReset 2 2

/-- UPDATE_BACKGROUND (R454): one action of core 3, or of ROM in recovery. -/
def Main.updateAct (m : Main) : Main :=
  if m.fw.st != 1 || !m.sideUp then m
  else
    match m.fw.step with
    | 2 => m.updFw (fun f => { f.setBank m.target {} with step := 3 })
    | 3 => m.updateBlock
    | 4 => m.updateHash
    | 5 => m.updateEnds
    | _ => m

def execUpdateBackground : State → Host.Outcome State Fault Refusal := onMain Main.updateAct

/-! ### Status, activation, cancel -/

/-- Blocks in the package in hand (R453). -/
def Main.packageBlocks (m : Main) : Nat := m.fw.plen / 4096 - 1

/-- 0x0602 (R453). -/
def Main.updStatus (m : Main) : Reply :=
  let f := m.fw
  let b := m.target
  ok m [(1, 1, f.st.toNat), (2, 1, f.step), (3, 1, f.side.toNat), (4, 4, f.blocks.toNat), (8, 4, m.packageBlocks), (12, 1, f.active.toNat),
    (13, 1, if (f.bank b).verified then b.toNat else 0xFF), (16, 4, f.bankA.version), (20, 4, f.bankB.version), (24, 1, f.minsec)]

/-- UPDATE_STATUS, 0x0602 (R453). -/
def execUpdateStatus (h : Hdr) (p : Payload) : State → Host.Outcome State Fault Refusal :=
  onMain (fun m => m.command 0x0602 h p [] Main.updStatus (reads := true))

/-- A job is open, or a partition is Claiming, Sealed or Releasing (R453). -/
def Main.inUse (m : Main) : Bool := m.jobs != [] || m.variant.parts.any m.masked

/-- The reason that activation is refused with, 0 for none (R453, R455, R456). -/
def Main.activateReason (m : Main) : Nat :=
  if m.fw.st = 1 then 1 else if m.inUse then 6 else if !(m.fw.bank m.target).verified then 7 else 0

/-- 0x0603 without its reset (R456). -/
def Main.activateCmd (p : Payload) (m : Main) : Reply :=
  if 1 < bvAt p 0 1 then reject m 2
  else if m.activateReason != 0 then refuse m m.activateReason
  else ok m.activateBank [(1, 1, m.target.toNat)]

/-- What a requester is called in event 0xF022: 0 host, 1 side-band. -/
def Hdr.requester (h : Hdr) : Nat := (Src.isSide h.src).toNat

/-- Runs a command that ends in a module reset: where it completes with status 0x00, its response is written, then the reset starts
(R456, R501). -/
def Main.thenReset (m after : Main) (cause requester : Nat) : Main :=
  match after.resps.getLast? with
  | some r =>
    if after.resps.length ≤ m.resps.length || r.status != 0 then after
    else ({ after with resps := r :: after.resps.dropLast }.completeNext true).moduleReset cause requester
  | none => after

/-- ACTIVATE, 0x0603 (R456). -/
def execActivate (h : Hdr) (p : Payload) : State → Host.Outcome State Fault Refusal :=
  onMain (fun m =>
    let after := m.command 0x0603 h p [(0, 1)] (Main.activateCmd p)
    if bvAt p 0 1 = 1 then m.thenReset after 1 (Hdr.requester h) else after)

/-- 0x0604 (R455): with no update running it has no effect (log 122). -/
def Main.cancelCmd (h : Hdr) (m : Main) : Reply :=
  if m.fw.st != 1 then ok m []
  else if m.fw.side != Src.isSide h.src then refuse m 9
  else ok (m.abortUpdate 0) []

/-- CANCEL_UPDATE, 0x0604 (R455). -/
def execCancelUpdate (h : Hdr) (p : Payload) : State → Host.Outcome State Fault Refusal :=
  onMain (fun m => m.command 0x0604 h p [] (Main.cancelCmd h))

/-- 0x0605 up to its reset (R501). -/
def Main.resetCmd (p : Payload) (m : Main) : Reply :=
  let v := bvAt p 0 1
  if 1 < v then reject m 2
  else if v = 0 && m.inUse then refuse m 6
  else ok m []

/-- MODULE_RESET, 0x0605 (R501). -/
def execModuleReset (h : Hdr) (p : Payload) : State → Host.Outcome State Fault Refusal :=
  onMain (fun m =>
    let after := m.command 0x0605 h p [(0, 1)] (Main.resetCmd p) (anyState := bvAt p 0 1 = 1)
    m.thenReset after 0 (Hdr.requester h))

/-- 0x0606 (R458): the security version of the confirmed active bank; without one, reason 0x07 (log 122). -/
def Main.commitSecurity (m : Main) : Reply :=
  if m.fw.confirmed != some m.fw.active then refuse m 7
  else
    let v := max m.fw.minsec (natAt (m.fw.bank m.fw.active).manifest 20 1)
    ok ((m.updFw (fun f => { f with minsec := v })).log! { code := 0x800B, cls := .rec_, par := p1 v }) [(1, 1, v)]

/-- COMMIT_SECURITY_VERSION, 0x0606 (R458). -/
def execCommitSecurityVersion (h : Hdr) (p : Payload) : State → Host.Outcome State Fault Refusal :=
  onMain (fun m => m.command 0x0606 h p [] Main.commitSecurity)

end Sys2Proof.Machine
end

