-- ==== Sys2Proof/Machine/Sideband.lean ====
section
/-! DEFINITION. The side-band endpoint: I3C addressing, MCTP control and PLDM types 0, 2 and 5 (R415–R417, R453, R455). Message and
completion codes are those of the DMTF specifications that the manual names (log 124). -/

namespace Sys2Proof.Machine

def Main.updSb (m : Main) (f : SideBand → SideBand) : Main := { m with sb := f m.sb }

/-- A message to the endpoint is taken while it answers (R387, R460). -/
def Main.sideDo (m : Main) (f : Main → Main) : Main := if m.sideUp then f m else m

/-! ### Addresses and MCTP control -/

/-- ENTDAA (R415). -/
def execEntdaa (a : BitVec 7) : State → Host.Outcome State Fault Refusal :=
  onMain (fun m => m.sideDo (fun m => (m.updSb (fun s => { s with dyn := some a })).send (.i3c a)))

/-- SMBUS_FALLBACK (R415). -/
def execSmbusFallback : State → Host.Outcome State Fault Refusal :=
  onMain (fun m => m.sideDo (fun m => (m.updSb (fun s => { s with smbus := true })).log! { code := 0xF006, cls := .rec_ }))

/-- An MCTP control response: command, completion code and data. -/
def Main.mctp (m : Main) (cmd cc : Byte) (body : List Byte) : Main := m.send (.mctp (cmd :: cc :: body))

/-- Set Endpoint ID: set (0) or force (1) an ID that MCTP allows; the sender becomes the assigning endpoint (R400, R415). -/
def Main.setEid (m : Main) (sender op eid : Byte) : Main :=
  if 1 < op || eid = 0 || eid = 0xFF then m.mctp 0x01 0x02 []
  else (m.updSb (fun s => { s with eid := eid, owner := sender })).mctp 0x01 0x00 [0, eid, 0]

/-- SET_ENDPOINT_ID (R415). -/
def execSetEndpointId (sender op eid : Byte) : State → Host.Outcome State Fault Refusal :=
  onMain (fun m => m.sideDo (fun m => m.setEid sender op eid))

/-- GET_ENDPOINT_ID (R415). -/
def execGetEndpointId : State → Host.Outcome State Fault Refusal :=
  onMain (fun m => m.sideDo (fun m => m.mctp 0x02 0x00 [m.sb.eid, 0, 0]))

/-- GET_ENDPOINT_UUID (R415). -/
def execGetEndpointUuid : State → Host.Outcome State Fault Refusal :=
  onMain (fun m => m.sideDo (fun m => m.mctp 0x03 0x00 (bvBytes Config.uuid 16)))

/-- Message types of R415. -/
def mctpTypes : List Byte := [0x00, 0x01, 0x05, 0x06, 0x7E]

/-- GET_MCTP_VERSION_SUPPORT (R415): for the base specification (0xFF) and each type of R415. -/
def execGetMctpVersionSupport (ty : Byte) : State → Host.Outcome State Fault Refusal :=
  onMain (fun m => m.sideDo (fun m =>
    if ty = 0xFF || mctpTypes.contains ty then m.mctp 0x04 0x00 (p1 1 ++ p4 (Config.mctpVersion ty.toNat).toNat) else m.mctp 0x04 0x80 []))

/-- GET_MESSAGE_TYPE_SUPPORT (R415). -/
def execGetMessageTypeSupport : State → Host.Outcome State Fault Refusal :=
  onMain (fun m => m.sideDo (fun m => m.mctp 0x05 0x00 (p1 mctpTypes.length ++ mctpTypes)))

/-- GET_VENDOR_DEFINED_MESSAGE_SUPPORT (R400, R415): one set, under Vilnen's enterprise number. -/
def execGetVendorDefinedMessageSupport (sel : Byte) : State → Host.Outcome State Fault Refusal :=
  onMain (fun m => m.sideDo (fun m =>
    if sel = 0 then m.mctp 0x06 0x00 (p1 0xFF ++ p1 1 ++ p4 Config.enterprise.toNat) else m.mctp 0x06 0x02 []))

/-! ### PLDM types 0 and 2 -/

/-- A PLDM response: its type, completion code and data. -/
def Main.pldm (m : Main) (ty code cc : Byte) (body : List Byte) : Main := m.send (.pldm code (ty :: cc :: body))

/-- PLDM types supported; ROM in recovery answers types 0 and 5 alone (R416, R460). -/
def Main.pldmTypes (m : Main) : List Nat := if m.sup.state = .recovery then [0, 5] else [0, 2, 5]

/-- GETTID (R416). -/
def execGettid : State → Host.Outcome State Fault Refusal :=
  onMain (fun m => m.sideDo (fun m => m.pldm 0 0x02 0x00 [m.sb.tid]))

/-- GETPLDMVERSION (R416). -/
def execGetpldmversion (ty : Byte) : State → Host.Outcome State Fault Refusal :=
  onMain (fun m => m.sideDo (fun m =>
    if m.pldmTypes.contains ty.toNat then m.pldm 0 0x03 0x00 (p4 (Config.pldmVersion ty.toNat).toNat) else m.pldm 0 0x03 0x83 []))

/-- A bit map of `n` bytes. -/
def bitMap (n : Nat) (l : List Nat) : List Byte := toBytes n ((l.map (fun i => 2 ^ i)).sum)

/-- GETPLDMTYPES (R416). -/
def execGetpldmtypes : State → Host.Outcome State Fault Refusal :=
  onMain (fun m => m.sideDo (fun m => m.pldm 0 0x04 0x00 (bitMap 8 m.pldmTypes)))

/-- Commands of a PLDM type (R416). -/
def pldmCommands (ty : Nat) : List Nat :=
  match ty with
  | 0 => [0x02, 0x03, 0x04, 0x05]
  | 2 => [0x04, 0x0A, 0x0B, 0x11, 0x21, 0x51]
  | _ => [0x01, 0x02, 0x10, 0x13, 0x14, 0x15, 0x16, 0x17, 0x18, 0x1A, 0x1B, 0x1D]

/-- GETPLDMCOMMANDS (R416). -/
def execGetpldmcommands (ty : Byte) : State → Host.Outcome State Fault Refusal :=
  onMain (fun m => m.sideDo (fun m =>
    if m.pldmTypes.contains ty.toNat then m.pldm 0 0x05 0x00 (bitMap 32 (pldmCommands ty.toNat)) else m.pldm 0 0x05 0x83 []))

/-- A request of type 2; ROM in recovery does not support the type (R460). -/
def Main.monitor (m : Main) (code : Byte) (f : Main → Main) : Main :=
  m.sideDo (fun m => if m.pldmTypes.contains 2 then f m else m.pldm 2 code 0x20 [])

/-- GETPDR (R416). -/
def execGetpdr (record : U32) : State → Host.Outcome State Fault Refusal :=
  onMain (fun m => m.monitor 0x51 (fun m =>
    match Config.pdr record with
    | some b => m.pldm 2 0x51 0x00 b
    | none => m.pldm 2 0x51 0x82 []))

/-- The numeric sensors in the order of R417, in W and °C. -/
def Main.sensors (m : Main) : List Int :=
  let drawn : Int := (((m.pow.hist.headD (0, 0)).2 / 1000 : Nat) : Int)
  let cap : Int := ((m.capNow / 1000 : Nat) : Int)
  [drawn, ((m.mir.power.toNat / 1000 : Nat) : Int)] ++
  (List.range 4).map (fun d => (m.dpAt d).hottest / 1000) ++
  (List.range m.variant.stacks).map (fun n => (m.hbmAt n).temp / 1000) ++
  (List.range m.variant.ioDies).map (fun i => (m.pow.ioTemp.get i : Int) / 1000) ++
  [m.pow.inlet / 1000, cap]

/-- GETSENSORREADING (R417): the sensor that an ID names is the endpoint's own (log 125). -/
def execGetsensorreading (id : U16) : State → Host.Outcome State Fault Refusal :=
  onMain (fun m => m.monitor 0x11 (fun m =>
    match m.sensors[Config.sensorPlace id]? with
    | some v => m.pldm 2 0x11 0x00 (p4 (v % 2 ^ 32).toNat)
    | none => m.pldm 2 0x11 0x80 []))

/-- GETSTATESENSORREADINGS (R417): the sensor that follows the numeric ones. -/
def execGetstatesensorreadings (id : U16) : State → Host.Outcome State Fault Refusal :=
  onMain (fun m => m.monitor 0x21 (fun m =>
    if Config.sensorPlace id = m.sensors.length then m.pldm 2 0x21 0x00 (p1 m.sup.state.num) else m.pldm 2 0x21 0x80 []))

/-- SETEVENTRECEIVER (R416): 0 disables, 1 sends events to the receiver, 2 lets it poll. -/
def execSeteventreceiver (enable eid : Byte) : State → Host.Outcome State Fault Refusal :=
  onMain (fun m => m.monitor 0x04 (fun m =>
    if 2 < enable then m.pldm 2 0x04 0x02 []
    else (m.updSb (fun s => { s with recv := if enable = 1 then some eid else none })).pldm 2 0x04 0x00 []))

/-- POLLFORPLATFORMEVENTMESSAGE (R416): the oldest pending 32-byte record, as an OEM event. -/
def execPollforplatformeventmessage : State → Host.Outcome State Fault Refusal :=
  onMain (fun m => m.monitor 0x0B (fun m =>
    match m.sb.events with
    | [] => m.pldm 2 0x0B 0x00 []
    | r :: rest => (m.updSb (fun s => { s with events := rest })).pldm 2 0x0B 0x00 (0xFA :: bvBytes r 32)))

/-! ### PLDM type 5 -/

/-- QUERYDEVICEIDENTIFIERS (R416). -/
def execQuerydeviceidentifiers : State → Host.Outcome State Fault Refusal :=
  onMain (fun m => m.sideDo (fun m => m.pldm 5 0x01 0x00 Config.pldmIds))

/-- GETFIRMWAREPARAMETERS (R416): one component, a Vilnen manifest; its active version, and the pending one, 0 for none. -/
def execGetfirmwareparameters : State → Host.Outcome State Fault Refusal :=
  onMain (fun m => m.sideDo (fun m =>
    let f := m.fw
    let pending := if f.trial && f.selB != f.active then (f.bank f.selB).version else 0
    m.pldm 5 0x02 0x00 (p2 1 ++ p4 (f.bank f.active).version ++ p4 pending)))

/-- RequestUpdate: the update is the side-band's, at U1 (R453, R455). -/
def Main.requestUpdate (m : Main) (comps : U16) : Main :=
  if m.fw.st = 1 || m.fw.fd != 0 then m.pldm 5 0x10 0x81 []
  else if comps != 1 then m.pldm 5 0x10 0x02 []
  else (m.updFw (fun f => { f with
    st := 1, step := 1, side := true, man := [], blocks := 0, comp := 0, outp := [], plen := 0, pldm := some [], fd := 1 })).pldm 5 0x10 0x00 []

/-- REQUESTUPDATE (R453). -/
def execRequestupdate (comps : U16) : State → Host.Outcome State Fault Refusal :=
  onMain (fun m => m.sideDo (fun m => m.requestUpdate comps))

/-- PASSCOMPONENTTABLE (R416). -/
def execPasscomponenttable (_comp : U16) : State → Host.Outcome State Fault Refusal :=
  onMain (fun m => m.sideDo (fun m =>
    if m.fw.fd = 0 then m.pldm 5 0x13 0x80 []
    else if m.fw.fd != 1 then m.pldm 5 0x13 0x84 []
    else (m.updFw (fun f => { f with fd := 2 })).pldm 5 0x13 0x00 []))

/-- Bytes of the package received over the side-band (R453). -/
def Main.received (m : Main) : List Byte := m.fw.pldm.getD []

/-- RequestFirmwareData for the next chunk of the package, at most 4,096 bytes (log 126). -/
def Main.requestData (m : Main) : Main :=
  let n := m.received.length
  m.send (.pldm 0x15 (5 :: (p4 n ++ p4 (min 4096 (m.fw.plen - n)))))

/-- UPDATECOMPONENT (R416, R453). -/
def execUpdatecomponent (_comp : U16) (size : U32) : State → Host.Outcome State Fault Refusal :=
  onMain (fun m => m.sideDo (fun m =>
    if m.fw.fd = 0 then m.pldm 5 0x14 0x80 []
    else if m.fw.fd != 2 then m.pldm 5 0x14 0x84 []
    else ((m.updFw (fun f => { f with fd := 3, plen := size.toNat })).pldm 5 0x14 0x00 []).requestData))

/-- The transfer is given up: U1 has not passed (R451, R454). -/
def Main.transferFails (m : Main) (reason : Nat) : Main :=
  (m.updFw (fun f => { f with st := 0, step := 0, pldm := none, fd := 0 })).send (.pldm 0x16 (5 :: p1 (0x70 + reason)))

/-- U1 on the first 4,096 bytes of the package (R453, R454). -/
def Main.transferStart (m : Main) : Main :=
  match m.packageCheck (m.received.take 4096) m.fw.plen with
  | (0, _) => m.updateRuns (m.received.take 1010)
  | (3, n) => m.transferFails n
  | (s, _) => m.transferFails s

/-- A chunk of the package arrives (R453): U1 runs once the manifest is there, and TransferComplete follows the last chunk. -/
def Main.chunk (m : Main) (d : List Byte) : Main :=
  if m.fw.fd != 3 then m
  else
    let m := m.updFw (fun f => { f with pldm := f.pldm.map (fun l => (l ++ d).take f.plen) })
    let whole : Bool := decide (m.fw.plen ≤ m.received.length)
    let m := if m.fw.step = 1 && (whole || 4096 ≤ m.received.length) then m.transferStart else m
    if m.fw.fd != 3 then m
    else if whole then (m.updFw (fun f => { f with fd := 4 })).send (.pldm 0x16 [5, 0])
    else m.requestData

/-- REQUESTFIRMWAREDATA_RESPONSE (R453). -/
def execRequestfirmwaredataResponse (d : List Byte) : State → Host.Outcome State Fault Refusal :=
  onMain (fun m => m.sideDo (fun m => m.chunk d))

/-- ACTIVATEFIRMWARE (R453, R456): as 0x0603 without its reset. -/
def execActivatefirmware : State → Host.Outcome State Fault Refusal :=
  onMain (fun m => m.sideDo (fun m =>
    if m.activateReason != 0 then m.pldm 5 0x1A 0x84 (p1 m.activateReason)
    else (m.activateBank.updFw (fun f => { f with fd := 0 })).pldm 5 0x1A 0x00 []))

/-- GETSTATUS (R416): the state of the transfer, then state and step of the update (R453). -/
def execGetstatus : State → Host.Outcome State Fault Refusal :=
  onMain (fun m => m.sideDo (fun m => m.pldm 5 0x1B 0x00 (p1 m.fw.fd ++ p1 m.fw.st.toNat ++ p1 m.fw.step)))

/-- CANCELUPDATE (R455): as 0x0604 from the side-band. -/
def execCancelupdate : State → Host.Outcome State Fault Refusal :=
  onMain (fun m => m.sideDo (fun m =>
    if m.fw.st = 1 && m.fw.side then (m.abortUpdate 0).pldm 5 0x1D 0x00 []
    else if m.fw.fd = 0 then m.pldm 5 0x1D 0x80 []
    else (m.updFw (fun f => { f with fd := 0 })).pldm 5 0x1D 0x00 []))

end Sys2Proof.Machine
end

