-- ==== Sys2Proof/Machine/Protect.lean ====
section
/-! DEFINITION. Patrol scrub, the corrected-words advisories, checker test mode and the degradation commands (R479, R480, R483, R488, R489). -/

namespace Sys2Proof.Machine

/-! ### Degradation map -/

/-- A bit map of 256 bits from bit 256 × part on. -/
def mapPart (part : Nat) (f : Nat → Bool) : Payload := BitVec.ofNat 256 (((List.range 256).map (fun i => if f (256 * part + i) then 2 ^ i else 0)).sum)

/-- Retired tile at a position of a die: 36 × region + tile (R489). -/
def Main.tileRetired (m : Main) (d pos : Nat) : Bool := pos < 288 && (m.tileAt (d * 512 + pos / 36 * 64 + pos % 36)).retired

/-- Number of retired tiles of a die. -/
def Main.tilesRetired (m : Main) (d : Nat) : Nat := ((List.range 288).filter (m.tileRetired d)).length

/-- Selector 0 (R489). -/
def Main.mapTotals (m : Main) : Reply :=
  let port (p : Nat) := m.portAt p
  let ps := List.range m.variant.ports
  ok m ((List.range 4).map (fun d => (2 * d, 2, m.tilesRetired d)) ++
    (List.range 4).map (fun s => (8 + 2 * s, 2, (m.sramAt s).retired.length)) ++
    (List.range 10).map (fun n => (16 + n, 1, if (m.hbmAt n).offline then 0xFF else (m.hbmAt n).nRetired)) ++
    [(26, 2, (ps.map (fun p => if (port p).retired then 2 ^ p else 0)).sum),
     (28, 1, (ps.map (fun p => ((List.range 8).filter (port p).laneRet.getLsbD).length)).sum)])

/-- Selector 3 (R489). -/
def Main.mapChannel (m : Main) (n ch : Nat) : Reply :=
  let c := (m.hbmAt n).ch.get ch
  ok m [(0, 1, c.remap.length), (1, 1, c.st.toNat), (4, 4, (recent m.sec 86400 c.corrected).length), (8, 4, c.pageCorr.toNat),
    (12, 4, c.uncorr.toNat), (16, 4, (m.hbmAt n).retired.toNat), (20, 4, m.visible n / 2 ^ 20)]

/-- 0x0910 (R489): a selector or argument out of range ends with status 0x02. -/
def Main.degradation (p : Payload) (m : Main) : Reply :=
  let a := bvAt p 1 1
  let b := bvAt p 2 1
  match bvAt p 0 1 with
  | 0 => if a != 0 || b != 0 then reject m 2 else m.mapTotals
  | 1 => if 3 < a || 1 < b then reject m 2 else (m, 0, mapPart b (m.tileRetired a))
  | 2 => if 3 < a || 1 < b then reject m 2 else (m, 0, mapPart b (m.sramAt a).retired.contains)
  | 3 => if m.variant.stacks ≤ a || 31 < b then reject m 2 else m.mapChannel a b
  | 4 => if m.variant.ports ≤ a || b != 0 then reject m 2
         else ok m [(0, 1, (m.portAt a).retired.toNat), (1, 1, (m.portAt a).laneRet.toNat)]
  | _ => reject m 2

/-- The requester owns what a degradation map names; a tenant reads its own units alone (R431; log 127). -/
def Main.ownsMap (m : Main) (src : Src) (p : Payload) : Bool :=
  let a := bvAt p 1 1
  match bvAt p 0 1 with
  | 1 | 2 => 3 < a || m.owns src (m.variant.diePart a)
  | 3 => m.variant.stacks ≤ a || m.owns src (m.variant.stackPart a)
  | _ => Src.operator src

/-- DEGRADATION_MAP, 0x0910 (R489). -/
def execDegradationMap (h : Hdr) (p : Payload) : State → Host.Outcome State Fault Refusal :=
  onMain (fun m => m.command 0x0910 h p [(0, 3)] (Main.degradation p) (reads := true) (owned := m.ownsMap h.src p))

/-- A port without its retirements (R488). -/
def Port.reinstated (p : Port) : Port := { p with laneRet := 0, laneFail := [], retired := false }

/-- 0x0912 (R488). -/
def Main.reinstate (p : Payload) (m : Main) : Reply :=
  let mask := bvAt p 0 2
  if 2 ^ m.variant.ports ≤ mask then reject m 2
  else
    let fab : Fabric := { m.fab with port := m.fab.port.map (fun (e : Nat × Port) => if mask.testBit e.1 then (e.1, e.2.reinstated) else e) }
    ok ({ m with fab := fab }.log! { code := 0x510A, cls := .rec_, par := p2 mask }) []

/-- CLEAR_PORT_RETIREMENT, 0x0912 (R488). -/
def execClearPortRetirement (h : Hdr) (p : Payload) : State → Host.Outcome State Fault Refusal :=
  onMain (fun m => m.command 0x0912 h p [(0, 2)] (Main.reinstate p))

/-! ### Checker test mode -/

/-- Where a checker access leads: a word of a memory stack by DA, or of the pinned windows by offset, none where it is not permitted (R483). -/
def Main.checkTarget (m : Main) (a : Nat) : Option (Bool × Nat) :=
  let open_ (p : Nat) : Bool := !m.partOn || (m.partAt p).st = .opened
  let inArea (j : Job) : Bool :=
    (match j.area with
     | some b => overlap a 8 b.toNat (2 ^ 28)
     | none => false) ||
    (match j.carry with
     | some (b, s) => overlap a 8 b.toNat (2 * s * (m.localRanks j).2)
     | none => false)
  match m.rng a with
  | .hbm n _ => if m.inRegion a 8 || m.jobs.any (fun e => inArea e.2) || !open_ (m.variant.stackPart n) then none else some (true, a)
  | .pin d _ => if open_ (m.variant.diePart d) then some (false, a - pinBase) else none
  | _ => none

/-- Compute stacks of a target (R149, R483). -/
def Main.checkDies (m : Main) (t : Bool × Nat) : List Nat := if t.1 then m.variant.homes (t.2 / 2 ^ 37) else [t.2 / 2 ^ 31]

/-- The die is Idle or Faulted. -/
def Main.quiet (m : Main) (d : Nat) : Bool := (m.dieAt d).st = .idle || (m.dieAt d).st = .faulted

def Outc.num : Outc → Nat
  | .none => 0 | .one => 1 | .two => 2 | .bad => 3

/-- Stored check byte `k` of the page that holds a DA (R476). -/
def Mem.checkByte (s : Mem) (da k : Nat) : Byte :=
  let msg := (List.range 128).map (fun i => s.raw (pageByte da (16 * i + k / 2)))
  let c := rsCheck msg
  (if k % 2 = 0 then c.1 else c.2) ^^^ bvByte (s.pageErr.get (pageOf da)) k

/-- Raw read of a word: outcome, raw data, raw side field and corrected data, which is a free value where the word is uncorrectable
(R475, R483; log 128). -/
def Main.rawRead (m : Main) (s : Mem) (w : Nat) : Reply :=
  let d := s.rawWord w
  let side := (s.side.find w).getD (cleanSide d false)
  let (o, v, _) := s.decode w
  let free : U64 := (Config.random m.draws).setWidth 64
  ok (if o = .bad then m.draw else m)
    [(1, 1, o.num), (8, 8, d.toNat), (16, 2, side.toNat), (24, 8, if o = .bad then free.toNat else v.toNat)]

/-- 0x0932 (R483). -/
def Main.checker (p : Payload) (m : Main) : Reply :=
  let mode := bvAt p 0 1
  let k := bvAt p 1 1
  let a := bvAt p 8 8
  let d : U64 := p.extractLsb' 128 64
  let side : U16 := p.extractLsb' 192 16
  if 3 < mode || 31 < k || a % (if mode < 2 then 8 else 2048) != 0 then refuse m 2
  else
    match m.checkTarget a with
    | none => refuse m 1
    | some t =>
      if !t.1 && 2 ≤ mode then refuse m 1
      else if !(m.checkDies t).all m.quiet then refuse m 3
      else
        let w := t.2 / 8
        match mode with
        | 0 =>
          if t.1 then
            let m := m.flush (m.ownPart a) a
            ok { m with mem := { m.mem with hbm := m.mem.hbm.hbmRaw w d side } } []
          else ok { m with mem := { m.mem with pin := m.mem.pin.rawPut w d side } } []
        | 1 => if t.1 then m.rawRead m.mem.hbm w else m.rawRead m.mem.pin w
        | 2 =>
          let m := m.flush (m.ownPart a) a
          let diff : BitVec 256 := ((m.mem.hbm.checkByte a k ^^^ side.setWidth 8).setWidth 256) <<< (8 * k)
          ok { m with mem := { m.mem with hbm := m.mem.hbm.pageXor (pageOf a) diff } } []
        | _ => ok m [(16, 2, (m.mem.hbm.checkByte a k).toNat)]

/-- CHECKER_ACCESS, 0x0932 (R483): its read modes are reading commands. -/
def execCheckerAccess (h : Hdr) (p : Payload) : State → Host.Outcome State Fault Refusal :=
  onMain (fun m => m.command 0x0932 h p [(0, 2), (8, 18)] (Main.checker p) (reads := bvAt p 0 1 % 2 = 1 || 3 < bvAt p 0 1))

/-! ### Patrol scrub -/

/-- The page code on a page whose words the word code finds clean: a miscorrected word is corrected as R477 says, and check bytes in
error are written afresh (R475, R479). -/
def Main.scrubPage (m : Main) (da : Nat) : Main :=
  let s := m.mem.hbm
  let words := (List.range 256).map (fun i => pageByte da (8 * i) / 8)
  if s.pageErr.get (pageOf da) = 0 || !words.all (fun w => (s.decode w).1 == .none) then m
  else
    match s.pageDecode da with
    | none => m
    | some b =>
      match (List.range 2048).find? (fun i => s.raw (pageByte da i) != b.getD i 0) with
      | some i => m.hbmBad (pageByte da i / 8)
      | none => { m with mem := { m.mem with hbm := { s with pageErr := s.pageErr.del (pageOf da) } } }

/-- Patrol passes in a row that found a one-bit error in a word (R482). -/
def Main.passCount (m : Main) (w k : Nat) : Main :=
  m.updChan (8 * w / 2 ^ 37) (m.chan (8 * w)) (fun c => { c with passes := if k = 0 then c.passes.del w else c.passes.put w k })

/-- Scrub of a memory-stack word (R479, R480, R482). -/
def Main.scrubHbm (m : Main) (w : Nat) : Main :=
  let da := 8 * w
  let (o, d, p) := m.mem.hbm.decode w
  let fix (m : Main) : Main := { m with mem := { m.mem with hbm := m.mem.hbm.hbmRaw w d (cleanSide d p) } }
  let n := ((m.hbmAt (da / 2 ^ 37)).ch.get (m.chan da)).passes.get w + 1
  let m :=
    match o with
    | .none => m.passCount w 0
    | .one =>
      let m := (fix (m.countCorr da)).passCount w n
      if 3 ≤ n then m.qualify da else m
    | .two => (fix (m.countCorr da)).qualify da
    | .bad => m.hbmBad w
  m.scrubPage da

/-- Scrub of a stacked-SRAM word, counted from the first pinned window (R478–R480). -/
def Main.scrubSram (m : Main) (w : Nat) : Main :=
  let (o, d, p) := m.mem.pin.decode w
  let m := m.pinTouch w
  if o = .one || o = .two then { m with mem := { m.mem with pin := m.mem.pin.rawPut w d (cleanSide d p) } } else m

/-- Scrub of a tile-store word; suspended while the tile's region is parked (R478–R480). An uncorrectable word is written back as poison
and counts for retirement (R484). -/
def Main.scrubTile (m : Main) (id w : Nat) : Main :=
  let d := id / 512
  let t := m.tileAt id
  if (m.dieAt d).parked.getLsbD (id / 64 % 8) || t.retired then m
  else
    let (o, v, p) := t.store.decode w
    match o with
    | .none => m
    | .one | .two =>
      (m.updTile id (fun x => { x with store := x.store.rawPut w v (cleanSide v p) })).updDie d (fun v => { v with corrected := v.corrected + 1 })
    | .bad =>
      (m.updTile id (fun x => { x with
        store := x.store.poison (8 * w) 8
        ucAddrs := (x.ucAddrs.filter (fun e => m.sec < e.2 + 86400 && e.1 != w)) ++ [(w, m.sec)] })).retireTiles [id]

/-- The word's store has its supply. -/
def Main.scrubs (m : Main) : Bool := m.sup.rails

/-- PATROL_SCRUB (R479, R480). -/
def execPatrolScrub (w : WordRef) : State → Host.Outcome State Fault Refusal :=
  onMain (fun m =>
    if !m.scrubs then m
    else
      match w with
      | .hbm a => if a.toNat / 2 ^ 34 < m.variant.stacks && !(m.hbmAt (a.toNat / 2 ^ 34)).offline then m.scrubHbm a.toNat else m
      | .sram a => m.scrubSram a.toNat
      | .store t a => m.scrubTile t.id a.toNat)

/-- CORRECTED_WORDS_ADVISORY (R480): the count that the word is counted in, where it has risen since the last hour. -/
def Main.correctedAdvisory (m : Main) (w : WordRef) : Main :=
  match w with
  | .hbm a =>
    let n := a.toNat / 2 ^ 34
    let ch := m.chan (8 * a.toNat)
    let k := ((m.hbmAt n).ch.get ch).fresh
    if k = 0 then m
    else (m.updChan n ch (fun c => { c with fresh := 0 })).log! { code := 0x2501, cls := .adv, stack := some n, par := p1 ch ++ p4 k }
  | .sram a =>
    let s := a.toNat / 2 ^ 28
    let k := (m.sramAt s).corrected
    if k = 0 then m
    else (m.updSram s (fun x => { x with corrected := 0 })).log! { code := 0x3403, cls := .adv, die := some s, par := p1 s ++ p4 k }
  | .store t _ =>
    let d := t.die.val
    let k := (m.dieAt d).corrected
    if k = 0 then m
    else (m.updDie d (fun v => { v with corrected := 0 })).log! { code := 0x1110, cls := .adv, die := some d, par := p1 d ++ p4 k }

def execCorrectedWordsAdvisory (w : WordRef) : State → Host.Outcome State Fault Refusal := onMain (fun m => m.correctedAdvisory w)

end Sys2Proof.Machine
end

