-- ==== Sys2Proof/Machine/Scalar.lean ====
section
/-! DEFINITION. Scalar and control instructions: each row is one beat of a tile in which the spindle's next instruction is the given one. -/

namespace Sys2Proof.Machine

/-- NOP (R69). -/
def execNop (t : TileRef) (k : Fin 8) (f : Fields) : State → Host.Outcome State Fault Refusal :=
  onMain (fun m => m.issueRow t k 0x00 f)

/-- HALT (R59). -/
def execHalt (t : TileRef) (k : Fin 8) (f : Fields) : State → Host.Outcome State Fault Refusal :=
  onMain (fun m => m.issueRow t k 0x01 f)

/-- BR (R69). -/
def execBr (t : TileRef) (k : Fin 8) (f : Fields) : State → Host.Outcome State Fault Refusal :=
  onMain (fun m => m.issueRow t k 0x02 f)

/-- BRC (R69). -/
def execBrc (t : TileRef) (k : Fin 8) (f : Fields) : State → Host.Outcome State Fault Refusal :=
  onMain (fun m => m.issueRow t k 0x03 f)

/-- LOOP (R69). -/
def execLoop (t : TileRef) (k : Fin 8) (f : Fields) : State → Host.Outcome State Fault Refusal :=
  onMain (fun m => m.issueRow t k 0x04 f)

/-- ENDL (R69). -/
def execEndl (t : TileRef) (k : Fin 8) (f : Fields) : State → Host.Outcome State Fault Refusal :=
  onMain (fun m => m.issueRow t k 0x05 f)

/-- SMOVI (R69). -/
def execSmovi (t : TileRef) (k : Fin 8) (f : Fields) : State → Host.Outcome State Fault Refusal :=
  onMain (fun m => m.issueRow t k 0x06 f)

/-- SALU (R69). -/
def execSalu (t : TileRef) (k : Fin 8) (f : Fields) : State → Host.Outcome State Fault Refusal :=
  onMain (fun m => m.issueRow t k 0x07 f)

/-- FENCE (R95). -/
def execFence (t : TileRef) (k : Fin 8) (f : Fields) : State → Host.Outcome State Fault Refusal :=
  onMain (fun m => m.issueRow t k 0x09 f)

/-- CINV (R96). -/
def execCinv (t : TileRef) (k : Fin 8) (f : Fields) : State → Host.Outcome State Fault Refusal :=
  onMain (fun m => m.issueRow t k 0x0A f)

/-- GETID (R69). -/
def execGetid (t : TileRef) (k : Fin 8) (f : Fields) : State → Host.Outcome State Fault Refusal :=
  onMain (fun m => m.issueRow t k 0x0B f)

/-- FLAGRD (R69). -/
def execFlagrd (t : TileRef) (k : Fin 8) (f : Fields) : State → Host.Outcome State Fault Refusal :=
  onMain (fun m => m.issueRow t k 0x0C f)

end Sys2Proof.Machine
end

