-- ==== Sys2Proof/Machine/Tcs2.lean ====
section
/-! DEFINITION. The TCS 2 commands, each executed as its TCS 3 command (R413, R414). -/

namespace Sys2Proof.Machine

/-- The TCS 3 payload of a TCS 2 payload, whose first 32 bytes keep their offsets (R414). -/
def low (p : BitVec 384) : Payload := p.setWidth 256

/-- The 16 payload bytes beyond the TCS 3 payload are 0 (R414). -/
def highZero (p : BitVec 384) : Bool := p.extractLsb' 256 128 = 0

/-- IDENTIFY, 0x01 as 0x0101 (R414). -/
def execIdentify (h : Hdr) (p : BitVec 384) : State → Host.Outcome State Fault Refusal :=
  onMain (fun m => m.command 0x0101 h (low p) [] Main.identity (reads := true) (tcs2 := true) (high := highZero p))

/-- STATUS, 0x02 as 0x0102 (R414). -/
def execStatus (h : Hdr) (p : BitVec 384) : State → Host.Outcome State Fault Refusal :=
  onMain (fun m => m.command 0x0102 h (low p) [(0, 1)] (Main.devStatus (low p)) (reads := true) (tcs2 := true) (high := highZero p)
    (anyState := true))

/-- OPEN_JOB, 0x10 as 0x0201: the job is a Vane job (R414). -/
def execOpenJob (h : Hdr) (p : BitVec 384) : State → Host.Outcome State Fault Refusal :=
  onMain (fun m => m.command 0x0201 h (low p) [(0, 5), (6, 22)] (Main.openJob h (low p) true) (tcs2 := true)
    (high := highZero p && openRsv (low p)))

/-- LOAD_IMAGE, 0x11 as 0x0210: a format 3 image is refused with reason 0x01 (R414). -/
def execLoadImage (h : Hdr) (p : BitVec 384) : State → Host.Outcome State Fault Refusal :=
  onMain (fun m => m.command 0x0210 h (low p) [(0, 13), (16, 8)] (fun m => m.stage (low p) true) (tcs2 := true) (high := highZero p)
    (owned := bvAt (low p) 12 1 > 3 || m.owns h.src (m.variant.diePart (bvAt (low p) 12 1))))

/-- RESET_DIE, 0x12 as 0x0211 (R414). -/
def execResetDie (h : Hdr) (p : BitVec 384) : State → Host.Outcome State Fault Refusal :=
  onMain (fun m => m.command 0x0211 h (low p) [(0, 2)] (Main.forcedBody (low p)) (tcs2 := true)
    (owned := m.ownsDies h.src (p.extractLsb' 0 4)) (high := highZero p && forcedRsv (low p)))

/-- CLOSE_JOB, 0x13 as 0x0202 (R414). -/
def execCloseJob (h : Hdr) (p : BitVec 384) : State → Host.Outcome State Fault Refusal :=
  onMain (fun m => (m.command 0x0202 h (low p) [(0, 5)] (Main.closeBody (low p)) (tcs2 := true)
    (owned := m.ownsJob h.src (bvAt p 0 4)) (high := highZero p && bvAt p 4 1 < 2)).deferClose (bvAt p 0 4))

/-- STEP, 0x14 as 0x0203 (R414). -/
def execStep (h : Hdr) (p : BitVec 384) : State → Host.Outcome State Fault Refusal :=
  onMain (fun m => m.command 0x0203 h (low p) [(0, 8)] (Main.openStep (low p)) (tcs2 := true) (owned := m.ownsJob h.src (bvAt p 0 4))
    (high := highZero p))

/-- SET_POWER_LIMIT, 0x20 as 0x0402: the cap alone, with boost allowed and die caps 0 (R414). -/
def execSetPowerLimit (h : Hdr) (p : BitVec 384) : State → Host.Outcome State Fault Refusal :=
  onMain (fun m => m.command 0x0402 h (low p) [(0, 2)] (fun m => fillRefused Main.capFields (Main.setLimits h ((low p &&& 0xFFFF) ||| 0x10000) m)) (tcs2 := true) (high := highZero p))

/-- READ_POWER, 0x21 as 0x0406 (R414). -/
def execReadPower (h : Hdr) (p : BitVec 384) : State → Host.Outcome State Fault Refusal :=
  onMain (fun m => m.command 0x0406 h (low p) [] Main.powerStatus (reads := true) (tcs2 := true) (high := highZero p))

/-- TCS2_READ_LOG, 0x30 as 0x0701 (R414). -/
def execTcs2ReadLog (h : Hdr) (p : BitVec 384) : State → Host.Outcome State Fault Refusal :=
  onMain (fun m => m.command 0x0701 h (low p) [(0, 4)] (Main.readRecord (low p)) (reads := true) (tcs2 := true) (high := highZero p))

/-- The TCS 2 opcodes of R414. -/
def tcs2Ops : List Nat := [0x01, 0x02, 0x10, 0x11, 0x12, 0x13, 0x14, 0x20, 0x21, 0x30]

/-- TCS2_UNSUPPORTED_OPCODE (R414): TCS 2 status 2 and TCS 3 status 0x06. -/
def execTcs2UnsupportedOpcode (h : Hdr) (op : Byte) (_p : BitVec 384) : State → Host.Outcome State Fault Refusal :=
  onMain (fun m =>
    if !m.takes h.src || tcs2Ops.contains op.toNat then m
    else
      let r : Resp := { src := h.src, tcs2 := true, op := op.setWidth 16, tag := h.tag, status := 6, since := m.us }
      { m with queue := dropQueued h.src m.queue, resps := m.resps ++ [r] })

end Sys2Proof.Machine
end

