-- ==== Sys2Proof/Machine/TileMem.lean ====
section
/-! DEFINITION. Local-store, memory and queue instructions: each row is one beat of a tile in which the spindle's next instruction is the given one. -/

namespace Sys2Proof.Machine

/-- LDT (R69). -/
def execLdt (t : TileRef) (k : Fin 8) (f : Fields) : State → Host.Outcome State Fault Refusal :=
  onMain (fun m => m.issueRow t k 0x20 f)

/-- STT (R69). -/
def execStt (t : TileRef) (k : Fin 8) (f : Fields) : State → Host.Outcome State Fault Refusal :=
  onMain (fun m => m.issueRow t k 0x21 f)

/-- LDG (R88). -/
def execLdg (t : TileRef) (k : Fin 8) (f : Fields) : State → Host.Outcome State Fault Refusal :=
  onMain (fun m => m.issueRow t k 0x22 f)

/-- STG (R94). -/
def execStg (t : TileRef) (k : Fin 8) (f : Fields) : State → Host.Outcome State Fault Refusal :=
  onMain (fun m => m.issueRow t k 0x23 f)

/-- LDS (R69). -/
def execLds (t : TileRef) (k : Fin 8) (f : Fields) : State → Host.Outcome State Fault Refusal :=
  onMain (fun m => m.issueRow t k 0x24 f)

/-- STS (R69). -/
def execSts (t : TileRef) (k : Fin 8) (f : Fields) : State → Host.Outcome State Fault Refusal :=
  onMain (fun m => m.issueRow t k 0x25 f)

/-- REDG (R157). -/
def execRedg (t : TileRef) (k : Fin 8) (f : Fields) : State → Host.Outcome State Fault Refusal :=
  onMain (fun m => m.issueRow t k 0x26 f)

/-- QPOP (R69). -/
def execQpop (t : TileRef) (k : Fin 8) (f : Fields) : State → Host.Outcome State Fault Refusal :=
  onMain (fun m => m.issueRow t k 0x27 f)

/-- QSEND (R114). -/
def execQsend (t : TileRef) (k : Fin 8) (f : Fields) : State → Host.Outcome State Fault Refusal :=
  onMain (fun m => m.issueRow t k 0x28 f)

end Sys2Proof.Machine
end

