-- ==== Sys2Proof/Machine/Vector.lean ====
section
/-! DEFINITION. Vector-engine instructions: each row is one beat of a tile in which the spindle's next instruction is the given one. -/

namespace Sys2Proof.Machine

/-- VADD (R83). -/
def execVadd (t : TileRef) (k : Fin 8) (f : Fields) : State → Host.Outcome State Fault Refusal :=
  onMain (fun m => m.issueRow t k 0x60 f)

/-- VSUB (R83). -/
def execVsub (t : TileRef) (k : Fin 8) (f : Fields) : State → Host.Outcome State Fault Refusal :=
  onMain (fun m => m.issueRow t k 0x61 f)

/-- VMUL (R83). -/
def execVmul (t : TileRef) (k : Fin 8) (f : Fields) : State → Host.Outcome State Fault Refusal :=
  onMain (fun m => m.issueRow t k 0x62 f)

/-- VFMA (R83). -/
def execVfma (t : TileRef) (k : Fin 8) (f : Fields) : State → Host.Outcome State Fault Refusal :=
  onMain (fun m => m.issueRow t k 0x63 f)

/-- VMAX (R69). -/
def execVmax (t : TileRef) (k : Fin 8) (f : Fields) : State → Host.Outcome State Fault Refusal :=
  onMain (fun m => m.issueRow t k 0x64 f)

/-- VMIN (R69). -/
def execVmin (t : TileRef) (k : Fin 8) (f : Fields) : State → Host.Outcome State Fault Refusal :=
  onMain (fun m => m.issueRow t k 0x65 f)

/-- VDIV (R83). -/
def execVdiv (t : TileRef) (k : Fin 8) (f : Fields) : State → Host.Outcome State Fault Refusal :=
  onMain (fun m => m.issueRow t k 0x66 f)

/-- VSQRT (R83). -/
def execVsqrt (t : TileRef) (k : Fin 8) (f : Fields) : State → Host.Outcome State Fault Refusal :=
  onMain (fun m => m.issueRow t k 0x67 f)

/-- VEXP (R83). -/
def execVexp (t : TileRef) (k : Fin 8) (f : Fields) : State → Host.Outcome State Fault Refusal :=
  onMain (fun m => m.issueRow t k 0x68 f)

/-- VLOG (R83). -/
def execVlog (t : TileRef) (k : Fin 8) (f : Fields) : State → Host.Outcome State Fault Refusal :=
  onMain (fun m => m.issueRow t k 0x69 f)

/-- VMOV (R69). -/
def execVmov (t : TileRef) (k : Fin 8) (f : Fields) : State → Host.Outcome State Fault Refusal :=
  onMain (fun m => m.issueRow t k 0x6A f)

/-- VOPS (R69). -/
def execVops (t : TileRef) (k : Fin 8) (f : Fields) : State → Host.Outcome State Fault Refusal :=
  onMain (fun m => m.issueRow t k 0x6B f)

/-- VROW (R69). -/
def execVrow (t : TileRef) (k : Fin 8) (f : Fields) : State → Host.Outcome State Fault Refusal :=
  onMain (fun m => m.issueRow t k 0x6C f)

/-- VRED (R82). -/
def execVred (t : TileRef) (k : Fin 8) (f : Fields) : State → Host.Outcome State Fault Refusal :=
  onMain (fun m => m.issueRow t k 0x6D f)

/-- VCVT (R84). -/
def execVcvt (t : TileRef) (k : Fin 8) (f : Fields) : State → Host.Outcome State Fault Refusal :=
  onMain (fun m => m.issueRow t k 0x6E f)

/-- VCVTL (R69). -/
def execVcvtl (t : TileRef) (k : Fin 8) (f : Fields) : State → Host.Outcome State Fault Refusal :=
  onMain (fun m => m.issueRow t k 0x6F f)

/-- VSCALE (R69). -/
def execVscale (t : TileRef) (k : Fin 8) (f : Fields) : State → Host.Outcome State Fault Refusal :=
  onMain (fun m => m.issueRow t k 0x70 f)

/-- VCMP (R69). -/
def execVcmp (t : TileRef) (k : Fin 8) (f : Fields) : State → Host.Outcome State Fault Refusal :=
  onMain (fun m => m.issueRow t k 0x71 f)

/-- VSEL (R69). -/
def execVsel (t : TileRef) (k : Fin 8) (f : Fields) : State → Host.Outcome State Fault Refusal :=
  onMain (fun m => m.issueRow t k 0x72 f)

end Sys2Proof.Machine
end

