-- ==== Sys2Proof/Machine/Dispatch.lean ====
section
/-! DEFINITION. One arm per command: a direct call of its meaning. -/

namespace Sys2Proof.Machine

def exec (i : Instr) (s : State) : Host.Outcome State Fault Refusal :=
  match i with
  | .nop t k f => Sys2Proof.Machine.execNop t k f s
  | .halt t k f => Sys2Proof.Machine.execHalt t k f s
  | .br t k f => Sys2Proof.Machine.execBr t k f s
  | .brc t k f => Sys2Proof.Machine.execBrc t k f s
  | .loop t k f => Sys2Proof.Machine.execLoop t k f s
  | .endl t k f => Sys2Proof.Machine.execEndl t k f s
  | .smovi t k f => Sys2Proof.Machine.execSmovi t k f s
  | .salu t k f => Sys2Proof.Machine.execSalu t k f s
  | .fence t k f => Sys2Proof.Machine.execFence t k f s
  | .cinv t k f => Sys2Proof.Machine.execCinv t k f s
  | .getid t k f => Sys2Proof.Machine.execGetid t k f s
  | .flagrd t k f => Sys2Proof.Machine.execFlagrd t k f s
  | .ldt t k f => Sys2Proof.Machine.execLdt t k f s
  | .stt t k f => Sys2Proof.Machine.execStt t k f s
  | .ldg t k f => Sys2Proof.Machine.execLdg t k f s
  | .stg t k f => Sys2Proof.Machine.execStg t k f s
  | .lds t k f => Sys2Proof.Machine.execLds t k f s
  | .sts t k f => Sys2Proof.Machine.execSts t k f s
  | .redg t k f => Sys2Proof.Machine.execRedg t k f s
  | .qpop t k f => Sys2Proof.Machine.execQpop t k f s
  | .qsend t k f => Sys2Proof.Machine.execQsend t k f s
  | .mma t k f => Sys2Proof.Machine.execMma t k f s
  | .amov t k f => Sys2Proof.Machine.execAmov t k f s
  | .aload t k f => Sys2Proof.Machine.execAload t k f s
  | .aclose t k f => Sys2Proof.Machine.execAclose t k f s
  | .vadd t k f => Sys2Proof.Machine.execVadd t k f s
  | .vsub t k f => Sys2Proof.Machine.execVsub t k f s
  | .vmul t k f => Sys2Proof.Machine.execVmul t k f s
  | .vfma t k f => Sys2Proof.Machine.execVfma t k f s
  | .vmax t k f => Sys2Proof.Machine.execVmax t k f s
  | .vmin t k f => Sys2Proof.Machine.execVmin t k f s
  | .vdiv t k f => Sys2Proof.Machine.execVdiv t k f s
  | .vsqrt t k f => Sys2Proof.Machine.execVsqrt t k f s
  | .vexp t k f => Sys2Proof.Machine.execVexp t k f s
  | .vlog t k f => Sys2Proof.Machine.execVlog t k f s
  | .vmov t k f => Sys2Proof.Machine.execVmov t k f s
  | .vops t k f => Sys2Proof.Machine.execVops t k f s
  | .vrow t k f => Sys2Proof.Machine.execVrow t k f s
  | .vred t k f => Sys2Proof.Machine.execVred t k f s
  | .vcvt t k f => Sys2Proof.Machine.execVcvt t k f s
  | .vcvtl t k f => Sys2Proof.Machine.execVcvtl t k f s
  | .vscale t k f => Sys2Proof.Machine.execVscale t k f s
  | .vcmp t k f => Sys2Proof.Machine.execVcmp t k f s
  | .vsel t k f => Sys2Proof.Machine.execVsel t k f s
  | .instructionIssueSelect t => Sys2Proof.Machine.execInstructionIssueSelect t s
  | .mmaComplete t => Sys2Proof.Machine.execMmaComplete t s
  | .vectorOpComplete t loc => Sys2Proof.Machine.execVectorOpComplete t loc s
  | .memoryResponse t slot err => Sys2Proof.Machine.execMemoryResponse t slot err s
  | .slotReservation t => Sys2Proof.Machine.execSlotReservation t s
  | .tileIdleOnOneSlice t => Sys2Proof.Machine.execTileIdleOnOneSlice t s
  | .accumulationGroupCycle t => Sys2Proof.Machine.execAccumulationGroupCycle t s
  | .tokenDelivered d idx => Sys2Proof.Machine.execTokenDelivered d idx s
  | .steeringUnitFiring t u => Sys2Proof.Machine.execSteeringUnitFiring t u s
  | .chatterWindowExpiry d => Sys2Proof.Machine.execChatterWindowExpiry d s
  | .spillRefill t q => Sys2Proof.Machine.execSpillRefill t q s
  | .stageBlank h p => Sys2Proof.Machine.execStageBlank h p s
  | .forcedRechuck h p => Sys2Proof.Machine.execForcedRechuck h p s
  | .forcedRechuckRequestTimeout d => Sys2Proof.Machine.execForcedRechuckRequestTimeout d s
  | .dieStatus h p => Sys2Proof.Machine.execDieStatus h p s
  | .withdrawStagedBlanks h p => Sys2Proof.Machine.execWithdrawStagedBlanks h p s
  | .setShavingsArea h p => Sys2Proof.Machine.execSetShavingsArea h p s
  | .sectionEnd d => Sys2Proof.Machine.execSectionEnd d s
  | .normalRechuck d => Sys2Proof.Machine.execNormalRechuck d s
  | .peerGroupExchange d => Sys2Proof.Machine.execPeerGroupExchange d s
  | .versionGateOpen d => Sys2Proof.Machine.execVersionGateOpen d s
  | .blankLoad d => Sys2Proof.Machine.execBlankLoad d s
  | .peerDieFaulted d => Sys2Proof.Machine.execPeerDieFaulted d s
  | .phaseCollectiveWait d => Sys2Proof.Machine.execPhaseCollectiveWait d s
  | .stepOpen h p => Sys2Proof.Machine.execStepOpen h p s
  | .verdictContribution j => Sys2Proof.Machine.execVerdictContribution j s
  | .stepEndTimeout j => Sys2Proof.Machine.execStepEndTimeout j s
  | .stepLimitExpiry j => Sys2Proof.Machine.execStepLimitExpiry j s
  | .verdictApply j word => Sys2Proof.Machine.execVerdictApply j word s
  | .backgroundResolve n => Sys2Proof.Machine.execBackgroundResolve n s
  | .rederivationComplete j l => Sys2Proof.Machine.execRederivationComplete j l s
  | .generatorProbe h p => Sys2Proof.Machine.execGeneratorProbe h p s
  | .setPinnedPool h p => Sys2Proof.Machine.execSetPinnedPool h p s
  | .stackedSramStatus h p => Sys2Proof.Machine.execStackedSramStatus h p s
  | .sliceRead src da => Sys2Proof.Machine.execSliceRead src da s
  | .sliceWrite src da d words => Sys2Proof.Machine.execSliceWrite src da d words s
  | .sliceRedg src da fp32 d => Sys2Proof.Machine.execSliceRedg src da fp32 d s
  | .fillReturn da => Sys2Proof.Machine.execFillReturn da s
  | .reductionFillReturn da => Sys2Proof.Machine.execReductionFillReturn da s
  | .baseDieAccess j da w => Sys2Proof.Machine.execBaseDieAccess j da w s
  | .inputBufferAging stk idx => Sys2Proof.Machine.execInputBufferAging stk idx s
  | .cacheSliceThrashing stk idx => Sys2Proof.Machine.execCacheSliceThrashing stk idx s
  | .dowelBeatReceive g d crc => Sys2Proof.Machine.execDowelBeatReceive g d crc s
  | .dowelMarginCheck g below => Sys2Proof.Machine.execDowelMarginCheck g below s
  | .dowelSparing g failed => Sys2Proof.Machine.execDowelSparing g failed s
  | .setStateRegion h p => Sys2Proof.Machine.execSetStateRegion h p s
  | .readStateRegion h p => Sys2Proof.Machine.execReadStateRegion h p s
  | .setMemoryRegulators h p => Sys2Proof.Machine.execSetMemoryRegulators h p s
  | .regulatorCommit v => Sys2Proof.Machine.execRegulatorCommit v s
  | .regulatorSnapshot v => Sys2Proof.Machine.execRegulatorSnapshot v s
  | .regulatorWindow n waits => Sys2Proof.Machine.execRegulatorWindow n waits s
  | .memoryStackTempSample n diode readout => Sys2Proof.Machine.execMemoryStackTempSample n diode readout s
  | .memoryThermalStepDown n => Sys2Proof.Machine.execMemoryThermalStepDown n s
  | .memoryThermalStepUp d => Sys2Proof.Machine.execMemoryThermalStepUp d s
  | .setWeightLayer h p => Sys2Proof.Machine.execSetWeightLayer h p s
  | .setVersionMode h p => Sys2Proof.Machine.execSetVersionMode h p s
  | .weightLayerStatus h p => Sys2Proof.Machine.execWeightLayerStatus h p s
  | .setOptimiserProfile h p => Sys2Proof.Machine.execSetOptimiserProfile h p s
  | .setUpdateDiscipline h p => Sys2Proof.Machine.execSetUpdateDiscipline h p s
  | .assignBlocks h p => Sys2Proof.Machine.execAssignBlocks h p s
  | .moveBlockState h p => Sys2Proof.Machine.execMoveBlockState h p s
  | .loadBlockState h p => Sys2Proof.Machine.execLoadBlockState h p s
  | .saveBlockState h p => Sys2Proof.Machine.execSaveBlockState h p s
  | .driftAudit h p => Sys2Proof.Machine.execDriftAudit h p s
  | .loadWorkingWeights h p => Sys2Proof.Machine.execLoadWorkingWeights h p s
  | .burnisherStatus h p => Sys2Proof.Machine.execBurnisherStatus h p s
  | .blockLanding j l panel g => Sys2Proof.Machine.execBlockLanding j l panel g s
  | .blockApply n idx => Sys2Proof.Machine.execBlockApply n idx s
  | .slowTierFetchReturn n idx bad => Sys2Proof.Machine.execSlowTierFetchReturn n idx bad s
  | .slowTierFetchTimeout n idx => Sys2Proof.Machine.execSlowTierFetchTimeout n idx s
  | .setJobNumerics h p => Sys2Proof.Machine.execSetJobNumerics h p s
  | .setLayerNumerics h p => Sys2Proof.Machine.execSetLayerNumerics h p s
  | .saveNumericsState h p => Sys2Proof.Machine.execSaveNumericsState h p s
  | .loadNumericsState h p => Sys2Proof.Machine.execLoadNumericsState h p s
  | .numericsStatus h p => Sys2Proof.Machine.execNumericsStatus h p s
  | .portStatus h p => Sys2Proof.Machine.execPortStatus h p s
  | .portControl h p => Sys2Proof.Machine.execPortControl h p s
  | .arbitrationWeights h p => Sys2Proof.Machine.execArbitrationWeights h p s
  | .portBringUp p r => Sys2Proof.Machine.execPortBringUp p r s
  | .portBringUpStepTimeout p b => Sys2Proof.Machine.execPortBringUpStepTimeout p b s
  | .flitReceive p flit => Sys2Proof.Machine.execFlitReceive p flit s
  | .linkReplayTimeout p => Sys2Proof.Machine.execLinkReplayTimeout p s
  | .activeLinkFailure p => Sys2Proof.Machine.execActiveLinkFailure p s
  | .packetReceive p hdr body tag => Sys2Proof.Machine.execPacketReceive p hdr body tag s
  | .peerResponse tag status body => Sys2Proof.Machine.execPeerResponse tag status body s
  | .linkRekey p => Sys2Proof.Machine.execLinkRekey p s
  | .oldKeyExpiry p => Sys2Proof.Machine.execOldKeyExpiry p s
  | .collectiveIssue j => Sys2Proof.Machine.execCollectiveIssue j s
  | .collectiveDataReceive c => Sys2Proof.Machine.execCollectiveDataReceive c s
  | .allGatherPanelReceive j l panel d => Sys2Proof.Machine.execAllGatherPanelReceive j l panel d s
  | .membershipChange h p => Sys2Proof.Machine.execMembershipChange h p s
  | .rankMap h p => Sys2Proof.Machine.execRankMap h p s
  | .collectivePlan h p => Sys2Proof.Machine.execCollectivePlan h p s
  | .collectiveStatus h p => Sys2Proof.Machine.execCollectiveStatus h p s
  | .reissueReduction h p => Sys2Proof.Machine.execReissueReduction h p s
  | .setInboundMapEntry h p => Sys2Proof.Machine.execSetInboundMapEntry h p s
  | .cxlPortLinkUp b m x16 => Sys2Proof.Machine.execCxlPortLinkUp b m x16 s
  | .cxlPortLinkDown b => Sys2Proof.Machine.execCxlPortLinkDown b s
  | .hostSnoop op hpa => Sys2Proof.Machine.execHostSnoop op hpa s
  | .slowTierTransactionComplete t slot poison => Sys2Proof.Machine.execSlowTierTransactionComplete t slot poison s
  | .slowTierTransactionTimeout t slot => Sys2Proof.Machine.execSlowTierTransactionTimeout t slot s
  | .setSlowTierMap h p => Sys2Proof.Machine.execSetSlowTierMap h p s
  | .slowTierDevice h p => Sys2Proof.Machine.execSlowTierDevice h p s
  | .setHostRange h p => Sys2Proof.Machine.execSetHostRange h p s
  | .setTailstockArea h p => Sys2Proof.Machine.execSetTailstockArea h p s
  | .tailstockStatus h p => Sys2Proof.Machine.execTailstockStatus h p s
  | .tailstockRecordStart idx => Sys2Proof.Machine.execTailstockRecordStart idx s
  | .offloadWritesComplete r => Sys2Proof.Machine.execOffloadWritesComplete r s
  | .leaseReadbackComplete r => Sys2Proof.Machine.execLeaseReadbackComplete r s
  | .tailstockFetchComplete r => Sys2Proof.Machine.execTailstockFetchComplete r s
  | .copyEngineCommit v => Sys2Proof.Machine.execCopyEngineCommit v s
  | .copyEngineTailWrite e v => Sys2Proof.Machine.execCopyEngineTailWrite e v s
  | .copyDescriptorComplete e how => Sys2Proof.Machine.execCopyDescriptorComplete e how s
  | .setPreferredPoints h p => Sys2Proof.Machine.execSetPreferredPoints h p s
  | .readCharacterisedTable h p => Sys2Proof.Machine.execReadCharacterisedTable h p s
  | .readWearLedger h p => Sys2Proof.Machine.execReadWearLedger h p s
  | .setSteadyRest h p => Sys2Proof.Machine.execSetSteadyRest h p s
  | .paceCommit v => Sys2Proof.Machine.execPaceCommit v s
  | .beatSnapshot v => Sys2Proof.Machine.execBeatSnapshot v s
  | .pointSelection proj => Sys2Proof.Machine.execPointSelection proj s
  | .pacedPointLower d => Sys2Proof.Machine.execPacedPointLower d s
  | .phaseDwellExpiry d => Sys2Proof.Machine.execPhaseDwellExpiry d s
  | .beatMonitorCheck d r rate => Sys2Proof.Machine.execBeatMonitorCheck d r rate s
  | .wearLedgerTick boost => Sys2Proof.Machine.execWearLedgerTick boost s
  | .wearLedgerSave => Sys2Proof.Machine.execWearLedgerSave s
  | .fastPowerLoop act => Sys2Proof.Machine.execFastPowerLoop act s
  | .telemetryCrossCheck meas mean => Sys2Proof.Machine.execTelemetryCrossCheck meas mean s
  | .estimateFallbackTimer => Sys2Proof.Machine.execEstimateFallbackTimer s
  | .activityRefitComplete w => Sys2Proof.Machine.execActivityRefitComplete w s
  | .regionParkTick unpark => Sys2Proof.Machine.execRegionParkTick unpark s
  | .electricalLimitTimer proj => Sys2Proof.Machine.execElectricalLimitTimer proj s
  | .boostWindowExhausted proj => Sys2Proof.Machine.execBoostWindowExhausted proj s
  | .thermalLoop d read act => Sys2Proof.Machine.execThermalLoop d read act s
  | .heatTokenPlan d busy => Sys2Proof.Machine.execHeatTokenPlan d busy s
  | .dieThermalCeilingStep d => Sys2Proof.Machine.execDieThermalCeilingStep d s
  | .regionParkedAtCriticalTemperature d r => Sys2Proof.Machine.execRegionParkedAtCriticalTemperature d r s
  | .hardwareThermalTrip d => Sys2Proof.Machine.execHardwareThermalTrip d s
  | .flywheelPeriod a1 aw full => Sys2Proof.Machine.execFlywheelPeriod a1 aw full s
  | .startOffsetExpiry => Sys2Proof.Machine.execStartOffsetExpiry s
  | .stopRamp => Sys2Proof.Machine.execStopRamp s
  | .powerCommit v => Sys2Proof.Machine.execPowerCommit v s
  | .powerSnapshot v => Sys2Proof.Machine.execPowerSnapshot v s
  | .setPowerLimits h p => Sys2Proof.Machine.execSetPowerLimits h p s
  | .powerStatus h p => Sys2Proof.Machine.execPowerStatus h p s
  | .thermalStatus h p => Sys2Proof.Machine.execThermalStatus h p s
  | .setFlywheel h p => Sys2Proof.Machine.execSetFlywheel h p s
  | .meterUpdate imported power volt curr => Sys2Proof.Machine.execMeterUpdate imported power volt curr s
  | .verificationPulseEnd => Sys2Proof.Machine.execVerificationPulseEnd s
  | .meterStart broken selfTest => Sys2Proof.Machine.execMeterStart broken selfTest s
  | .meterSupplyLoss => Sys2Proof.Machine.execMeterSupplyLoss s
  | .coverOpened => Sys2Proof.Machine.execCoverOpened s
  | .readEnergyRecord nonce => Sys2Proof.Machine.execReadEnergyRecord nonce s
  | .readLog nonce first count => Sys2Proof.Machine.execReadLog nonce first count s
  | .meterIdentity nonce => Sys2Proof.Machine.execMeterIdentity nonce s
  | .meterSpdmRequest code body => Sys2Proof.Machine.execMeterSpdmRequest code body s
  | .mirrorFrame seq power volt curr good => Sys2Proof.Machine.execMirrorFrame seq power volt curr good s
  | .mirrorLost => Sys2Proof.Machine.execMirrorLost s
  | .meterMirrorStatus h p => Sys2Proof.Machine.execMeterMirrorStatus h p s
  | .coreHeartbeatMiss c => Sys2Proof.Machine.execCoreHeartbeatMiss c s
  | .coreRestarted c => Sys2Proof.Machine.execCoreRestarted c s
  | .settingsCopyCheck c same => Sys2Proof.Machine.execSettingsCopyCheck c same s
  | .mailboxGo m v => Sys2Proof.Machine.execMailboxGo m v s
  | .commandCompletion visible => Sys2Proof.Machine.execCommandCompletion visible s
  | .sidebandMailboxRequest eid body => Sys2Proof.Machine.execSidebandMailboxRequest eid body s
  | .registerWrite off size v => Sys2Proof.Machine.execRegisterWrite off size v s
  | .interruptCommit v => Sys2Proof.Machine.execInterruptCommit v s
  | .multiCommit v => Sys2Proof.Machine.execMultiCommit v s
  | .globalSnapshot v => Sys2Proof.Machine.execGlobalSnapshot v s
  | .deviceIdentity h p => Sys2Proof.Machine.execDeviceIdentity h p s
  | .deviceStatus h p => Sys2Proof.Machine.execDeviceStatus h p s
  | .jobOpen h p => Sys2Proof.Machine.execJobOpen h p s
  | .jobClose h p => Sys2Proof.Machine.execJobClose h p s
  | .restoreJob h p => Sys2Proof.Machine.execRestoreJob h p s
  | .identify h p => Sys2Proof.Machine.execIdentify h p s
  | .status h p => Sys2Proof.Machine.execStatus h p s
  | .openJob h p => Sys2Proof.Machine.execOpenJob h p s
  | .loadImage h p => Sys2Proof.Machine.execLoadImage h p s
  | .resetDie h p => Sys2Proof.Machine.execResetDie h p s
  | .closeJob h p => Sys2Proof.Machine.execCloseJob h p s
  | .step h p => Sys2Proof.Machine.execStep h p s
  | .setPowerLimit h p => Sys2Proof.Machine.execSetPowerLimit h p s
  | .readPower h p => Sys2Proof.Machine.execReadPower h p s
  | .tcs2ReadLog h p => Sys2Proof.Machine.execTcs2ReadLog h p s
  | .tcs2UnsupportedOpcode h op p => Sys2Proof.Machine.execTcs2UnsupportedOpcode h op p s
  | .entdaa a => Sys2Proof.Machine.execEntdaa a s
  | .smbusFallback => Sys2Proof.Machine.execSmbusFallback s
  | .setEndpointId from_ op eid => Sys2Proof.Machine.execSetEndpointId from_ op eid s
  | .getEndpointId => Sys2Proof.Machine.execGetEndpointId s
  | .getEndpointUuid => Sys2Proof.Machine.execGetEndpointUuid s
  | .getMctpVersionSupport ty => Sys2Proof.Machine.execGetMctpVersionSupport ty s
  | .getMessageTypeSupport => Sys2Proof.Machine.execGetMessageTypeSupport s
  | .getVendorDefinedMessageSupport sel => Sys2Proof.Machine.execGetVendorDefinedMessageSupport sel s
  | .gettid => Sys2Proof.Machine.execGettid s
  | .getpldmversion ty => Sys2Proof.Machine.execGetpldmversion ty s
  | .getpldmtypes => Sys2Proof.Machine.execGetpldmtypes s
  | .getpldmcommands ty => Sys2Proof.Machine.execGetpldmcommands ty s
  | .getpdr rec_ => Sys2Proof.Machine.execGetpdr rec_ s
  | .getsensorreading id => Sys2Proof.Machine.execGetsensorreading id s
  | .getstatesensorreadings id => Sys2Proof.Machine.execGetstatesensorreadings id s
  | .seteventreceiver enable eid => Sys2Proof.Machine.execSeteventreceiver enable eid s
  | .pollforplatformeventmessage => Sys2Proof.Machine.execPollforplatformeventmessage s
  | .querydeviceidentifiers => Sys2Proof.Machine.execQuerydeviceidentifiers s
  | .getfirmwareparameters => Sys2Proof.Machine.execGetfirmwareparameters s
  | .requestupdate comps => Sys2Proof.Machine.execRequestupdate comps s
  | .passcomponenttable comp => Sys2Proof.Machine.execPasscomponenttable comp s
  | .updatecomponent comp size => Sys2Proof.Machine.execUpdatecomponent comp size s
  | .requestfirmwaredataResponse d => Sys2Proof.Machine.execRequestfirmwaredataResponse d s
  | .activatefirmware => Sys2Proof.Machine.execActivatefirmware s
  | .getstatus => Sys2Proof.Machine.execGetstatus s
  | .cancelupdate => Sys2Proof.Machine.execCancelupdate s
  | .getVersion => Sys2Proof.Machine.execGetVersion s
  | .getCapabilities caps => Sys2Proof.Machine.execGetCapabilities caps s
  | .negotiateAlgorithms ok => Sys2Proof.Machine.execNegotiateAlgorithms ok s
  | .getDigests => Sys2Proof.Machine.execGetDigests s
  | .getCertificate slot off len => Sys2Proof.Machine.execGetCertificate slot off len s
  | .challenge slot nonce => Sys2Proof.Machine.execChallenge slot nonce s
  | .getMeasurements index sign nonce => Sys2Proof.Machine.execGetMeasurements index sign nonce s
  | .keyExchange doe exch => Sys2Proof.Machine.execKeyExchange doe exch s
  | .finish sid mac => Sys2Proof.Machine.execFinish sid mac s
  | .heartbeat sid => Sys2Proof.Machine.execHeartbeat sid s
  | .spdmHeartbeatTimeout sid => Sys2Proof.Machine.execSpdmHeartbeatTimeout sid s
  | .keyUpdate sid => Sys2Proof.Machine.execKeyUpdate sid s
  | .endSession sid => Sys2Proof.Machine.execEndSession sid s
  | .claim sid part idle pub key area => Sys2Proof.Machine.execClaim sid part idle pub key area s
  | .attach sid part sig => Sys2Proof.Machine.execAttach sid part sig s
  | .release sid part => Sys2Proof.Machine.execRelease sid part s
  | .tenantCommand sid cmd => Sys2Proof.Machine.execTenantCommand sid cmd s
  | .inactivityTimeout p => Sys2Proof.Machine.execInactivityTimeout p s
  | .setPartitioning h p => Sys2Proof.Machine.execSetPartitioning h p s
  | .setPartitionResources h p => Sys2Proof.Machine.execSetPartitionResources h p s
  | .partitionStatus h p => Sys2Proof.Machine.execPartitionStatus h p s
  | .forcedRelease h p => Sys2Proof.Machine.execForcedRelease h p s
  | .debugLock h p => Sys2Proof.Machine.execDebugLock h p s
  | .debugWindowAccess off w => Sys2Proof.Machine.execDebugWindowAccess off w s
  | .sealedImport h p => Sys2Proof.Machine.execSealedImport h p s
  | .sealedExport h p => Sys2Proof.Machine.execSealedExport h p s
  | .ideStreamLost b mem => Sys2Proof.Machine.execIdeStreamLost b mem s
  | .startUpdate h p => Sys2Proof.Machine.execStartUpdate h p s
  | .updateBackground => Sys2Proof.Machine.execUpdateBackground s
  | .updateStatus h p => Sys2Proof.Machine.execUpdateStatus h p s
  | .activate h p => Sys2Proof.Machine.execActivate h p s
  | .cancelUpdate h p => Sys2Proof.Machine.execCancelUpdate h p s
  | .moduleReset h p => Sys2Proof.Machine.execModuleReset h p s
  | .commitSecurityVersion h p => Sys2Proof.Machine.execCommitSecurityVersion h p s
  | .readRecord h p => Sys2Proof.Machine.execReadRecord h p s
  | .ringLogStatus h p => Sys2Proof.Machine.execRingLogStatus h p s
  | .clear h p => Sys2Proof.Machine.execClear h p s
  | .getNonce h p => Sys2Proof.Machine.execGetNonce h p s
  | .nonceExpiry => Sys2Proof.Machine.execNonceExpiry s
  | .stageAuthorisation h p => Sys2Proof.Machine.execStageAuthorisation h p s
  | .setLogClearKey h p => Sys2Proof.Machine.execSetLogClearKey h p s
  | .logFlashProgram => Sys2Proof.Machine.execLogFlashProgram s
  | .degradationMap h p => Sys2Proof.Machine.execDegradationMap h p s
  | .clearPortRetirement h p => Sys2Proof.Machine.execClearPortRetirement h p s
  | .checkerAccess h p => Sys2Proof.Machine.execCheckerAccess h p s
  | .patrolScrub w => Sys2Proof.Machine.execPatrolScrub w s
  | .correctedWordsAdvisory w => Sys2Proof.Machine.execCorrectedWordsAdvisory w s
  | .auxUp recov tlock sbaddr => Sys2Proof.Machine.execAuxUp recov tlock sbaddr s
  | .auxLoss => Sys2Proof.Machine.execAuxLoss s
  | .mainPresent => Sys2Proof.Machine.execMainPresent s
  | .mainInputLost => Sys2Proof.Machine.execMainInputLost s
  | .railOutOfTolerance rail => Sys2Proof.Machine.execRailOutOfTolerance rail s
  | .startUpStageComplete r => Sys2Proof.Machine.execStartUpStageComplete r s
  | .startUpStageOverBound => Sys2Proof.Machine.execStartUpStageOverBound s
  | .perstAssert => Sys2Proof.Machine.execPerstAssert s
  | .perstDeassert refclk => Sys2Proof.Machine.execPerstDeassert refclk s
  | .functionReset => Sys2Proof.Machine.execFunctionReset s
  | .coolantCheck inlet outlet secs => Sys2Proof.Machine.execCoolantCheck inlet outlet secs s
  | .pointMove d => Sys2Proof.Machine.execPointMove d s
  | .ideKm b mem => Sys2Proof.Machine.execIdeKm b mem s
  | .operatingSecondsSave => Sys2Proof.Machine.execOperatingSecondsSave s

end Sys2Proof.Machine
end

