-- ==== Sys2Proof/Safety.lean ====
section
/-! DEFINITION. The terms that claims use: a served mailbox command and its reply, one beat of a tile, and what a sound state is. -/

namespace Sys2Proof.Machine

/-! ### Next states -/

/-- A next state that differs from the state at most in its main side: the meter and the queue of waiting commands are the same. -/
def State.nextMain (s : State) (m : Main) : Host.Outcome State Fault Refusal := .next { s with main := m }

/-- A next state that differs from the state at most in its meter. -/
def State.nextMeter (s : State) (m : Meter) : Host.Outcome State Fault Refusal := .next { s with meter := m }

/-! ### Mailbox commands -/

/-- The controller takes the command, and neither its header nor its requester's rights nor the device state turns it away
(R398 step 4, R401, R406, R407, R429, R431). -/
def Main.serves (m : Main) (op : Nat) (h : Hdr) (p : Payload) (fields : List (Nat × Nat)) (reads : Bool := false)
    (owned : Bool := true) (high : Bool := true) (anyState : Bool := false) : Bool :=
  m.takes h.src && (m.taken h.src).screen op h reads owned (reservedZero p fields && high) anyState == 0

/-- The reply of a served command that applies: its state, with status 0x00 and the given payload fields (R403). -/
def Main.done (m : Main) (op : Nat) (h : Hdr) (m' : Main) (l : List (Nat × Nat × Nat))
    (tcs2 : Bool := false) : Main := (m.taken h.src).reply op h (ok m' l) tcs2

/-- A command that the controller takes and turns away: it leaves the queue and is answered with a status, and nothing else changes (R403). -/
def Main.turnedAway (m : Main) (op : Nat) (h : Hdr) (st : Nat) (tcs2 : Bool := false) : Main :=
  { m.taken h.src with resps := m.resps ++
      [{ src := h.src, tcs2 := tcs2, op := BitVec.ofNat 16 op, tag := h.tag, status := BitVec.ofNat 8 st, since := m.us }] }

/-! ### One beat of a tile -/

/-- The candidate issues in this beat: its tile runs, its spindle may issue, its word is sound, and no condition of R60 or R88 holds it. -/
abbrev Main.issues (m : Main) (id : Nat) (c : Cand) (rs : List Req) : Prop :=
  m.tileRuns id = true ∧ ((m.beatStart id).tileAt id).mayIssue c.k = true ∧
    wordOk ((m.beatStart id).native (id / 512)) c.op c.f = true ∧ (m.beatStart id).ready id c = .go rs

/-- The beat of an issuing candidate: its spindle no longer waits. -/
def Main.beatOf (m : Main) (id k : Nat) : Main :=
  (m.beatStart id).updTile id (fun t => t.updSp k (fun p => { p with wait := .none }))

/-- No spindle of the tile waits in a HALT, a FENCE or a QSEND. -/
abbrev Tile.quiet (t : Tile) : Prop :=
  ∀ k < 8, (t.spin k).fence = none ∧ (t.spin k).sending = none ∧ (t.spin k).st ≠ .halting

/-- What the tiles work on is the same: tiles, stored bytes, memory stacks, SRAM, jobs, Burnishers, partitions, sessions, firmware and
the commands at hand. -/
structure Main.SameWork (m m' : Main) : Prop where
  tile : m'.tile = m.tile
  mem : m'.mem = m.mem
  hbm : m'.hbm = m.hbm
  sram : m'.sram = m.sram
  jobs : m'.jobs = m.jobs
  burn : m'.burn = m.burn
  part : m'.part = m.part
  spdm : m'.spdm = m.spdm
  fw : m'.fw = m.fw
  queue : m'.queue = m.queue
  resps : m'.resps = m.resps

/-! ### The meter -/

/-- A sound meter: the parts of its counts are in range, its log keeps at most 1,024 entries, its pulses are one for each 100 mWh, and an
opened cover stands in the log unless the log was full (R372, R374, R376, R381, R382). -/
structure Meter.Sound (t : Meter) : Prop where
  part : t.part < 3600000
  ms : t.ms < 1000
  log : t.log.length ≤ 1024
  pulses : t.pulses = t.energy.toNat / 100
  cover : t.cover = true → (∃ e ∈ t.log, e.code = 5) ∨ t.log.length = 1024

end Sys2Proof.Machine
end

