-- ==== Sys2Proof/Certificates/Slice0/Obligations.lean ====
section
/-! DEFINITION. The statements about the block, for the provers. -/

open Sys2Proof Sys2Proof.Machine


/-- NOP, LOOP, SMOVI, SALU, GETID, CINV, FLAGRD and ACLOSE complete in their issue beat with the result of their row of R69. When such an instruction issues in a beat (its tile runs, its spindle may issue and nothing of R60 holds it), exec answers the state after the issue in which exactly its row of R69 has happened: NOP nothing; LOOP the loop counter c[LC] = IMM; SMOVI s[SA] = IMM sign-extended; SALU s[SA] = the operation that MOD names; GETID s[SA] = the value that MOD selects; CINV the tile cache invalid, with no fill in flight to install a line; FLAGRD s[SA] = the flag slot, which it clears; ACLOSE the named group, Open under the spindle, closed. The signal follows. Everything else of the block is as the issue left it. -/
def Obligations.RegisterInstructionsComplete : Prop :=
  ∀ (s : State) (t : TileRef) (k : Fin 8) (f : Fields),
  let p := ((s.main.beatOf t.id k.val).tileAt t.id).spin k.val
  (s.main.issues t.id ⟨k.val, 0x00, f⟩ [] →
    exec (.nop t k f) s = s.nextMain (((s.main.beatOf t.id k.val).issued t.id ⟨k.val, 0x00, f⟩).signalled t.id k.val p.pc.toNat (sigOf f))) ∧
  (s.main.issues t.id ⟨k.val, 0x04, f⟩ [] →
    exec (.loop t k f) s = s.nextMain ((((s.main.beatOf t.id k.val).issued t.id ⟨k.val, 0x04, f⟩).updTile t.id (fun x => x.updSp k.val (fun q =>
      { q with c := q.c.put f.lc.toNat (f.imm.setWidth 16) }))).signalled t.id k.val p.pc.toNat (sigOf f))) ∧
  (s.main.issues t.id ⟨k.val, 0x06, f⟩ [] →
    exec (.smovi t k f) s = s.nextMain ((((s.main.beatOf t.id k.val).issued t.id ⟨k.val, 0x06, f⟩).putS t.id k.val f.sa (f.imm.signExtend 64)).signalled t.id k.val p.pc.toNat (sigOf f))) ∧
  (s.main.issues t.id ⟨k.val, 0x07, f⟩ [] →
    exec (.salu t k f) s = s.nextMain ((((s.main.beatOf t.id k.val).issued t.id ⟨k.val, 0x07, f⟩).putS t.id k.val f.sa (salu f.mod (p.reg f.sa) (p.reg f.sb))).signalled t.id k.val p.pc.toNat (sigOf f))) ∧
  (s.main.issues t.id ⟨k.val, 0x0B, f⟩ [] →
    exec (.getid t k f) s = s.nextMain ((((s.main.beatOf t.id k.val).issued t.id ⟨k.val, 0x0B, f⟩).putS t.id k.val f.sa (((s.main.beatOf t.id k.val).issued t.id ⟨k.val, 0x0B, f⟩).getId t.id k.val f)).signalled t.id k.val p.pc.toNat (sigOf f))) ∧
  (s.main.issues t.id ⟨k.val, 0x0A, f⟩ [] →
    exec (.cinv t k f) s = s.nextMain ((((s.main.beatOf t.id k.val).issued t.id ⟨k.val, 0x0A, f⟩).updTile t.id (fun x =>
      { x with cache := [], slots := x.slots.map (fun e => (e.1, { e.2 with fill := false })) })).signalled t.id k.val p.pc.toNat (sigOf f))) ∧
  (s.main.issues t.id ⟨k.val, 0x0C, f⟩ [] →
    exec (.flagrd t k f) s = s.nextMain (((((s.main.beatOf t.id k.val).issued t.id ⟨k.val, 0x0C, f⟩).putS t.id k.val f.sa
      ((((s.main.beatOf t.id k.val).issued t.id ⟨k.val, 0x0C, f⟩).tileAt t.id).flag.get (f.imm.toNat % 16)).word).updTile t.id (fun x =>
        { x with flag := x.flag.put (f.imm.toNat % 16) {} })).signalled t.id k.val p.pc.toNat (sigOf f))) ∧
  (s.main.issues t.id ⟨k.val, 0x43, f⟩ [] ∧
    ((((s.main.beatOf t.id k.val).issued t.id ⟨k.val, 0x43, f⟩).tileAt t.id).grp.get f.ag.toNat).st = .opened ∧
    ((((s.main.beatOf t.id k.val).issued t.id ⟨k.val, 0x43, f⟩).tileAt t.id).grp.get f.ag.toNat).owner.toNat = k.val →
    exec (.aclose t k f) s = s.nextMain ((((s.main.beatOf t.id k.val).issued t.id ⟨k.val, 0x43, f⟩).updTile t.id (fun x => x.close f.ag)).signalled t.id k.val p.pc.toNat (sigOf f)))

/-- BR, BRC and ENDL set the pc to IMM when taken, hold the next issue for two beats, and ENDL counts its loop counter down. BR, a BRC whose condition holds, and an ENDL whose counter is neither 0 nor 1, with a target inside the program: the pc of the spindle is IMM. A BRC whose condition fails and an ENDL whose counter is 1 fall through. ENDL writes its counter less 1. An ENDL whose counter is 0 faults the blank with event 0x1107. In every other case the next issue of the spindle waits two beats, and the signal follows. -/
def Obligations.BranchesComplete : Prop :=
  ∀ (s : State) (t : TileRef) (k : Fin 8) (f : Fields),
  let p := ((s.main.beatOf t.id k.val).tileAt t.id).spin k.val
  (s.main.issues t.id ⟨k.val, 0x02, f⟩ [] ∧ f.imm.toNat < ((((s.main.beatOf t.id k.val).issued t.id ⟨k.val, 0x02, f⟩).holdSp t.id k.val).tileAt t.id).plen →
    exec (.br t k f) s = s.nextMain (((((s.main.beatOf t.id k.val).issued t.id ⟨k.val, 0x02, f⟩).holdSp t.id k.val).updTile t.id (fun x => x.updSp k.val (fun q => { q with pc := BitVec.ofNat 16 f.imm.toNat }))).signalled t.id k.val p.pc.toNat (sigOf f))) ∧
  (s.main.issues t.id ⟨k.val, 0x03, f⟩ [] ∧ brCond f.mod (p.reg f.sa) (p.reg f.sb) = true ∧
    f.imm.toNat < ((((s.main.beatOf t.id k.val).issued t.id ⟨k.val, 0x03, f⟩).holdSp t.id k.val).tileAt t.id).plen →
    exec (.brc t k f) s = s.nextMain (((((s.main.beatOf t.id k.val).issued t.id ⟨k.val, 0x03, f⟩).holdSp t.id k.val).updTile t.id (fun x => x.updSp k.val (fun q => { q with pc := BitVec.ofNat 16 f.imm.toNat }))).signalled t.id k.val p.pc.toNat (sigOf f))) ∧
  (s.main.issues t.id ⟨k.val, 0x03, f⟩ [] ∧ brCond f.mod (p.reg f.sa) (p.reg f.sb) = false →
    exec (.brc t k f) s = s.nextMain ((((s.main.beatOf t.id k.val).issued t.id ⟨k.val, 0x03, f⟩).holdSp t.id k.val).signalled t.id k.val p.pc.toNat (sigOf f))) ∧
  (s.main.issues t.id ⟨k.val, 0x05, f⟩ [] ∧ p.c.get f.lc.toNat = 1 →
    exec (.endl t k f) s = s.nextMain (((((s.main.beatOf t.id k.val).issued t.id ⟨k.val, 0x05, f⟩).updTile t.id (fun x => x.updSp k.val (fun q => { q with c := q.c.put f.lc.toNat (p.c.get f.lc.toNat - 1) }))).holdSp t.id k.val).signalled t.id k.val p.pc.toNat (sigOf f))) ∧
  (s.main.issues t.id ⟨k.val, 0x05, f⟩ [] ∧ p.c.get f.lc.toNat ≠ 0 ∧ p.c.get f.lc.toNat ≠ 1 ∧
    f.imm.toNat < (((((s.main.beatOf t.id k.val).issued t.id ⟨k.val, 0x05, f⟩).updTile t.id (fun x => x.updSp k.val (fun q => { q with c := q.c.put f.lc.toNat (p.c.get f.lc.toNat - 1) }))).holdSp t.id k.val).tileAt t.id).plen →
    exec (.endl t k f) s = s.nextMain ((((((s.main.beatOf t.id k.val).issued t.id ⟨k.val, 0x05, f⟩).updTile t.id (fun x => x.updSp k.val (fun q => { q with c := q.c.put f.lc.toNat (p.c.get f.lc.toNat - 1) }))).holdSp t.id k.val).updTile t.id (fun x => x.updSp k.val (fun q => { q with pc := BitVec.ofNat 16 f.imm.toNat }))).signalled t.id k.val p.pc.toNat (sigOf f))) ∧
  (s.main.issues t.id ⟨k.val, 0x05, f⟩ [] ∧ p.c.get f.lc.toNat = 0 →
    exec (.endl t k f) s = s.nextMain (((s.main.beatOf t.id k.val).issued t.id ⟨k.val, 0x05, f⟩).spFault t.id k.val p.pc.toNat 0x1107))

/-- Each vector operation other than VCVT and VCVTL issues to the vector engine with its result computed from the registers as they stand at issue. When VADD, VSUB, VMUL, VFMA, VMAX, VMIN, VDIV, VSQRT, VEXP, VLOG, VMOV, VOPS, VROW, VRED, VSCALE, VCMP or VSEL issues in a beat (its tile runs, its spindle may issue, nothing of R60 holds it) and no register it reads holds a parity error (R478), exec answers the state after the issue in which one operation more is in flight on the tile: it belongs to the issuing spindle and index, carries the registers it reads and writes, the group it reads in compatibility mode, its signal, and the bytes, the non-finite mark and the saturation count that the operation gives on the operands read at issue. It writes them when it completes. -/
def Obligations.VectorOperationsComplete : Prop :=
  ∀ (s : State) (t : TileRef) (k : Fin 8) (f : Fields),
  let d := t.id / 512
  let p := ((s.main.beatOf t.id k.val).tileAt t.id).spin k.val
  let iss := fun (op : Nat) => ((s.main.beatOf t.id k.val).issued t.id ⟨k.val, op, f⟩).phaseBack d
  let nat := fun (op : Nat) => (iss op).native d
  let clean : Nat → Prop := fun op => ¬ ∃ w ∈ ((iss op).tileAt t.id).parity, w / 512 ∈ readsT (nat op) op f
  let base : Nat → Op := fun op => { sp := BitVec.ofNat 3 k.val, pc := BitVec.ofNat 16 p.pc.toNat, sig := sigOf f, readT := readsT (nat op) op f, writeT := writesT op f, slot := slotOf op f }
  let res := fun (op : Nat) =>
    let out := ((iss op).tileAt t.id).vecPlain (nat op) op f p
    (iss op).updTile t.id (fun x => x.addOp { base op with unit := .vector, grp := groupSrcs (nat op) op f, work := .regs out.bytes (slotOf op f) out.nf out.sat none })
  (s.main.issues t.id ⟨k.val, 0x60, f⟩ [] ∧ clean 0x60 → exec (.vadd t k f) s = s.nextMain (res 0x60)) ∧
  (s.main.issues t.id ⟨k.val, 0x61, f⟩ [] ∧ clean 0x61 → exec (.vsub t k f) s = s.nextMain (res 0x61)) ∧
  (s.main.issues t.id ⟨k.val, 0x62, f⟩ [] ∧ clean 0x62 → exec (.vmul t k f) s = s.nextMain (res 0x62)) ∧
  (s.main.issues t.id ⟨k.val, 0x63, f⟩ [] ∧ clean 0x63 → exec (.vfma t k f) s = s.nextMain (res 0x63)) ∧
  (s.main.issues t.id ⟨k.val, 0x64, f⟩ [] ∧ clean 0x64 → exec (.vmax t k f) s = s.nextMain (res 0x64)) ∧
  (s.main.issues t.id ⟨k.val, 0x65, f⟩ [] ∧ clean 0x65 → exec (.vmin t k f) s = s.nextMain (res 0x65)) ∧
  (s.main.issues t.id ⟨k.val, 0x66, f⟩ [] ∧ clean 0x66 → exec (.vdiv t k f) s = s.nextMain (res 0x66)) ∧
  (s.main.issues t.id ⟨k.val, 0x67, f⟩ [] ∧ clean 0x67 → exec (.vsqrt t k f) s = s.nextMain (res 0x67)) ∧
  (s.main.issues t.id ⟨k.val, 0x68, f⟩ [] ∧ clean 0x68 → exec (.vexp t k f) s = s.nextMain (res 0x68)) ∧
  (s.main.issues t.id ⟨k.val, 0x69, f⟩ [] ∧ clean 0x69 → exec (.vlog t k f) s = s.nextMain (res 0x69)) ∧
  (s.main.issues t.id ⟨k.val, 0x6A, f⟩ [] ∧ clean 0x6A → exec (.vmov t k f) s = s.nextMain (res 0x6A)) ∧
  (s.main.issues t.id ⟨k.val, 0x6B, f⟩ [] ∧ clean 0x6B → exec (.vops t k f) s = s.nextMain (res 0x6B)) ∧
  (s.main.issues t.id ⟨k.val, 0x6C, f⟩ [] ∧ clean 0x6C → exec (.vrow t k f) s = s.nextMain (res 0x6C)) ∧
  (s.main.issues t.id ⟨k.val, 0x6D, f⟩ [] ∧ clean 0x6D → exec (.vred t k f) s = s.nextMain (res 0x6D)) ∧
  (s.main.issues t.id ⟨k.val, 0x70, f⟩ [] ∧ clean 0x70 → exec (.vscale t k f) s = s.nextMain (res 0x70)) ∧
  (s.main.issues t.id ⟨k.val, 0x71, f⟩ [] ∧ clean 0x71 → exec (.vcmp t k f) s = s.nextMain (res 0x71)) ∧
  (s.main.issues t.id ⟨k.val, 0x72, f⟩ [] ∧ clean 0x72 → exec (.vsel t k f) s = s.nextMain (res 0x72))

/-- MMA, AMOV, ALOAD, VCVT and VCVTL issue to their engine, and an MMA whose type does not match its group faults the blank with event 0x1102. When such an instruction issues in a beat and no register it reads holds a parity error (R478), exec answers the state after the issue with one operation more in flight. MMA samples A, B and the scales, opens its group under the issuing spindle (zeroed or of the same accumulator type) and holds the registers it reads for its array beats; a group of the other type faults the blank with event 0x1102. AMOV reads the group at issue and takes a closed group's saturation count; ALOAD carries the new group value; VCVT and VCVTL carry the converted bytes with their flag results. The Calipers counts of AMOV, VCVT and VCVTL are taken at issue. What the model draws for stochastic rounding past the listed sources and for an open element index is a free value of Config. -/
def Obligations.MatrixAndConversionsComplete : Prop :=
  ∀ (s : State) (t : TileRef) (k : Fin 8) (f : Fields),
  let d := t.id / 512
  let p := ((s.main.beatOf t.id k.val).tileAt t.id).spin k.val
  let iss := fun (op : Nat) => ((s.main.beatOf t.id k.val).issued t.id ⟨k.val, op, f⟩).phaseBack d
  let nat := fun (op : Nat) => (iss op).native d
  let clean : Nat → Prop := fun op => ¬ ∃ w ∈ ((iss op).tileAt t.id).parity, w / 512 ∈ readsT (nat op) op f
  let base : Nat → Op := fun op => { sp := BitVec.ofNat 3 k.val, pc := BitVec.ofNat 16 p.pc.toNat, sig := sigOf f, readT := readsT (nat op) op f, writeT := writesT op f, slot := slotOf op f }
  (s.main.issues t.id ⟨k.val, 0x40, f⟩ [] ∧ clean 0x40 ∧ ((((iss 0x40).tileAt t.id).grp.get f.ag.toNat).mmaIssue k.val f).2 = true →
    exec (.mma t k f) s = s.nextMain ((iss 0x40).updTile t.id (fun x =>
      let start := ((iss 0x40).tileAt t.id).ops.foldl (fun b o => if o.unit = .matrix then max b o.readEnd else b) ((iss 0x40).tileAt t.id).beat
      let beats := match mmaClass (hi4 f) (lo4 f) with
        | some cl => cl.beats * f.cnt.toNat
        | none => 0
      let o : Op := { base 0x40 with unit := .matrix, grp := [f.ag], readEnd := start + beats, work := .mma f.mod f.ag f.agm f.cnt.toNat (((iss 0x40).tileAt t.id).sample f.ta.toNat 4096)
                                       (((iss 0x40).tileAt t.id).sample f.tb.toNat 4096) (((iss 0x40).tileAt t.id).sample f.tc.toNat 4096) }
      { x.addOp o with grp := x.grp.put f.ag.toNat ((((iss 0x40).tileAt t.id).grp.get f.ag.toNat).mmaIssue k.val f).1 }))) ∧
  (s.main.issues t.id ⟨k.val, 0x40, f⟩ [] ∧ clean 0x40 ∧ ((((iss 0x40).tileAt t.id).grp.get f.ag.toNat).mmaIssue k.val f).2 = false →
    exec (.mma t k f) s = s.nextMain ((iss 0x40).spFault t.id k.val p.pc.toNat 0x1102)) ∧
  (s.main.issues t.id ⟨k.val, 0x41, f⟩ [] ∧ clean 0x41 →
    exec (.amov t k f) s = s.nextMain (
      let x := (iss 0x41).tileAt t.id
      let g := x.grp.get f.ag.toNat
      let m := (iss 0x41).calipers d (slotOf 0x41 f) (x.calAmov f (Config.elemIndex (iss 0x41).draws))
      m.draw.updTile t.id (fun y =>
        { y.addOp { base 0x41 with unit := .vector, grp := [f.ag], work := .regs (x.amov f).bytes (slotOf 0x41 f) (x.amov f).nf (if g.st = .closed then g.sat.toNat else 0) none } with grp := y.grp.put f.ag.toNat { g with sat := if g.st = .closed then 0 else g.sat } }))) ∧
  (s.main.issues t.id ⟨k.val, 0x42, f⟩ [] ∧ clean 0x42 →
    exec (.aload t k f) s = s.nextMain ((iss 0x42).updTile t.id (fun y => y.addOp { base 0x42 with unit := .vector, grp := [f.ag], work := .regs [] none false 0 (some (f.ag, ((iss 0x42).tileAt t.id).aload f)) }))) ∧
  (s.main.issues t.id ⟨k.val, 0x6E, f⟩ [] ∧ clean 0x6E →
    exec (.vcvt t k f) s = s.nextMain (
      let x := (iss 0x6E).tileAt t.id
      let out := x.vecCvt (nat 0x6E) f p ((iss 0x6E).seedStep d).1 ((iss 0x6E).seedStep d).2 (fun i => (Config.freeByte (iss 0x6E).draws i).toNat)
      ((iss 0x6E).calipers d (slotOf 0x6E f) (x.calCvt (nat 0x6E) f p out)).draw.updTile t.id (fun y =>
        y.addOp { base 0x6E with unit := .vector, grp := groupSrcs (nat 0x6E) 0x6E f, work := .regs out.bytes (slotOf 0x6E f) out.nf out.sat none }))) ∧
  (s.main.issues t.id ⟨k.val, 0x6F, f⟩ [] ∧ clean 0x6F →
    exec (.vcvtl t k f) s = s.nextMain (
      let x := (iss 0x6F).tileAt t.id
      let out := x.vecVlog (nat 0x6F) f
      ((iss 0x6F).calipers d (slotOf 0x6F f) (x.calVlog (nat 0x6F) f out (Config.elemIndex (iss 0x6F).draws))).draw.updTile t.id (fun y =>
        y.addOp { base 0x6F with unit := .vector, grp := groupSrcs (nat 0x6F) 0x6F f, work := .regs out.bytes (slotOf 0x6F f) out.nf out.sat none })))

/-- LDT, STT, LDS, STS and QPOP issue to the local-store and queue unit; a misaligned or protected address faults the blank. When such an instruction issues and its address passes the checks of its row (aligned, inside the local store, and for a store below the program area), exec answers the state after the issue with one operation more in flight on the unit: LDT and LDS read the store when they complete; STT and STS carry the bytes read from their registers at issue; QPOP carries the 512 bytes of the token at the head of its queue, which it has consumed. A failing check faults the blank with event 0x1103, or 0x1203 for a store into the program area. -/
def Obligations.LocalStoreAndQueueOperationsComplete : Prop :=
  ∀ (s : State) (t : TileRef) (k : Fin 8) (f : Fields),
  let p := ((s.main.beatOf t.id k.val).tileAt t.id).spin k.val
  let iss := fun (op : Nat) => (s.main.beatOf t.id k.val).issued t.id ⟨k.val, op, f⟩
  let x := fun (op : Nat) => (iss op).tileAt t.id
  let a := addrOf p f
  let base : Nat → Op := fun op => { sp := BitVec.ofNat 3 k.val, pc := BitVec.ofNat 16 p.pc.toNat, unit := .local, sig := sigOf f, readT := readsT true op f, writeT := writesT op f }
  let res := fun (op : Nat) (w : Work) (r : Option (BitVec 5)) => (iss op).updTile t.id (fun y => y.addOp { base op with work := w, writeS := r })
  (s.main.issues t.id ⟨k.val, 0x20, f⟩ [] ∧ (x 0x20).storeCheck a 4096 64 false = none →
    exec (.ldt t k f) s = s.nextMain (res 0x20 (.ldt a f.td) none)) ∧
  (s.main.issues t.id ⟨k.val, 0x20, f⟩ [] ∧ (∃ e, (x 0x20).storeCheck a 4096 64 false = some e) →
    exec (.ldt t k f) s = s.nextMain ((iss 0x20).spFault t.id k.val p.pc.toNat (((x 0x20).storeCheck a 4096 64 false).getD 0))) ∧
  (s.main.issues t.id ⟨k.val, 0x21, f⟩ [] ∧ (x 0x21).storeCheck a 4096 64 true = none →
    exec (.stt t k f) s = s.nextMain (res 0x21 (.stt a ((x 0x21).sample f.ta.toNat 4096)) none)) ∧
  (s.main.issues t.id ⟨k.val, 0x21, f⟩ [] ∧ (∃ e, (x 0x21).storeCheck a 4096 64 true = some e) →
    exec (.stt t k f) s = s.nextMain ((iss 0x21).spFault t.id k.val p.pc.toNat (((x 0x21).storeCheck a 4096 64 true).getD 0))) ∧
  (s.main.issues t.id ⟨k.val, 0x24, f⟩ [] ∧ (x 0x24).storeCheck a 8 8 false = none →
    exec (.lds t k f) s = s.nextMain (res 0x24 (.lds a f.sb) (some f.sb))) ∧
  (s.main.issues t.id ⟨k.val, 0x24, f⟩ [] ∧ (∃ e, (x 0x24).storeCheck a 8 8 false = some e) →
    exec (.lds t k f) s = s.nextMain ((iss 0x24).spFault t.id k.val p.pc.toNat (((x 0x24).storeCheck a 8 8 false).getD 0))) ∧
  (s.main.issues t.id ⟨k.val, 0x25, f⟩ [] ∧ (x 0x25).storeCheck a 8 8 true = none →
    exec (.sts t k f) s = s.nextMain (res 0x25 (.sts a (p.reg f.sb)) none)) ∧
  (s.main.issues t.id ⟨k.val, 0x25, f⟩ [] ∧ (∃ e, (x 0x25).storeCheck a 8 8 true = some e) →
    exec (.sts t k f) s = s.nextMain ((iss 0x25).spFault t.id k.val p.pc.toNat (((x 0x25).storeCheck a 8 8 true).getD 0))) ∧
  (s.main.issues t.id ⟨k.val, 0x27, f⟩ [] → exec (.qpop t k f) s = s.nextMain (
      res 0x27 (.qpop f.td (f.imm.setWidth 3) (((s.main.beatOf t.id k.val).tileAt t.id).headData f)) none))

/-- LDG, STG and REDG issue with each of their requests in a request slot; an address that is not a multiple of 128 faults the blank with 0x1103. When LDG, STG or REDG issues in a beat with the requests that R88 and R89 cut its lines into, and its address is a multiple of 128, exec answers the state after the issue in which one memory operation more is in flight, every request stands in a free slot, lowest slot first, numbered in the order of issue of its die, with the lines of TA that a store or a reduction carries as they stand at issue, the lines a store or a reduction touches have left the tile cache (R94), a reservation held by the spindle is given up and another's keeps fewer spare slots (R90), the slow tier has admitted its requests (R312), a write that leaves the die over a bridge has been carried out where its path serves it (R156), and a request to a peer window has gone to the fabric. Otherwise the blank faults with event 0x1103. -/
def Obligations.MemoryInstructionsComplete : Prop :=
  ∀ (s : State) (t : TileRef) (k : Fin 8) (f : Fields) (rs : List Req),
  let p := ((s.main.beatOf t.id k.val).tileAt t.id).spin k.val
  let iss := fun (op : Nat) => (s.main.beatOf t.id k.val).issued t.id ⟨k.val, op, f⟩
  let a := addrOf p f
  let slots := fun (op : Nat) =>
    let x := (iss op).tileAt t.id
    let no := ((iss op).dieAt (t.id / 512)).reqNo
    let o : Op := { sp := BitVec.ofNat 3 k.val, pc := BitVec.ofNat 16 p.pc.toNat, unit := .memory, sig := sigOf f, readT := readsT true op f, writeT := writesT op f, work := .mem }
    let fill : Req × Nat → Req := fun e =>
      let r := { e.1 with op := x.nextOp, sp := BitVec.ofNat 3 k.val, stamp := no + e.2, td := if e.1.kind = .load then f.td else f.ta }
      if r.kind = .load then r
      else { r with got := (List.range r.lines).map (fun i => (i, bvOf 1024 (x.tbytes f.ta.toNat (128 * (r.first + r.step * i)) 128))) }
    let put := List.zip x.freeSlots (rs.zipIdx.map fill)
    let hit : Nat → Bool := fun l => op != 0x22 && put.any (fun e => (e.2.lineIdx (128 * l)).isSome)
    let m1 := (iss op).updDie (t.id / 512) (fun v => { v with reqNo := no + rs.length })
    let m2 := m1.updTile t.id (fun y =>
      { y.addOp o with slots := put.foldl (fun s e => s.put e.1 e.2) y.slots
                       resv := y.resv.bind (fun r => r.after k.val rs.length (rs.filterMap Req.slice))
                       cache := y.cache.filter (fun e => !hit e.1) })
    let m3 := if put.any (fun e => e.2.onSlow) = true then m2.slowAdmit else m2
    put.foldl (fun m e => if (e.2.bad || e.2.served.length ≥ e.2.lines) = true then m else (m.putNow t.id e.1 e.2).peerIssue t.id e.1 e.2) m3
  (s.main.issues t.id ⟨k.val, 0x22, f⟩ rs ∧ a % 128 = 0 →
    exec (.ldg t k f) s = s.nextMain (slots 0x22)) ∧
  (s.main.issues t.id ⟨k.val, 0x22, f⟩ rs ∧ a % 128 ≠ 0 →
    exec (.ldg t k f) s = s.nextMain ((iss 0x22).spFault t.id k.val p.pc.toNat 0x1103)) ∧
  (s.main.issues t.id ⟨k.val, 0x23, f⟩ rs ∧ a % 128 = 0 →
    exec (.stg t k f) s = s.nextMain (slots 0x23)) ∧
  (s.main.issues t.id ⟨k.val, 0x23, f⟩ rs ∧ a % 128 ≠ 0 →
    exec (.stg t k f) s = s.nextMain ((iss 0x23).spFault t.id k.val p.pc.toNat 0x1103)) ∧
  (s.main.issues t.id ⟨k.val, 0x26, f⟩ rs ∧ a % 128 = 0 →
    exec (.redg t k f) s = s.nextMain (slots 0x26)) ∧
  (s.main.issues t.id ⟨k.val, 0x26, f⟩ rs ∧ a % 128 ≠ 0 →
    exec (.redg t k f) s = s.nextMain ((iss 0x26).spFault t.id k.val p.pc.toNat 0x1103))

/-- HALT, FENCE and QSEND issue at once and each is met as soon as what it waits for has happened. When HALT, FENCE or QSEND issues, exec answers the state after the issue in which the spindle is halting (its own Open groups closing), holds a fence of the scope that MOD names, or holds the 512 bytes of its TA segment for the binding that IMM names; the tile then lets the spindle go on if it can. A halting spindle with no operation in flight halts and gives its signal. A held send of a running die whose binding has a credit, four beats after the tile's last, sends its token, and the signal follows. -/
def Obligations.HaltFenceAndSendComplete : Prop :=
  ∀ (s : State) (t : TileRef) (k : Fin 8) (f : Fields),
  let d := t.id / 512
  let p := ((s.main.beatOf t.id k.val).tileAt t.id).spin k.val
  let iss := fun (op : Nat) => (s.main.beatOf t.id k.val).issued t.id ⟨k.val, op, f⟩
  (s.main.issues t.id ⟨k.val, 0x01, f⟩ [] →
    exec (.halt t k f) s = s.nextMain (((iss 0x01).updTile t.id (fun x =>
      (x.updSp k.val (fun q => { q with st := .halting, sendSig := sigOf f })).closeOwn k.val)).settleSp t.id k.val)) ∧
  (s.main.issues t.id ⟨k.val, 0x09, f⟩ [] →
    exec (.fence t k f) s = s.nextMain (((iss 0x09).updTile t.id (fun x =>
      x.updSp k.val (fun q => { q with fence := some (f.mod.setWidth 2, f.mod.getLsbD 2), fenceSig := sigOf f, fencePc := BitVec.ofNat 16 p.pc.toNat }))).settleSp t.id k.val)) ∧
  (s.main.issues t.id ⟨k.val, 0x28, f⟩ [] →
    exec (.qsend t k f) s = s.nextMain (((iss 0x28).updTile t.id (fun x =>
      x.updSp k.val (fun q => { q with sending := some (f.imm.extractLsb' 3 6, bvOf 4096 (((iss 0x28).tileAt t.id).tbytes f.ta.toNat (512 * (f.imm.toNat % 8)) 512)), sendSig := sigOf f }))).settleSp t.id k.val)) ∧
  (∀ (m : Main) (q : Spindle), (m.tileAt t.id).spin k.val = q → q.fence = none → q.sending = none → q.st = .halting →
    (∀ o ∈ (m.tileAt t.id).ops, o.sp.toNat ≠ k.val) →
    m.settleSp t.id k.val = ((m.updTile t.id (fun x => x.updSp k.val (fun r => { r with st := .halted, sendSig := none }))).progress d).signalNow
      t.id k.val (q.pc - 1).toNat q.sendSig) ∧
  (∀ (m : Main) (q : Spindle) (data : BitVec 4096) (b : BitVec 6), (m.tileAt t.id).spin k.val = q → q.fence = none →
    q.sending = some (b, data) → (m.dieAt d).st = .running → ((m.tileAt t.id).bind.get b.toNat).credits ≠ 0 → (m.tileAt t.id).sendHold ≤ (m.tileAt t.id).beat →
    (m.settleFence t.id k.val).settleSend t.id k.val = ((m.updTile t.id (fun x =>
      { x.updSp k.val (fun r => { r with sending := none, sendSig := none }) with sendHold := x.beat + 4 })).sendToken
        t.id b.toNat data).signalNow t.id k.val (q.pc - 1).toNat q.sendSig)

/-- The sequencer's own events complete: the choice of an instruction, completions, responses, reservations, the idle advisory and the group cycle. The sequencer's choice performs the ready instruction that R61 picks. The completion of the oldest operation of the matrix engine, the vector engine or the local unit carries out its work and lets waiting spindles go on. A response to a load whose lines have all come writes them to TD, installs them in the tile cache where they fill it, frees its slot, and completes the operation with its last request; one that reports an error faults the blank with event 0x1104. The spindle that has waited longest for slots, at least 512 beats, takes a free reservation. A tile all of whose active spindles have waited 16,384 beats for slots logs advisory 0x1106 once, with the slice most of their requests target. A spindle on a cycle of group waits faults the blank with event 0x1101. -/
def Obligations.SequencerEventsComplete : Prop :=
  (∀ (s : State) (t : TileRef) (c : Cand) (rs : List Req),
    let b := s.main.beatStart t.id
    let live := (List.range 8).filter (fun k => (s.main.tileAt t.id).mayIssue k)
    let cs := live.filterMap (s.main.tileAt t.id).fetch
    let st := (cs.filter (fun c => (b.tileAt t.id).mayIssue c.k && wordOk (b.native (t.id / 512)) c.op c.f)).map
      (fun c => (c, b.ready t.id c))
    let m := b.noteReady t.id st
    s.main.tileRuns t.id = true → live.find? (fun k => ((s.main.tileAt t.id).fetch k).isNone) = none →
    (m.tileAt t.id).choose st = some (c, rs) →
    exec (.instructionIssueSelect t) s = s.nextMain (m.perform t.id c rs)) ∧
  (∀ (s : State) (t : TileRef) (o : Op), (s.main.tileAt t.id).ops.find? (fun o => o.unit == .matrix) = some o →
    exec (.mmaComplete t) s = s.nextMain ((s.main.complete t.id o).settle t.id)) ∧
  (∀ (s : State) (t : TileRef) (loc : Bool) (o : Op),
    (s.main.tileAt t.id).ops.find? (fun o => o.unit == (if loc then .local else .vector)) = some o →
    exec (.vectorOpComplete t loc) s = s.nextMain ((s.main.complete t.id o).settle t.id)) ∧
  (∀ (m : Main) (id : Nat) (o : Op), ((m.tileAt id).apply o).2 = true → o.sig = none → o.unit = .local →
    m.complete id o = m.setTile id (((m.tileAt id).apply o).1.retireOp o)) ∧
  (∀ (s : State) (t : TileRef) (slot : Fin 64) (r0 r : Req) (m0 : Main) (o : Op),
    (s.main.tileAt t.id).slots.find slot.val = some r0 → s.main.performReq t.id r0 = (m0, r) →
    r.bad = false → r.lines ≤ r.served.length → r.kind = .load →
    let m1 := m0.updTile t.id (fun x => { x with slots := x.slots.del slot.val })
    (m1.tileAt t.id).ops.find? (fun o => o.id = r.op) = some o →
    let m2 := m1.updTile t.id (fun x => x.putBytes ((r.got.map (fun e =>
      (bvBytes e.2 128).mapIdx (fun i b => (4096 * r.td.toNat + 128 * (r.first + r.step * e.1) + i, b)))).flatten))
    let m2' := if r.fill then m2.fillCache t.id r else m2
    let m3 := if (m2'.tileAt t.id).slots.any (fun e => e.2.op = r.op) then m2' else m2'.complete t.id o
    exec (.memoryResponse t slot false) s = s.nextMain ((m3.settle t.id).forceGo t.die.val)) ∧
  (∀ (s : State) (t : TileRef) (slot : Fin 64) (r : Req) (o : Op),
    (s.main.tileAt t.id).slots.find slot.val = some r → r.kind = .load → r.err = 0 →
    let m1 := s.main.updTile t.id (fun x => { x with slots := x.slots.del slot.val })
    (m1.tileAt t.id).ops.find? (fun o => o.id = r.op) = some o →
    let m2 := m1.blankFault (t.id / 512) 0x1104 (p2 t.id ++ p1 o.sp.toNat ++ p4 o.pc.toNat ++ p8 r.da.toNat) t.id o.sp.toNat o.pc.toNat none
    let m3 := if (m2.tileAt t.id).slots.any (fun e => e.2.op = r.op) then m2 else m2.complete t.id o
    exec (.memoryResponse t slot true) s = s.nextMain ((m3.settle t.id).forceGo t.die.val)) ∧
  (∀ (s : State) (t : TileRef) (k : Nat),
    let x := s.main.tileAt t.id
    let due := (List.range 8).filter (fun k =>
      (x.spin k).st = .running && (x.spin k).wait.cls = 1 && (x.spin k).since + 512 ≤ x.beat)
    x.resv = none →
    due.foldl (fun (b : Option Nat) k =>
      match b with
      | none => some k
      | some j => if (x.spin k).since < (x.spin j).since then some k else b) none = some k →
    exec (.slotReservation t) s = s.nextMain (s.main.updTile t.id (fun x =>
      { x with resv := some (x.reserve k) }))) ∧
  (∀ (s : State) (t : TileRef),
    let x := s.main.tileAt t.id
    let act := (List.range 8).filter (fun k => (x.spin k).st = .running || (x.spin k).st = .halting)
    let sl := (act.map (fun k => (x.spin k).want)).flatten
    let best := (List.range 256).foldl (fun b i => if sl.count i > sl.count b then i else b) 0
    s.main.tileRuns t.id = true → x.idleRaised = false → act ≠ [] →
    (∀ k ∈ act, (x.spin k).wait.cls = 1 ∧ (x.spin k).since + 16384 ≤ x.beat) →
    exec (.tileIdleOnOneSlice t) s = s.nextMain ((s.main.updTile t.id (fun x => { x with idleRaised := true })).log!
      { code := 0x1106, cls := .adv, die := some t.die.val, step := s.main.dieStep t.die.val, par := p1 (best / 64) ++ p1 (best % 64) })) ∧
  (∀ (s : State) (t : TileRef) (k : Nat), s.main.tileRuns t.id = true →
    (List.range 8).find? (s.main.tileAt t.id).onCycle = some k →
    exec (.accumulationGroupCycle t) s =
      s.nextMain (s.main.spFault t.id k ((s.main.tileAt t.id).spin k).pc.toNat 0x1101))

/-- Token arrival, a steering firing, the Chatter window and the refill of a spilled queue complete. A token in flight with no earlier token of its binding lands: on a running or ending die, when it is not stale, it joins its queue; on a forcing or faulted die it is discarded and counted. A steering unit with a data token, a good control token and a credit on each named output sends the data on those outputs, consumes it and counts its control token down; a bad control token faults the blank with event 0x1208. A Chatter window that saw progress starts again; one that saw none, with no sender waiting for a credit, faults the blank with event 0x1202, naming the unit that has waited longest. A place that the consumer has freed in a spilling queue takes the head of its FIFO (an empty queue too: log 146). The state of the die is read after the token has left the flight list, which does not change it. -/
def Obligations.TokenEventsComplete : Prop :=
  (∀ (s : State) (d : Fin 4) (i : Nat) (dst : BitVec 11) (dq : Byte) (k : Token),
    let v := s.main.dieAt d.val
    v.flight[i]? = some (dst, dq, k) → (∀ e ∈ v.flight.take i, ¬ (e.2.2.src = k.src ∧ e.2.2.sidx = k.sidx)) →
    let m := s.main.updDie d.val (fun v => { v with flight := v.flight.eraseIdx i })
    (m.dieAt d.val).st = v.st →
    ((v.st = .running ∨ v.st = .ending) → m.stale d.val dst.toNat k = false →
      exec (.tokenDelivered d i) s = s.nextMain (m.accept d.val dst.toNat dq.toNat k)) ∧
    ((v.st = .forcing ∨ v.st = .faulted) →
      exec (.tokenDelivered d i) s = s.nextMain (m.updDie d.val (fun v => { v with discarded := v.discarded + 1 })))) ∧
  (∀ (m : Main) (d dst q : Nat) (k : Token), ((m.tileAt dst).queue q).spilling = false →
    ((m.tileAt dst).queue q).toks.length < queueSize q →
    m.accept d dst q k = (m.updTile dst (fun t => (t.updQueue q (fun x => x.join (queueSize q) k)).noteSteer t)).progress d) ∧
  (∀ (s : State) (t : TileRef) (u : Fin 4) (q : BitVec 4) (c k : Token) (l l2 : List Token),
    let x := s.main.tileAt t.id
    let r := routing c.data
    s.main.tileRuns t.id = true → (x.steer.get u.val).dq = some q → (x.steer.get u.val).ctl.toks = c :: l →
    (x.q.get q.toNat).toks = k :: l2 → x.badRouting u.val r = false → r.drop = false →
    (∀ o ∈ r.outs, (x.bind.get (0x40 + 4 * u.val + o)).credits ≠ 0) →
    let left := ((x.steer.get u.val).left.getD (BitVec.ofNat 8 r.count)) - 1
    let m1 := (r.outs.foldl (fun m o => m.sendToken t.id (0x40 + 4 * u.val + o) k.data) s.main).popQueue t.id q.toNat
    let m2 := m1.updTile t.id (fun t => { t with steer := t.steer.upd u.val (fun s =>
      { s with left := if left = 0 then none else some left, since := t.beat }) })
    exec (.steeringUnitFiring t u) s = s.nextMain ((if left = 0 then m2.popQueue t.id (16 + u.val) else m2).progress (t.id / 512))) ∧
  (∀ (s : State) (t : TileRef) (u : Fin 4) (q : BitVec 4) (c k : Token) (l l2 : List Token),
    let x := s.main.tileAt t.id
    s.main.tileRuns t.id = true → (x.steer.get u.val).dq = some q → (x.steer.get u.val).ctl.toks = c :: l →
    (x.q.get q.toNat).toks = k :: l2 → x.badRouting u.val (routing c.data) = true →
    exec (.steeringUnitFiring t u) s =
      s.nextMain (s.main.blankFault (t.id / 512) 0x1208 (p1 (t.id / 512) ++ p2 t.id ++ p1 u.val) t.id 0 0)) ∧
  (∀ (s : State) (d : Fin 4), (s.main.dieAt d.val).st = .running → s.main.windowHeld d.val = false →
    (s.main.dieAt d.val).progress = true →
    exec (.chatterWindowExpiry d) s = s.nextMain (s.main.updDie d.val (fun v => { v with progress := false }))) ∧
  (∀ (s : State) (d : Fin 4), (s.main.dieAt d.val).st = .running → s.main.windowHeld d.val = false →
    (s.main.dieAt d.val).progress = false → (∀ id ∈ s.main.blankTiles d.val, (s.main.tileAt id).waitingSenders = []) →
    s.main.fullQueues d.val = [] →
    let w := (s.main.oldestWait d.val).getD (0, 0, 0)
    exec (.chatterWindowExpiry d) s = s.nextMain (s.main.blankFault d.val 0x1202 (p1 d.val ++ p2 w.1 ++ p1 w.2.1 ++ p1 w.2.2)
      w.1 w.2.1 ((s.main.tileAt w.1).spin w.2.1).pc.toNat)) ∧
  (∀ (s : State) (t : TileRef) (q : Fin 20),
    exec (.spillRefill t q) s = s.nextMain (s.main.updTile t.id (fun x => (x.updQueue q.val (fun y => y.refill (queueSize q.val))).noteSteer x))) ∧
  (∀ (y : Queue) (n : Nat) (k : Token) (l : List Token), y.spill = k :: l → y.freed ≠ 0 → y.toks.length < n →
    y.refill n = { toks := y.toks ++ [k], spill := l, spilling := l != [], freed := if l = [] then 0 else y.freed - 1 })

/-- The events of a rechuck complete: the end of a section, the group barrier, the exchange, the version gate, the load, and a forced one's timeout. A running die whose spindles have all halted enters Ending. A group that has ended lands its tokens, and with none left over is collected: each die settles, or goes Idle with nothing staged; tokens left over fault their die with event 0x1207. A group whose head blanks agree is marked so, and otherwise each loses its head with reason 0x11. An agreed die passes its gate when every layer its blank names is readable and nothing holds its pinned pieces. A group that has passed loads and is released in the next epoch, unless a blank names another epoch (reason 0x0F). A peer's fault is event 0x120D. A training die without an MMA or vector operation for 4,096 beats and with a collective open reports phase 4. Requests outstanding at the timeout are abandoned with event 0x120B, and their responses discarded. -/
def Obligations.RechuckEventsComplete : Prop :=
  (∀ (s : State) (d : Fin 4), (s.main.dieAt d.val).st = .running → s.main.sectionDone d.val = true →
    exec (.sectionEnd d) s = s.nextMain (s.main.updDie d.val (fun v => { v with st := .ending, settled := false }))) ∧
  (∀ (s : State) (d : Fin 4), s.main.barrier d.val = true →
    let g := s.main.groupOf d.val
    let m1 := g.foldl Main.landAll s.main
    (∀ q ∈ g, (m1.dieAt q).st = .ending) → (∀ q ∈ g, m1.leftover q = 0) →
    exec (.normalRechuck d) s = s.nextMain (g.foldl (fun m q =>
      if (m.dieAt q).staged = [] then m.toIdle q else m.updDie q (fun v => { v with settled := true })) (g.foldl Main.collect m1))) ∧
  (∀ (s : State) (d : Fin 4), s.main.barrier d.val = true →
    let g := s.main.groupOf d.val
    let m1 := g.foldl Main.landAll s.main
    let left := g.filter (fun q => m1.leftover q != 0)
    (∀ q ∈ g, (m1.dieAt q).st = .ending) → left ≠ [] →
    exec (.normalRechuck d) s = s.nextMain (left.foldl (fun m q => m.blankFault q 0x1207 (p1 q ++ p2 (m.firstLeft q).1 ++ p1 (m.firstLeft q).2 ++ p4 (m.leftover q)) 0 0 0) m1)) ∧
  (∀ (s : State) (d : Fin 4) (b : Blank) (r : List Blank), (s.main.dieAt d.val).staged = b :: r → (s.main.dieAt d.val).agreed = false →
    (∀ q ∈ diesOf b.peers, (s.main.dieAt q).waitsHead = true) →
    ((∀ q ∈ diesOf b.peers, (s.main.dieAt q).staged.head?.any (fun c => c.job = b.job && c.section_ = b.section_ && c.peers = b.peers) = true) →
      exec (.peerGroupExchange d) s = s.nextMain ((diesOf b.peers).foldl (fun m q => m.updDie q (fun v => { v with agreed := true })) s.main)) ∧
    ((∃ q ∈ diesOf b.peers, (s.main.dieAt q).staged.head?.any (fun c => c.job = b.job && c.section_ = b.section_ && c.peers = b.peers) = false) →
      exec (.peerGroupExchange d) s = s.nextMain ((diesOf b.peers).foldl (fun m q => m.dropHead 0x11 q) s.main))) ∧
  (∀ (s : State) (d : Fin 4) (b : Blank) (r : List Blank) (y : Job), (s.main.dieAt d.val).staged = b :: r →
    s.main.job? b.job.toNat = some y → (s.main.dieAt d.val).agreed = true → (s.main.dieAt d.val).gated = false →
    y.gateFault b = none → (y.watch b).watched.length ≤ 4096 → y.gateOpen b = true →
    (∀ l ∈ b.weightLayers, b.training = true → (y.layers.get l).issued = false) →
    s.main.grainHeld d.val b = false → s.main.offloadHeld d.val b = false →
    exec (.versionGateOpen d) s = s.nextMain (((s.main.updJob b.job.toNat (fun j =>
      if b.versioned then { j.watch b with holders := (j.watch b).holders ++ [(d.val, (j.watch b).version, b.weightLayers)] }
      else j.watch b)).jitNote b.job.toNat).updDie d.val (fun v => { v with gated := true, tag := y.version }))) ∧
  (∀ (s : State) (d : Fin 4) (b : Blank) (r : List Blank), (s.main.dieAt d.val).staged = b :: r →
    let g := diesOf b.peers
    let epoch := (s.main.dieAt (g.headD d.val)).epoch + 1
    let m1 := g.foldl (fun m q => m.loadDie q epoch) s.main
    (∀ q ∈ g, (s.main.dieAt q).gated = true ∧ (s.main.dieAt q).staged ≠ []) →
    (∀ q ∈ g, (s.main.dieAt q).staged.head?.any (fun c => c.epoch.any (· != epoch)) = false) →
    (∀ q ∈ g, (m1.dieAt q).st = .loading) →
    exec (.blankLoad d) s = s.nextMain (g.foldl Main.release m1)) ∧
  (∀ (s : State) (d : Fin 4) (b : Blank) (r : List Blank), (s.main.dieAt d.val).staged = b :: r →
    let g := diesOf b.peers
    let epoch := (s.main.dieAt (g.headD d.val)).epoch + 1
    let bad := g.filter (fun q => (s.main.dieAt q).staged.head?.any (fun c => c.epoch.any (· != epoch)))
    (∀ q ∈ g, (s.main.dieAt q).gated = true ∧ (s.main.dieAt q).staged ≠ []) → bad ≠ [] →
    exec (.blankLoad d) s = s.nextMain (g.foldl (fun m q => if bad.contains q then m.dropHead 0x0F q else m.toIdle q)
      (g.foldl Main.unhold s.main))) ∧
  (∀ (s : State) (d : Fin 4), s.main.peerFaulted d.val = true →
    exec (.peerDieFaulted d) s = s.nextMain
      (if (s.main.dieAt d.val).agreed then s.main.headFault d.val 0x120D [] else s.main.blankFault d.val 0x120D [] 0 0 0)) ∧
  (∀ (s : State) (d : Fin 4) (b : Blank) (j : Job), (s.main.dieAt d.val).run = some b → s.main.dieJob d.val = some j →
    (s.main.dieAt d.val).st = .running → b.training = true → j.colls ≠ [] →
    (s.main.dieAt d.val).lastMma + 4096 ≤ (s.main.dieAt d.val).beats →
    exec (.phaseCollectiveWait d) s = s.nextMain (s.main.report d.val 4)) ∧
  (∀ (s : State) (d : Fin 4), (s.main.dieAt d.val).st = .forcing → (s.main.dieAt d.val).settled = false → s.main.outstanding d.val ≠ 0 →
    exec (.forcedRechuckRequestTimeout d) s = s.nextMain (((((s.main.blankTiles d.val).foldl (fun m id => m.updTile id (fun t =>
      { t with slots := [], dead := t.dead + t.slots.length, ops := t.ops.filter (fun o => o.unit != .memory) })) s.main).discardResponses d.val).log!
        { code := 0x120B, cls := .rec_, die := some d.val, par := p4 (s.main.outstanding d.val) }).forceGo d.val))

/-- The Chuck's mailbox commands apply and answer status 0: stage, forced rechuck, die status, withdraw, and the shavings area. A served STAGE_BLANK whose image passes every check of R110 joins the staging queue of its die and answers its position. A served forced rechuck whose mask splits no peer group forces each die it names, dropping its staged blanks where bit 0 of byte 1 asks for Idle. DIE_STATUS answers the state, phase, epoch, job, section, queue length and last codes of the die (byte layout: log 12). Withdraw empties the staging queues of the dies it names, but for a head blank that has been agreed. A shavings area that meets the alignment and size rules and overlaps no other area is set. -/
def Obligations.ChuckCommandsComplete : Prop :=
  (∀ (s : State) (h : Hdr) (p : Payload) (j : Job) (m1 : Main) (img : List Byte) (b : Blank),
    s.main.serves 0x0210 h p [(0, 13), (16, 8)] (owned := s.main.owns h.src (s.main.variant.diePart (bvAt p 12 1))) = true →
    let x := s.main.taken h.src
    bvAt p 12 1 ≤ 3 →
    bvAt p 0 8 % 64 = 0 →
    x.job? (bvAt p 16 4) = some j →
    j.dies.getLsbD (bvAt p 12 1) = true →
    (x.dieAt (bvAt p 12 1)).shavings ≠ none →
    (x.dieAt (bvAt p 12 1)).staged.length < 4 →
    ¬ ((x.sramAt (bvAt p 12 1)).below = true ∧ (x.sramAt (bvAt p 12 1)).live < 0x10000000) →
    (64 ≤ bvAt p 8 4 ∧ bvAt p 8 4 ≤ 0x4000000 ∧ bvAt p 8 4 % 64 = 0) →
    x.daGet (x.diePartOf (bvAt p 12 1)) (bvAt p 0 8) (bvAt p 8 4) = (m1, some img) →
    imageChk (m1.stageEnv (bvAt p 12 1) j (bvAt p 16 4) (bvAt p 20 4) (bvAt p 8 4) false) img (bvAt p 0 8) = .ok b →
    exec (.stageBlank h p) s = s.nextMain (s.main.done 0x0210 h (m1.updDie (bvAt p 12 1) (fun v => { v with staged := v.staged ++ [b] })) [(0, 1, (x.dieAt (bvAt p 12 1)).staged.length), (1, 1, 0), (4, 4, 0)])) ∧
  (∀ (s : State) (h : Hdr) (p : Payload),
    s.main.serves 0x0211 h p [(0, 2)] (owned := s.main.ownsDies h.src (p.extractLsb' 0 4)) (high := forcedRsv p) = true →
    let x := s.main.taken h.src
    (∀ d ∈ diesOf (p.extractLsb' 0 4), ∀ q ∈ x.groupOf d, (p.extractLsb' 0 4).getLsbD q = true) →
    exec (.forcedRechuck h p) s = s.nextMain (s.main.done 0x0211 h ((diesOf (p.extractLsb' 0 4)).foldl (fun m d => m.force (p.getLsbD 8) d) x) [])) ∧
  (∀ (s : State) (h : Hdr) (p : Payload),
    s.main.serves 0x0212 h p [(0, 1)] (reads := true) (owned := s.main.owns h.src (s.main.variant.diePart (bvAt p 0 1))) = true →
    let x := s.main.taken h.src
    bvAt p 0 1 ≤ 3 →
    exec (.dieStatus h p) s = s.nextMain (s.main.done 0x0212 h (x) [(0, 1, (x.dieAt (bvAt p 0 1)).st.num), (1, 1, (x.dieAt (bvAt p 0 1)).phase.toNat),
      (2, 1, (x.dieAt (bvAt p 0 1)).epoch.toNat), (4, 4, (x.dieAt (bvAt p 0 1)).job.toNat),
      (8, 4, match (x.dieAt (bvAt p 0 1)).run with | some b => b.section_.toNat | none => 0),
      (12, 1, (x.dieAt (bvAt p 0 1)).staged.length), (14, 2, (x.dieAt (bvAt p 0 1)).lastEvent.toNat),
      (16, 1, (x.dieAt (bvAt p 0 1)).lastReason.toNat)])) ∧
  (∀ (s : State) (h : Hdr) (p : Payload),
    s.main.serves 0x0213 h p [(0, 1)] (owned := s.main.ownsDies h.src (p.extractLsb' 0 4)) (high := (bvAt p 0 1 < 16)) = true →
    let x := s.main.taken h.src
    exec (.withdrawStagedBlanks h p) s = s.nextMain (s.main.done 0x0213 h ((diesOf (p.extractLsb' 0 4)).foldl (fun m d =>
      m.updDie d (fun v => if v.agreed then { v with staged := v.staged.take 1 } else { v with staged := [] })) x) [])) ∧
  (∀ (s : State) (h : Hdr) (p : Payload),
    s.main.serves 0x0214 h p [(0, 1), (8, 16)] (owned := s.main.owns h.src (s.main.variant.diePart (bvAt p 0 1))) = true →
    let x := s.main.taken h.src
    bvAt p 0 1 ≤ 3 →
    bvAt p 8 8 % 0x200000 = 0 →
    bvAt p 16 8 % 0x200000 = 0 →
    (0x8000000 ≤ bvAt p 16 8 ∧ bvAt p 16 8 ≤ 0x100000000) →
    bvAt p 8 8 < 2 ^ 41 →
    x.mapped (x.diePartOf (bvAt p 0 1)) (bvAt p 8 8) (bvAt p 16 8) = true →
    x.freeRun (some (bvAt p 0 1)) (bvAt p 8 8) (bvAt p 16 8) = true →
    exec (.setShavingsArea h p) s = s.nextMain (s.main.done 0x0214 h (x.updDie (bvAt p 0 1) (fun v => { v with shavings := some (BitVec.ofNat 56 (bvAt p 8 8), bvAt p 16 8) })) []))

/-- Opening a step, its verdict contribution and application, its two limits, background resolve, re-derivation and the generator probe complete. A served STEP_OPEN that names its job's step number opens the step and reads the block masks. With no condition of R19 open and core 3 running, a job logs 0x1305 for a layer not updated and goes on to issue its verdict word in the fixed order. The word that the verdict reduction has brought to a module of the torus is applied. Where it decides a commit, the numerics commit, the version flips, the queues clear and collectives issue. Where it decides a discard, event 0x9301 is logged, and 0x9304 the first time eager in place becomes unrecoverable. A step whose time runs out sets bit 9 with the condition that held it, condition 4 at the step limit. Step C6 resolves the cached entries of a Burnisher. Re-derivation rebuilds the owned blocks of a layer from their live masters, returns it to Reading and logs 0x1307. The probe answers the draw of R48. -/
def Obligations.StepCommandsComplete : Prop :=
  (∀ (s : State) (h : Hdr) (p : Payload) (j : Job),
    s.main.serves 0x0203 h p [(0, 8)] (owned := s.main.ownsJob h.src (bvAt p 0 4)) = true →
    let x := s.main.taken h.src
    x.job? (bvAt p 0 4) = some j →
    j.stepOpen = false →
    (j.unrec = false ∧ j.restoring = false) →
    p.extractLsb' 32 32 = j.step →
    exec (.stepOpen h p) s = s.nextMain (s.main.done 0x0203 h (((x.setJob (bvAt p 0 4) (j.opening x.ms)).maskAll (bvAt p 0 4)).jitNote (bvAt p 0 4)) [])) ∧
  (∀ (s : State) (j : U32) (v : Job), s.main.job? j.toNat = some v → (s.main.core.get 3).runs = true → v.stepOpen = true → v.voted = false →
    s.main.openCond j.toNat v = none →
    exec (.verdictContribution j) s = s.nextMain ((s.main.notUpdated j.toNat v).vote j.toNat)) ∧
  (∀ (s : State) (j : U32) (word : U64) (v : Job), s.main.job? j.toNat = some v → v.stepOpen = true → v.voted = true →
    v.reduced = some (word, true) → s.main.inTorus = true →
    exec (.verdictApply j word) s = s.nextMain ((((((s.main.numericsCommit j.toNat).updJob j.toNat (fun j => j.decide word true)).clearQueues
      j.toNat (some v.step))).pumpColls j.toNat).finishClose j.toNat)) ∧
  (∀ (s : State) (j : U32) (word : U64) (v : Job), s.main.job? j.toNat = some v → v.stepOpen = true → v.voted = true →
    v.reduced = some (word, false) → s.main.inTorus = true →
    let m1 := ((s.main.updJob j.toNat (fun j => j.decide word false)).clearQueues j.toNat (some v.step)).log!
      { code := 0x9301, cls := .rec_, step := v.step, par := p4 j.toNat ++ p8 word.toNat ++ p8 v.word.toNat }
    let m2 := if v.disc = .eagerInPlace ∧ v.unrec = false then
      m1.log! { code := 0x9304, cls := .rec_, step := v.step, par := p4 j.toNat } else m1
    exec (.verdictApply j word) s = s.nextMain (m2.finishClose j.toNat)) ∧
  (∀ (s : State) (j : U32) (v : Job) (c : Nat), s.main.job? j.toNat = some v → v.stepOpen = true → v.voted = false → v.lastBack ≠ none →
    s.main.openCond j.toNat v = some c →
    exec (.stepEndTimeout j) s = s.nextMain ((s.main.timeUp j.toNat c).finishClose j.toNat)) ∧
  (∀ (s : State) (j : U32) (v : Job), s.main.job? j.toNat = some v → v.stepOpen = true → v.voted = false →
    exec (.stepLimitExpiry j) s = s.nextMain (s.main.timeUp j.toNat 4)) ∧
  (∀ (m : Main) (j c : Nat), m.timeUp j c =
    ((m.log! { code := 0x9303, cls := .flt, step := m.jobStep j, par := p4 j ++ p1 c }).guard j 9).vote j) ∧
  (∀ (s : State) (n : Fin 10), exec (.backgroundResolve n) s = s.nextMain ((s.main.burnAt n.val).cache.foldl (fun m i =>
      match m.entryJob n.val i with
      | some jid => (m.getPrt jid n.val i).1
      | none => m) s.main)) ∧
  (∀ (s : State) (j : U32) (l : U16) (v : Job) (y : Layer), s.main.job? j.toNat = some v → v.layers.find l.toNat = some y → y.st = .restoring →
    let es := (((s.main.runsOf j.toNat).filter (fun r => r.layer = l.toNat)).map
      (fun r => (List.range r.count).map (fun k => (r.stack, r.entry + k)))).flatten
    let m1 := (es.foldl (fun m e => m.rederive j.toNat v e) s.main).onceOver j.toNat
    exec (.rederivationComplete j l) s = s.nextMain ((m1.updJob j.toNat (fun v => v.updLayer l.toNat (fun x => { x with st := .reading }))).log!
      { code := 0x1307, cls := .rec_, par := p4 j.toNat ++ p2 l.toNat })) ∧
  (∀ (s : State) (h : Hdr) (p : Payload),
    s.main.serves 0x0931 h p [(0, 21), (24, 3)] (reads := true) (high := (bvAt p 26 1 ≤ 2)) = true →
    let x := s.main.taken h.src
    exec (.generatorProbe h p) s = s.nextMain (s.main.done 0x0931 h (x) [(0, 8, (srDraw (p.extractLsb' 0 64) (p.extractLsb' 64 32) (p.extractLsb' 96 32) (p.extractLsb' 128 40)
      (p.extractLsb' 192 16) (bvByte p 26)).toNat)]))

/-- JOB_OPEN, JOB_CLOSE and RESTORE_JOB apply and answer status 0; a forced close of an open step waits for the verdict. A served JOB_OPEN with free dies, a valid rank count, time-out and limit, on dies its requester owns, sets the job with its seed, step and discipline (the guard off where that is eager in place), assigns the dies with no shavings area and clears their regions' tables; a 0 stands for 10,000 ms and for 600 s. A served close takes the job out at once where no step is open; a forced one of an open step trips bit 8 and its response waits for the verdict. A restore begins with every entry of the job unloaded and every layer Landing, and ends, once every entry is loaded and every layer Reading, with the job recoverable, its step number set and event 0x9305. The stamp of its Tailstock key is the model's: a draw, or the partition's count of opens. -/
def Obligations.JobCommandsComplete : Prop :=
  (∀ (s : State) (h : Hdr) (p : Payload),
    s.main.serves 0x0201 h p [(0, 5), (6, 22)] (high := openRsv p) = true →
    let x := s.main.taken h.src
    p.extractLsb' 32 4 ≠ (0 : BitVec 4) →
    (bvAt p 0 4 ≠ 0 ∧ x.job? (bvAt p 0 4) = none) →
    (∀ d ∈ diesOf (p.extractLsb' 32 4), (x.dieAt d).job = 0) →
    (1 ≤ bvAt p 6 2 ∧ bvAt p 6 2 ≤ 32768) →
    (bvAt p 16 4 = 0 ∨ (10 ≤ bvAt p 16 4 ∧ bvAt p 16 4 ≤ 600000)) →
    bvAt p 24 4 ≤ 3600 →
    x.ownsDies h.src (p.extractLsb' 32 4) = true →
    (x.sup.tlock = true → ∀ d ∈ diesOf (p.extractLsb' 32 4), x.partOn = true ∧ x.sealed (x.variant.diePart d) = true) →
    exec (.jobOpen h p) s = s.nextMain (s.main.done 0x0201 h (let ds := diesOf (p.extractLsb' 32 4)
      let m1 := (x.setJob (bvAt p 0 4)
        { dies := p.extractLsb' 32 4, ranks := bvAt p 6 2, seed := p.extractLsb' 64 64
          timeout := if bvAt p 16 4 = 0 then 10000 else bvAt p 16 4
          limit := if bvAt p 24 4 = 0 then 600 else bvAt p 24 4
          step := p.extractLsb' 160 32, vane := false
          tenant := match h.src with
            | .tenant q => some q
            | _ => none
          disc := (x.assigned.get (bvAt p 0 4)).disc
          guard := if (x.assigned.get (bvAt p 0 4)).disc = .eagerInPlace then 0 else 0x3f
          key := some (match h.src with
            | .tenant q => (x.partAt q.toNat).opens.toNat
            | _ => x.draws) }).draw
      let m2 := match h.src with
        | .tenant q => m1.updPart q.toNat (fun x => { x with opens := x.opens + 1 })
        | _ => m1
      ds.foldl (fun m d => m.updDie d (fun v => { v with job := BitVec.ofNat 32 (bvAt p 0 4), storeJob := 0, shavings := none }))
        { m2 with region := m2.region.filter (fun r => !ds.contains (r.1 / 1024)) }) [])) ∧
  (∀ (s : State) (h : Hdr) (p : Payload) (j : Job),
    s.main.serves 0x0202 h p [(0, 5)] (owned := s.main.ownsJob h.src (bvAt p 0 4)) (high := (bvAt p 4 1 < 2)) = true →
    let x := s.main.taken h.src
    x.job? (bvAt p 0 4) = some j →
    (j.stepOpen = false → exec (.jobClose h p) s =
      s.nextMain ((s.main.done 0x0202 h (x.closeJob (bvAt p 0 4)) []).deferClose (bvAt p 0 4))) ∧
    (j.stepOpen = true → p.getLsbD 32 = true → exec (.jobClose h p) s =
      s.nextMain ((s.main.done 0x0202 h { x.guard (bvAt p 0 4) 8 with closing := x.closing.put (bvAt p 0 4) {} } []).deferClose (bvAt p 0 4)))) ∧
  (∀ (s : State) (h : Hdr) (p : Payload) (j : Job),
    s.main.serves 0x0204 h p (if bvAt p 4 1 = 1 then [(0, 5), (8, 4)] else [(0, 5)]) (owned := s.main.ownsJob h.src (bvAt p 0 4)) = true →
    let x := s.main.taken h.src
    x.job? (bvAt p 0 4) = some j →
    j.stepOpen = false →
    bvAt p 4 1 = 0 →
    (∀ l ∈ j.layers, l.2.st ≠ .updating ∧ l.2.st ≠ .restoring) →
    exec (.restoreJob h p) s = s.nextMain (s.main.done 0x0204 h (x.restoreBegin (bvAt p 0 4)) [])) ∧
  (∀ (s : State) (h : Hdr) (p : Payload) (j : Job),
    s.main.serves 0x0204 h p (if bvAt p 4 1 = 1 then [(0, 5), (8, 4)] else [(0, 5)]) (owned := s.main.ownsJob h.src (bvAt p 0 4)) = true →
    let x := s.main.taken h.src
    x.job? (bvAt p 0 4) = some j →
    j.stepOpen = false →
    bvAt p 4 1 = 1 →
    j.restoring = true →
    x.allLoaded (bvAt p 0 4) = true →
    (∀ l ∈ j.layers, l.2.st = .reading) →
    exec (.restoreJob h p) s = s.nextMain (s.main.done 0x0204 h ((x.setJob (bvAt p 0 4) { j with restoring := false, unrec := false, step := p.extractLsb' 64 32 }).log!
      { code := 0x9305, cls := .rec_, step := p.extractLsb' 64 32, par := p4 (bvAt p 0 4) }) []))

/-- The pinned pool is set, its status is answered, and a read, a write or a reduction arrives at its home slice. A served pinned-pool command of an owner, with both layers multiples of 64 KiB, at most 1 GiB and leaving 256 MiB live, on a die Idle or Faulted whose staged blanks do not shrink, puts the slices in pass-through, empties them, sets both layers and answers the live pool and the largest layers that keep the floor; its response, marked with the stack, ends pass-through and logs 0x3301 as it completes. The status answers both layers, the live pool, the retired columns, the spare dowels left and the reduction lines in units of 1,024. A request of a port for a memory-stack line, or of a tile's slot that carries it, arrives at its home slice with its data, and a column that has failed thrice retires (R484); a port's write or reduction into a state region ends with an error status instead (R180). -/
def Obligations.PoolsAndSliceArrivalsComplete : Prop :=
  (∀ (s : State) (h : Hdr) (p : Payload),
    s.main.serves 0x0320 h p [(0, 1), (8, 16)] = true →
    let x := s.main.taken h.src
    let n := bvAt p 0 1
    let y := x.sramAt n
    let m1 := (x.updSram n (fun z => { z with pass := true })).emptySlices n
    let m2 := ((m1.resizeLayer (n * 2 ^ 31) y.p1 (bvAt p 8 8)).resizeLayer (n * 2 ^ 31 + 2 ^ 30) y.p2 (bvAt p 16 8)).updSram n
      (fun z => { z with p1 := bvAt p 8 8, p2 := bvAt p 16 8, below := false })
    let m3 := s.main.done 0x0320 h (m2.drainStack n) [(0, 1, 0), (8, 8, (m2.sramAt n).live), (16, 8, largest (fun a => y.liveFor a (bvAt p 16 8) ≥ poolFloor)),
      (24, 8, largest (fun a => y.liveFor (bvAt p 8 8) a ≥ poolFloor))]
    bvAt p 0 1 ≤ 3 →
    x.owns h.src (x.variant.diePart (bvAt p 0 1)) = true →
    (bvAt p 8 8 % 65536 = 0 ∧ bvAt p 16 8 % 65536 = 0) →
    (bvAt p 8 8 ≤ 2 ^ 30 ∧ bvAt p 16 8 ≤ 2 ^ 30) →
    poolFloor ≤ (x.sramAt (bvAt p 0 1)).liveFor (bvAt p 8 8) (bvAt p 16 8) →
    ((x.dieAt (bvAt p 0 1)).st = .idle ∨ (x.dieAt (bvAt p 0 1)).st = .faulted) →
    ((x.dieAt (bvAt p 0 1)).staged = [] ∨ ((x.sramAt (bvAt p 0 1)).p1 ≤ bvAt p 8 8 ∧ (x.sramAt (bvAt p 0 1)).p2 ≤ bvAt p 16 8)) →
    exec (.setPinnedPool h p) s = s.nextMain { m3 with resps := markPool n s.main.resps.length m3.resps }) ∧
  (∀ (m : Main) (r : Resp) (n : Nat), r.stack = some n → (∀ x ∈ m.resps, x.stack ≠ some n) →
    m.poolDone r = (((m.updSram n (fun y => { y with pass := false })).drainStack n).log! { code := 0x3301, cls := .rec_, die := some n, par := p1 n },
      { r with rec_ := if r.rec_ = 0xFFFFFFFF then ((m.updSram n (fun y => { y with pass := false })).drainStack n).log.next else r.rec_ })) ∧
  (∀ (s : State) (h : Hdr) (p : Payload),
    s.main.serves 0x0321 h p [(0, 1)] (reads := true) (owned := s.main.owns h.src (s.main.variant.diePart (bvAt p 0 1))) = true →
    let x := s.main.taken h.src
    let y := x.sramAt (bvAt p 0 1)
    bvAt p 0 1 ≤ 3 →
    exec (.stackedSramStatus h p) s = s.nextMain (s.main.done 0x0321 h (x) [(0, 8, y.p1), (8, 8, y.p2), (16, 8, y.live), (24, 2, y.retired.length), (26, 1, y.sparesLeft),
      (27, 2, x.redHomed (bvAt p 0 1) / 1024)])) ∧
  (∀ (s : State) (da : DA) (q : Fin 10) (n o : Nat), s.main.rng da.toNat = .hbm n o →
    exec (.sliceRead (.port q) da) s = s.nextMain ((s.main.arrive
      { src := .port q, kind := .load, line := da.toNat / 128, data := 0, words := 0xFFFF }).retireDue (s.main.home da.toNat).1)) ∧
  (∀ (s : State) (da : DA) (t : TileRef) (slot : Fin 64) (r : Req) (i : Nat), s.main.reqFor t slot da.toNat .load = some (r, i) →
    exec (.sliceRead (.tile t slot) da) s = s.nextMain ((s.main.arrive
      { src := .tile t slot, kind := .load, line := da.toNat / 128, data := r.got.get i, words := 0xFFFF }).retireDue (s.main.home da.toNat).1)) ∧
  (∀ (s : State) (da : DA) (d : BitVec 1024) (words : BitVec 16) (q : Fin 10) (n o : Nat), s.main.rng da.toNat = .hbm n o → s.main.inRegion (da.toNat / 128 * 128) 128 = false →
    exec (.sliceWrite (.port q) da d words) s = s.nextMain ((s.main.arrive
      { src := .port q, kind := .store, line := da.toNat / 128, data := d, words := words }).retireDue (s.main.home da.toNat).1)) ∧
  (∀ (s : State) (da : DA) (d : BitVec 1024) (words : BitVec 16) (q : Fin 10) (n o : Nat), s.main.rng da.toNat = .hbm n o → s.main.inRegion (da.toNat / 128 * 128) 128 = true →
    exec (.sliceWrite (.port q) da d words) s = s.nextMain ((s.main.answer (.port q) da.toNat 0 true).retireDue (s.main.home da.toNat).1)) ∧
  (∀ (s : State) (da : DA) (d : BitVec 1024) (words : BitVec 16) (t : TileRef) (slot : Fin 64) (r : Req) (i : Nat), s.main.reqFor t slot da.toNat .store = some (r, i) →
    exec (.sliceWrite (.tile t slot) da d words) s = s.nextMain ((s.main.arrive
      { src := .tile t slot, kind := .store, line := da.toNat / 128, data := r.got.get i, words := 0xFFFF }).retireDue (s.main.home da.toNat).1)) ∧
  (∀ (s : State) (da : DA) (fp32 : Bool) (d : BitVec 1024) (q : Fin 10) (n o : Nat), s.main.rng da.toNat = .hbm n o → s.main.inRegion (da.toNat / 128 * 128) 128 = false →
    exec (.sliceRedg (.port q) da fp32 d) s = s.nextMain ((s.main.arrive
      { src := .port q, kind := (.reduce fp32), line := da.toNat / 128, data := d, words := 0xFFFF }).retireDue (s.main.home da.toNat).1)) ∧
  (∀ (s : State) (da : DA) (fp32 : Bool) (d : BitVec 1024) (q : Fin 10) (n o : Nat), s.main.rng da.toNat = .hbm n o → s.main.inRegion (da.toNat / 128 * 128) 128 = true →
    exec (.sliceRedg (.port q) da fp32 d) s = s.nextMain ((s.main.answer (.port q) da.toNat 0 true).retireDue (s.main.home da.toNat).1)) ∧
  (∀ (s : State) (da : DA) (fp32 : Bool) (d : BitVec 1024) (t : TileRef) (slot : Fin 64) (r : Req) (i : Nat), s.main.reqFor t slot da.toNat (.reduce fp32) = some (r, i) →
    exec (.sliceRedg (.tile t slot) da fp32 d) s = s.nextMain ((s.main.arrive
      { src := .tile t slot, kind := (.reduce fp32), line := da.toNat / 128, data := r.got.get i, words := 0xFFFF }).retireDue (s.main.home da.toNat).1))

/-- Fill and reduction returns, base-die accesses, ageing and the thrashing window of a home slice complete. A fill that the base die may serve now (its regulator and its stack let it) returns: it installs its line Clean where the slice still has that way and is not in pass-through, answers every attached requester with its data and poison, and lets the waiting requests on. A reduction fill joins the base die's record or the memory value and puts the line in Reduction. A base-die engine whose owner's regulator lets it reads or writes one line of its memory stack while the home slice snoops it. Ageing marks the oldest request that is not aged. A thrashing window that refilled more than a quarter of its fills logs 0x3204, at most once per second and slice, and the window starts again. -/
def Obligations.SliceEventsComplete : Prop :=
  (∀ (s : State) (da : DA) (l : Line), s.main.line? da.toNat = some l → l.st = .fillPending → s.main.mayAccess (da.toNat / 2 ^ 37) l.part = true →
    let h := s.main.home da.toNat
    let f := (s.main.finaliseRecord l.part da.toNat).memLine l.part da.toNat
    let m1 := if (!(f.1.sramAt h.1).pass && l.way < (f.1.sramAt h.1).ways) = true then f.1.install da.toNat { l with st := .clean, data := f.2.1, poison := f.2.2, att := [] } else f.1.setLine da.toNat none
    exec (.fillReturn da) s = s.nextMain ((l.att.foldl (fun m src => m.answer src da.toNat f.2.1 (f.2.2 != 0)) m1).drainBuf h.1 h.2)) ∧
  (∀ (s : State) (da : DA) (l : Line), s.main.line? da.toNat = some l → l.st = .redPending → s.main.mayAccess (da.toNat / 2 ^ 37) l.part = true →
    let h := s.main.home da.toNat
    let f := s.main.seedLine l.part da.toNat l
    exec (.reductionFillReturn da) s = s.nextMain ((f.1.setLine da.toNat (some { f.2 with st := .reduction })).drainBuf h.1 h.2)) ∧
  (∀ (s : State) (j : U32) (da : DA) (n o : Nat), s.main.rng (da.toNat / 128 * 128) = .hbm n o →
    let a := da.toNat / 128 * 128
    s.main.mayAccess n (s.main.ownPart a) = true →
    exec (.baseDieAccess j da none) s = s.nextMain (s.main.baseRead a 128).1 ∧
    (∀ d, exec (.baseDieAccess j da (some d)) s = s.nextMain (s.main.baseWrite j.toNat a (bvBytes d 128)))) ∧
  (∀ (s : State) (j : Fin 4) (i : Fin 64) (l r : List Waiting) (w : Waiting), (s.main.sliceAt j.val i.val).inbuf = l ++ w :: r →
    (∀ v ∈ l, v.aged = true) → w.aged = false →
    exec (.inputBufferAging j i) s = s.nextMain ((s.main.updSlice j.val i.val
      (fun x => { x with inbuf := execInputBufferAging.mark x.inbuf })).drainBuf j.val i.val) ∧
    execInputBufferAging.mark (l ++ w :: r) = l ++ { w with aged := true } :: r) ∧
  (∀ (s : State) (j : Fin 4) (i : Fin 64),
    let x := s.main.sliceAt j.val i.val
    let m := if x.refills * 4 > x.fills then
      s.main.logRate 1 (64 * j.val + i.val) { code := 0x3204, cls := .adv, die := some j.val, par := p1 j.val ++ p1 i.val } else s.main
    exec (.cacheSliceThrashing j i) s = s.nextMain (m.updSlice j.val i.val (fun x => { x with fills := 0, refills := 0 })))

/-- A dowel beat is checked against its CRC, a margin check starts sparing, and sparing maps spares or retires the column. A beat whose check dowels match its data is delivered and ends the retries of its group and direction. One that does not match is replayed, 3 times in a row, and each replay counts for its group; more than 1,000 of a group within one second log 0x3103, once an hour per group. The fourth failure in a row starts sparing. While sparing, and on a retired column, a beat changes nothing. A margin check that finds dowels below their threshold on a live column starts sparing, and another changes nothing. Sparing gives each failed dowel that carries traffic a free spare, lets the requests that waited go on, and logs each with the spares left, event 0x3101; with too few spares the column retires, with a half of its dowels whole or not; where no sparing is in progress nothing changes. How an event names the group and direction is the model's (log 38). -/
def Obligations.DowelEventsComplete : Prop :=
  (∀ (s : State) (g : DowelRef) (d : BitVec 1024) (crc : U16), (s.main.dowel g).sparing = false →
    (s.main.sramAt g.stack.val).retired.contains g.col.val = false → beatOk g.upper d crc = true →
    exec (.dowelBeatReceive g d crc) s = s.nextMain (s.main.updDowel g (fun x => { x with tries := 0, delivered := x.delivered + 1 }))) ∧
  (∀ (s : State) (g : DowelRef) (d : BitVec 1024) (crc : U16), (s.main.dowel g).sparing = false →
    (s.main.sramAt g.stack.val).retired.contains g.col.val = false → beatOk g.upper d crc = false → (s.main.dowel g).tries < 3 →
    let m1 := s.main.updDowel g (fun x => { x with tries := x.tries + 1 })
    let w := (m1.sramAt g.stack.val).groups.get (groupKey g)
    let l := (m1.us :: w.replays.filter (fun t => m1.us < t + 1000000)).take 1001
    let due : Bool := 1000 < l.length && (w.last = 0 || w.last + 3600000000 ≤ m1.us + 1)
    let m2 := m1.updSram g.stack.val (fun x =>
      { x with groups := x.groups.put (groupKey g) { replays := l, last := if due then m1.us + 1 else w.last } })
    exec (.dowelBeatReceive g d crc) s = s.nextMain (if due = true then
      m2.log! { code := 0x3103, cls := .adv, die := some g.stack.val,
                par := p1 g.stack.val ++ p2 g.col.val ++ p1 ((if g.upper then 2 else 0) + (if g.up then 1 else 0)) } else m2)) ∧
  (∀ (s : State) (g : DowelRef) (d : BitVec 1024) (crc : U16), (s.main.dowel g).sparing = false →
    (s.main.sramAt g.stack.val).retired.contains g.col.val = false → beatOk g.upper d crc = false → 3 ≤ (s.main.dowel g).tries →
    exec (.dowelBeatReceive g d crc) s = s.nextMain (s.main.updDowel g (fun x => { x with tries := 0, sparing := true }))) ∧
  (∀ (s : State) (g : DowelRef) (d : BitVec 1024) (crc : U16),
    (s.main.dowel g).sparing = true ∨ (s.main.sramAt g.stack.val).retired.contains g.col.val = true →
    exec (.dowelBeatReceive g d crc) s = s.nextMain s.main) ∧
  (∀ (s : State) (g : DowelRef) (below : List (Fin 538)), below ≠ [] → (s.main.sramAt g.stack.val).retired.contains g.col.val = false →
    exec (.dowelMarginCheck g below) s = s.nextMain (s.main.updDowel g (fun x => { x with sparing := true }))) ∧
  (∀ (s : State) (g : DowelRef) (below : List (Fin 538)), below = [] ∨ (s.main.sramAt g.stack.val).retired.contains g.col.val = true →
    exec (.dowelMarginCheck g below) s = s.nextMain s.main) ∧
  (∀ (s : State) (g : DowelRef) (failed : List (Fin 538)), (s.main.dowel g).sparing = true →
    let f := failed.map (·.val)
    let x := s.main.dowel g
    let free := x.free g.upper f
    let m1 := s.main.updDowel g (fun x => { x with sparing := false, tries := 0 })
    let half := if g.upper then 128 else 256
    let whole := fun (h : Nat) => f.all (fun i => !(h * half ≤ i && i < (h + 1) * half))
    ((x.needs g.upper f).length > free.length →
      exec (.dowelSparing g failed) s = s.nextMain (m1.retireColumn g.stack.val g.col.val (whole 0 || whole 1))) ∧
    ((x.needs g.upper f).length ≤ free.length →
      exec (.dowelSparing g failed) s = s.nextMain (((x.needs g.upper f).zip free).zipIdx.foldl (fun m e => m.log!
        { code := 0x3101, cls := .rec_, die := some g.stack.val,
          par := p1 g.stack.val ++ p2 g.col.val ++ p1 ((if g.upper then 2 else 0) + (if g.up then 1 else 0)) ++
            p2 e.1.1 ++ p2 e.1.2 ++ p4 (free.length - (e.2 + 1)) })
        ((m1.updDowel g (fun y => { y with map := x.map.filter (fun e => !(f.contains e.2)) ++
          (f.filter (fun i => spareBase g.upper ≤ i)).map (fun i => (i, i)) ++ (x.needs g.upper f).zip free })).drainStack g.stack.val)))) ∧
  (∀ (s : State) (g : DowelRef) (failed : List (Fin 538)), (s.main.dowel g).sparing = false →
    exec (.dowelSparing g failed) s = s.nextMain s.main)

/-- State regions are set and read; regulators are set, committed, refused a bad commit, snapshot, and refilled each window. A served region command for an owned stack, with no job open, a 2 MiB-aligned non-empty run inside the visible capacity that overlaps no other region and no shavings area, and 512 MiB of PRT at most, sets the region, leaves its bytes undefined, drops a PRT's assigned runs, logs 0x2101 and answers the PRT total. Its read answers offset and size. A commit whose staged settings meet the rules of R184 puts them in force and counts a generation; else it sets REJ and names the stack. A snapshot copies the statistics. A served 0x0310 sets the four regulators of a stack. A window ends every microsecond: each bucket refills by its ceiling times the thermal factor up to its depth, and a window in which an access of the partition waited counts as held. -/
def Obligations.RegionAndRegulatorCommandsComplete : Prop :=
  (∀ (s : State) (h : Hdr) (p : Payload),
    s.main.serves 0x0302 h p [(0, 2), (8, 16)] = true →
    let x := s.main.taken h.src
    let n := bvAt p 0 1
    let k := bvAt p 1 1
    let off := bvAt p 8 8
    let size := bvAt p 16 8
    let m1 := (x.updHbm n (fun y => { y with region := y.region.put k (off, size) })).forgetRun (n * 2 ^ 37 + off) size
    let m2 : Main := if k = 1 then { m1 with assigned := m1.assigned.map (fun e => (e.1, { e.2 with runs := e.2.runs.filter (fun r => r.stack != n) })) } else m1
    let m3 := m2.log! { code := 0x2101, cls := .rec_, stack := some n }
    (n < x.variant.stacks ∧ 1 ≤ k ∧ k ≤ 5) →
    x.owns h.src (x.variant.stackPart n) = true →
    x.jobs = [] →
    (size ≠ 0 ∧ off % 0x200000 = 0 ∧ size % 0x200000 = 0) →
    off + size ≤ x.visible n →
    (∀ r ∈ (x.hbmAt n).region.del k, overlap off size r.2.1 r.2.2 = false) →
    (∀ d < 4, ∀ b z, (x.dieAt d).shavings = some (b, z) → overlap (n * 2 ^ 37 + off) size b.toNat z = false) →
    (k = 1 → ((x.hbm.del n).map (fun e => ((e.2.region.find 1).map (·.2)).getD 0)).sum + size ≤ 0x20000000) →
    exec (.setStateRegion h p) s = s.nextMain (s.main.done 0x0302 h (m3) [(8, 8, m3.prtBytes)])) ∧
  (∀ (s : State) (h : Hdr) (p : Payload),
    s.main.serves 0x0303 h p [(0, 2)] (reads := true) (owned := s.main.owns h.src (s.main.variant.stackPart (bvAt p 0 1))) = true →
    let x := s.main.taken h.src
    (bvAt p 0 1 < x.variant.stacks ∧ 1 ≤ bvAt p 1 1 ∧ bvAt p 1 1 ≤ 5) →
    exec (.readStateRegion h p) s = s.nextMain (s.main.done 0x0303 h (x) [(0, 8, (((x.hbmAt (bvAt p 0 1)).region.find (bvAt p 1 1)).getD (0, 0)).1), (8, 8, (((x.hbmAt (bvAt p 0 1)).region.find (bvAt p 1 1)).getD (0, 0)).2)])) ∧
  (∀ (s : State) (v : U64),
    let m1 : Main := if v.getLsbD 2 then { s.main with rctl := { s.main.rctl with rej := false } } else s.main
    (m1.regBad = none → v.getLsbD 3 = false → exec (.regulatorCommit v) s = s.nextMain m1.regApply) ∧
    (∀ n, m1.regBad = some n → v.getLsbD 3 = false →
      exec (.regulatorCommit v) s = s.nextMain { m1 with rctl := { m1.rctl with rej := true, who := BitVec.ofNat 4 n } })) ∧
  (∀ (s : State) (v : U64), v.getLsbD 0 = false → v.getLsbD 2 = false →
    exec (.regulatorSnapshot v) s = s.nextMain { s.main with hbm := s.main.hbm.map (fun e => (e.1, { e.2 with reg := e.2.reg.map (fun r =>
      (r.1, { r.2 with snServed := BitVec.ofNat 32 (r.2.served / 4096), snHeld := BitVec.ofNat 16 (min r.2.held 0xFFFF) })) })) }) ∧
  (∀ (s : State) (h : Hdr) (p : Payload),
    s.main.serves 0x0310 h p [(0, 1), (8, 16)] (high := regRsv p) = true →
    let x := s.main.taken h.src
    let cfg := fun (i : Nat) => RegCfg.of (BitVec.ofNat 32 (bvAt p (8 + 4 * i) 4))
    bvAt p 0 1 < x.variant.stacks →
    (Src.operator h.src = true ∧ x.owns h.src (x.variant.stackPart (bvAt p 0 1)) = true) →
    x.regOk cfg = true →
    exec (.setMemoryRegulators h p) s = s.nextMain (s.main.done 0x0310 h (x.updHbm (bvAt p 0 1) (fun y => { y with reg := (List.range 4).foldl (fun t i => t.upd i (fun r => r.apply (cfg i))) y.reg })) [])) ∧
  (∀ (s : State) (n : Fin 10) (waits : BitVec 4),
    exec (.regulatorWindow n waits) s = s.nextMain (s.main.updHbm n.val (fun y => { y with reg := (List.range 4).foldl (fun (t : Table Regulator) p =>
      t.upd p (fun r =>
        let held : Bool := waits.getLsbD p || (r.empty && (s.main.fillsOf n.val).contains p)
        { r with win := 0, held := if held then r.held + 1 else r.held
                 level := min (r.force.burst.toNat * 4096 : Nat) (r.level + (r.force.ceil.toNat * 48000 * y.factor / 1000000 : Nat)) })) y.reg })))

/-- A temperature sample of a memory stack sets its stages and logs the ones entered; the thermal steps move the ceiling or the pace by one. The sample of a stack of the variant takes the larger of diode and readout, enters and leaves stages with their hysteresis, logs each stage entered (0x2401 to 0x2404), logs 0x2405 for three differing readouts in a row, once an hour, stops the Burnisher in stage 4, and parks the dies the stack homes while any of their stacks is in stage 4. A step down in stage 3 lowers the memory ceiling one point, or at P0 or under fixed pace (its setting or the fallback's) the firing beats by one sixteenth, to one at the least. A step up with no homed stack in stage 3 undoes the pace first and then the ceiling, to P6. -/
def Obligations.MemoryTemperatureEventsComplete : Prop :=
  (∀ (s : State) (n : Fin 10) (diode : Int) (readout : Option Int), n.val < s.main.variant.stacks →
    let y := s.main.hbmAt n.val
    let r := readout.getD y.readout
    let st := stagesAt (max diode r) y.stages
    let far : Bool := (diode - r).natAbs > 6000
    let differ := if readout.isNone then y.differ else if far then y.differ + 1 else 0
    let report := differ ≥ 3 && readout.isSome && y.hour != s.main.sec / 3600 + 1
    let m1 := s.main.updHbm n.val (fun z => { z with diode := diode, readout := r, differ := differ, stages := st,
                                                     hour := if report then s.main.sec / 3600 + 1 else z.hour })
    let m2 := if report then m1.log! { code := 0x2405, cls := .adv, stack := some n.val } else m1
    let m3 := [(0, 0x2401, Cls.adv), (1, 0x2402, .rec_), (2, 0x2403, .rec_), (3, 0x2404, .rec_)].foldl (fun m e =>
      if st.getLsbD e.1 && !(y.stages.getLsbD e.1) then m.log! { code := e.2.1, cls := e.2.2, stack := some n.val } else m) m2
    let m4 := m3.updBurn n.val (fun b => { b with stopped := st.getLsbD 3 })
    exec (.memoryStackTempSample n diode readout) s = s.nextMain ((m4.variant.homes n.val).foldl (fun m d =>
      (m.updDp d (fun x => { x with parkMem := if m.homeStage d 3 then 0xFF else 0 })).reparked d) m4)) ∧
  (∀ (s : State) (n : Fin 10), (s.main.hbmAt n.val).stages.getLsbD 2 = true →
    exec (.memoryThermalStepDown n) s = s.nextMain ((s.main.variant.homes n.val).foldl (fun m d => m.updDp d (fun x =>
      let top := if x.ceilMem < x.point then x.ceilMem else x.point
      if !(m.fixedPace d) && top != 0 then { x with ceilMem := top - 1 }
      else { x with fireMem := if x.fireMem > 1 then x.fireMem - 1 else x.fireMem })) s.main)) ∧
  (∀ (s : State) (d : Fin 4), s.main.homeStage d.val 2 = false →
    exec (.memoryThermalStepUp d) s = s.nextMain (s.main.updDp d.val (fun x =>
      if x.fireMem < 16 then { x with fireMem := x.fireMem + 1 }
      else { x with ceilMem := if x.ceilMem < 6 then x.ceilMem + 1 else x.ceilMem })))

/-- A weight layer is set, removed and reported, and the version mode is set, answering status 0. A served SET_WEIGHT_LAYER for a job none of whose dies runs sets the record it describes: 1 to 4,096 blocks each way, at most 2^32 elements, T_w a power of two of the range, its copies 4 KiB-aligned in the stack's weight region and both copies clear of every copy of every other layer, its masks readable outside the regions; it answers the bytes of a copy pair and the layers registered. Zero block counts remove the layer. The version mode is set while no layer is registered. The status answers state, version, holders, panels landed, panels, and the step of the last commit. -/
def Obligations.WeightLayerCommandsComplete : Prop :=
  (∀ (s : State) (h : Hdr) (p : Payload) (j : Job),
    s.main.serves 0x0340 h p [(0, 32)] (owned := s.main.ownsJob h.src (bvAt p 0 4)) (high := (bvAt p 7 1 < 8)) = true →
    let x := s.main.taken h.src
    let jid := bvAt p 0 4
    let l := bvAt p 4 2
    let n := bvAt p 6 1
    let y : Layer := { stack := n, a := bvAt p 8 8, kb := bvAt p 16 2, nb := bvAt p 18 2, tw := p.extractLsb' 160 32, axisK := p.getLsbD 56, rowMask := p.getLsbD 57, blockMask := p.getLsbD 58, mask := p.extractLsb' 192 56 }
    x.job? (bvAt p 0 4) = some j →
    (l ≤ 4095 ∧ n < x.variant.stacks) →
    x.owns h.src (x.variant.stackPart n) = true →
    x.jobRuns j = false →
    (1 ≤ y.kb ∧ 1 ≤ y.nb ∧ y.kb ≤ 4096 ∧ y.nb ≤ 4096 ∧ y.kb * y.nb * 4096 ≤ 2 ^ 32) →
    ((j.layers.find l).isNone = true → j.layers.length < 4096) →
    twOk y.tw.toNat = true →
    (y.a % 4096 = 0 ∧ (y.blockBytes + y.rowBytes = 0 ∨ (bvAt p 24 8 % 64 = 0 ∧ bvAt p 24 8 < 2 ^ 41 ∧
      x.mapped (x.stackPartOf n) (bvAt p 24 8) (y.blockBytes + y.rowBytes) = true ∧ x.inRegion (bvAt p 24 8) (y.blockBytes + y.rowBytes) = false))) →
    y.a + 2 * y.size ≤ (if j.single then (((x.hbmAt n).region.find 4).getD (0, 0)).2 else (((x.hbmAt n).region.find 4).getD (0, 0)).2 / 2) →
    (∀ e ∈ x.jobs, ∀ z ∈ e.2.layers, ¬ (e.1 = jid ∧ z.1 = l) → x.recordsMeet j.single y e.2.single z.2 = false) →
    exec (.setWeightLayer h p) s = s.nextMain (s.main.done 0x0340 h (x.updJob jid (fun j => { j with layers := j.layers.put l y })) [(8, 8, 2 * y.size), (16, 2, (j.layers.put l y).length)])) ∧
  (∀ (s : State) (h : Hdr) (p : Payload) (j : Job),
    s.main.serves 0x0340 h p [(0, 32)] (owned := s.main.ownsJob h.src (bvAt p 0 4)) (high := (bvAt p 7 1 < 8)) = true →
    let x := s.main.taken h.src
    x.job? (bvAt p 0 4) = some j →
    bvAt p 4 2 ≤ 4095 →
    (bvAt p 6 1 < x.variant.stacks → x.owns h.src (x.variant.stackPart (bvAt p 6 1)) = true) →
    x.jobRuns j = false →
    (bvAt p 16 2 = 0 ∧ bvAt p 18 2 = 0) →
    exec (.setWeightLayer h p) s = s.nextMain (s.main.done 0x0340 h (x.updJob (bvAt p 0 4) (fun j => { j with layers := j.layers.del (bvAt p 4 2) })) [(16, 2, (j.layers.del (bvAt p 4 2)).length)])) ∧
  (∀ (s : State) (h : Hdr) (p : Payload) (j : Job),
    s.main.serves 0x0341 h p [(0, 5)] (owned := s.main.ownsJob h.src (bvAt p 0 4)) = true →
    let x := s.main.taken h.src
    x.job? (bvAt p 0 4) = some j →
    bvAt p 4 1 ≤ 1 →
    x.jobRuns j = false →
    j.layers = [] →
    exec (.setVersionMode h p) s = s.nextMain (s.main.done 0x0341 h (x.setJob (bvAt p 0 4) { j with single := p.getLsbD 32 }) [])) ∧
  (∀ (s : State) (h : Hdr) (p : Payload) (j : Job) (y : Layer),
    s.main.serves 0x0342 h p [(0, 6)] (reads := true) (owned := s.main.ownsJob h.src (bvAt p 0 4)) = true →
    let x := s.main.taken h.src
    x.job? (bvAt p 0 4) = some j →
    j.layers.find (bvAt p 4 2) = some y →
    exec (.weightLayerStatus h p) s = s.nextMain (s.main.done 0x0342 h (x) [(0, 1, y.st.num), (1, 1, j.version.toNat), (2, 2, j.holdersOf (bvAt p 4 2) false),
      (4, 2, j.holdersOf (bvAt p 4 2) true), (8, 4, y.landed.length), (12, 4, y.panels), (16, 4, y.lastCommit.toNat)]))

/-- The commands that place, move, load, save and audit parameter state apply and answer status 0. For a served command of a job with no step open (the audit and the status at any time) on entries its requester owns, inside the PRT region: a valid 512-byte profile that can be read is set; a discipline is set with its count while the job owns no block, within the rules of R237; blocks are assigned, every entry free and every panel unowned, their strides and slow-tier records in place, or unassigned; state moves to its new placement with event 0x2205; images load with event 0x2206, and save; the audit answers blocks and mismatches, logging the first as 0x2203; working weights load into panels no entry owns; the status answers its counts. Reads of profiles, entries, slots and images stand in the hypotheses as they answer. -/
def Obligations.StatePlacementCommandsComplete : Prop :=
  (∀ (s : State) (h : Hdr) (p : Payload) (j : Job) (m1 : Main) (r : List Byte),
    s.main.serves 0x0350 h p [(0, 5), (8, 8)] (owned := s.main.ownsJob h.src (bvAt p 0 4)) = true →
    let x := s.main.taken h.src
    let part := x.diePartOf ((diesOf j.dies).headD 0)
    x.job? (bvAt p 0 4) = some j →
    j.stepOpen = false →
    bvAt p 4 1 ≤ 63 →
    (bvAt p 8 8 % 64 = 0) →
    ((∃ a b, x.rngFor part (bvAt p 8 8) = .hbm a b) ∨ ∃ a, x.rngFor part (bvAt p 8 8) = .host a) →
    x.mapped part (bvAt p 8 8) 512 = true →
    x.daGet part (bvAt p 8 8) 512 = (m1, some r) →
    profOk r = true →
    (natAt r 2 1 = 3 → j.disc = .stepEnd) →
    exec (.setOptimiserProfile h p) s = s.nextMain (s.main.done 0x0350 h ((m1.updJob (bvAt p 0 4) (fun j => { j with prof := j.prof.put (bvAt p 4 1) r })).onceOver (bvAt p 0 4)) [])) ∧
  (∀ (s : State) (h : Hdr) (p : Payload) (j : Job),
    s.main.serves 0x0351 h p [(0, 5), (8, 4)] (owned := s.main.ownsJob h.src (bvAt p 0 4)) = true →
    let x := s.main.taken h.src
    x.job? (bvAt p 0 4) = some j →
    j.stepOpen = false →
    bvAt p 4 1 ≤ 2 →
    (Discipline.of (bvAt p 4 1) = j.disc ∨ x.ownedBlocks (bvAt p 0 4) = 0) →
    (Discipline.of (bvAt p 4 1) = .eagerInPlace → j.guard = 0) →
    (Discipline.of (bvAt p 4 1) ≠ .stepEnd → ∀ r ∈ j.prof, natAt r.2 2 1 ≠ 3) →
    exec (.setUpdateDiscipline h p) s = s.nextMain (s.main.done 0x0351 h (let m1 := x.setJob (bvAt p 0 4) { j with disc := Discipline.of (bvAt p 4 1), count := p.extractLsb' 64 32 }
      ({ m1 with assigned := m1.assigned.upd (bvAt p 0 4) (fun a => { a with disc := Discipline.of (bvAt p 4 1) }) } : Main).onceOver (bvAt p 0 4)) [])) ∧
  (∀ (s : State) (h : Hdr) (p : Payload) (j : Job) (y : Layer),
    s.main.serves 0x0352 h p [(0, 22), (24, 4)] (owned := s.main.ownsJob h.src (bvAt p 0 4)) = true →
    let x := s.main.taken h.src
    let jid := bvAt p 0 4
    let l := bvAt p 4 2
    let n := bvAt p 6 1
    let place := bvAt p 7 1 % 4
    let prof := bvAt p 7 1 / 4
    let p0 := bvAt p 8 4
    let c := bvAt p 12 4
    let i := bvAt p 16 4
    let rank := bvAt p 20 2
    let stoff := bvAt p 24 4
    let r := j.disc.rec_
    let m1 := (List.range c).foldl (fun m k => m.putPrt jid n (i + k) (Prt.assign place prof l (p0 + k) rank (if place = 0 then 0 else stoff + k * (recBytes r place / 0x4000)))) x
    let m2 : Main := if c = 0 then m1 else { m1 with assigned := m1.assigned.upd jid (fun a => { disc := j.disc, runs := a.runs ++ [{ layer := l, panel := p0, count := c, stack := n, entry := i }] }) }
    x.job? (bvAt p 0 4) = some j →
    j.stepOpen = false →
    (x.ownsStack h n = true ∧ x.entriesIn n i c = true ∧ place < 3) →
    j.layers.find l = some y →
    p0 + c ≤ y.panels →
    rank < j.ranks →
    (j.prof.find prof ≠ none) →
    (∀ q ∈ x.runsOf jid, q.layer = l → Prt.prof (bvOf 256 (x.mem.hbm.read (x.prtDa q.stack q.entry) 32)) = prof) →
    (∀ k < c, x.entryJob n (i + k) = none ∧ x.entryOf jid l (p0 + k) = none) →
    (x.stridesIn r n (i + c) place = true ∧ runCount x.assigned < 65536) →
    x.slowFree r place n i c stoff = true →
    exec (.assignBlocks h p) s = s.nextMain (s.main.done 0x0352 h (m2.onceOver jid) [(4, 4, m2.validIn n)])) ∧
  (∀ (s : State) (h : Hdr) (p : Payload) (j : Job),
    s.main.serves 0x0352 h p [(0, 22), (24, 4)] (owned := s.main.ownsJob h.src (bvAt p 0 4)) = true →
    let x := s.main.taken h.src
    let n := bvAt p 6 1
    let c := bvAt p 12 4
    let i := bvAt p 16 4
    let t := x.assigned.upd (bvAt p 0 4) (fun a => { a with runs := (a.runs.map (cutPanels n i c)).flatten })
    let m1 := (List.range c).foldl (fun m k => m.putPrt (bvAt p 0 4) n (i + k) 0) x
    let m2 : Main := { m1 with assigned := t }
    x.job? (bvAt p 0 4) = some j →
    j.stepOpen = false →
    (x.ownsStack h n = true ∧ x.entriesIn n i c = true ∧ bvAt p 7 1 % 4 = 3) →
    x.assignedAll (bvAt p 0 4) n i c = true →
    runCount t ≤ 65536 →
    exec (.assignBlocks h p) s = s.nextMain (s.main.done 0x0352 h (m2.onceOver (bvAt p 0 4)) [(4, 4, m2.validIn n)])) ∧
  (∀ (s : State) (h : Hdr) (p : Payload) (j : Job) (m1 : Main) (bs : List (Nat × Prt × List Byte × List Byte)),
    s.main.serves 0x0353 h p [(0, 6), (8, 12)] (owned := s.main.ownsJob h.src (bvAt p 0 4)) = true →
    let x := s.main.taken h.src
    let n := bvAt p 4 1
    let i := bvAt p 8 4
    let c := bvAt p 12 4
    x.job? (bvAt p 0 4) = some j →
    j.stepOpen = false →
    (x.ownsStack h n = true ∧ x.entriesIn n i c = true ∧ x.assignedAll (bvAt p 0 4) n i c = true) →
    (bvAt p 5 1 ≤ 2) →
    x.stridesIn j.disc.rec_ n (i + c) (bvAt p 5 1) = true →
    x.slowFree j.disc.rec_ (bvAt p 5 1) n i c (bvAt p 16 4) = true →
    x.slotsAll (bvAt p 0 4) j.disc.rec_ n ((List.range c).map (i + ·)) = (m1, some bs) →
    exec (.moveBlockState h p) s = s.nextMain (s.main.done 0x0353 h (((bs.foldl (fun m b => m.moveBlock (bvAt p 0 4) j.disc.rec_ n (bvAt p 5 1) (bvAt p 16 4) i b)
      (bs.foldl (fun m b => m.leaveOld j.disc.rec_ n (bvAt p 5 1) (bvAt p 16 4) i b) m1)).log!
      { code := 0x2205, cls := .rec_, stack := some n, par := p4 (bvAt p 0 4) ++ p4 c }).onceOver (bvAt p 0 4)) [(4, 4, c)])) ∧
  (∀ (s : State) (h : Hdr) (p : Payload) (j : Job) (m1 : Main) (b : List Byte),
    s.main.serves 0x0354 h p [(0, 5), (8, 16)] (owned := s.main.ownsJob h.src (bvAt p 0 4)) = true →
    let x := s.main.taken h.src
    let n := bvAt p 4 1
    let i := bvAt p 8 4
    let c := bvAt p 12 4
    x.job? (bvAt p 0 4) = some j →
    j.stepOpen = false →
    (x.ownsStack h n = true ∧ x.entriesIn n i c = true ∧ x.assignedAll (bvAt p 0 4) n i c = true) →
    x.layersKnown j n i c = true →
    x.daGet (x.stackPartOf n) (bvAt p 16 8) (0x8000 * c) = (m1, some b) →
    exec (.loadBlockState h p) s = s.nextMain (s.main.done 0x0354 h ((((List.range c).foldl (fun m k => m.loadBlock (bvAt p 0 4) n (i + k) j ((b.drop (0x8000 * k)).take 0x8000)) m1).log!
      { code := 0x2206, cls := .rec_, stack := some n, par := p4 (bvAt p 0 4) ++ p4 c }).onceOver (bvAt p 0 4)) [(4, 4, c)])) ∧
  (∀ (s : State) (h : Hdr) (p : Payload) (j : Job) (m1 m2 : Main) (bs : List (Nat × Prt × List Byte × List Byte)),
    s.main.serves 0x0355 h p [(0, 5), (8, 16)] (owned := s.main.ownsJob h.src (bvAt p 0 4)) = true →
    let x := s.main.taken h.src
    let n := bvAt p 4 1
    let i := bvAt p 8 4
    let c := bvAt p 12 4
    x.job? (bvAt p 0 4) = some j →
    j.stepOpen = false →
    (x.ownsStack h n = true ∧ x.entriesIn n i c = true ∧ x.assignedAll (bvAt p 0 4) n i c = true) →
    x.mapped (x.stackPartOf n) (bvAt p 16 8) (0x8000 * c) = true →
    x.slotsAll (bvAt p 0 4) j.disc.rec_ n ((List.range c).map (i + ·)) = (m1, some bs) →
    m1.basePut (bvAt p 0 4) (m1.stackPartOf n) (bvAt p 16 8) ((bs.map (fun b => b.2.2.1 ++ b.2.2.2.take 0x2000 ++
      (if natAt ((j.prof.find b.2.1.prof).getD []) 0 1 = 0 then b.2.2.2.drop 0x2000 else List.replicate 0x2000 0))).flatten) = (m2, true) →
    exec (.saveBlockState h p) s = s.nextMain (s.main.done 0x0355 h (m2.onceOver (bvAt p 0 4)) [(4, 4, c)])) ∧
  (∀ (s : State) (h : Hdr) (p : Payload) (j : Job) (m1 : Main) (a k : Nat),
    s.main.serves 0x0356 h p [(0, 5), (8, 8)] (owned := s.main.ownsJob h.src (bvAt p 0 4)) = true →
    let x := s.main.taken h.src
    let n := bvAt p 4 1
    let i := bvAt p 8 4
    let c := bvAt p 12 4
    x.job? (bvAt p 0 4) = some j →
    (x.ownsStack h n = true ∧ x.entriesIn n i c = true ∧ x.assignedAll (bvAt p 0 4) n i c = true) →
    (x.auditAll (bvAt p 0 4) n j ((List.range c).map (i + ·)) = (m1, a, k, none) →
      exec (.driftAudit h p) s = s.nextMain (s.main.done 0x0356 h (m1.onceOver (bvAt p 0 4)) [(4, 4, a)])) ∧
    (∀ e t o, x.auditAll (bvAt p 0 4) n j ((List.range c).map (i + ·)) = (m1, a, k, some (e, t, o)) →
      exec (.driftAudit h p) s = s.nextMain (s.main.done 0x0356 h ((m1.log!
        { code := 0x2203, cls := .flt, stack := some n, step := m1.jobStep (bvAt p 0 4),
          par := p4 (bvAt p 0 4) ++ p4 k ++ p4 e ++ p2 t ++ p1 o }).onceOver (bvAt p 0 4))
        [(4, 4, a), (8, 4, k), (12, 4, e), (16, 2, t), (18, 1, o)]))) ∧
  (∀ (s : State) (h : Hdr) (p : Payload) (j : Job) (y : Layer) (m1 : Main) (b : List Byte),
    s.main.serves 0x0357 h p [(0, 6), (8, 16)] (owned := s.main.ownsJob h.src (bvAt p 0 4)) = true →
    let x := s.main.taken h.src
    let l := bvAt p 4 2
    let p0 := bvAt p 8 4
    let c := bvAt p 12 4
    let ks := (List.range c).filter (fun k => (m1.entryOf (bvAt p 0 4) l (p0 + k)).isNone)
    x.job? (bvAt p 0 4) = some j →
    j.stepOpen = false →
    j.layers.find l = some y →
    x.ownsStack h y.stack = true →
    (p0 + c ≤ y.panels ∧ y.st = .landing) →
    x.daGet (x.stackPartOf y.stack) (bvAt p 16 8) (4096 * c) = (m1, some b) →
    exec (.loadWorkingWeights h p) s = s.nextMain (s.main.done 0x0357 h ((ks.foldl (fun m k => (m.writePanel (bvAt p 0 4) j.single y j.version (p0 + k) ((b.drop (4096 * k)).take 4096)).updJob (bvAt p 0 4)
      (fun j => j.updLayer l (·.land (p0 + k)))) m1).onceOver (bvAt p 0 4)) [(4, 4, ks.length)])) ∧
  (∀ (s : State) (h : Hdr) (p : Payload) (j : Job),
    s.main.serves 0x0358 h p [(0, 5)] (reads := true) (owned := s.main.ownsJob h.src (bvAt p 0 4)) = true →
    let x := s.main.taken h.src
    let k := x.pendCount (bvAt p 0 4) (bvAt p 4 1)
    x.job? (bvAt p 0 4) = some j →
    bvAt p 4 1 < x.variant.stacks →
    x.ownsStack h (bvAt p 4 1) = true →
    exec (.burnisherStatus h p) s = s.nextMain (s.main.done 0x0358 h (k.1.onceOver (bvAt p 0 4)) [(1, 1, j.disc.num), (4, 4, j.count.toNat), (8, 4, j.lastStep.toNat), (12, 1, j.lastVerdict.toNat),
      (16, 4, if j.stepOpen then j.appliedIn.get (bvAt p 4 1) else 0), (20, 4, k.2), (24, 2, (k.1.burnAt (bvAt p 4 1)).fetch.length),
      (26, 2, (k.1.burnAt (bvAt p 4 1)).waitVer.length), (28, 4, ((k.1.entriesOf (bvAt p 0 4)).filter (fun e => e.1 = bvAt p 4 1)).length)]))

/-- A reduced block lands, a pending block applies, and a slow-tier fetch returns or times out at its Burnisher. A reduced block of an Updating layer of an open step, for an assigned, loaded and not yet pending entry, is written to the pending store under its group exponent, its entry marked pending for the step, the non-finite and magnitude checks tripped where they hold, and the block joins the wait and, off the stack, the fetch queue. A ready block whose version is free and whose elders all wait applies: its live slots and pending gradient are read, the update of its profile computed, and slots, working copies and entry written; blocks held back by a full queue then land. A fetch that port B carries and that returns makes a waiting block fetched; poison, a failed port or the time-out fails the block with event 0x2202. Reads of entries and slots stand in the hypotheses as they answer. -/
def Obligations.BurnisherEventsComplete : Prop :=
  (∀ (s : State) (jj : U32) (l : U16) (panel : BitVec 20) (gs : List U32) (j : Job) (x : Layer) (n i : Nat) (m1 : Main) (e : Prt),
    s.main.job? jj.toNat = some j → j.layers.find l.toNat = some x → j.stepOpen = true → x.st = .updating → panel.toNat < x.panels → gs ≠ [] →
    s.main.entryOf jj.toNat l.toNat panel.toNat = some (n, i) → s.main.getPrt jj.toNat n i = (m1, some e) → e.loaded = true →
    ¬ (e.pend = true ∧ e.wstep = j.step.toNat) →
    let d := pendEncode j.seed j.step l.toNat x panel.toNat gs
    let f := (((e.set 8 8 ((d.1 + 256).toNat)).set 5 1 1).set 7 1 d.2.2.toNat).set 32 32 j.step.toNat
    let m2 := (m1.engWrite n jj.toNat (m1.pendDa n i) d.2.1).putPrt jj.toNat n i f
    let m3 := if d.2.2 then m2.guard jj.toNat 0 else m2
    let m4 := if d.1 + 14 ≥ j.gG then m3.guard jj.toNat 3 else m3
    exec (.blockLanding jj l panel gs) s = s.nextMain ((m4.updBurn n (fun b =>
      { b with wait := b.wait ++ [i], toFetch := if f.place = 0 then b.toFetch else b.toFetch ++ [i] })).issueFetch n)) ∧
  (∀ (s : State) (n : Fin 10) (ii : BitVec 24) (jid : Nat) (j : Job) (x : Layer) (m1 m2 m3 m4 m5 : Main) (e : Prt) (w mom b : List Byte),
    let i := ii.toNat
    let r := j.disc.rec_
    s.main.entryJob n.val i = some jid → s.main.job? jid = some j → s.main.getPrt jid n.val i = (m1, some e) →
    m1.blockReady jid n.val i e = true → j.layers.find e.layer = some x → j.versionFree e.layer = true →
    m1.firstReady n.val i = (m2, true) → m2.engRead n.val (m2.masterDa r n.val i e e.live) 0x4000 = (m3, some w) →
    m3.engRead n.val (m3.momentDa r n.val i e e.live) 0x4000 = (m4, some mom) → m4.engRead n.val (m4.pendDa n.val i) 0x2000 = (m5, some b) →
    let q := Prof.of ((j.profOpen.find e.prof).getD [])
    let zero : Bool := j.disc = .eagerInPlace
    let u := blockUpdate (UpdEnv.of q j.countOpen.toNat ((j.clipOf x q).getD 0)) j.gD zero (x.trained e.panel) e.gexp b (f32s w 0 4096) mom
    let k := if zero then ((List.range 4096).filter (fun t => x.trained e.panel t && !finite32 (gdec e.gexp b t))).length else 0
    exec (.blockApply n ii) s = s.nextMain (((m5.countReplaced jid n.val k).writeBlock jid n.val i j x e u).landWaiting)) ∧
  (∀ (s : State) (n : Fin 10) (ii : BitVec 24) (jid : Nat),
    let i := ii.toNat
    s.main.entryJob n.val i = some jid → (∃ f ∈ (s.main.burnAt n.val).fetch, f.1 = i) → i ∉ (s.main.burnAt n.val).stale →
    (s.main.slowLive (.burn n.val i) = true → s.main.bServes (s.main.stackPartOf n.val) = true → s.main.fetchPoison jid n.val i = false →
      exec (.slowTierFetchReturn n ii false) s = s.nextMain (((s.main.endFetch jid n.val i).updBurn n.val (fun b =>
        { b with fetched := if b.wait.contains i then b.fetched ++ [i] else b.fetched })).slowAdmit)) ∧
    (s.main.slowLive (.burn n.val i) = true →
      exec (.slowTierFetchReturn n ii true) s = s.nextMain (((s.main.endFetch jid n.val i).blockFails jid n.val i 0x2202).slowAdmit)) ∧
    exec (.slowTierFetchTimeout n ii) s = s.nextMain (((s.main.endFetch jid n.val i).blockFails jid n.val i 0x2202).slowAdmit))

/-- The training numerics are set for a job and a layer, saved, loaded and reported, answering status 0. A served SET_JOB_NUMERICS with no step open sets the guard enables (none under eager in place), the thresholds and the carry area, which lies in owned stacks, aligned, clear of other areas and large enough for every layer. SET_LAYER_NUMERICS sets the class, margin, grades, ceiling, promotion, sampling, threshold and carry offset of a registered layer. The state image is written and its length answered; a valid image is loaded, with its histories and grades, and event 0x9103. The status answers the watched tensors, those on just-in-time scaling, the layers above grade 0, and the last verdict word and step. A threshold of plus infinity is above 0 and is taken. -/
def Obligations.NumericsCommandsComplete : Prop :=
  (∀ (s : State) (h : Hdr) (p : Payload) (j : Job),
    s.main.serves 0x0230 h p [(0, 28)] (owned := s.main.ownsJob h.src (bvAt p 0 4)) (high := (bvAt p 4 4 < 64)) = true →
    let x := s.main.taken h.src
    let da := bvAt p 8 8
    let sz := bvAt p 16 8
    let n := 2 * sz * (x.localRanks j).2
    x.job? (bvAt p 0 4) = some j →
    j.stepOpen = false →
    (p.extractLsb' 32 6 = (0 : BitVec 6) ∨ j.disc ≠ .eagerInPlace) →
    (bvAt p 25 1 ≤ 64 ∧ bvAt p 27 1 ≤ 32 ∧ sz % 0x200000 = 0) →
    (sz ≠ 0 → x.ownsRun h da n = true ∧ da % 0x200000 = 0 ∧ da + n ≤ 2 ^ 41 ∧ x.mapped (x.diePartOf ((diesOf j.dies).headD 0)) da n = true ∧
      (x.setJob (bvAt p 0 4) { j with carry := none }).freeRun none da n = true ∧ ∀ l ∈ j.layers, l.2.carry + l.2.carryBytes ≤ sz) →
    exec (.setJobNumerics h p) s = s.nextMain (s.main.done 0x0230 h (x.setJob (bvAt p 0 4) { j with guard := p.extractLsb' 32 6, carry := if sz = 0 then none else some (BitVec.ofNat 56 da, sz), gG := (p.extractLsb' 192 8).toInt, gA := bvAt p 25 1, gD := (p.extractLsb' 208 8).toInt, gS := bvAt p 27 1 }) [])) ∧
  (∀ (s : State) (h : Hdr) (p : Payload) (j : Job) (y : Layer),
    s.main.serves 0x0231 h p [(0, 24)] (owned := s.main.ownsJob h.src (bvAt p 0 4)) (high := (bvAt p 10 1 < 4)) = true →
    let x := s.main.taken h.src
    x.job? (bvAt p 0 4) = some j →
    j.stepOpen = false →
    j.layers.find (bvAt p 4 2) = some y →
    (bvAt p 6 1 ≤ 1 ∧ bvAt p 7 1 ≤ 7 ∧ 1 ≤ bvAt p 8 1 ∧ bvAt p 8 1 ≤ 3 ∧ bvAt p 9 1 < bvAt p 8 1 ∧ bvAt p 11 1 ≤ 16) →
    (isNan32 (p.extractLsb' 96 32) = false ∧ flt 0 (p.extractLsb' 96 32) = true) →
    bvAt p 16 8 % 64 = 0 →
    (∀ a, j.carry = some a → bvAt p 16 8 + y.carryBytes ≤ a.2) →
    exec (.setLayerNumerics h p) s = s.nextMain (s.main.done 0x0231 h (x.updJob (bvAt p 0 4) (fun j => j.updLayer (bvAt p 4 2) (fun y => { y with cls := bvByte p 6, margin := bvByte p 7, grades := bvByte p 8, ceil := bvByte p 9, promote := p.getLsbD 80, sample := p.getLsbD 81, kexp := bvByte p 11, theta := p.extractLsb' 96 32, carry := bvAt p 16 8 }))) [])) ∧
  (∀ (s : State) (h : Hdr) (p : Payload) (j : Job) (m1 : Main),
    s.main.serves 0x0232 h p [(0, 4), (8, 8)] (owned := s.main.ownsJob h.src (bvAt p 0 4)) = true →
    let x := s.main.taken h.src
    x.job? (bvAt p 0 4) = some j →
    j.stepOpen = false →
    bvAt p 8 8 % 64 = 0 →
    x.daPut (x.diePartOf ((diesOf j.dies).headD 0)) (bvAt p 8 8) j.numImage = (m1, true) →
    exec (.saveNumericsState h p) s = s.nextMain (s.main.done 0x0232 h (m1) [(4, 4, j.numImage.length)])) ∧
  (∀ (s : State) (h : Hdr) (p : Payload) (j : Job) (m1 m2 : Main) (hd b : List Byte),
    s.main.serves 0x0233 h p [(0, 4), (8, 8)] (owned := s.main.ownsJob h.src (bvAt p 0 4)) = true →
    let x := s.main.taken h.src
    let part := x.diePartOf ((diesOf j.dies).headD 0)
    let n := natAt hd 4 4
    x.job? (bvAt p 0 4) = some j →
    j.stepOpen = false →
    bvAt p 8 8 % 64 = 0 →
    x.daGet part (bvAt p 8 8) 64 = (m1, some hd) →
    (natAt hd 0 4 = 0x4D554E56 ∧ n ≤ 4096 ∧ zeroAt hd 16 48 = true) →
    m1.daGet part (bvAt p 8 8 + 64) (80 * n + 4096) = (m2, some b) →
    ((crc32c b).toNat = natAt hd 12 4 ∧ ((List.range n).map (fun k => bytesAt b (80 * k) 80)).all recordOk = true) →
    exec (.loadNumericsState h p) s = s.nextMain (s.main.done 0x0233 h ((m2.setJob (bvAt p 0 4) { j with watched := ((List.range n).map (fun k => bytesAt b (80 * k) 80)).map j.loadRecord, layers := j.layers.map (fun l => (l.1, { l.2 with grade := b.getD (80 * n + l.1) 0 })) }).log!
      { code := 0x9103, cls := .rec_, par := p4 (bvAt p 0 4) }) [(4, 4, n)])) ∧
  (∀ (s : State) (h : Hdr) (p : Payload) (j : Job),
    s.main.serves 0x0234 h p [(0, 4)] (reads := true) (owned := s.main.ownsJob h.src (bvAt p 0 4)) = true →
    let x := s.main.taken h.src
    x.job? (bvAt p 0 4) = some j →
    exec (.numericsStatus h p) s = s.nextMain (s.main.done 0x0234 h (x) [(4, 2, j.watched.length), (6, 2, j.jitCount), (8, 2, (j.layers.filter (fun l => l.2.grade != 0)).length),
      (12, 8, j.lastWord.toNat), (20, 4, j.lastStep.toNat)]))

/-- Port status, port control, arbitration weights, a port's bring-up and its step time-out complete. A served port status draws the FEC counts of the last second (free values, log 81) and answers state, lanes, neighbour, replays and counts. Port control takes down or brings up the ports of its mask. Weights of 1 to 15 are set. A bring-up counts the failing lanes, runs on all lanes or one whole half (event 0x5107 for a half), and with none, or with the port now retired, it is down at step 1; a neighbour of another part, a module or port other than the role names, or a failed authentication leaves the port down with 0x5103, 0x5104 or 0x7502; otherwise the link starts with fresh numbers, buffers, keys and 512 credits a channel, keeps what it held, and is up. A step that times out leaves the port down with its number. -/
def Obligations.PortCommandsComplete : Prop :=
  (∀ (s : State) (h : Hdr) (p : Payload),
    s.main.serves 0x0801 h p [(0, 1)] (reads := true) = true →
    let x := s.main.taken h.src
    let y := x.draw.updPort (bvAt p 0 1) (fun k => { k with nCorr := (Config.random x.draws).extractLsb' 0 32, nUncorr := (Config.random x.draws).extractLsb' 32 32 })
    let k := y.portAt (bvAt p 0 1)
    bvAt p 0 1 < x.variant.ports →
    exec (.portStatus h p) s = s.nextMain (s.main.done 0x0801 h (y) [(0, 1, k.st.num), (1, 1, lanesUp k.lanes), (2, 2, k.node.toNat), (4, 1, k.nport.toNat),
      (8, 4, (recent y.us 1000000 k.replays).length), (12, 4, k.nCorr.toNat), (16, 4, k.nUncorr.toNat)])) ∧
  (∀ (s : State) (h : Hdr) (p : Payload),
    s.main.serves 0x0802 h p [(0, 3)] = true →
    let x := s.main.taken h.src
    bvAt p 2 1 ≤ 1 →
    (p.extractLsb' 0 16).toNat < 2 ^ x.variant.ports →
    exec (.portControl h p) s = s.nextMain (s.main.done 0x0802 h (((List.range x.variant.ports).filter (p.extractLsb' 0 16).getLsbD).foldl (fun m i => if bvAt p 2 1 = 0 then m.portDown i 0 false else m.portUp i) x) [])) ∧
  (∀ (s : State) (h : Hdr) (p : Payload),
    s.main.serves 0x0803 h p [(0, 3)] = true →
    let x := s.main.taken h.src
    (∀ i < 3, 1 ≤ bvAt p i 1 ∧ bvAt p i 1 ≤ 15) →
    exec (.arbitrationWeights h p) s = s.nextMain (s.main.done 0x0803 h ({ x with fab := { x.fab with weight := (BitVec.ofNat 4 (bvAt p 0 1), BitVec.ofNat 4 (bvAt p 1 1), BitVec.ofNat 4 (bvAt p 2 1)) } }) [])) ∧
  (∀ (s : State) (q : Fin 9) (r : BringUp),
    let m0 := s.main.countLanes q.val (r.lanes &&& ~~~(s.main.portAt q.val).laneRet)
    let l := laneSet (r.lanes &&& ~~~(s.main.portAt q.val).laneRet)
    let m1 := m0.updPort q.val (fun k => { k with lanes := l })
    let m2 := if l = 0xFF then m1 else m1.log! { code := 0x5107, cls := .rec_, par := p1 q.val }
    q.val < s.main.variant.ports → (s.main.portAt q.val).st = .training → (s.main.portAt q.val).retired = false →
    ((m0.portAt q.val).retired = true ∨ l = 0 → exec (.portBringUp q r) s = s.nextMain (m0.portDown q.val 1)) ∧
    ((m0.portAt q.val).retired = false → l ≠ 0 →
      (r.part.toNat ≠ m2.variant.code → exec (.portBringUp q r) s = s.nextMain (m2.portStays q.val 0x5103)) ∧
      (r.part.toNat = m2.variant.code → m2.roleOk q.val r = false → exec (.portBringUp q r) s = s.nextMain (m2.portStays q.val 0x5104)) ∧
      (r.part.toNat = m2.variant.code → m2.roleOk q.val r = true → r.auth = false →
        exec (.portBringUp q r) s = s.nextMain (m2.portStays q.val 0x7502)) ∧
      (r.part.toNat = m2.variant.code → m2.roleOk q.val r = true → r.auth = true →
        exec (.portBringUp q r) s = s.nextMain ((m2.draw.updPort q.val (fun k => k.fresh r (m2.draws + 1))).portReady q.val)))) ∧
  (∀ (s : State) (q : Fin 9) (b : Fin 6), (s.main.portAt q.val).st = .training → b.val < 5 →
    exec (.portBringUpStepTimeout q b) s = s.nextMain (s.main.portDown q.val (b.val + 1)))

/-- Flits, replays, link failures, peer responses, packets and link keys complete on a running port. A flit whose CRC fails starts dropping and asks for a replay. The flit next in sequence takes its acknowledgement, moves the receive number on, returns its credits up to 512, and hands its body on; waiting packets go out as they may, and an idle flit carries what is still owed. A replay time-out replays unacknowledged flits; the failure of an active link is logged and hands its packets to its standby, or takes the port down and re-routes them. A peer response reaches the slot of its request and ends it with its last line or with an error. A packet whose tag holds under the key of its phase is counted and consumed by its node or passed on; one whose tag fails is a tag failure. A re-key takes the next generation with the other phase and keeps the old key valid until it expires. -/
def Obligations.LinkEventsComplete : Prop :=
  (∀ (s : State) (q : Fin 9) (f : BitVec 2048), (s.main.portAt q.val).runs = true →
    crc32c (bvBytes f 252) ≠ f.extractLsb' 2016 32 →
    exec (.flitReceive q f) s = s.nextMain ((s.main.updPort q.val (fun k => { k with dropping := true, nak := true })).owe q.val (s.main.portAt q.val))) ∧
  (∀ (s : State) (q : Fin 9) (f : BitVec 2048), (s.main.portAt q.val).runs = true →
    crc32c (bvBytes f 252) = f.extractLsb' 2016 32 → f.extractLsb' 0 12 = (s.main.portAt q.val).rxSeq + 1 → f.getLsbD 47 = false →
    let m1 := (s.main.updPort q.val (fun k => k.takeAck (f.extractLsb' 12 12))).updPort q.val (fun k =>
      { k with rxSeq := f.extractLsb' 0 12, dropping := false,
               credit := k.credit.put (f.extractLsb' 37 3).toNat (min 512 (k.credit.get (f.extractLsb' 37 3).toNat + (f.extractLsb' 40 7).toNat)) })
    let m2 := if f.getLsbD 27 = true then m1.bodyIn q.val (f.extractLsb' 24 3).toNat (bytesAt (bvBytes f 252) 6 246)
      (if f.getLsbD 28 then some (f.extractLsb' 29 8).toNat else none) else m1
    exec (.flitReceive q f) s = s.nextMain ((m2.pump q.val).owe q.val (s.main.portAt q.val))) ∧
  (∀ (s : State) (q : Fin 9), (s.main.portAt q.val).runs = true → (s.main.portAt q.val).replay ≠ [] →
    exec (.linkReplayTimeout q) s = s.nextMain (s.main.replayPort q.val)) ∧
  (∀ (s : State) (q : Fin 9), (s.main.portAt q.val).active = true →
    exec (.activeLinkFailure q) s = s.nextMain (s.main.portDown q.val 0)) ∧
  (∀ (m : Main) (q : Nat), (m.portAt q).st ≠ .down → let m1 := m.log! { code := 0x5102, cls := .rec_, par := p1 q ++ p1 0 }
    (m1.portAt q).active = true →
    (∀ b, m1.standbyOf q = some b → m.portDown q 0 = m1.takeOver q b) ∧
    (m1.standbyOf q = none → m.portDown q 0 = (m1.updPort q Port.dead).reroute (m1.portAt q).wait)) ∧
  (∀ (s : State) (tag : U16) (status : Byte) (body : List Byte) (id : BitVec 11) (slot : BitVec 6) (first k : Nat) (r : Req),
    s.main.fab.peer.find? (fun e => e.1 = tag) = some (tag, id, slot, first, k) →
    (s.main.tileAt id.toNat).slots.find slot.toNat = some r →
    let m1 : Main := { s.main with fab := { s.main.fab with peer := s.main.fab.peer.filter (fun e => e.1 != tag) } }
    let r2 := r.peerGot status.toNat first k body
    let m2 := m1.updTile id.toNat (fun t => { t with slots := t.slots.put slot.toNat r2 })
    exec (.peerResponse tag status body) s = s.nextMain (if (r2.bad || r2.served.length ≥ r2.lines) = true then
      (m2.respond id.toNat slot.toNat false).forceGo (id.toNat / 512) else m2)) ∧
  (∀ (s : State) (q : Fin 9) (hb : BitVec 256) (body : List Byte) (tag : BitVec 128) (key : List Byte), (s.main.portAt q.val).runs = true →
    let k := s.main.portAt q.val
    let nonce := fun (key : List Byte) => linkNonce key k.rxPackets
    ((k.genOf (Hd.of hb).phase).map (linkKey k.key false)).filter
      (fun key => Config.gcmTag (key.take 32) (nonce key) (bvBytes hb 32) body = tag) = some key →
    let m1 := s.main.updPort q.val (fun k => { k with rxPackets := k.rxPackets + 1 })
    let plain := gcmXor (key.take 32) (nonce key) body
    exec (.packetReceive q hb body tag) s = s.nextMain (if m1.fab.node.any (fun (n : BitVec 15) => n.toNat = (Hd.of hb).dst)
      then m1.consume (Hd.of hb) plain (some (q.val, (Hd.of hb).vc, 0)) else m1.forward (Hd.of hb) plain (some q.val) 0)) ∧
  (∀ (s : State) (q : Fin 9) (hb : BitVec 256) (body : List Byte) (tag : BitVec 128), (s.main.portAt q.val).runs = true →
    let k := s.main.portAt q.val
    ((k.genOf (Hd.of hb).phase).map (linkKey k.key false)).filter
      (fun key => Config.gcmTag (key.take 32) (linkNonce key k.rxPackets) (bvBytes hb 32) body = tag) = none →
    exec (.packetReceive q hb body tag) s = s.nextMain ((s.main.freeFlits (some (q.val, (Hd.of hb).vc, 0))).tagFails q.val)) ∧
  (∀ (s : State) (q : Fin 9), (s.main.portAt q.val).runs = true →
    exec (.linkRekey q) s = s.nextMain (s.main.updPort q.val (fun k => { k with gen := k.gen + 1, phase := !k.phase, oldKey := true }))) ∧
  (∀ (s : State) (q : Fin 9),
    exec (.oldKeyExpiry q) s = s.nextMain (s.main.updPort q.val (fun k => { k with oldKey := false })))

/-- Collectives issue and take their data; membership, rank map, plan, status, re-issue and the inbound map complete. With fewer than eight open, the next all-gather of the last commit issues, or else a reduction to be issued again, or else the next allowed collective of the open step, at the last its verdict. Data of an open collective is delivered, data of an older epoch is dropped and counted, late data of another step is a mismatch, other data is held while the hold area has room, and else keeps its input buffer (event 0x5404). A panel that a Landing layer lacks is written in both orders. A served membership of the next epoch with a legal torus and table aborts collectives a fallen member took part in, sets the membership, drops held data of older epochs, moves the ports and logs 0x5401. Rank map, plan with its hold area, and inbound map entries are checked and set; the status answers epoch, sequence, open collectives and the last abort (layout: log 84). A re-issue of an aborted reduction, or of a decided verdict, waits for its place. -/
def Obligations.CollectiveCommandsComplete : Prop :=
  (∀ (s : State) (jj : U32) (j : Job), s.main.job? jj.toNat = some j → j.colls.length < 8 →
    (∀ l r, j.gather = l :: r → exec (.collectiveIssue jj) s =
      s.nextMain ((s.main.setJob jj.toNat { j with gather := r }).issueColl jj.toNat .allGather l (j.step - 1) false)) ∧
    (∀ k t r, j.gather = [] → j.redo = (k, t) :: r → exec (.collectiveIssue jj) s =
      s.nextMain ((s.main.setJob jj.toNat { j with redo := r }).issueColl jj.toNat k 0 t (k != .verdict && j.hard) true)) ∧
    (∀ l r, j.gather = [] → j.redo = [] → j.order.drop j.next = (.verdict, l) :: r → j.stepOpen = true → j.due = true → j.voted = false →
      exec (.collectiveIssue jj) s = s.nextMain (s.main.contribute jj.toNat)) ∧
    (∀ k l r, j.gather = [] → j.redo = [] → j.order.drop j.next = (k, l) :: r → j.stepOpen = true → k ≠ .verdict → s.main.mayIssue j k l = true →
      exec (.collectiveIssue jj) s = s.nextMain ((s.main.issueColl jj.toNat k l j.step j.hard).updJob jj.toNat
        (fun x => { x with next := j.next + 1 })))) ∧
  (∀ (s : State) (d : CollData) (j : Job), s.main.job? d.job.toNat = some j → d.tagOk = true →
    ((s.main.coll? d.job.toNat d.seq d.epoch).isSome = true →
      exec (.collectiveDataReceive d) s = s.nextMain (s.main.deliverColl d.job.toNat d)) ∧
    (s.main.coll? d.job.toNat d.seq d.epoch = none → d.epoch < s.main.fab.epoch →
      exec (.collectiveDataReceive d) s = s.nextMain { s.main with fab := { s.main.fab with dropped := s.main.fab.dropped + 1 } }) ∧
    (s.main.coll? d.job.toNat d.seq d.epoch = none → ¬ d.epoch < s.main.fab.epoch → d.epoch = s.main.fab.epoch → d.seq < s.main.fab.seq →
      (∃ t, j.issued.find d.seq.toNat = some t ∧ t ≠ d.step) →
      exec (.collectiveDataReceive d) s = s.nextMain (s.main.stepMismatch d.job.toNat d)) ∧
    (s.main.coll? d.job.toNat d.seq d.epoch = none → ¬ d.epoch < s.main.fab.epoch → ¬ (d.epoch = s.main.fab.epoch ∧ d.seq < s.main.fab.seq) →
      (j.held.map collSize).sum + collSize d ≤ (j.hold.map (·.2)).getD 0 →
      exec (.collectiveDataReceive d) s = s.nextMain (s.main.setJob d.job.toNat { j with held := j.held ++ [d] })) ∧
    (s.main.coll? d.job.toNat d.seq d.epoch = none → ¬ d.epoch < s.main.fab.epoch → ¬ (d.epoch = s.main.fab.epoch ∧ d.seq < s.main.fab.seq) →
      ¬ (j.held.map collSize).sum + collSize d ≤ (j.hold.map (·.2)).getD 0 →
      exec (.collectiveDataReceive d) s = s.nextMain ((s.main.setJob d.job.toNat { j with stuck := j.stuck ++ [(none, d)] }).logOnce
        d.job.toNat 0 { code := 0x5404, cls := .adv, par := p4 d.job.toNat }))) ∧
  (∀ (s : State) (jj : U32) (l : U16) (panel : BitVec 20) (d : List Byte) (j : Job) (x : Layer),
    s.main.job? jj.toNat = some j → j.layers.find l.toNat = some x → x.st = .landing → panel.toNat < x.panels →
    s.main.entryOf jj.toNat l.toNat panel.toNat = none → d.length = 4096 →
    exec (.allGatherPanelReceive jj l panel d) s = s.nextMain (((s.main.writePanel jj.toNat j.single x j.version panel.toNat d).updJob jj.toNat
      (fun j => j.updLayer l.toNat (·.land panel.toNat))).updJob jj.toNat (fun j =>
        if (j.layers.find l.toNat).any (fun y => y.st = .reading) then
          { j with colls := j.colls.filter (fun c => !(c.kind = .allGather && c.layer.toNat = l.toNat)) }
        else j))) ∧
  (∀ (s : State) (h : Hdr) (p : Payload) (m1 : Main) (t : List Byte),
    s.main.serves 0x0810 h p [(0, 7), (8, 2), (16, 8)] = true →
    let x := s.main.taken h.src
    p.extractLsb' 0 32 = x.fab.epoch + 1 →
    (∀ i < 3, 1 ≤ bvAt p (4 + i) 1 ∧ bvAt p (4 + i) 1 ≤ 32 ∧ coord (bvAt p 8 2) i < bvAt p (4 + i) 1) →
    (x.variant = .oa101 → bvAt p 5 1 = 1 ∧ bvAt p 6 1 = 1) →
    bvAt p 8 2 < 2 ^ 15 →
    (∀ n, x.fab.node = some n → n.toNat = bvAt p 8 2) →
    x.mapped 4 (bvAt p 16 8) 8192 = true →
    x.daGet 4 (bvAt p 16 8) 8192 = (m1, some t) →
    (∀ n < 32768, memberOf t n ≠ 3) →
    exec (.membershipChange h p) s = s.nextMain (s.main.done 0x0810 h (let m2 := m1.abortColls (fun n => x.fab.member.get n = 2 && (memberTable t).get n != 2)
      let m3 : Main := { m2 with fab := { m2.fab with epoch := p.extractLsb' 0 32, dim := (bvAt p 4 1, bvAt p 5 1, bvAt p 6 1), node := some (BitVec.ofNat 15 (bvAt p 8 2)), member := memberTable t, seq := 0 } }
      let m4 := m3.jobs.foldl (fun (m : Main) e => m.dropOld e.1 e.2 (p.extractLsb' 0 32)) m3
      m4.holdPorts.log! { code := 0x5401, cls := .rec_ }) [])) ∧
  (∀ (s : State) (h : Hdr) (p : Payload) (j : Job) (m1 : Main) (b : List Byte),
    s.main.serves 0x0811 h p [(0, 16)] (owned := s.main.ownsJob h.src (bvAt p 0 4)) = true →
    let x := s.main.taken h.src
    let es := (List.range (bvAt p 6 2)).map (fun i => (natAt b (4 * i) 2, natAt b (4 * i + 2) 2))
    x.job? (bvAt p 0 4) = some j →
    j.stepOpen = false →
    (1 ≤ bvAt p 4 2 ∧ bvAt p 4 2 ≤ 32768 ∧ bvAt p 4 2 = j.ranks ∧ bvAt p 6 2 ≠ 0) →
    x.mapped (x.jobPart j) (bvAt p 8 8) (4 * bvAt p 6 2) = true →
    x.daGet (x.jobPart j) (bvAt p 8 8) (4 * bvAt p 6 2) = (m1, some b) →
    (es.map (·.2)).sum = bvAt p 4 2 →
    (∀ e ∈ es, e.2 ≠ 0 ∧ e.1 < 2 ^ 15) →
    exec (.rankMap h p) s = s.nextMain (s.main.done 0x0811 h (m1.updJob (bvAt p 0 4) (fun j => { j with map := es })) [])) ∧
  (∀ (s : State) (h : Hdr) (p : Payload) (j : Job) (m1 : Main) (b : List Byte),
    s.main.serves 0x0812 h p [(0, 6), (8, 24)] (owned := s.main.ownsJob h.src (bvAt p 0 4)) = true →
    let x := s.main.taken h.src
    let rs := (List.range (bvAt p 4 2)).map (fun i => bytesAt b (64 * i) 64)
    x.job? (bvAt p 0 4) = some j →
    j.stepOpen = false →
    (bvAt p 16 8 % 0x200000 = 0 ∧ 2 ^ 26 ≤ bvAt p 24 8 ∧ bvAt p 24 8 ≤ 2 ^ 30 ∧ bvAt p 16 8 + bvAt p 24 8 ≤ 2 ^ 41) →
    x.mapped (x.jobPart j) (bvAt p 16 8) (bvAt p 24 8) = true →
    (x.setJob (bvAt p 0 4) { j with hold := none }).freeRun none (bvAt p 16 8) (bvAt p 24 8) = true →
    x.ownsRun h (bvAt p 16 8) (bvAt p 24 8) = true →
    x.mapped (x.jobPart j) (bvAt p 8 8) (64 * bvAt p 4 2) = true →
    x.daGet (x.jobPart j) (bvAt p 8 8) (64 * bvAt p 4 2) = (m1, some b) →
    rs.all (planOk j) = true →
    exec (.collectivePlan h p) s = s.nextMain (s.main.done 0x0812 h (m1.updJob (bvAt p 0 4) (fun j => { j with plan := rs.map planRec, hold := some (BitVec.ofNat 56 (bvAt p 16 8), bvAt p 24 8) })) [])) ∧
  (∀ (s : State) (h : Hdr) (p : Payload),
    s.main.serves 0x0813 h p [] (reads := true) = true →
    let x := s.main.taken h.src
    exec (.collectiveStatus h p) s = s.nextMain (s.main.done 0x0813 h (x) [(0, 4, x.fab.epoch.toNat), (4, 4, x.fab.seq.toNat), (8, 4, (x.jobs.map (fun e => e.2.colls.length)).sum),
      (12, 4, x.fab.lastAbort.1.toNat), (16, 1, x.fab.lastAbort.2)])) ∧
  (∀ (s : State) (h : Hdr) (p : Payload) (j : Job),
    s.main.serves 0x0814 h p [(0, 5), (8, 4)] (owned := s.main.ownsJob h.src (bvAt p 0 4)) = true →
    let x := s.main.taken h.src
    x.job? (bvAt p 0 4) = some j →
    (3 ≤ bvAt p 4 1 ∧ bvAt p 4 1 ≤ 5) →
    ((bvAt p 4 1 = 5 ∧ ∃ d, j.decided = some d ∧ d.1 = p.extractLsb' 64 32) ∨ ((∃ a ∈ j.aborted, a.2 = bvAt p 4 1) ∧ j.stepOpen = true ∧ p.extractLsb' 64 32 = j.step)) →
    exec (.reissueReduction h p) s = s.nextMain (s.main.done 0x0814 h ((x.setJob (bvAt p 0 4) { j with aborted := j.aborted.filter (fun a => a.2 != bvAt p 4 1), redo := j.redo ++ [(if bvAt p 4 1 = 3 then .scale else if bvAt p 4 1 = 4 then .calipers else .verdict, p.extractLsb' 64 32)] }).pumpColls (bvAt p 0 4)) [])) ∧
  (∀ (s : State) (h : Hdr) (p : Payload),
    s.main.serves 0x0820 h p [(0, 2), (8, 8)] (owned := !s.main.partOn || (s.main.owns h.src (bvAt p 1 1 / 8 % 4) && (!((s.main.fab.inmap.get (bvAt p 0 1)).valid) || s.main.owns h.src (s.main.fab.inmap.get (bvAt p 0 1)).part.toNat))) = true →
    let x := s.main.taken h.src
    (bvAt p 0 1 ≤ 15 ∧ bvAt p 1 1 ≤ 31) →
    (bvAt p 8 8 = pinBase ∨ (bvAt p 8 8 % 2 ^ 36 = 0 ∧ bvAt p 8 8 < 2 ^ 41)) →
    exec (.setInboundMapEntry h p) s = s.nextMain (s.main.done 0x0820 h ({ x with fab := { x.fab with inmap := x.fab.inmap.put (bvAt p 0 1) { valid := bvAt p 1 1 % 2 = 1, write := bvAt p 1 1 / 2 % 2 = 1, redg := bvAt p 1 1 / 4 % 2 = 1, part := BitVec.ofNat 2 (bvAt p 1 1 / 8), base := BitVec.ofNat 56 (bvAt p 8 8) } } }) []))

/-- CXL links come up and go down, snoops are answered, slow-tier transactions end, and the slow-tier map and host ranges are set. A link that trains sets mode and width and logs 0x6001, and advisory 0x6002 below CXL 3.1 on sixteen lanes; port A under plain PCIe ends its leases. One that goes down loses its IDE streams, logs 0x6003, cuts the copy descriptors that reach it, ends its tiles' requests with an error, on port A the started Tailstock records, and on port B the Burnishers' fetches, with the waiting requests taken on. A snoop on a CXL link is answered by whether a lease is held, and an invalidating one tears the lines. A slow-tier transaction that port B carries is carried out or ends with the port error, and waiting ones are taken on; one that port B does not carry changes nothing. A served slow-tier map of an operator with no job open, made of legal ranges on listed devices, is set with event 0x6101; the device query answers, enumerating again on request; a host range that overlaps no other is set. The mode codes, the snoop codes and the device list are the model's (log 87, 88, 90); what a changed map leaves in the slow tier is undefined (log 89). -/
def Obligations.CxlAndSlowTierComplete : Prop :=
  (∀ (s : State) (b : Bool) (mode : LinkMode) (x16 : Bool), mode ≠ .down →
    let par := p1 b.toNat ++ p1 (modeNum mode) ++ p1 (if x16 then 16 else 8)
    let m0 : Main := { s.main with cxl := s.main.cxl.upd b (fun c => { c with mode := mode, width := BitVec.ofNat 8 (if x16 then 16 else 8) }) }
    let m1 : Main := if b = false ∧ m0.cxl.a.pcie = true then { m0 with region := m0.region.map (fun (r : Nat × Region) => (r.1, r.2.unleased)) } else m0
    let m2 := m1.log! { code := 0x6001, cls := .rec_, par := par }
    exec (.cxlPortLinkUp b mode x16) s = s.nextMain (if mode = .cxl31 ∧ x16 = true then m2 else m2.log! { code := 0x6002, cls := .adv, par := par })) ∧
  (∀ (s : State) (b : Bool), (if b then s.main.cxl.b.mode else s.main.cxl.a.mode) ≠ .down →
    let m0 := (s.main.ideLost b false).ideLost b true
    let m1 := (if b then m0 else (m0.tail.filter (·.started)).foldl Main.tailError m0).cutCopies b
    let m2 : Main := { m1 with cxl := m1.cxl.upd b (fun c => { c with mode := .down, width := 0 }) }
    let m3 := (m2.log! { code := 0x6003, cls := .rec_, par := p1 b.toNat }).failPort b
    exec (.cxlPortLinkDown b) s = s.nextMain (if b then
      ((List.range m3.variant.stacks).foldl (fun m n => (m.burnAt n).fetch.foldl (fun m f => m.fetchReturn n f.1 true) m) m3).slowAdmit else m3)) ∧
  (∀ (s : State) (op : SnoopOp) (hpa : U64), s.main.cxl.a.cxl = true →
    let line := hpa.toNat / 64 * 64
    let offs := s.main.hostOffs line
    let held := s.main.region.any (fun e => e.2.st != .free && e.2.st != .writing && e.2.st != .stored && offs.any (fun o => overlap o 64 e.2.hoff e.2.len))
    exec (.hostSnoop op hpa) s = s.nextMain (if op = .inv then (offs.foldl (fun m o => m.tearRange o 64) s.main).send (.snoop (if held then 2 else 0))
      else s.main.send (.snoop (if held then 1 else 0)))) ∧
  (∀ (s : State) (t : TileRef) (slot : Fin 64) (r : Req), (s.main.tileAt t.id).slots.find slot.val = some r →
    r.onSlow = true → s.main.slowLive (.tile t.id slot.val) = true →
    (∀ poison, let q := s.main.slowReq t.id r poison false
      exec (.slowTierTransactionComplete t slot poison) s =
        s.nextMain (q.1.updTile t.id (fun t => { t with slots := t.slots.put slot.val q.2 })).slowAdmit) ∧
    exec (.slowTierTransactionTimeout t slot) s =
      s.nextMain (s.main.updTile t.id (fun t => { t with slots := t.slots.put slot.val r.portError })).slowAdmit) ∧
  (∀ (s : State) (t : TileRef) (slot : Fin 64) (r : Req) (poison : Bool), (s.main.tileAt t.id).slots.find slot.val = some r →
    (r.onSlow = false ∨ s.main.slowLive (.tile t.id slot.val) = false) →
    exec (.slowTierTransactionComplete t slot poison) s = .next s ∧ exec (.slowTierTransactionTimeout t slot) s = .next s) ∧
  (∀ (s : State) (h : Hdr) (p : Payload) (m1 : Main) (b : List Byte),
    s.main.serves 0x0360 h p [(0, 1), (8, 8)] = true →
    let x := s.main.taken h.src
    let n := bvAt p 0 1
    let rs := (List.range n).map (fun i => bytesAt b (16 * i) 16)
    let map := rs.map slowRange
    let m2 : Main := if map = m1.cxl.map then m1 else { m1 with cxl := { m1.cxl with map := map }, mem := { m1.mem with slow := m1.mem.slow.forget 0 (2 ^ 44) m1.mem.stamp, stamp := m1.mem.stamp + 1 } }
    x.jobs = [] →
    (Src.operator h.src = true ∧ x.ownsRun h (bvAt p 8 8) (16 * n) = true) →
    (1 ≤ n ∧ n ≤ 8 ∧ x.mapped 4 (bvAt p 8 8) (16 * n) = true) →
    x.cxl.b.cxl = true →
    x.daGet 4 (bvAt p 8 8) (16 * n) = (m1, some b) →
    (rs.all slowRangeOk = true ∧ (map.map (·.gib)).sum ≤ 16384) →
    (∀ r ∈ map, ∀ d ∈ r.dev, d < x.cxl.devs.length) →
    exec (.setSlowTierMap h p) s = s.nextMain (s.main.done 0x0360 h (m2.log! { code := 0x6101, cls := .rec_, par := p1 1 }) [(8, 8, m2.slowSize)])) ∧
  (∀ (s : State) (h : Hdr) (p : Payload),
    s.main.serves 0x0361 h p [(0, 2)] = true →
    let x := s.main.taken h.src
    let y := if bvAt p 1 1 = 1 then x.enumerate else x
    bvAt p 1 1 ≤ 1 →
    Src.operator h.src = true →
    x.cxl.b.cxl = true →
    bvAt p 0 1 < y.cxl.devs.length →
    exec (.slowTierDevice h p) s = s.nextMain (s.main.done 0x0361 h (y) [(4, 4, y.cxl.devs.getD (bvAt p 0 1) 0), (1, 1, y.cxl.devs.length), (2, 1, modeNum y.cxl.b.mode), (3, 1, y.cxl.b.width.toNat),
      (8, 2, y.slowOutstanding)])) ∧
  (∀ (s : State) (h : Hdr) (p : Payload),
    s.main.serves 0x0362 h p [(0, 1), (8, 16)] = true →
    let x := s.main.taken h.src
    let k := bvAt p 0 1
    let base := bvAt p 8 8
    let size := bvAt p 16 8
    let others := (List.range 4).filter (· != k)
    let m1 : Main := { x with cxl := { x.cxl with host := if size = 0 then x.cxl.host.del k else x.cxl.host.put k (base, size) } }
    (x.jobs = [] ∧ ∀ e ∈ x.eng, e.2.en = false) →
    Src.operator h.src = true →
    (k ≤ 3 ∧ base % 4096 = 0 ∧ size % 4096 = 0 ∧ base + size ≤ 2 ^ 64) →
    (others.map (fun i => (x.cxl.host.get i).2)).sum + size ≤ 2 ^ 44 →
    (∀ i ∈ others, overlap base size (x.cxl.host.get i).1 (x.cxl.host.get i).2 = false) →
    exec (.setHostRange h p) s = s.nextMain (s.main.done 0x0362 h (m1) [(8, 8, m1.hostSize)]))

/-- The Tailstock's area, records, leases and fetches and the copy engines' commits, tails and descriptors complete. A served Tailstock area of 256 MiB in owned, mapped and free memory is set and left undefined; the status answers leases, tears, running records and the counters. The first record that may start does so while fewer than sixteen run. An off-load whose blocks could not all be written ends with an error status; one that wrote them is stored and done under plain PCIe, else it asks for its lines shared, and the read-back leaves it leased and done. A fetch that may not read or write ends with an error status; one whose blocks all check writes them, frees the region where asked and gives its signal; one that fails a tag faults with 0x6202; a tear fetches again once (0x6203) and a second time faults with 0x6201. A commit of copy engines takes all eight or names the first bad one; a tail write starts descriptors; a descriptor that ends writes its status and bytes, moves the head, interrupts on error or request, halts and logs 0x6301 on error; with none in flight, or one that port B does not carry, nothing changes. The status of a cut descriptor and a record's end in error are the model's (log 91, 93). -/
def Obligations.TailstockAndCopyEnginesComplete : Prop :=
  (∀ (s : State) (h : Hdr) (p : Payload) (j : Job),
    s.main.serves 0x0363 h p [(0, 4), (8, 8)] = true →
    let x := s.main.taken h.src
    let jid := bvAt p 0 4
    let da := bvAt p 8 8
    let y : Main := { x with hbm := x.hbm.map (fun (z : Nat × Stack) => (z.1, { z.2 with region := z.2.region.del (256 + jid) })) }
    x.job? jid = some j →
    (x.ownsJob h.src jid = true ∧ x.ownsRun h da (2 ^ 28) = true) →
    (da % 0x200000 = 0 ∧ da + 2 ^ 28 ≤ 2 ^ 41 ∧ x.mapped (x.jobPart j) da (2 ^ 28) = true) →
    y.freeRun none da (2 ^ 28) = true →
    exec (.setTailstockArea h p) s = s.nextMain (s.main.done 0x0363 h (((y.updHbm (da / 2 ^ 37) (fun z => { z with region := z.region.put (256 + jid) (da % 2 ^ 37, 2 ^ 28) })).forgetRun da (2 ^ 28)).updJob jid
      (fun j => { j with area := some (BitVec.ofNat 56 da) })) [])) ∧
  (∀ (s : State) (h : Hdr) (p : Payload) (j : Job),
    s.main.serves 0x0364 h p [(0, 4)] (reads := true) (owned := s.main.ownsJob h.src (bvAt p 0 4)) = true →
    let x := s.main.taken h.src
    x.job? (bvAt p 0 4) = some j →
    exec (.tailstockStatus h p) s = s.nextMain (s.main.done 0x0364 h (x) [(2, 2, (x.region.filter (fun e => (diesOf j.dies).contains (e.1 / 1024) && decide (e.2.st = .leased))).length),
      (4, 2, (x.region.filter (fun e => (diesOf j.dies).contains (e.1 / 1024) && decide (e.2.st = .torn))).length),
      (6, 2, (x.tail.filter (fun t => decide (t.job.toNat = bvAt p 0 4) && t.started)).length),
      (8, 4, j.refetches.toNat), (12, 4, j.tears.toNat), (16, 4, j.dropped.toNat)])) ∧
  (∀ (s : State) (i : Nat) (t : TailRun), (s.main.tail.filter (·.started)).length < 16 → s.main.tailMay i = true →
    (∀ k < i, s.main.tailMay k = false) → s.main.tail[i]? = some t →
    exec (.tailstockRecordStart i) s = s.nextMain (({ s.main with tail := s.main.tail.mapIdx (fun k (t : TailRun) =>
      if k = i then { t with started := true } else t) } : Main).tailBegin { t with started := true })) ∧
  (∀ (s : State) (r : BitVec 12) (t : TailRun), s.main.tailOf r.toNat 1 = some t →
    (t.written = false → s.main.offload t = ((s.main.offload t).1, false) → exec (.offloadWritesComplete r) s = s.nextMain ((s.main.offload t).1.tailError t)) ∧
    (t.written = false → s.main.offload t = ((s.main.offload t).1, true) → let m1 := (s.main.offload t).1
      exec (.offloadWritesComplete r) s = s.nextMain (if m1.cxl.a.pcie then (m1.updRegion r.toNat (fun x => { x with st := .stored })).tailDone t true
        else Main.d2h { m1 with tail := m1.tail.map (fun (x : TailRun) =>
          if x.started && x.key = r.toNat then { x with written := true } else x) } .rdShared t.rec_.hoff t.rec_.len)) ∧
    (t.written = true → exec (.leaseReadbackComplete r) s =
      s.nextMain ((s.main.updRegion r.toNat (fun x => { x with st := .leased })).tailDone t true))) ∧
  (∀ (s : State) (r : BitVec 12) (t : TailRun), s.main.tailOf r.toNat 2 = some t →
    let g := s.main.regionAt r.toNat
    let m1 := s.main.d2h (if g.st = .refetching then .rdShared else .rdCurr) g.hoff g.len
    let done : RegionSt := if m1.cxl.a.pcie then .stored else .leased
    (g.tornNow = false → m1.fetchOk t = false → exec (.tailstockFetchComplete r) s = s.nextMain (m1.tailError t)) ∧
    (∀ j l, g.tornNow = false → m1.fetchOk t = true → m1.job? t.job.toNat = some j → m1.fetchBlocks t j = some l →
      let m2 := (m1.daPut (m1.diePartOf t.die) t.rec_.da.toNat l).1.updRegion r.toNat (fun x => { x with st := done })
      exec (.tailstockFetchComplete r) s = s.nextMain ((if t.rec_.release then m2.freeRegion r.toNat else m2).tailDone t true)) ∧
    (∀ j, g.tornNow = false → m1.fetchOk t = true → m1.job? t.job.toNat = some j → m1.fetchBlocks t j = none →
      exec (.tailstockFetchComplete r) s =
        s.nextMain (((m1.updRegion r.toNat (fun x => { x with st := done })).tailDone t false).tailFault t 0x6202))) ∧
  (∀ (s : State) (r : BitVec 12) (t : TailRun), s.main.tailOf r.toNat 2 = some t → (s.main.regionAt r.toNat).tornNow = true →
    let g := s.main.regionAt r.toNat
    (g.st = .refetching → exec (.tailstockFetchComplete r) s =
      s.nextMain ((((s.main.d2h .rdShared g.hoff g.len).updRegion r.toNat (fun x => { x with st := .torn, tornNow := false })).tailDone t false).tailFault t 0x6201)) ∧
    (g.st ≠ .refetching →
      let m1 := ((s.main.d2h .rdCurr g.hoff g.len).updRegion r.toNat (fun x => { x with st := .refetching, tornNow := false })).updJob t.job.toNat (fun j =>
        { j with refetches := j.refetches + 1 })
      exec (.tailstockFetchComplete r) s = s.nextMain (m1.logOnce t.job.toNat 0
        { code := 0x6203, cls := .adv, par := p4 t.job.toNat ++ p4 (((m1.job? t.job.toNat).map (·.refetches.toNat)).getD 0) }))) ∧
  (∀ (s : State) (v : U64),
    let m0 : Main := if v.getLsbD 1 then { s.main with ectl := { s.main.ectl with rej := false } } else s.main
    (∀ e, (List.range 8).find? m0.engBad = some e →
      exec (.copyEngineCommit v) s = s.nextMain { m0 with ectl := { m0.ectl with rej := true, who := BitVec.ofNat 4 e } }) ∧
    ((List.range 8).find? m0.engBad = none →
      let m1 := (List.range 8).foldl (fun m e => m.updEng e Engine.commit) m0
      exec (.copyEngineCommit v) s = s.nextMain ((List.range 8).foldl (fun m e => m.copyPump e 4)
        { m1 with ectl := { m1.ectl with rej := false, gen := m1.ectl.gen + 1 } }))) ∧
  (∀ (s : State) (e : Fin 8) (v : U64), exec (.copyEngineTailWrite e v) s =
      s.nextMain ((s.main.updEng e.val (fun x => { x with tail := v.extractLsb' 0 16 })).copyPump e.val 4)) ∧
  (∀ (s : State) (e : Fin 8) (how : CopyEnd) (m1 m2 : Main) (d : List Byte) (st done : Nat),
    let x := s.main.engAt e.val
    let i := x.head.toNat % x.ring
    let q := s.main.engPartOf e.val
    let da := x.desc i
    let fail : Option Nat := if how = .timedOut ∨ i ∈ x.cut then some 5 else if how = .poison then some 3 else none
    x.inflight ≠ 0 → s.main.copyLive e.val i = true → s.main.daGet q da 32 = (m1, some d) → m1.copyRun e.val d fail = (m2, st, done) →
    let m3 := ((m2.daPut q (da + 24) (p1 st)).1.daPut q (da + 28) (p4 done)).1
    let m4 := m3.updEng e.val (fun x => { x with head := BitVec.ofNat 16 ((x.head.toNat + 1) % x.ring), inflight := x.inflight - 1,
                                                 cut := x.cut.filter (· != i), last := BitVec.ofNat 8 st, halt := x.halt || st != 1 })
    let m5 := if st ≠ 1 ∨ natAt d 20 2 % 2 = 1 then m4.send (.msix x.vec) else m4
    let m6 := if st ≠ 1 then m5.log! { code := 0x6301, cls := .flt, par := p1 e.val } else m5
    exec (.copyDescriptorComplete e how) s = s.nextMain (m6.copyPump e.val 4)) ∧
  (∀ (s : State) (e : Fin 8) (how : CopyEnd), let x := s.main.engAt e.val
    (x.inflight = 0 ∨ s.main.copyLive e.val (x.head.toNat % x.ring) = false) → exec (.copyDescriptorComplete e how) s = .next s)

/-- Operating points move, preferred points and paces are set or committed, tables and ledgers are read, and the wear ledger ticks and is saved. A point moves one step to its target, and a pace raise that waited for the point goes ahead. With core 1 running, a paced die that may go lower does, and an expired dwell takes the reported phase. A region measured below 95% of its floor rate is remembered and logs 0x4505 once an hour. Served commands set preferred points and dwell, answer a tile's or a die's table and a die's ledger, and set a pace that some allowed point sustains. A commit puts all four pace settings in force or none, naming the first bad one with event 0x4502. A snapshot adds what the counters counted, a free value (log 98). Each ledger millisecond counts operation and boost, caps the die at a spent balance (0x4601) and uncaps it at 60 s (0x4602). -/
def Obligations.BeatCommandsComplete : Prop :=
  (∀ (s : State) (d : Fin 4),
    let m1 := s.main.updDp d.val (fun x => { x with
      point := if x.point < x.target then x.point + 1 else if x.target < x.point then x.point - 1 else x.point })
    ((m1.dpAt d.val).paceNext = none → exec (.pointMove d) s = s.nextMain m1) ∧
    (∀ n, (m1.dpAt d.val).paceNext = some n → exec (.pointMove d) s = s.nextMain
      (if m1.pacePoint d.val n.toNat ≤ (m1.dpAt d.val).point.toNat then m1.updDp d.val (fun x => { x with paceF := n, paceNext := none }) else m1))) ∧
  (∀ (s : State) (d : Fin 4), (s.main.core.get 1).runs = true →
    exec (.pacedPointLower d) s = s.nextMain (s.main.updDp d.val (fun x =>
      if x.paceF != 0 && x.lowerFor != 0 && x.target != 0 then { x with target := x.target - 1, lowerFor := 0 } else x)) ∧
    exec (.phaseDwellExpiry d) s = s.nextMain (s.main.updDp d.val (fun x => { x with eff := (s.main.dieAt d.val).phase }))) ∧
  (∀ (s : State) (d : Fin 4) (r : Fin 8) (rate : Nat),
    let x := s.main.dpAt d.val
    let floor := rateAt (minTable (s.main.liveTiles d.val (some r.val)) x.point.toNat) (x.regionTemp r.val)
    let hour := s.main.sec / 3600 + 1
    let m1 := s.main.updDp d.val (fun x => { x with monitor := x.monitor.put r.val rate, hour4505 := x.hour4505.put r.val hour })
    (s.main.dieAt d.val).parked.getLsbD r.val = false → s.main.liveTiles d.val (some r.val) ≠ [] →
    exec (.beatMonitorCheck d r rate) s = s.nextMain (if floor * 95 ≤ (rate : Int) * 100 * 1000000000 then s.main
      else if x.hour4505.get r.val = hour then m1
      else m1.log! { code := 0x4505, cls := .adv, die := some d.val, par := p1 d.val ++ p1 r.val })) ∧
  (∀ (s : State) (h : Hdr) (p : Payload),
    s.main.serves 0x0401 h p [(0, 1), (2, 8)] (high := (bvAt p 0 1 < 16)) = true →
    let x := s.main.taken h.src
    x.ownsDies h.src (p.extractLsb' 0 4) = true →
    (∀ i < 6, bvAt p (2 + i) 1 ≤ 6 ∨ bvAt p (2 + i) 1 = 0xFF) →
    bvAt p 8 2 ≤ 1000 →
    exec (.setPreferredPoints h p) s = s.nextMain (s.main.done 0x0401 h ((diesOf (p.extractLsb' 0 4)).foldl (fun (m : Main) d => m.updDp d (fun y => { y with
      pref := (List.range 6).foldl (fun t i => if bvAt p (2 + i) 1 = 0xFF then t else t.put i (BitVec.ofNat 3 (bvAt p (2 + i) 1))) y.pref
      dwell := if bvAt p 8 2 = 0 then y.dwell else bvAt p 8 2 })) x) [])) ∧
  (∀ (s : State) (h : Hdr) (p : Payload),
    s.main.serves 0x0403 h p [(0, 3)] (reads := true) (owned := s.main.owns h.src (s.main.variant.diePart (bvAt p 0 2 / 512 % 4))) = true →
    let x := s.main.taken h.src
    (bvAt p 2 1 = 0 ∧ tileIdOk (bvAt p 0 2) = true ∧ (x.tileAt (bvAt p 0 2)).retired = false) →
    exec (.readCharacterisedTable h p) s = s.nextMain (s.main.done 0x0403 h (x) ((List.range 7).map (fun k => (2 + 2 * k, 2, (minTable [bvAt p 0 2] k).1)) ++
      (List.range 7).map (fun k => (16 + 2 * k, 2, (minTable [bvAt p 0 2] k).2))))) ∧
  (∀ (s : State) (h : Hdr) (p : Payload),
    s.main.serves 0x0403 h p [(0, 3)] (reads := true) (owned := s.main.owns h.src (s.main.variant.diePart (bvAt p 0 2 / 512 % 4))) = true →
    let x := s.main.taken h.src
    (bvAt p 2 1 = 1 ∧ bvAt p 0 2 < 2048 ∧ bvAt p 0 2 % 512 = 0) →
    exec (.readCharacterisedTable h p) s = s.nextMain (s.main.done 0x0403 h (x) ((List.range 7).map (fun k => (2 + 2 * k, 2, (minTable (x.liveTiles (bvAt p 0 2 / 512)) k).1)) ++
      (List.range 7).map (fun k => (16 + 2 * k, 2, (minTable (x.liveTiles (bvAt p 0 2 / 512)) k).2))))) ∧
  (∀ (s : State) (h : Hdr) (p : Payload),
    s.main.serves 0x0404 h p [(0, 1)] (reads := true) (owned := s.main.owns h.src (s.main.variant.diePart (bvAt p 0 1 % 4))) = true →
    let x := s.main.taken h.src
    bvAt p 0 1 ≤ 3 →
    exec (.readWearLedger h p) s = s.nextMain (s.main.done 0x0404 h (x) [(0, 4, (x.dpAt (bvAt p 0 1)).opMs / 1000), (4, 4, (x.dpAt (bvAt p 0 1)).boostMs / 1000),
      (8, 4, (((x.dpAt (bvAt p 0 1)).balance / 1000) % 2 ^ 32).toNat), (12, 1, (x.dpAt (bvAt p 0 1)).wcap.toNat)])) ∧
  (∀ (s : State) (h : Hdr) (p : Payload),
    s.main.serves 0x0405 h p [(0, 1), (8, 2)] (high := (bvAt p 8 1 < 2)) = true →
    let x := s.main.taken h.src
    bvAt p 0 1 ≤ 3 →
    x.owns h.src (x.variant.diePart (bvAt p 0 1)) = true →
    (p.getLsbD 64 = true → 80 ≤ bvAt p 9 1 ∧ bvAt p 9 1 ≤ 184 ∧ x.pacePoint (bvAt p 0 1) (bvAt p 9 1) ≤ x.paceTop (bvAt p 0 1)) →
    exec (.setSteadyRest h p) s = s.nextMain (s.main.done 0x0405 h (x.paceApply (bvAt p 0 1) (p.getLsbD 64) (BitVec.ofNat 8 (bvAt p 9 1))) [])) ∧
  (∀ (s : State) (v : U64), v.getLsbD 3 = false →
    let m0 := if v.getLsbD 2 then s.main.updBctl (fun b => { b with rej := false }) else s.main
    (m0.paceFirst = none → let m1 := m0.updBctl (fun b => { b with rej := false, gen := b.gen + 1 })
      exec (.paceCommit v) s = s.nextMain ((List.range 4).foldl (fun m d => m.paceApply d (m.dpAt d).stEn (m.dpAt d).stPace) m1)) ∧
    (∀ d r, m0.paceFirst = some (d, r) → exec (.paceCommit v) s =
      s.nextMain ((m0.updBctl (fun b => { b with rej := true, who := BitVec.ofNat 4 d, rsn := BitVec.ofNat 8 r })).log!
        { code := 0x4502, cls := .rec_, die := some d, par := p1 d ++ p1 r }))) ∧
  (∀ (s : State) (v : U64), v.getLsbD 0 = false → v.getLsbD 2 = false →
    exec (.beatSnapshot v) s = s.nextMain ((List.range 4).foldl (fun (m : Main) d => m.draw.updDp d (fun x =>
      { x with beats := x.beats + BitVec.ofNat 64 (Config.beatsIn m.draws d), skips := x.skips + BitVec.ofNat 48 (Config.skipsIn m.draws d),
               snBeats := x.beats + BitVec.ofNat 64 (Config.beatsIn m.draws d), snSkips := x.skips + BitVec.ofNat 48 (Config.skipsIn m.draws d) })) s.main)) ∧
  (∀ (s : State) (boost : BitVec 4), s.main.sup.rails = true →
    exec (.wearLedgerTick boost) s = s.nextMain ((List.range 4).foldl (fun m d => m.wearTick d (boost.getLsbD d)) s.main)) ∧
  (∀ (m : Main) (d : Nat) (boost : Bool),
    let m1 := m.updDp d (fun x => { x with opMs := x.opMs + 1, boostMs := if boost then x.boostMs + 1 else x.boostMs })
    let x := m1.dpAt d
    m.wearTick d boost = if x.wcap = false ∧ x.balance ≤ 0 then
        (m1.updDp d (fun x => { x with wcap := true })).log! { code := 0x4601, cls := .rec_, die := some d, par := p1 d }
      else if x.wcap = true ∧ 60000 ≤ x.balance then
        (m1.updDp d (fun x => { x with wcap := false })).log! { code := 0x4602, cls := .rec_, die := some d, par := p1 d }
      else m1) ∧
  (∀ (s : State), exec .wearLedgerSave s = s.nextMain ((List.range 4).foldl (fun (m : Main) d => m.updDp d (fun x =>
      { x with saved := (x.opMs, x.boostMs, x.point = 6, false) })) s.main))

/-- The fast loop, cross-check, fallback timer, refit, point selection, parking tick and the electrical and boost limits act on every state where core 1 runs. One period of 4 µs sets the estimate, its history of 1 ms and mean, the draws above 2,600 W, the boost budget and each die's firing ratio under the limits in force. The cross-check takes a window's M and Ē and enters Disagree with 0x4101 after 10 ms of more than 12 %. The timer leaves Disagree for Fallback (0x4103) or Agree, and Fallback for Agree (0x4104). A refit that ends sets the fitted weights within their bounds with 0x4102. Point selection moves the electrical ceiling and, while core 2 runs, the cap's steps and the points of the four dies. A parking tick parks or unparks the next region of the order, and logs 0x4203 at the last. 100 draws above the limit lower the electrical ceiling with 0x4201; an exhausted window the boost ceiling with 0x4202. -/
def Obligations.PowerLoopsComplete : Prop :=
  (∀ (s : State) (a : Activity), (s.main.core.get 1).runs = true →
    let e := s.main.estimate a
    let c := s.main.pow.capping e
    let hist := ((e, c) :: s.main.pow.hist).take 250
    let avg := (hist.map (·.2)).sum / hist.length
    let budget := if 1000 * s.main.variant.rated < avg then s.main.pow.budget - 4 else min 2000000 (s.main.pow.budget + 1)
    let lift : Bool := s.main.pow.exhausted && 500000 ≤ budget
    let m1 : Main := { s.main with pow := { s.main.pow with est := e, hist := hist, avg := avg, budget := budget,
                                                            elec := if 2600000 < c then s.main.us :: recent s.main.us 100000 s.main.pow.elec else recent s.main.us 100000 s.main.pow.elec,
                                                            exhausted := s.main.pow.exhausted && !lift,
                                                            idleFor := if s.main.allIdle then s.main.pow.idleFor + 4 else 0,
                                                            rampFor := if s.main.pow.ramp = .none then s.main.pow.rampFor else s.main.pow.rampFor + 4 } }
    let m2 := if lift then (List.range 4).foldl (fun m d => m.updDp d (fun x => { x with ceilBoost := 6 })) m1 else m1
    exec (.fastPowerLoop a) s = s.nextMain ((List.range 4).foldl (fun m d => m.updDp d (fun x => { x with fast := BitVec.ofNat 5 (fastRatio x.fast.toNat c m2.fastLimits) })) m2)) ∧
  (∀ (s : State) (meas : Nat) (mean : Nat), (s.main.core.get 1).runs = true →
    let bad : Bool := 12 * meas < 100 * (max mean meas - min mean meas)
    let m1 := s.main.updPow (fun w => { w with meas := meas, mean := mean, xFor := if bad = w.xBad then w.xFor + 100 else 100, xBad := bad, xSince := w.xSince + 100 })
    exec (.telemetryCrossCheck meas mean) s = s.nextMain (if (m1.pow.x = .agree && bad && 10000 ≤ m1.pow.xFor) = true then m1.enterX .disagree 0x4101 else m1)) ∧
  (∀ (s : State), (s.main.core.get 1).runs = true →
    (s.main.pow.x = .disagree ∨ s.main.pow.xBad = false ∧ s.main.pow.x = .fallback) →
    exec (.estimateFallbackTimer) s = s.nextMain (if s.main.pow.xBad then s.main.enterX .fallback 0x4103 else if s.main.pow.x = .fallback then s.main.enterX .agree 0x4104 else s.main.enterX .agree 0)) ∧
  (∀ (s : State) (w : List Nat), (s.main.core.get 1).runs = true →
    s.main.mir.lost = false →
    (s.main.pow.refit = true ∨ s.main.pow.x = .fallback) →
    let t := (List.range 14).foldl (fun (t : Table Nat) i => match w[i]? with
      | some v => t.put (i + 1) (refitWeight (Config.fusedWeight (i + 1)) (s.main.pow.rowWeight (i + 1)) v)
      | none => t) s.main.pow.weight
    let m1 := s.main.updPow (fun w => { w with refit := false, weight := t })
    exec (.activityRefitComplete w) s = s.nextMain (m1.log! { code := 0x4102, cls := .rec_ })) ∧
  (∀ (s : State) (proj : List (List Nat)), (s.main.core.get 1).runs = true →
    let m1 := s.main.elecRise proj
    exec (.pointSelection proj) s = s.nextMain (if (m1.core.get 2).runs = true then (List.range 4).foldl (fun m d => (m.capStep proj d).selectDie d) m1 else m1)) ∧
  (∀ (s : State) (unpark : Bool), (s.main.core.get 1).runs = true →
    (unpark = false → ∀ d < 4, (s.main.dpAt d).fire = 1) →
    let hit := (if unpark then parkOrder.reverse else parkOrder).find? (fun e => (s.main.dpAt e.1).parkCap.getLsbD e.2 == unpark)
    exec (.regionParkTick unpark) s = s.nextMain (match hit with
      | none => s.main
      | some e =>
        let m1 := s.main.parkOne e (!unpark)
        if unpark = false ∧ m1.capParked = 32 then m1.log! { code := 0x4203, cls := .rec_, par := p2 m1.floorDraw } else m1)) ∧
  (∀ (s : State) (proj : List Nat),
    (let m1 := (List.range 4).foldl (fun m d => m.updDp d (fun x => { x with ceilElec := highestAt proj 2600000 })) s.main
     exec (.electricalLimitTimer proj) s = s.nextMain ((m1.updPow (fun w => { w with elecStep := m1.us })).log! { code := 0x4201, cls := .rec_ })) ∧
    (s.main.boostOn = true →
     let m1 := (List.range 4).foldl (fun m d => m.updDp d (fun x => { x with ceilBoost := highestAt proj (1000 * s.main.variant.rated) })) s.main
     exec (.boostWindowExhausted proj) s = s.nextMain ((m1.updPow (fun w => { w with budget := 0, exhausted := true })).log! { code := 0x4202, cls := .rec_ })))

/-- The Flywheel's period and ramps, the power block's commit and snapshot, and the power commands act as R356 to R370 say. While core 1 runs, a period with the Flywheel off clears ballast, floor points, bounds, ramp and count. With it on it sets the bounds (outside ramps: R below and above the 1 ms average of 10 ms ago, the lower at least the floor percentage), counts the time below the lower one, logs 0x4403 after 10 ms at most once a second, ends a ramp whose length has passed, and clears ballast where none is allowed. Then a short draw below the cap raises ballast on the next dies; with ballast full it raises the floor points of idle and waiting dies up to P3; a draw above the lower bound lowers ballast, and with none left the floor points. An offset that has passed starts the start ramp; with every die idle during an open job the stop ramp starts with 0x4402 unless one runs. With core 1 stopped none acts. A commit names its reason or puts the staged settings in force and counts a generation; a snapshot fills both registers; a write with both bits does both, and REJ clears where written 1. A served 0x0402 with limits in range sets the requester's cap and boost (the side-band's die limits must be 0; a change by the board sets cause bit 6) and answers reason 0, or 3 below the floor; 0x0406 answers the snapshot, disagreement and ballast; 0x0410 in range with no scrub running sets the Flywheel. -/
def Obligations.FlywheelAndLimitsComplete : Prop :=
  (∀ (s : State) (a1 : Nat) (aw : Nat) (full : Bool), (s.main.core.get 1).runs = true →
    s.main.pow.fly.en = false →
    exec (.flywheelPeriod a1 aw full) s = s.nextMain ((List.range 4).foldl (fun m d => m.updDp d (fun x => { x with ballast := 0, floor := 0 }))
      (s.main.updPow (fun w => { w with dlow := 0, dhigh := 0, ramp := .none, lowFor := 0 })))) ∧
  (∀ (s : State) (a1 : Nat) (aw : Nat) (full : Bool), (s.main.core.get 1).runs = true →
    s.main.pow.fly.en = true →
    let b := s.main.bounds a1 aw
    let draw := s.main.pow.capping s.main.pow.est
    let low := if draw < b.1 then s.main.pow.lowFor + 100 else 0
    let report : Bool := 10000 ≤ low && s.main.pow.sec4403 != s.main.sec + 1
    let ends : Bool := (s.main.pow.ramp = .start && 100000 * s.main.pow.fly.start.toNat ≤ s.main.pow.rampFor) ||
      (s.main.pow.ramp = .stop && 100000 * s.main.pow.fly.stop.toNat ≤ s.main.pow.rampFor)
    let m1 := s.main.updPow (fun w => { w with dlow := b.1, dhigh := b.2, ramp := if ends then .none else w.ramp, lowFor := low, sec4403 := if report then s.main.sec + 1 else w.sec4403 })
    let m2 := if report then m1.log! { code := 0x4403, cls := .adv } else m1
    let m3 := if m2.pow.fly.bal then m2 else (List.range 4).foldl (fun m d => m.updDp d (fun x => { x with ballast := 0 })) m2
    let waiting := (List.range 4).filter (fun d => (m3.dieAt d).phase = 5 || (m3.dieAt d).phase = 4)
    exec (.flywheelPeriod a1 aw full) s = s.nextMain (if (decide (draw < b.1) && m3.pow.fly.bal && decide (draw < m3.capNow) && m3.ballastDies != [] && !full) = true then
        m3.ballastDies.foldl (fun m d => m.updDp d (fun x => { x with ballast := x.ballast + 1 })) m3
      else if draw < b.1 ∧ full = true then
        waiting.foldl (fun m d => m.updDp d (fun x => { x with floor := if x.floor < 3 then x.floor + 1 else x.floor })) m3
      else if b.1 < draw then
        if (List.range 4).any (fun d => (m3.dpAt d).ballast != 0) then
          (List.range 4).foldl (fun m d => m.updDp d (fun x => { x with ballast := if x.ballast = 0 then 0 else x.ballast - 1 })) m3
        else (List.range 4).foldl (fun m d => m.updDp d (fun x => { x with floor := if x.floor = 0 then 0 else x.floor - 1 })) m3
      else m3)) ∧
  (∀ (s : State) (a1 aw : Nat), s.main.pow.ramp = .none →
    let r := 10000 * s.main.pow.fly.ramp.toNat
    s.main.bounds a1 aw = (max (a1 - r) (s.main.pow.fly.floor.toNat * aw / 100), a1 + r)) ∧
  (∀ (s : State), (s.main.core.get 1).runs = true →
    exec (.startOffsetExpiry) s = s.nextMain (if s.main.pow.ramp = .offset ∧ 1000 * s.main.startOffset ≤ s.main.pow.rampFor then
      s.main.updPow (fun w => { w with ramp := .start, rampFor := 0 }) else s.main)) ∧
  (∀ (s : State), (s.main.core.get 1).runs = true →
    exec (.stopRamp) s = s.nextMain (if s.main.allIdle = true ∧ s.main.jobs ≠ [] ∧ s.main.pow.fly.en = true ∧ s.main.pow.ramp ≠ .stop then
      (s.main.updPow (fun w => { w with ramp := .stop, rampDraw := w.capping w.est, rampFor := 0 })).log! { code := 0x4402, cls := .rec_ } else s.main)) ∧
  (∀ (s : State), (s.main.core.get 1).runs = false →
    (∀ a1 aw full, exec (.flywheelPeriod a1 aw full) s = .next s) ∧ exec .startOffsetExpiry s = .next s ∧ exec .stopRamp s = .next s) ∧
  (∀ (s : State) (v : U64),
    let m0 : Main := if v.getLsbD 2 then s.main.updPow (fun w => { w with ctl := { w.ctl with rej := false } }) else s.main
    let m1 : Main := if m0.powBad ≠ 0 then m0.updPow (fun w => { w with ctl := { w.ctl with rej := true, rsn := BitVec.ofNat 8 m0.powBad } })
      else (List.range 4).foldl (fun m d => m.updDp d (fun x => { x with cap := x.stCap }))
        (m0.updPow (fun w => { w with fly := w.stFly, host := w.stHost, board := w.stBoard, ctl := { w.ctl with rej := false, gen := w.ctl.gen + 1 } }))
    let m2 := if v.getLsbD 0 then m1 else m0
    let snap := fun (m : Main) => m.updPow (fun w => { w with snA := m.powA, snB := m.powB })
    exec (.powerCommit v) s = s.nextMain (if v.getLsbD 3 then snap m1 else m1) ∧ exec (.powerSnapshot v) s = s.nextMain (snap m2)) ∧
  (∀ (s : State) (h : Hdr) (p : Payload),
    s.main.serves 0x0402 h p [(0, 3), (4, 8)] (high := decide (bvAt p 2 1 < 2)) = true →
    let x := s.main.taken h.src
    let cap := bvAt p 0 2
    let dc := fun (d : Nat) => bvAt p (4 + 2 * d) 2
    let c : CapCfg := { cap := some (BitVec.ofNat 12 cap), boost := p.getLsbD 16 }
    let b := x.updPow (fun w => { w with stBoard := c, board := c })
    let y := if Src.isSide h.src then (if (x.capOf x.pow.board != cap || x.pow.board.boost != p.getLsbD 16) = true then b.setCause 6 else b) else (List.range 4).foldl (fun (m : Main) d => m.updDp d (fun z => { z with stCap := BitVec.ofNat 12 (dc d), cap := BitVec.ofNat 12 (dc d) })) (x.updPow (fun w => { w with stHost := c, host := c }))
    (x.capFits cap = true ∧ ∀ d < 4, dieCapFits (dc d) = true) →
    (Src.isSide h.src = true → ∀ d < 4, dc d = 0) →
    exec (.setPowerLimits h p) s = s.nextMain (s.main.done 0x0402 h (y) ((0, 1, if cap < y.floorDraw then 3 else 0) :: y.capFields))) ∧
  (∀ (s : State) (h : Hdr) (p : Payload),
    s.main.serves 0x0406 h p [] (reads := true) = true →
    let x := s.main.taken h.src
    exec (.powerStatus h p) s = s.nextMain (s.main.done 0x0406 h (x) [(0, 8, x.pow.snA.toNat), (8, 8, x.pow.snB.toNat), (16, 2, min 65535 x.pow.disagree),
      (18, 1, (x.dpAt 0).ballast.toNat), (19, 1, (x.dpAt 1).ballast.toNat), (20, 1, (x.dpAt 2).ballast.toNat), (21, 1, (x.dpAt 3).ballast.toNat)])) ∧
  (∀ (s : State) (h : Hdr) (p : Payload),
    s.main.serves 0x0410 h p [(8, 8)] (high := decide (bvAt p 14 2 < 16)) = true →
    let x := s.main.taken h.src
    (FlyCfg.of (p.extractLsb' 64 64)).fits = true →
    x.scrubbing = false →
    exec (.setFlywheel h p) s = s.nextMain (s.main.done 0x0410 h (x.updPow (fun w => { w with stFly := FlyCfg.of (p.extractLsb' 64 64), fly := FlyCfg.of (p.extractLsb' 64 64) })) []))

/-- A thermal loop, heat-token plan, ceiling step, region park, thermal trip and the thermal status act on every die. One sample of a die takes its readings, steps the column model and its offset, checks every diode, sets the governing temperatures and the last 100 ms of the hottest, unparks regions once cool, and takes the I/O dies' diodes. A plan grants each column its heat tokens for both upper layers, sets each region's firing ratio and logs 0x4304 once an hour per region below factor 1. A ceiling step lowers or raises ceiling and pace. A region at its critical temperature parks with 0x4306. A trip logs 0x4307, asserts THERMTRIP#, trips the step with bit 8 unless the die runs a generation blank, drains and stops the die and halts the device. A served thermal status answers the 24 temperatures in whole degrees and the diodes' trust (byte layout log 96). -/
def Obligations.ThermalCommandsComplete : Prop :=
  (∀ (s : State) (d : Fin 4) (read : List Int) (act : List Nat), (s.main.core.get 2).runs = true →
    let m1 := s.main.updDp d.val (fun x => { x with
      offset := (List.range 8).foldl (fun (t : Table Int) r => t.put r (x.newOffset s.main.us r)) x.offset
      reading := (List.range 24).foldl (fun (t : Table Int) s => t.put s (read.getD s (x.reading.get s))) x.reading
      model := (List.range 24).foldl (fun (t : Table Int) n =>
        t.put n (Config.modelStep d.val n (x.model.get n) act s.main.pow.inlet + (((List.range 8).foldl (fun (t : Table Int) r => t.put r (x.newOffset s.main.us r)) x.offset).get (n / 3) / 10000 - x.offset.get (n / 3) / 10000))) x.model })
    let m2 := (List.range 24).foldl (fun m n => m.checkDiode d.val n) m1
    let m3 := m2.updDp d.val (fun x =>
      let g := (List.range 24).foldl (fun (t : Table Int) n => t.put n (x.governed d.val n)) x.govern
      { x with govern := g, hot := (m2.us, (g.map (·.2)).foldl max (g.get 0)) :: x.hot.filter (fun e => m2.us < e.1 + 100000) })
    let m4 := if ((m3.dpAt d.val).parkHot != 0 && (m3.dpAt d.val).cool) = true then (m3.updDp d.val (fun x => { x with parkHot := 0 })).reparked d.val else m3
    exec (.thermalLoop d read act) s = s.nextMain (m4.ioThermal (read.drop 24))) ∧
  (∀ (s : State) (d : Fin 4) (busy : List Nat), (s.main.core.get 2).runs = true →
    let x := s.main.dpAt d.val
    let grant := fun (l c : Nat) => BitVec.ofNat 5 (heatGrant (heatFactor (x.margin d.val c l)) (stackFactor (x.margin d.val c l) (busy.getD c 0)))
    let low := (List.range 8).filter (fun r => x.regionFactor d.val r < 1000000)
    let m1 := s.main.updDp d.val (fun y => { y with
      grantLo := (List.range 288).map (fun c => (c, grant 1 c))
      grantHi := (List.range 288).map (fun c => (c, grant 2 c))
      fireReg := (List.range 8).map (fun r => (r, BitVec.ofNat 5 ((16 * y.regionFactor d.val r + 999999) / 1000000)))
      throttled := low.foldl (fun t r => t ||| (1 <<< r)) 0 })
    exec (.heatTokenPlan d busy) s = s.nextMain (low.foldl (fun m r => if (m.dpAt d.val).hour4304.get r = s.main.sec / 3600 + 1 then m
      else (m.updDp d.val (fun x => { x with hour4304 := x.hour4304.put r (s.main.sec / 3600 + 1) })).log!
        { code := 0x4304, cls := .rec_, die := some d.val, par := p1 d.val ++ p1 r }) m1)) ∧
  (∀ (s : State) (d : Fin 4), (s.main.core.get 2).runs = true →
    let x := s.main.dpAt d.val
    exec (.dieThermalCeilingStep d) s = s.nextMain (if x.throttled = 0 then
        if x.cool then s.main.updDp d.val (fun x => { x with ceilTherm := if x.ceilTherm < 6 then x.ceilTherm + 1 else x.ceilTherm, fireTherm := if x.fireTherm < 16 then x.fireTherm + 1 else x.fireTherm })
        else s.main
      else if x.ceilTherm = 0 then s.main.updDp d.val (fun x => { x with fireTherm := if x.fireTherm > 1 && x.paceF != 0 then x.fireTherm - 1 else x.fireTherm })
      else (s.main.updDp d.val (fun x => { x with ceilTherm := x.ceilTherm - 1, fireTherm := if x.fireTherm > 1 && x.paceF != 0 then x.fireTherm - 1 else x.fireTherm })).log!
        { code := 0x4305, cls := .rec_, die := some d.val, par := p1 d.val })) ∧
  (∀ (s : State) (d : Fin 4) (r : Fin 8), (s.main.dpAt d.val).parkHot.getLsbD r.val = false →
    exec (.regionParkedAtCriticalTemperature d r) s = s.nextMain (((s.main.updDp d.val (fun x =>
      { x with parkHot := x.parkHot ||| (1#8 <<< r.val) })).reparked d.val).log! { code := 0x4306, cls := .rec_, die := some d.val, par := p1 d.val ++ p1 r.val })) ∧
  (∀ (s : State) (d : Fin 4), (s.main.dieAt d.val).tripped = false →
    let m1 := (s.main.log! { code := 0x4307, cls := .flt, die := some d.val, par := p1 d.val }).send .thermtrip
    let m2 := ((((m1.tripRun d.val).drain d.val).unhold d.val).dropTails d.val).forceGone d.val
    exec (.hardwareThermalTrip d) s = s.nextMain (((m2.updDie d.val (fun v => { v with tripped := true, staged := [] })).toIdle d.val).setState .halted)) ∧
  (∀ (s : State) (h : Hdr) (p : Payload),
    s.main.serves 0x0407 h p [(0, 2)] (reads := true) (owned := s.main.owns h.src (s.main.variant.diePart (bvAt p 0 1 % 4))) = true →
    let x := s.main.taken h.src
    let y := x.dpAt (bvAt p 0 1)
    let t := if bvAt p 1 1 = 0 then y.reading else if bvAt p 1 1 = 1 then y.model else y.govern
    let trust := ((List.range 24).map (fun n => (if y.diodeRet.getLsbD n then 2 else if y.distrust.getLsbD n then 1 else 0) * 4 ^ n)).sum
    (bvAt p 0 1 ≤ 3 ∧ bvAt p 1 1 ≤ 2) →
    exec (.thermalStatus h p) s = s.nextMain (s.main.done 0x0407 h (x) ((List.range 24).map (fun n => (n, 1, degrees (t.get n))) ++ [(24, 6, trust)])))

/-- Each meter event acts on the meter alone: energy, pulses, own clock, flags, and one log entry per named event. While the meter runs, an update adds the imported energy to a register of mWh that never passes its top (staying there is the model's, log 100), gives one verification pulse for each 100 mWh, counts a millisecond of operating time, takes power, voltage and current, sets the flags outside 48 to 58 V and above 80 A, and enters events 3 and 4 after more than 1 s. A pulse ends. A start counts a power cycle and enters event 1, 5 for a break not yet seen, and 6 for a failed self-test. A supply loss stops the meter with event 2; an opened cover is flagged for good and entered once. The first 1,024 entries are kept and all are counted. -/
def Obligations.MeterEventsComplete : Prop :=
  (∀ (s : State) (uj : Nat) (power volt curr : U32), s.meter.running = true →
    let n := s.meter.part + uj
    let e := min (2 ^ 64 - 1) (s.meter.energy.toNat + n / 3600000)
    let k := e / 100 - s.meter.energy.toNat / 100
    let u : Meter := { s.meter with energy := BitVec.ofNat 64 e, part := n % 3600000, pulse := s.meter.pulse || k != 0, pulses := s.meter.pulses + k, ms := if s.meter.ms + 1 = 1000 then 0 else s.meter.ms + 1, secs := if s.meter.ms + 1 = 1000 then s.meter.secs + 1 else s.meter.secs, power := power, volt := volt, curr := curr }
    let v : Bool := volt.toNat < 48000 || 58000 < volt.toNat
    let c : Bool := 80000 < curr.toNat
    let w : Meter := { u with fVolt := u.fVolt || v, fCurr := u.fCurr || c, voltFor := if v then u.voltFor + 1 else 0, currFor := if c then u.currFor + 1 else 0 }
    let y := if w.voltFor = 1001 then w.enter 3 else w
    exec (.meterUpdate uj power volt curr) s = s.nextMeter (if w.currFor = 1001 then y.enter 4 else y)) ∧
  (∀ (s : State), exec .verificationPulseEnd s = s.nextMeter { s.meter with pulse := false }) ∧
  (∀ (s : State) (broken selfTest : Bool), s.meter.running = false →
    let u := { s.meter with running := true, pcyc := s.meter.pcyc + 1, ms := 0, voltFor := 0, currFor := 0, fTest := selfTest }.enter 1
    let v := if broken = true ∧ s.meter.cover = false then { u with cover := true }.enter 5 else u
    exec (.meterStart broken selfTest) s = s.nextMeter (if selfTest then v.enter 6 else v)) ∧
  (∀ (s : State), s.meter.running = true →
    exec .meterSupplyLoss s = s.nextMeter ({ s.meter with running := false, fSupply := true, pulse := false }.enter 2) ∧
    (s.meter.cover = false → exec .coverOpened s = s.nextMeter ({ s.meter with cover := true }.enter 5)))

/-- The meter answers its requests, and a mirror frame copies its values to the main side alone. A running meter answers a record request with the next sequence number and clears the flags of the last record, a log request with the entries that exist or status 0x01 for a count outside 1 to 8, an identity request unsigned, and an SPDM request. A good frame copies energy, its gain since the last frame, power, voltage, current, flags and sequence to the main side, ends a loss with 0xA002 and logs 0xA004 for each flag new in this power cycle; a bad one only counts as dropped; both move the reading from which the next gain counts, and give the hourly advisory. A loss is logged once with 0xA001 and abandons a refit. A served status answers the mirrored values. The SPDM codes are the model's (log 101). -/
def Obligations.MeterReadingsAndMirrorComplete : Prop :=
  (∀ (s : State) (nonce : BitVec 256), s.meter.running = true →
    (let u : Meter := { s.meter with seq := s.meter.seq + 1 }
     exec (.readEnergyRecord nonce) s = s.nextMeter { u with fVolt := false, fCurr := false, fSupply := false, out := .vendor (p1 0 ++ u.record nonce) true :: u.out }) ∧
    (∀ (first : U16) (count : Byte),
      (count = 0 ∨ 8 < count.toNat → exec (.readLog nonce first count) s = s.nextMeter { s.meter with out := .vendor (p1 1) false :: s.meter.out }) ∧
      (count ≠ 0 ∧ count.toNat ≤ 8 → exec (.readLog nonce first count) s = s.nextMeter { s.meter with
        out := .vendor (p1 0 ++ toBytes 3 0 ++ bvBytes Config.meterSerial 16 ++ bvBytes nonce 32 ++
          ((s.meter.log.drop first.toNat).take count.toNat).flatMap MLog.bytes) true :: s.meter.out })) ∧
    exec (.meterIdentity nonce) s = s.nextMeter { s.meter with
      out := .vendor (p1 0 ++ bvBytes Config.meterSerial 16 ++ bvBytes Config.meterName 16 ++ p4 Config.meterVersion.toNat ++ bytesAt Config.meterHash 0 64) false :: s.meter.out } ∧
    (∀ (code : Byte) (body : List Byte), exec (.meterSpdmRequest code body) s = s.nextMeter { s.meter with out := Meter.spdm code body :: s.meter.out })) ∧
  (∀ (s : State) (seq power volt curr : U32), s.meter.running = true → s.main.sup.aux = true →
    let fresh : BitVec 6 := BitVec.ofNat 6 s.meter.flags &&& ~~~s.main.mir.logged
    let m1 := s.main.updMir (fun r => { r with energy := s.meter.energy, power := power, volt := volt, curr := curr, flags := BitVec.ofNat 16 s.meter.flags, seq := seq, lost := false, gain := BitVec.ofNat 32 (s.meter.energy.toNat - s.meter.framed.toNat), logged := r.logged ||| fresh })
    let m2 := if s.main.mir.lost then m1.log! { code := 0xA002, cls := .rec_ } else m1
    let m3 := ((List.range 6).filter fresh.getLsbD).foldl (fun m _ => m.log! { code := 0xA004, cls := .rec_, par := p2 s.meter.flags }) m2
    let w : Meter := { s.meter with framed := s.meter.energy }
    exec (.mirrorFrame seq power volt curr true) s = .next { s with main := m3.mirrorAdvise, meter := w } ∧
    exec (.mirrorFrame seq power volt curr false) s = .next { s with main := (s.main.updMir (fun r => { r with dropped := r.dropped + 1 })).mirrorAdvise, meter := w }) ∧
  (∀ (s : State), s.main.mir.lost = false → s.main.sup.aux = true →
    exec .mirrorLost s = s.nextMain (((s.main.updMir (fun r => { r with lost := true })).updPow (fun w => { w with refit := false })).log! { code := 0xA001, cls := .rec_ })) ∧
  (∀ (s : State) (h : Hdr) (p : Payload),
    s.main.serves 0x0420 h p [] (reads := true) = true →
    let x := s.main.taken h.src
    exec (.meterMirrorStatus h p) s = s.nextMain (s.main.done 0x0420 h (x) [(0, 8, x.mir.energy.toNat), (8, 4, x.mir.power.toNat), (12, 4, x.mir.volt.toNat), (16, 4, x.mir.curr.toNat),
      (20, 2, x.mir.flags.toNat), (22, 1, x.mir.lost.toNat), (24, 4, x.mir.dropped.toNat), (28, 4, x.mir.seq.toNat)]))

/-- BAR0 writes, commits, snapshots, mailbox handovers and completions, and the device commands act as R390 to R400 and R408 say. A served identity or status command answers its fields. An interrupt commit puts the staged vector map in force; a multi-commit applies every named block, or, where one would reject, only the rejections; a global snapshot copies this block's registers and every SN field. GO on a mailbox that software owns and no session has bound latches its settings and hands the command buffer over. A completion writes the oldest response to its host mailbox, tenant session or side-band mailbox, after what a pinned-pool setting leaves to its completion (R147). A side-band request of the owner to a free mailbox is handed over, to a busy one answered 0x82. An aligned write of 4 to 64 bytes fills a command buffer that software owns or the MSI-X table, and one of 4 or 8 bytes a register (the register map). -/
def Obligations.RegisterBlocksAndMailboxesComplete : Prop :=
  (∀ (s : State) (h : Hdr) (p : Payload),
    s.main.serves 0x0101 h p [] (reads := true) = true →
    let x := s.main.taken h.src
    exec (.deviceIdentity h p) s = s.nextMain (s.main.done 0x0101 h (x) [(0, 8, x.variant.name), (8, 16, x.serial.toNat), (24, 1, x.variant.code), (25, 1, 3), (26, 2, 1),
      (28, 4, if x.sup.state = .recovery || !x.fw.booted then 0 else (x.fw.bank x.fw.active).version)])) ∧
  (∀ (s : State) (h : Hdr) (p : Payload),
    s.main.serves 0x0102 h p [(0, 1)] (reads := true) (anyState := true) = true →
    let x := s.main.taken h.src
    bvAt p 0 1 = 0 →
    exec (.deviceStatus h p) s = s.nextMain (s.main.done 0x0102 h (x) [(0, 8, x.statusReg), (8, 4, x.opsec.toNat), (12, 3, x.pcyc.toNat), (16, 4, x.tickNow), (20, 4, x.cmds.toNat),
      (24, 4, x.log.next.toNat), (28, 2, x.log.recs.length), (30, 1, x.log.full.toNat)])) ∧
  (∀ (s : State) (h : Hdr) (p : Payload),
    s.main.serves 0x0102 h p [(0, 1)] (reads := true) (anyState := true) = true →
    let x := s.main.taken h.src
    bvAt p 0 1 = 1 →
    exec (.deviceStatus h p) s = s.nextMain (s.main.done 0x0102 h (x) [(0, 2, x.log.fcode.toNat), (2, 4, x.log.fseq.toNat)])) ∧
  (∀ (s : State) (v : U64), exec (.interruptCommit v) s =
      s.nextMain { s.main with intr := { s.main.intr with vmap := s.main.intr.stVmap, gen := s.main.intr.gen + 1 } }) ∧
  (∀ (s : State) (v : U64),
    let named := (List.range 5).filter v.getLsbD
    ((∀ b ∈ named, s.main.blockRejects b = false) → exec (.multiCommit v) s = s.nextMain (named.foldl Main.blockCommit s.main)) ∧
    ((∃ b ∈ named, s.main.blockRejects b = true) →
      exec (.multiCommit v) s = s.nextMain ((named.filter s.main.blockRejects).foldl Main.blockCommit s.main))) ∧
  (∀ (s : State) (v : U64),
    let n : Snap := { sseq := s.main.snap.sseq + 1, sopsec := s.main.opsec, stick := BitVec.ofNat 32 s.main.ms, scmds := s.main.cmds, snext := s.main.log.next }
    exec (.globalSnapshot v) s = s.nextMain ((({ s.main with snap := n }.regSnap).beatSnap).powSnap)) ∧
  (∀ (s : State) (k : BitVec 4) (v : U64),
    let m1 := s.main.updBox k.toNat (fun b => { b with done := b.done && !v.getLsbD 2, cie := v.getLsbD 3, cmem := v.getLsbD 4, vec := some (v.extractLsb' 8 6) })
    let b := m1.box.get k.toNat
    b.own = false → b.bound = false →
    exec (.mailboxGo k v) s = s.nextMain ((m1.updBox k.toNat (fun b => { b with own := true, done := false, lCie := b.cie, lCmem := b.cmem, lVec := v.extractLsb' 8 6, lOffs := b.offs })).handOver (.host (BitVec.ofNat 4 k.toNat)) b.cmd)) ∧
  (∀ (s : State) (visible : Bool) (r : Resp) (rest : List Resp), s.main.resps = r :: rest → (s.main.core.get 0).runs = true →
    let next : Main := { s.main with resps := rest, cmds := s.main.cmds + 1 }
    let w := next.poolDone r
    (∀ k, w.2.src = .host k → exec (.commandCompletion visible) s = s.nextMain (w.1.completeHost k.toNat w.2 visible)) ∧
    (∀ q, w.2.src = .tenant q → exec (.commandCompletion visible) s = s.nextMain (w.1.completeTenant q.toNat w.2)) ∧
    (∀ k, w.2.src = .side k → (s.main.core.get 3).runs = true →
      let out := w.2.bytes ((s.main.side.get k.toNat).seq + 1) s.main.us
      exec (.commandCompletion visible) s = s.nextMain (Main.send { w.1 with side := s.main.side.put k.toNat { busy := false, seq := (s.main.side.get k.toNat).seq + 1, resp := out } } (.side (k.setWidth 8) 0x81 out)))) ∧
  (∀ (s : State) (eid : Byte) (body : List Byte), s.main.sup.aux = true → (s.main.core.get 3).runs = true →
    s.main.sb.eid ≠ 0 → eid = s.main.sb.owner → body.length = 66 → natAt body 0 1 = 1 → natAt body 1 1 ≤ 3 →
    ((s.main.side.get (natAt body 1 1)).busy = true → exec (.sidebandMailboxRequest eid body) s = s.nextMain (s.main.send (.side (BitVec.ofNat 8 (natAt body 1 1)) 0x82 0))) ∧
    ((s.main.side.get (natAt body 1 1)).busy = false → exec (.sidebandMailboxRequest eid body) s =
      s.nextMain ({ s.main with side := s.main.side.upd (natAt body 1 1) (fun b => { b with busy := true }) }.handOver
        (.side (BitVec.ofNat 2 (natAt body 1 1))) (bvOf 512 (body.drop 2))))) ∧
  (∀ (s : State) (off : BitVec 22) (size : BitVec 7) (v : BitVec 512),
    size.toNat ∈ [4, 8, 16, 32, 64] → off.toNat % size.toNat = 0 →
    (inCmd off.toNat = true → let k := (off.toNat - 0x10000) / 0x100
      exec (.registerWrite off size v) s = s.nextMain (if (s.main.box.get k).own || (s.main.box.get k).bound then s.main
        else s.main.updBox k (fun b => { b with cmd := putBytes b.cmd (off.toNat % 0x100) size.toNat v }))) ∧
    (inMsix off.toNat = true → exec (.registerWrite off size v) s = s.nextMain (s.main.updIntr (fun i =>
      { i with table := (List.range size.toNat).foldl (fun t j => cellPut t (off.toNat - 0x3F0000 + j) (bvByte v j)) i.table }))) ∧
    (inCmd off.toNat = false → inMsix off.toNat = false → size.toNat = 8 →
      exec (.registerWrite off size v) s = s.nextMain (s.main.regSet (off.toNat / 8 * 8) (v.setWidth 64 <<< (8 * (off.toNat % 8))) 0xFFFFFFFFFFFFFFFF)) ∧
    (inCmd off.toNat = false → inMsix off.toNat = false → size.toNat = 4 →
      exec (.registerWrite off size v) s = s.nextMain (s.main.regSet (off.toNat / 8 * 8) (v.setWidth 64 <<< (8 * (off.toNat % 8))) (0xFFFFFFFF <<< (8 * (off.toNat % 8))))))

/-- The ring log is read, cleared and keyed under an authorisation, and copied to flash. A served 0x0701 answers the 32 bytes of a record that exists, 0x0702 the log's counters. GET_NONCE gives 128 random bits (a free value), puts them in force and empties the requester's staging buffer; a chunk of 24 bytes is staged. With an object that meets R469 and names a signer R470 allows, CLEAR empties the log, counts the clear and makes 0xF010 its record 0, and SET_LOG_CLEAR_KEY replaces the key with 0xF011, where the signature verifies; where it fails the status is 0x09. Either uses up object and nonce. The nonce expires; a flash program copies one more record; the operating seconds are saved. -/
def Obligations.RingLogCommandsComplete : Prop :=
  (∀ (s : State) (h : Hdr) (p : Payload) (r : LogRec), s.main.serves 0x0701 h p [(0, 4)] (reads := true) = true →
    s.main.log.recs[bvAt p 0 4]? = some r →
    exec (.readRecord h p) s = s.nextMain ((s.main.taken h.src).reply 0x0701 h (s.main.taken h.src, 0, r.bits))) ∧
  (∀ (s : State) (h : Hdr) (p : Payload),
    s.main.serves 0x0702 h p [] (reads := true) = true →
    let x := s.main.taken h.src
    exec (.ringLogStatus h p) s = s.nextMain (s.main.done 0x0702 h (x) [(4, 4, x.log.next.toNat), (8, 4, x.log.recs.length), (12, 4, (x.log.recs.headD {}).seq), (16, 4, x.log.lost.toNat), (20, 4, x.log.clears.toNat),
      (24, 1, x.log.full.toNat + 2 * x.log.key.isSome.toNat)])) ∧
  (∀ (s : State) (h : Hdr) (p : Payload),
    s.main.serves 0x0704 h p [] = true →
    let x := s.main.taken h.src
    let n : BitVec 128 := (Config.random x.draws).setWidth 128
    exec (.getNonce h p) s = s.nextMain (s.main.done 0x0704 h ((x.draw.updLog (fun l => { l with nonce := some n })).setStaged (Src.isSide h.src) []) [(8, 16, n.toNat)])) ∧
  (∀ (s : State) (h : Hdr) (p : Payload),
    s.main.serves 0x0705 h p [(0, 1), (8, 24)] = true →
    let x := s.main.taken h.src
    (bvAt p 0 1 < 10 ∨ bvAt p 0 1 = 10 ∧ bvAt p 10 22 = 0) →
    exec (.stageAuthorisation h p) s = s.nextMain (s.main.done 0x0705 h (x.setStaged (Src.isSide h.src) ((List.range 24).foldl (fun b i => cellPut b (24 * bvAt p 0 1 + i) (bvByte p (8 + i))) (x.staged (Src.isSide h.src)))) [])) ∧
  (∀ (s : State) (h : Hdr) (p : Payload) (k : BitVec 456), s.main.serves 0x0703 h p [] = true →
    let x := s.main.taken h.src
    let b := x.authBytes (Src.isSide h.src)
    x.authFits b 1 = true → x.authKey b 1 = some k →
    let y := x.authUse (Src.isSide h.src)
    exec (.clear h p) s = s.nextMain (if Config.edVerify k (b.take 128) (bvOf 912 (bytesAt b 128 114)) = true then s.main.done 0x0703 h (y.clearLog (natAt b 5 1) (Src.isSide h.src)) []
      else x.reply 0x0703 h (reject y 9))) ∧
  (∀ (s : State) (h : Hdr) (p : Payload) (k : BitVec 456), s.main.serves 0x0706 h p [] = true →
    let x := s.main.taken h.src
    let b := x.authBytes (Src.isSide h.src)
    x.authFits b 2 = true → x.authKey b 2 = some k →
    let y := x.authUse (Src.isSide h.src)
    exec (.setLogClearKey h p) s = s.nextMain (if Config.edVerify k (b.take 128) (bvOf 912 (bytesAt b 128 114)) = true then s.main.done 0x0706 h ((y.updLog (fun l => { l with key := some (bvOf 456 (bytesAt b 40 57)) })).log! { code := 0xF011, cls := .rec_, par := p1 (natAt b 5 1) }) []
      else x.reply 0x0706 h (reject y 9))) ∧
  (∀ (s : State),
    exec .nonceExpiry s = s.nextMain (s.main.updLog (fun l => { l with nonce := none })) ∧
    exec .logFlashProgram s = s.nextMain (s.main.updLog (fun l => { l with flashed := min l.recs.length (l.flashed + 1) })) ∧
    exec .operatingSecondsSave s = s.nextMain { s.main with opSaved := s.main.opsec })

/-- Each TCS 2 command does what its TCS 3 command does, and an unknown opcode is answered with status 6. A served TCS 2 command, whose 16 payload bytes beyond the TCS 3 payload are 0, acts as its TCS 3 command on the first 32 bytes and answers in the TCS 2 form: identity, status, a job opened as a Vane job, an image staged with format 3 refused, a forced rechuck, a closed job, an opened step, the requester's power cap with boost allowed and no die caps, the power status, and a log record. An opcode outside the table is dropped from the queue and answered with TCS 3 status 0x06. -/
def Obligations.Tcs2CommandsComplete : Prop :=
  (∀ (s : State) (h : Hdr) (pw : BitVec 384),
    s.main.serves 0x0101 h (low pw) [] (reads := true) (high := highZero pw) = true →
    let x := s.main.taken h.src
    exec (.identify h pw) s = s.nextMain (s.main.done 0x0101 h (x) [(0, 8, x.variant.name), (8, 16, x.serial.toNat), (24, 1, x.variant.code), (25, 1, 3), (26, 2, 1),
      (28, 4, if x.sup.state = .recovery || !x.fw.booted then 0 else (x.fw.bank x.fw.active).version)] true)) ∧
  (∀ (s : State) (h : Hdr) (pw : BitVec 384),
    s.main.serves 0x0102 h (low pw) [(0, 1)] (reads := true) (high := highZero pw) (anyState := true) = true →
    let x := s.main.taken h.src
    bvAt (low pw) 0 1 = 0 →
    exec (.status h pw) s = s.nextMain (s.main.done 0x0102 h (x) [(0, 8, x.statusReg), (8, 4, x.opsec.toNat), (12, 3, x.pcyc.toNat), (16, 4, x.tickNow), (20, 4, x.cmds.toNat),
      (24, 4, x.log.next.toNat), (28, 2, x.log.recs.length), (30, 1, x.log.full.toNat)] true)) ∧
  (∀ (s : State) (h : Hdr) (pw : BitVec 384),
    s.main.serves 0x0201 h (low pw) [(0, 5), (6, 22)] (high := highZero pw && openRsv (low pw)) = true →
    let x := s.main.taken h.src
    (low pw).extractLsb' 32 4 ≠ (0 : BitVec 4) →
    (bvAt (low pw) 0 4 ≠ 0 ∧ x.job? (bvAt (low pw) 0 4) = none) →
    (∀ d ∈ diesOf ((low pw).extractLsb' 32 4), (x.dieAt d).job = 0) →
    (1 ≤ bvAt (low pw) 6 2 ∧ bvAt (low pw) 6 2 ≤ 32768) →
    (bvAt (low pw) 16 4 = 0 ∨ (10 ≤ bvAt (low pw) 16 4 ∧ bvAt (low pw) 16 4 ≤ 600000)) →
    bvAt (low pw) 24 4 ≤ 3600 →
    x.ownsDies h.src ((low pw).extractLsb' 32 4) = true →
    (x.sup.tlock = true → ∀ d ∈ diesOf ((low pw).extractLsb' 32 4), x.partOn = true ∧ x.sealed (x.variant.diePart d) = true) →
    exec (.openJob h pw) s = s.nextMain (s.main.done 0x0201 h (let ds := diesOf ((low pw).extractLsb' 32 4)
      let m1 := (x.setJob (bvAt (low pw) 0 4)
        { dies := (low pw).extractLsb' 32 4, ranks := bvAt (low pw) 6 2, seed := (low pw).extractLsb' 64 64
          timeout := if bvAt (low pw) 16 4 = 0 then 10000 else bvAt (low pw) 16 4
          limit := if bvAt (low pw) 24 4 = 0 then 600 else bvAt (low pw) 24 4
          step := (low pw).extractLsb' 160 32, vane := true
          tenant := match h.src with
            | .tenant q => some q
            | _ => none
          disc := (x.assigned.get (bvAt (low pw) 0 4)).disc
          guard := if (x.assigned.get (bvAt (low pw) 0 4)).disc = .eagerInPlace then 0 else 0x3f
          key := some (match h.src with
            | .tenant q => (x.partAt q.toNat).opens.toNat
            | _ => x.draws) }).draw
      let m2 := match h.src with
        | .tenant q => m1.updPart q.toNat (fun x => { x with opens := x.opens + 1 })
        | _ => m1
      ds.foldl (fun m d => m.updDie d (fun v => { v with job := BitVec.ofNat 32 (bvAt (low pw) 0 4), storeJob := 0, shavings := none }))
        { m2 with region := m2.region.filter (fun r => !ds.contains (r.1 / 1024)) }) [] true)) ∧
  (∀ (s : State) (h : Hdr) (pw : BitVec 384) (j : Job) (m1 : Main) (img : List Byte) (b : Blank),
    s.main.serves 0x0210 h (low pw) [(0, 13), (16, 8)] (owned := (bvAt (low pw) 12 1 > 3 || s.main.owns h.src (s.main.variant.diePart (bvAt (low pw) 12 1)))) (high := highZero pw) = true →
    let x := s.main.taken h.src
    bvAt (low pw) 12 1 ≤ 3 →
    bvAt (low pw) 0 8 % 64 = 0 →
    x.job? (bvAt (low pw) 16 4) = some j →
    j.dies.getLsbD (bvAt (low pw) 12 1) = true →
    (x.dieAt (bvAt (low pw) 12 1)).shavings ≠ none →
    (x.dieAt (bvAt (low pw) 12 1)).staged.length < 4 →
    ¬ ((x.sramAt (bvAt (low pw) 12 1)).below = true ∧ (x.sramAt (bvAt (low pw) 12 1)).live < 0x10000000) →
    (64 ≤ bvAt (low pw) 8 4 ∧ bvAt (low pw) 8 4 ≤ 0x4000000 ∧ bvAt (low pw) 8 4 % 64 = 0) →
    x.daGet (x.diePartOf (bvAt (low pw) 12 1)) (bvAt (low pw) 0 8) (bvAt (low pw) 8 4) = (m1, some img) →
    imageChk (m1.stageEnv (bvAt (low pw) 12 1) j (bvAt (low pw) 16 4) (bvAt (low pw) 20 4) (bvAt (low pw) 8 4) true) img (bvAt (low pw) 0 8) = .ok b →
    exec (.loadImage h pw) s = s.nextMain (s.main.done 0x0210 h (m1.updDie (bvAt (low pw) 12 1) (fun v => { v with staged := v.staged ++ [b] })) [(0, 1, (x.dieAt (bvAt (low pw) 12 1)).staged.length), (1, 1, 0), (4, 4, 0)] true)) ∧
  (∀ (s : State) (h : Hdr) (pw : BitVec 384),
    s.main.serves 0x0211 h (low pw) [(0, 2)] (owned := s.main.ownsDies h.src (pw.extractLsb' 0 4)) (high := highZero pw && forcedRsv (low pw)) = true →
    let x := s.main.taken h.src
    (∀ d ∈ diesOf ((low pw).extractLsb' 0 4), ∀ q ∈ x.groupOf d, ((low pw).extractLsb' 0 4).getLsbD q = true) →
    exec (.resetDie h pw) s = s.nextMain (s.main.done 0x0211 h ((diesOf ((low pw).extractLsb' 0 4)).foldl (fun m d => m.force ((low pw).getLsbD 8) d) x) [] true)) ∧
  (∀ (s : State) (h : Hdr) (pw : BitVec 384) (j : Job),
    s.main.serves 0x0202 h (low pw) [(0, 5)] (owned := s.main.ownsJob h.src (bvAt pw 0 4)) (high := highZero pw && bvAt pw 4 1 < 2) = true →
    s.main.job? (bvAt (low pw) 0 4) = some j → j.stepOpen = false →
    exec (.closeJob h pw) s = s.nextMain ((s.main.done 0x0202 h ((s.main.taken h.src).closeJob (bvAt (low pw) 0 4)) [] true).deferClose (bvAt pw 0 4))) ∧
  (∀ (s : State) (h : Hdr) (pw : BitVec 384) (j : Job),
    s.main.serves 0x0203 h (low pw) [(0, 8)] (owned := s.main.ownsJob h.src (bvAt pw 0 4)) (high := highZero pw) = true →
    let x := s.main.taken h.src
    x.job? (bvAt (low pw) 0 4) = some j →
    j.stepOpen = false →
    (j.unrec = false ∧ j.restoring = false) →
    (low pw).extractLsb' 32 32 = j.step →
    exec (.step h pw) s = s.nextMain (s.main.done 0x0203 h (((x.setJob (bvAt (low pw) 0 4) (j.opening x.ms)).maskAll (bvAt (low pw) 0 4)).jitNote (bvAt (low pw) 0 4)) [] true)) ∧
  (∀ (s : State) (h : Hdr) (pw : BitVec 384), s.main.serves 0x0402 h (low pw) [(0, 2)] (high := highZero pw) = true →
    let x := s.main.taken h.src
    let cap := bvAt (low pw) 0 2
    let c : CapCfg := { cap := some (BitVec.ofNat 12 cap), boost := true }
    let b := x.updPow (fun w => { w with stBoard := c, board := c })
    let y := if Src.isSide h.src then (if (x.capOf x.pow.board != cap || x.pow.board.boost != true) = true then b.setCause 6 else b)
      else (List.range 4).foldl (fun (m : Main) d => m.updDp d (fun z => { z with stCap := 0, cap := 0 })) (x.updPow (fun w => { w with stHost := c, host := c }))
    x.capFits cap = true →
    exec (.setPowerLimit h pw) s = s.nextMain (s.main.done 0x0402 h y ((0, 1, if cap < y.floorDraw then 3 else 0) :: y.capFields) true)) ∧
  (∀ (s : State) (h : Hdr) (pw : BitVec 384),
    s.main.serves 0x0406 h (low pw) [] (reads := true) (high := highZero pw) = true →
    let x := s.main.taken h.src
    exec (.readPower h pw) s = s.nextMain (s.main.done 0x0406 h (x) [(0, 8, x.pow.snA.toNat), (8, 8, x.pow.snB.toNat), (16, 2, min 65535 x.pow.disagree),
      (18, 1, (x.dpAt 0).ballast.toNat), (19, 1, (x.dpAt 1).ballast.toNat), (20, 1, (x.dpAt 2).ballast.toNat), (21, 1, (x.dpAt 3).ballast.toNat)] true)) ∧
  (∀ (s : State) (h : Hdr) (pw : BitVec 384) (r : LogRec), s.main.serves 0x0701 h (low pw) [(0, 4)] (reads := true) (high := highZero pw) = true →
    s.main.log.recs[bvAt (low pw) 0 4]? = some r →
    exec (.tcs2ReadLog h pw) s = s.nextMain ((s.main.taken h.src).reply 0x0701 h (s.main.taken h.src, 0, r.bits) true)) ∧
  (∀ (s : State) (h : Hdr) (op : Byte) (pw : BitVec 384), s.main.takes h.src = true → op.toNat ∉ tcs2Ops →
    let r : Resp := { src := h.src, tcs2 := true, op := op.setWidth 16, tag := h.tag, status := 6, since := s.main.us }
    exec (.tcs2UnsupportedOpcode h op pw) s = s.nextMain { s.main with queue := dropQueued h.src s.main.queue, resps := s.main.resps ++ [r] })

/-- The side-band endpoint takes its addresses and answers the MCTP control and PLDM type 0 and 2 requests. While the endpoint answers, it takes a dynamic address, falls back to SMBus with 0xF006, takes an endpoint ID with its assigner, and answers its ID, UUID, versions, message types and vendor set. It answers terminus ID, PLDM versions, types and commands; outside recovery the PDR of a record number, the numeric sensor or the state sensor of a sensor number (or that it has none), the event receiver, and the oldest pending event record as an OEM event. Message layouts and codes are those the DMTF specifications give (log 124); record and sensor numbers are the endpoint's (log 125). -/
def Obligations.SidebandManagementComplete : Prop :=
  (∀ (s : State) (a : BitVec 7), s.main.sideUp = true →
    exec (.entdaa a) s = s.nextMain ((s.main.updSb (fun x => { x with dyn := some a })).send (.i3c a))) ∧
  (∀ (s : State), s.main.sideUp = true →
    exec (.smbusFallback) s = s.nextMain ((s.main.updSb (fun x => { x with smbus := true })).log! { code := 0xF006, cls := .rec_ })) ∧
  (∀ (s : State) (sender op eid : Byte), s.main.sideUp = true →
    op ≤ 1 →
    eid ≠ 0 →
    eid ≠ 0xFF →
    exec (.setEndpointId sender op eid) s = s.nextMain ((s.main.updSb (fun x => { x with eid := eid, owner := sender })).send (.mctp [0x01, 0x00, 0, eid, 0]))) ∧
  (∀ (s : State), s.main.sideUp = true →
    exec (.getEndpointId) s = s.nextMain (s.main.send (.mctp [0x02, 0x00, s.main.sb.eid, 0, 0]))) ∧
  (∀ (s : State), s.main.sideUp = true →
    exec (.getEndpointUuid) s = s.nextMain (s.main.send (.mctp (0x03 :: 0x00 :: bvBytes Config.uuid 16)))) ∧
  (∀ (s : State) (ty : Byte), s.main.sideUp = true →
    (ty = 0xFF ∨ ty ∈ mctpTypes) →
    exec (.getMctpVersionSupport ty) s = s.nextMain (s.main.send (.mctp (0x04 :: 0x00 :: (p1 1 ++ p4 (Config.mctpVersion ty.toNat).toNat))))) ∧
  (∀ (s : State), s.main.sideUp = true →
    exec (.getMessageTypeSupport) s = s.nextMain (s.main.send (.mctp [0x05, 0x00, 5, 0x00, 0x01, 0x05, 0x06, 0x7E]))) ∧
  (∀ (s : State) (sel : Byte), s.main.sideUp = true →
    sel = 0 →
    exec (.getVendorDefinedMessageSupport sel) s = s.nextMain (s.main.send (.mctp (0x06 :: 0x00 :: (p1 0xFF ++ p1 1 ++ p4 Config.enterprise.toNat))))) ∧
  (∀ (s : State), s.main.sideUp = true →
    exec (.gettid) s = s.nextMain (s.main.send (.pldm 0x02 [0, 0x00, s.main.sb.tid]))) ∧
  (∀ (s : State) (ty : Byte), s.main.sideUp = true →
    ty.toNat ∈ s.main.pldmTypes →
    exec (.getpldmversion ty) s = s.nextMain (s.main.send (.pldm 0x03 (0 :: 0x00 :: p4 (Config.pldmVersion ty.toNat).toNat)))) ∧
  (∀ (s : State), s.main.sideUp = true →
    exec (.getpldmtypes) s = s.nextMain (s.main.send (.pldm 0x04 (0 :: 0x00 :: bitMap 8 s.main.pldmTypes)))) ∧
  (∀ (s : State) (ty : Byte), s.main.sideUp = true →
    ty.toNat ∈ s.main.pldmTypes →
    exec (.getpldmcommands ty) s = s.nextMain (s.main.send (.pldm 0x05 (0 :: 0x00 :: bitMap 32 (pldmCommands ty.toNat))))) ∧
  (∀ (s : State) (record : U32), s.main.sideUp = true →
    s.main.sup.state ≠ .recovery →
    exec (.getpdr record) s = s.nextMain (s.main.send (.pldm 0x51 (match Config.pdr record with | some b => 2 :: 0x00 :: b | none => [2, 0x82])))) ∧
  (∀ (s : State) (id : U16), s.main.sideUp = true →
    s.main.sup.state ≠ .recovery →
    exec (.getsensorreading id) s = s.nextMain (s.main.send (.pldm 0x11 (match s.main.sensors[Config.sensorPlace id]? with | some v => 2 :: 0x00 :: p4 (v % 2 ^ 32).toNat | none => [2, 0x80])))) ∧
  (∀ (s : State) (id : U16), s.main.sideUp = true →
    s.main.sup.state ≠ .recovery →
    exec (.getstatesensorreadings id) s = s.nextMain (s.main.send (.pldm 0x21 (if Config.sensorPlace id = s.main.sensors.length then 2 :: 0x00 :: p1 s.main.sup.state.num else [2, 0x80])))) ∧
  (∀ (s : State) (enable eid : Byte), s.main.sideUp = true →
    s.main.sup.state ≠ .recovery →
    enable ≤ 2 →
    exec (.seteventreceiver enable eid) s = s.nextMain ((s.main.updSb (fun x => { x with recv := if enable = 1 then some eid else none })).send (.pldm 0x04 [2, 0x00]))) ∧
  (∀ (s : State) (r : BitVec 256) (rest : List (BitVec 256)), s.main.sideUp = true →
    s.main.sup.state ≠ .recovery →
    s.main.sb.events = r :: rest →
    exec (.pollforplatformeventmessage) s = s.nextMain ((s.main.updSb (fun x => { x with events := rest })).send (.pldm 0x0B (2 :: 0x00 :: 0xFA :: bvBytes r 32))))

/-- A firmware update over the side-band goes from its request through the component table, the transfer and activation, and can be cancelled. While the endpoint answers, it names its identifiers and its one component's active and pending versions. With no update in progress a request for one component starts an update of the side-band at U1; the component table moves to the next state; an update of the component sets the package length and asks for data; a chunk is appended, runs U1 once the manifest is there, and asks for the next or ends the transfer. Activation selects the new bank where nothing stands against it; the status answers transfer, state and step; a cancellation aborts an update of the side-band or ends the transfer. The codes are those the DMTF specification gives (log 124), the chunk size the model's (log 126). -/
def Obligations.SidebandUpdateComplete : Prop :=
  (∀ (s : State), s.main.sideUp = true →
    exec (.querydeviceidentifiers) s = s.nextMain (s.main.send (.pldm 0x01 (5 :: 0x00 :: Config.pldmIds)))) ∧
  (∀ (s : State), s.main.sideUp = true →
    let f := s.main.fw
    exec (.getfirmwareparameters) s = s.nextMain (s.main.send (.pldm 0x02 (5 :: 0x00 :: (p2 1 ++ p4 (f.bank f.active).version ++ p4 (if f.trial && f.selB != f.active then (f.bank f.selB).version else 0)))))) ∧
  (∀ (s : State) (comps : U16), s.main.sideUp = true →
    s.main.fw.st ≠ 1 →
    s.main.fw.fd = 0 →
    comps = 1 →
    exec (.requestupdate comps) s = s.nextMain ((s.main.updFw (fun f => { f with st := 1, step := 1, side := true, man := [], blocks := 0, comp := 0, outp := [], plen := 0, pldm := some [], fd := 1 })).send (.pldm 0x10 [5, 0x00]))) ∧
  (∀ (s : State) (comp : U16), s.main.sideUp = true →
    s.main.fw.fd = 1 →
    exec (.passcomponenttable comp) s = s.nextMain ((s.main.updFw (fun f => { f with fd := 2 })).send (.pldm 0x13 [5, 0x00]))) ∧
  (∀ (s : State) (comp : U16) (size : U32), s.main.sideUp = true →
    s.main.fw.fd = 2 →
    exec (.updatecomponent comp size) s = s.nextMain (((s.main.updFw (fun f => { f with fd := 3, plen := size.toNat })).send (.pldm 0x14 [5, 0x00])).requestData)) ∧
  (∀ (s : State) (d : List Byte), s.main.sideUp = true →
    s.main.fw.fd = 3 →
    let m1 := s.main.updFw (fun f => { f with pldm := f.pldm.map (fun l => (l ++ d).take f.plen) })
    let whole : Bool := decide (m1.fw.plen ≤ m1.received.length)
    let m2 := if (decide (m1.fw.step = 1) && (whole || decide (4096 ≤ m1.received.length))) = true then m1.transferStart else m1
    exec (.requestfirmwaredataResponse d) s = s.nextMain (if m2.fw.fd ≠ 3 then m2 else if whole then (m2.updFw (fun f => { f with fd := 4 })).send (.pldm 0x16 [5, 0]) else m2.requestData)) ∧
  (∀ (s : State), s.main.sideUp = true →
    s.main.activateReason = 0 →
    exec (.activatefirmware) s = s.nextMain ((s.main.activateBank.updFw (fun f => { f with fd := 0 })).send (.pldm 0x1A [5, 0x00]))) ∧
  (∀ (s : State), s.main.sideUp = true →
    exec (.getstatus) s = s.nextMain (s.main.send (.pldm 0x1B (5 :: 0x00 :: (p1 s.main.fw.fd ++ p1 s.main.fw.st.toNat ++ p1 s.main.fw.step))))) ∧
  (∀ (s : State), s.main.sideUp = true →
    exec (.cancelupdate) s = s.nextMain (if (decide (s.main.fw.st = 1) && s.main.fw.side) = true then (s.main.abortUpdate 0).send (.pldm 0x1D [5, 0x00])
      else if s.main.fw.fd = 0 then s.main.send (.pldm 0x1D [5, 0x80])
      else (s.main.updFw (fun f => { f with fd := 0 })).send (.pldm 0x1D [5, 0x00])))

/-- The SPDM responder negotiates, answers digests, certificate and challenge, and gives the measurement blocks. While the responder runs, a version request restarts the negotiation with 1.2 and 1.3, capabilities follow it, and algorithms follow those. Once negotiated, it answers the digest of slot 0, a portion of its certificate chain and what remains, a challenge on slot 0 signed over chain digest and nonce, and measurements: all blocks for index 0xFF, their number for index 0, or one that exists, with the nonce where a signature is asked. Message codes and capability bits are those of log 101, the order of negotiation of log 112. -/
def Obligations.AttestationComplete : Prop :=
  (∀ (s : State),
    s.main.spdmUp = true →
    exec (.getVersion) s = s.nextMain ((s.main.updSpdm (fun x => { x with version := true, caps := false, algs := false })).send (.spdm 0x04 [0x12, 0x13] false))) ∧
  (∀ (s : State) (caps : U32),
    s.main.spdmUp = true →
    s.main.spdm.version = true →
    exec (.getCapabilities caps) s = s.nextMain ((s.main.updSpdm (fun x => { x with caps := true })).send (.spdm 0x61 (p4 capFlags) false))) ∧
  (∀ (s : State) (ok : Bool),
    s.main.spdmUp = true →
    (s.main.spdm.version = true ∧ s.main.spdm.caps = true) →
    ok = true →
    exec (.negotiateAlgorithms ok) s = s.nextMain ((s.main.updSpdm (fun x => { x with algs := true })).send (.spdm 0x63 [] false))) ∧
  (∀ (s : State),
    s.main.spdmUp = true →
    (s.main.spdm.version = true ∧ s.main.spdm.caps = true ∧ s.main.spdm.algs = true) →
    exec (.getDigests) s = s.nextMain (s.main.send (.spdm 0x01 (0x01 :: Config.sha3 s.main.chain) false))) ∧
  (∀ (s : State) (off len : U16),
    s.main.spdmUp = true →
    (s.main.spdm.version = true ∧ s.main.spdm.caps = true ∧ s.main.spdm.algs = true) →
    let part := (s.main.chain.drop off.toNat).take len.toNat
    exec (.getCertificate 0 off len) s = s.nextMain (if s.main.chain.length ≤ off.toNat then s.main.spdmErr 0x01 else s.main.send (.spdm 0x02 (p2 part.length ++ p2 (s.main.chain.length - off.toNat - part.length) ++ part) false))) ∧
  (∀ (s : State) (nonce : BitVec 256),
    s.main.spdmUp = true →
    (s.main.spdm.version = true ∧ s.main.spdm.caps = true ∧ s.main.spdm.algs = true) →
    exec (.challenge 0 nonce) s = s.nextMain (s.main.send (.spdm 0x03 (Config.sha3 s.main.chain ++ bvBytes nonce 32) true))) ∧
  (∀ (s : State) (sign : Bool) (nonce : BitVec 256),
    s.main.spdmUp = true →
    (s.main.spdm.version = true ∧ s.main.spdm.caps = true ∧ s.main.spdm.algs = true) →
    let all := [1, 2, 3, 4, 5, 6, 7, 16, 17, 18, 19].filter (fun i => (s.main.measure i).isSome)
    let tail := if sign then bvBytes nonce 32 else []
    exec (.getMeasurements 0xFF sign nonce) s = s.nextMain (s.main.send (.spdm 0x60 (p1 all.length ++ all.flatMap s.main.block ++ tail) sign))) ∧
  (∀ (s : State) (index : Byte) (sign : Bool) (nonce : BitVec 256),
    s.main.spdmUp = true →
    (s.main.spdm.version = true ∧ s.main.spdm.caps = true ∧ s.main.spdm.algs = true) →
    index ≠ 0xFF →
    (index = 0 ∨ (s.main.measure index.toNat).isSome = true) →
    let all := [1, 2, 3, 4, 5, 6, 7, 16, 17, 18, 19].filter (fun i => (s.main.measure i).isSome)
    let tail := if sign then bvBytes nonce 32 else []
    exec (.getMeasurements index sign nonce) s = s.nextMain (if index = 0 then s.main.send (.spdm 0x60 (p1 all.length ++ tail) sign) else s.main.send (.spdm 0x60 (p1 1 ++ s.main.block index.toNat ++ tail) sign)))

/-- Sessions begin, live and end, and a session claims, attaches to, commands and releases its partition. A ninth session excepted, and outside recovery, a key exchange adds a session; FINISH establishes it where its MAC verifies and ends it otherwise; in an established session a heartbeat is answered, keys are updated, the session ends; a heartbeat timeout ends it. A claim whose preconditions hold scrubs and seals the partition, counts the claim, holds keys, idle limit and seal area, restarts the tenants' counter, binds the mailboxes and logs 0x7101. An attach with the holder's signature moves the partition to the session with 0x7103, and one whose signature fails is answered with status 4. A release and an inactivity timeout start the release, and a tenant command of the partition sealed to the session is handed over. -/
def Obligations.SessionsAndClaimsComplete : Prop :=
  (∀ (s : State) (doe : Bool) (ex : BitVec 768),
    s.main.spdmUp = true →
    (s.main.spdm.version = true ∧ s.main.spdm.caps = true ∧ s.main.spdm.algs = true) →
    s.main.sup.state ≠ .recovery →
    s.main.spdm.sess.length < 8 →
    let x : Session := { id := s.main.spdm.next, doe := doe }
    exec (.keyExchange doe ex) s = s.nextMain ((s.main.updSpdm (fun z => { z with sess := z.sess ++ [x], next := z.next + 1 })).send (.spdm 0x64 (p4 x.id.toNat) true))) ∧
  (∀ (s : State) (sid : U32) (mac : BitVec 512) (x : Session),
    s.main.spdmUp = true →
    (s.main.spdm.version = true ∧ s.main.spdm.caps = true ∧ s.main.spdm.algs = true) →
    s.main.session? sid = some x →
    x.est = false →
    exec (.finish sid mac) s = s.nextMain (if Config.finishOk sid mac then (s.main.updSession sid (fun x => { x with est := true })).send (.spdm 0x65 [] false)
      else (s.main.endSession sid).send (.spdm 0x7F [0x06, 0] false))) ∧
  (∀ (s : State) (sid : U32),
    s.main.spdmUp = true →
    (s.main.session? sid).any (·.est) = true →
    exec (.heartbeat sid) s = s.nextMain (s.main.send (.spdm 0x68 [] false))) ∧
  (∀ (s : State) (sid : U32),
    s.main.spdmUp = true →
    (s.main.session? sid).any (·.est) = true →
    exec (.keyUpdate sid) s = s.nextMain ((s.main.updSession sid (fun x => { x with updates := x.updates + 1 })).send (.spdm 0x69 [] false))) ∧
  (∀ (s : State) (sid : U32),
    s.main.spdmUp = true →
    (s.main.session? sid).any (·.est) = true →
    exec (.endSession sid) s = s.nextMain ((s.main.endSession sid).send (.spdm 0x6C [] false))) ∧
  (∀ (s : State) (sid : U32),
    (s.main.session? sid).isSome = true →
    exec (.spdmHeartbeatTimeout sid) s = s.nextMain (s.main.endSession sid)) ∧
  (∀ (s : State) (sid : U32) (x : Session) (part : Byte) (idle : U32) (pub : BitVec 456) (key : BitVec 256) (area : U64),
    s.main.session? sid = some x →
    (s.main.spdmUp = true ∧ x.est = true) →
    (part.toNat ∈ s.main.variant.parts ∧ key ≠ 0) →
    s.main.masked part.toNat = false →
    s.main.claimable part.toNat x area.toNat = true →
    let q := part.toNat
    let m1 := (s.main.partClear q).scrub q
    let m2 := m1.updPart q (fun y => { y with st := .sealed, claims := y.claims + 1, pub := pub, key := some key, sess := some x.id, idle := idle, area := BitVec.ofNat 56 area.toNat })
    let m3 := m2.updHbm (area.toNat / 2 ^ 37) (fun y => { y with region := y.region.put 6 (area.toNat % 2 ^ 37, (m2.partAt q).sealBytes) })
    let m4 := m3.updSession x.id (fun y => { y with part := some (BitVec.ofNat 2 q) })
    let m5 : Main := { m4 with fab := { m4.fab with tenCtr := m4.fab.tenCtr.put q 0 }, box := (m4.partBoxes q).foldl (fun t k => t.upd k (fun b => { b with bound := true, part := BitVec.ofNat 2 q })) m4.box }
    exec (.claim sid part idle pub key area) s = s.nextMain ((m5.log! { code := 0x7101, cls := .rec_, par := p1 q }).tell 0 (p4 (m5.partAt q).claims.toNat))) ∧
  (∀ (s : State) (sid : U32) (x : Session) (part : Byte) (sig : BitVec 912),
    s.main.session? sid = some x →
    (s.main.spdmUp = true ∧ x.est = true) →
    part.toNat ∈ s.main.variant.parts →
    s.main.sealed part.toNat = true →
    let q := part.toNat
    let m1 := s.main.updSpdm (fun z => { z with sess := z.sess.map (fun y => if y.id = x.id then { y with part := some (BitVec.ofNat 2 q) } else if y.part = some (BitVec.ofNat 2 q) then { y with part := none } else y) })
    exec (.attach sid part sig) s = s.nextMain (if Config.edVerify (s.main.partAt q).pub (Config.th2 x.id) sig = true then ((m1.updPart q (fun y => { y with sess := some x.id })).log! { code := 0x7103, cls := .rec_, par := p1 q }).tell 0 else s.main.tell 4)) ∧
  (∀ (s : State) (sid : U32) (x : Session) (part : Byte),
    s.main.session? sid = some x →
    (s.main.spdmUp = true ∧ x.est = true) →
    part.toNat ∈ s.main.variant.parts →
    s.main.sealedTo part.toNat sid = true →
    exec (.release sid part) s = s.nextMain (s.main.startRelease part.toNat 0 none)) ∧
  (∀ (s : State) (sid : U32) (x : Session) (cmd : BitVec 512) (q : BitVec 2),
    s.main.session? sid = some x →
    (s.main.spdmUp = true ∧ x.est = true) →
    x.part = some q →
    s.main.sealedTo q.toNat sid = true →
    exec (.tenantCommand sid cmd) s = s.nextMain (s.main.handOver (.tenant q) cmd)) ∧
  (∀ (s : State) (p : Fin 4),
    s.main.sealed p.val = true →
    ((s.main.partAt p.val).sess = none ∧ (s.main.partAt p.val).idle ≠ 0) →
    exec (.inactivityTimeout p) s = s.nextMain (s.main.startRelease p.val 2 none))

/-- Partitioning, resources, status, forced release, sealed transfers, IDE, the debug lock and the debug window act on every served command. With no job open and no partition masked, a served 0x0501 sets partitioning; 0x0502 sets host ranges and a slow-tier share of whole GiB that overlaps no other; 0x0503 answers state, attachment, claims and IDE (byte layout log 113); 0x0504 starts the release of a sealed partition and is answered at its end. A tenant's import and its export under the next stream run block by block until one stops, and answer the reason and the blocks written, with status 0x03 only where the first block stopped. A lost IDE stream is handled and a keyed one is secure. The debug lock locks until a reset. A debug window answers the control register, 0 with 0x7302 where refused, and a free value where open (log 115). -/
def Obligations.PartitionCommandsComplete : Prop :=
  (∀ (s : State) (h : Hdr) (p : Payload),
    s.main.serves 0x0501 h p [(0, 1)] = true →
    let x := s.main.taken h.src
    bvAt p 0 1 ≤ 1 →
    (x.jobs = [] ∧ x.maskBits = 0) →
    exec (.setPartitioning h p) s = s.nextMain (s.main.done 0x0501 h ({ x with partOn := bvAt p 0 1 = 1 }) [])) ∧
  (∀ (s : State) (h : Hdr) (p : Payload),
    s.main.serves 0x0502 h p [(0, 2), (8, 16)] (high := decide (bvAt p 1 1 < 16)) = true →
    let x := s.main.taken h.src
    let q := bvAt p 0 1
    let base := bvAt p 8 8
    let size := bvAt p 16 8
    (x.partOn = true ∧ q ∈ x.variant.parts) →
    (x.masked q = false ∧ x.partBusy q = false) →
    (base % 2 ^ 30 = 0 ∧ size % 2 ^ 30 = 0 ∧ (size = 0 ∨ base + size ≤ x.slowSize)) →
    (∀ o ∈ x.variant.parts, o ≠ q → overlap base size (x.partAt o).base (x.partAt o).size = false) →
    exec (.setPartitionResources h p) s = s.nextMain (s.main.done 0x0502 h (x.updPart q (fun y => { y with hostMask := p.extractLsb' 8 4, base := base, size := size })) [])) ∧
  (∀ (s : State) (h : Hdr) (p : Payload),
    s.main.serves 0x0503 h p [(0, 1)] (reads := true) (owned := match h.src with
      | .tenant q => q.toNat = bvAt p 0 1
      | _ => true) = true →
    let x := s.main.taken h.src
    let y := x.partAt (bvAt p 0 1)
    bvAt p 0 1 ∈ x.variant.parts →
    exec (.partitionStatus h p) s = s.nextMain (s.main.done 0x0503 h (x) [(0, 1, y.st.num), (1, 1, y.sess.isSome.toNat), (2, 4, y.claims.toNat), (6, 1, x.ideA.toNat), (7, 1, x.ideB.toNat)])) ∧
  (∀ (s : State) (h : Hdr) (p : Payload), s.main.serves 0x0504 h p [(0, 1)] = true → bvAt p 0 1 ∈ s.main.variant.parts →
    let r := s.main.done 0x0504 h (s.main.taken h.src) []
    exec (.forcedRelease h p) s = s.nextMain (if s.main.sealed (bvAt p 0 1) then
      { r with resps := s.main.resps }.startRelease (bvAt p 0 1) 1 r.resps.getLast? else r)) ∧
  (∀ (s : State) (h : Hdr) (p : Payload) (q : BitVec 2), s.main.serves 0x0520 h p [(0, 32)] = true → h.src = .tenant q →
    let x := s.main.taken h.src
    let len := bvAt p 16 4
    x.xferOk q.toNat (bvAt p 0 8) (bvAt p 8 8) (bvAt p 24 8) len = true →
    let t := xferRun (fun m k => m.importBlock q.toNat (bvAt p 0 8) (bvAt p 8 8) (bvAt p 24 8) (bvAt p 20 4) k) x (len / 4096)
    exec (.sealedImport h p) s = s.nextMain (x.reply 0x0520 h
      (t.1, if t.2.2 != 0 && t.2.1 = 0 then 3 else 0, payload [(0, 1, t.2.2), (4, 4, t.2.1), (12, 4, if t.2.2 = 0 then 0 else t.2.1)]))) ∧
  (∀ (s : State) (h : Hdr) (p : Payload) (q : BitVec 2), s.main.serves 0x0521 h p [(0, 20), (24, 8)] = true → h.src = .tenant q →
    let x := s.main.taken h.src
    let len := bvAt p 16 4
    x.xferOk q.toNat (bvAt p 8 8) (bvAt p 0 8) (bvAt p 24 8) len = true →
    let n := (x.partAt q.toNat).stream
    let y := x.updPart q.toNat (fun z => { z with stream := z.stream + 1 })
    let t := xferRun (fun m k => m.exportBlock q.toNat (bvAt p 8 8) (bvAt p 0 8) (bvAt p 24 8) n.toNat k) y (len / 4096)
    exec (.sealedExport h p) s = s.nextMain (x.reply 0x0521 h
      (t.1, if t.2.2 != 0 && t.2.1 = 0 then 3 else 0, payload [(0, 1, t.2.2), (4, 4, t.2.1), (8, 4, n.toNat)]))) ∧
  (∀ (s : State) (b mem : Bool), exec (.ideStreamLost b mem) s = s.nextMain (s.main.ideLost b mem) ∧
    (let c := if b then s.main.cxl.b else s.main.cxl.a
     c.mode ≠ .down → (mem = true → c.pcie = false) →
     exec (.ideKm b mem) s = s.nextMain { s.main with cxl := s.main.cxl.upd b (fun c => if mem then { c with ideMem := true } else { c with ideIo := true }) })) ∧
  (∀ (s : State) (h : Hdr) (p : Payload),
    s.main.serves 0x0510 h p [] = true →
    let x := s.main.taken h.src
    exec (.debugLock h p) s = s.nextMain (s.main.done 0x0510 h ({ x with clock := true }) [])) ∧
  (∀ (s : State) (off : BitVec 20) (w : Option U64),
    let answer := fun (m : Main) (v : Nat) => if w.isNone then m.send (.bar0 (BitVec.ofNat 512 v)) else m
    (off = 0 → exec (.debugWindowAccess off w) s = s.nextMain (answer s.main s.main.debugCtl)) ∧
    (off ≠ 0 → (s.main.dstate = 2 ∨ s.main.dstate = 1 ∧ Config.debugReaches off.toNat s.main.maskBits = true) →
      exec (.debugWindowAccess off w) s = s.nextMain (answer (s.main.logRate 1 0 { code := 0x7302, cls := .adv, par := p1 ((s.main.variant.parts.find? s.main.masked).getD 0) }) 0)) ∧
    (off ≠ 0 → (s.main.dstate = 0 ∨ s.main.dstate = 1 ∧ Config.debugReaches off.toNat s.main.maskBits = false) →
      exec (.debugWindowAccess off w) s = s.nextMain (answer s.main.draw (Config.debugRead s.main.draws off.toNat).toNat)))

/-- A firmware update starts, runs its steps, is reported, activated or cancelled; the module resets; the security version is committed. A served 0x0601 whose package passes the checks of R451 starts the update at U2 with 0x8001 where its signature verifies, and ends with status 0x09 where it does not. A background action does one step: it empties the target bank, rebuilds the next block, or compares one rebuilt image with its listed hash, where a mismatch invalidates the bank and logs 0x8004, or marks the bank verified. The status answers. With nothing against it, activation names the target bank as trial, and, asked to, writes its response and resets the module. A module reset, forced or of an idle module, does the same. A cancellation by its requester aborts (with no update running it has no effect, log 122). The confirmed bank's security version becomes the minimum with 0x800B. -/
def Obligations.FirmwareCommandsComplete : Prop :=
  (∀ (s : State) (h : Hdr) (p : Payload) (m1 : Main) (b : List Byte), s.main.serves 0x0601 h p [(0, 8), (8, 4)] = true →
    let x := s.main.taken h.src
    let a := bvAt p 0 8
    let len := bvAt p 8 4
    x.fw.st ≠ 1 →
    x.packageRead a 4096 = (m1, some b) →
    manifestFits b = true ∧ zeroAt b 1010 3086 = true ∧ len = packageLen b →
    natAt b 16 4 = 2 ∧ (natAt b 21 1 = 1 → natAt b 24 16 = m1.serial.toNat) ∧ m1.fw.minsec ≤ natAt b 20 1 →
    (∀ i < 4, m1.baseFits (manEntry b i) = true) →
    let m2 := m1.updFw (fun f => { f with side := Src.isSide h.src, pkg := BitVec.ofNat 56 a, plen := len, pldm := none, fd := 0 })
    exec (.startUpdate h p) s = s.nextMain (if manifestSigned b = true then s.main.done 0x0601 h (m2.updateRuns (b.take 1010)) [(4, 4, natAt b 12 4)]
      else x.reply 0x0601 h (reject m1 9))) ∧
  (∀ (s : State), s.main.fw.st = 1 → s.main.sideUp = true →
    exec .updateBackground s = s.nextMain (match s.main.fw.step with
      | 2 => s.main.updFw (fun f => { f.setBank s.main.target {} with step := 3 })
      | 3 => s.main.updateBlock
      | 4 => s.main.updateHash
      | 5 => s.main.updateEnds
      | _ => s.main)) ∧
  (∀ (s : State), s.main.fw.st = 1 → s.main.sideUp = true → s.main.fw.step = 4 → s.main.fw.comp < 3 →
    let e := manEntry s.main.fw.man s.main.fw.comp
    let img := ((s.main.fw.bank s.main.target).image.find (natAt e 0 1)).getD []
    exec .updateBackground s = s.nextMain (if Config.shake256 img 64 = bytesAt e 32 64 then s.main.updFw (fun f => { f with comp := f.comp + 1 })
      else (s.main.updFw (fun f => { f.setBank s.main.target {} with st := 3, man := [], outp := [], pldm := none, fd := 0 })).log!
        { code := 0x8004, cls := .rec_, par := p1 (natAt e 0 1) })) ∧
  (∀ (s : State) (h : Hdr) (p : Payload),
    s.main.serves 0x0602 h p [] (reads := true) = true →
    let x := s.main.taken h.src
    exec (.updateStatus h p) s = s.nextMain (s.main.done 0x0602 h (x) [(1, 1, x.fw.st.toNat), (2, 1, x.fw.step), (3, 1, x.fw.side.toNat), (4, 4, x.fw.blocks.toNat), (8, 4, x.packageBlocks), (12, 1, x.fw.active.toNat),
      (13, 1, if (x.fw.bank x.target).verified then x.target.toNat else 0xFF), (16, 4, x.fw.bankA.version), (20, 4, x.fw.bankB.version), (24, 1, x.fw.minsec)])) ∧
  (∀ (s : State) (h : Hdr) (p : Payload), s.main.serves 0x0603 h p [(0, 1)] = true → s.main.activateReason = 0 →
    let x := s.main.taken h.src
    let r := s.main.done 0x0603 h x.activateBank [(1, 1, x.target.toNat)]
    (bvAt p 0 1 = 0 → exec (.activate h p) s = s.nextMain r) ∧
    (bvAt p 0 1 = 1 → exec (.activate h p) s = s.nextMain (s.main.thenReset r 1 (Hdr.requester h)))) ∧
  (∀ (s : State) (h : Hdr) (p : Payload), s.main.serves 0x0605 h p [(0, 1)] (anyState := bvAt p 0 1 = 1) = true →
    (bvAt p 0 1 = 1 ∨ bvAt p 0 1 = 0 ∧ s.main.inUse = false) →
    exec (.moduleReset h p) s = s.nextMain (s.main.thenReset (s.main.done 0x0605 h (s.main.taken h.src) []) 0 (Hdr.requester h))) ∧
  (∀ (s : State) (h : Hdr) (p : Payload),
    s.main.serves 0x0604 h p [] = true →
    let x := s.main.taken h.src
    (x.fw.st = 1 → x.fw.side = Src.isSide h.src) →
    exec (.cancelUpdate h p) s = s.nextMain (s.main.done 0x0604 h (if x.fw.st = 1 then x.abortUpdate 0 else x) [])) ∧
  (∀ (s : State) (h : Hdr) (p : Payload),
    s.main.serves 0x0606 h p [] = true →
    let x := s.main.taken h.src
    let v := max x.fw.minsec (natAt (x.fw.bank x.fw.active).manifest 20 1)
    x.fw.confirmed = some x.fw.active →
    exec (.commitSecurityVersion h p) s = s.nextMain (s.main.done 0x0606 h ((x.updFw (fun f => { f with minsec := v })).log! { code := 0x800B, cls := .rec_, par := p1 v }) [(1, 1, v)]))

/-- The degradation map, reinstated ports, checker access, patrol scrub and corrected-words advisories act on every served command and word. A served 0x0910 answers its five selectors for arguments in range (byte layout log 127); 0x0912 reinstates the named ports with 0x510A. Checker access to a permitted word of quiet dies writes it raw, reads it raw (the corrected data of an uncorrectable word is a free value, log 128), writes a page check byte, or reads one. Patrol scrub of a word with its supply scrubs a memory-stack word of a stack that is on, writes a corrected stacked-SRAM word back, and scrubs a tile-store word. An advisory reports and clears the corrected count of the word's channel, stack or die where it has risen. -/
def Obligations.ProtectionCommandsComplete : Prop :=
  (∀ (s : State) (h : Hdr) (p : Payload), s.main.serves 0x0910 h p [(0, 3)] (reads := true) (owned := s.main.ownsMap h.src p) = true →
    let x := s.main.taken h.src
    let a := bvAt p 1 1
    let b := bvAt p 2 1
    (bvAt p 0 1 = 0 → a = 0 → b = 0 → exec (.degradationMap h p) s = s.nextMain (x.reply 0x0910 h x.mapTotals)) ∧
    (bvAt p 0 1 = 1 → a ≤ 3 → b ≤ 1 → exec (.degradationMap h p) s = s.nextMain (x.reply 0x0910 h (x, 0, mapPart b (x.tileRetired a)))) ∧
    (bvAt p 0 1 = 2 → a ≤ 3 → b ≤ 1 → exec (.degradationMap h p) s = s.nextMain (x.reply 0x0910 h (x, 0, mapPart b (x.sramAt a).retired.contains))) ∧
    (bvAt p 0 1 = 3 → a < x.variant.stacks → b ≤ 31 → exec (.degradationMap h p) s = s.nextMain (x.reply 0x0910 h (x.mapChannel a b))) ∧
    (bvAt p 0 1 = 4 → a < x.variant.ports → b = 0 → exec (.degradationMap h p) s = s.nextMain
      (s.main.done 0x0910 h x [(0, 1, (x.portAt a).retired.toNat), (1, 1, (x.portAt a).laneRet.toNat)]))) ∧
  (∀ (s : State) (h : Hdr) (p : Payload),
    s.main.serves 0x0912 h p [(0, 2)] = true →
    let x := s.main.taken h.src
    let mask := bvAt p 0 2
    mask < 2 ^ x.variant.ports →
    exec (.clearPortRetirement h p) s = s.nextMain (s.main.done 0x0912 h (({ x with fab := { x.fab with port := x.fab.port.map (fun (e : Nat × Port) => if mask.testBit e.1 then (e.1, { e.2 with laneRet := 0, laneFail := [], retired := false }) else e) } } : Main).log! { code := 0x510A, cls := .rec_, par := p2 mask }) [])) ∧
  (∀ (s : State) (h : Hdr) (p : Payload) (t : Bool × Nat),
    s.main.serves 0x0932 h p [(0, 2), (8, 18)] (reads := bvAt p 0 1 % 2 = 1 || 3 < bvAt p 0 1) = true →
    let x := s.main.taken h.src
    let mode := bvAt p 0 1
    let k := bvAt p 1 1
    let a := bvAt p 8 8
    let d : U64 := p.extractLsb' 128 64
    let side : U16 := p.extractLsb' 192 16
    k ≤ 31 → x.checkTarget a = some t → (x.checkDies t).all x.quiet = true →
    (mode = 0 → a % 8 = 0 → exec (.checkerAccess h p) s = s.nextMain (s.main.done 0x0932 h
      (if t.1 then (let y := x.flush (x.ownPart a) a; { y with mem := { y.mem with hbm := y.mem.hbm.hbmRaw (t.2 / 8) d side } })
       else { x with mem := { x.mem with pin := x.mem.pin.rawPut (t.2 / 8) d side } }) [])) ∧
    (mode = 1 → a % 8 = 0 → exec (.checkerAccess h p) s =
      s.nextMain (x.reply 0x0932 h (x.rawRead (if t.1 then x.mem.hbm else x.mem.pin) (t.2 / 8)))) ∧
    (mode = 2 → a % 2048 = 0 → t.1 = true → exec (.checkerAccess h p) s = s.nextMain (s.main.done 0x0932 h
      (let y := x.flush (x.ownPart a) a
       { y with mem := { y.mem with hbm := y.mem.hbm.pageXor (pageOf a) (((y.mem.hbm.checkByte a k ^^^ side.setWidth 8).setWidth 256) <<< (8 * k)) } }) [])) ∧
    (mode = 3 → a % 2048 = 0 → t.1 = true → exec (.checkerAccess h p) s =
      s.nextMain (s.main.done 0x0932 h x [(16, 2, (x.mem.hbm.checkByte a k).toNat)]))) ∧
  (∀ (s : State), s.main.sup.rails = true →
    (∀ a : BitVec 38, a.toNat / 2 ^ 34 < s.main.variant.stacks → (s.main.hbmAt (a.toNat / 2 ^ 34)).offline = false →
      exec (.patrolScrub (.hbm a)) s = s.nextMain (s.main.scrubHbm a.toNat)) ∧
    (∀ a, exec (.patrolScrub (.sram a)) s = s.nextMain (let q := s.main.mem.pin.decode a.toNat
      let m := s.main.pinTouch a.toNat
      if q.1 = .one ∨ q.1 = .two then { m with mem := { m.mem with pin := m.mem.pin.rawPut a.toNat q.2.1 (cleanSide q.2.1 q.2.2) } } else m)) ∧
    (∀ t a, exec (.patrolScrub (.store t a)) s = s.nextMain (s.main.scrubTile t.id a.toNat))) ∧
  (∀ (s : State),
    (∀ (a : BitVec 38) (k : Nat), ((s.main.hbmAt (a.toNat / 2 ^ 34)).ch.get (s.main.chan (8 * a.toNat))).fresh = k → k ≠ 0 →
      exec (.correctedWordsAdvisory (.hbm a)) s = s.nextMain ((s.main.updChan (a.toNat / 2 ^ 34) (s.main.chan (8 * a.toNat)) (fun c => { c with fresh := 0 })).log!
        { code := 0x2501, cls := .adv, stack := some (a.toNat / 2 ^ 34), par := p1 (s.main.chan (8 * a.toNat)) ++ p4 k })) ∧
    (∀ (a : BitVec 30) (k : Nat), (s.main.sramAt (a.toNat / 2 ^ 28)).corrected = k → k ≠ 0 →
      exec (.correctedWordsAdvisory (.sram a)) s = s.nextMain ((s.main.updSram (a.toNat / 2 ^ 28) (fun x => { x with corrected := 0 })).log!
        { code := 0x3403, cls := .adv, die := some (a.toNat / 2 ^ 28), par := p1 (a.toNat / 2 ^ 28) ++ p4 k })) ∧
    (∀ (t : TileRef) (a : BitVec 16) (k : Nat), (s.main.dieAt t.die.val).corrected = k → k ≠ 0 →
      exec (.correctedWordsAdvisory (.store t a)) s = s.nextMain ((s.main.updDie t.die.val (fun v => { v with corrected := 0 })).log!
        { code := 0x1110, cls := .adv, die := some t.die.val, par := p1 t.die.val ++ p4 k })))

/-- The supplies come and go, and each start-up stage ends in the next one. AUX up without AUX is a cold reset: what R500 clears is cleared, the straps are read, the power cycle counts, the wear ledgers load, and an update cut off logs 0x800A. AUX loss takes the rails with nothing saved. MAIN present enables start-up where coolant and rails allow; MAIN lost while enabled logs 0x4701 and returns to STATE 1, as does a rail of MAIN out of tolerance with 0x4702. A coolant check records both readings and logs 0x4703 at most once a minute. Stages 1 to 9 act as R496 says (stage 2 boots the selected bank where its hashes and manifest check, stage 7 marks channels and applies the repair maps), up to STATE 3 and 0xF021; one over its bound logs 0xF020 and fails the boot. What clears at each reset beyond R500, and what the bank held at manufacture, is the model's (log 116, 161). -/
def Obligations.SuppliesAndStartUpComplete : Prop :=
  (∀ (s : State) (recov tlock : Bool) (sbaddr : BitVec 3),
    s.main.sup.aux = false →
    let m1 := s.main.clearAll.updSup (fun x => { aux := true, main := x.main, recov := recov, tlock := tlock, stage := 1 })
    let m2 : Main := { m1 with us := 0, opsec := m1.opSaved, pcyc := m1.pcyc + 1, cmds := 0, clock := false, sb := { sbaddr := sbaddr } }
    let m3 := m2.wearLoad
    let cut := if s.main.fw.booted then !s.main.fw.active else !(s.main.fw.confirmed.getD true)
    exec (.auxUp recov tlock sbaddr) s = s.nextMain (if s.main.fw.st = 1 then (m3.updFw (fun f => f.setBank cut {})).log! { code := 0x800A, cls := .rec_, par := p1 2 } else m3)) ∧
  (∀ (s : State),
    s.main.sup.aux = true →
    let m1 := (s.main.powerDown false).updLog RingLog.auxLost
    exec (.auxLoss) s = s.nextMain (({ m1 with core := [] } : Main).updSup (fun x => { x with aux := false, stage := 0, state := .romBoot }))) ∧
  (∀ (s : State), exec .mainPresent s = s.nextMain (s.main.updSup (fun x => { x with main := true })).mainEnable) ∧
  (∀ (s : State), let m1 := s.main.updSup (fun x => { x with main := false })
    exec .mainInputLost s = s.nextMain (if s.main.enabled then (((m1.log! { code := 0x4701, cls := .rec_ }).powerDown true).updSup (fun x => { x with stage := 4 })).setState .auxOnly else m1)) ∧
  (∀ (s : State) (r : Fin 12),
    s.main.sup.rails = true →
    (r ≠ 0 ∧ r ≠ 11) →
    (7 ≤ r.val → (s.main.dieAt (r.val - 7)).tripped = false) →
    exec (.railOutOfTolerance r) s = s.nextMain (((s.main.log! { code := 0x4702, cls := .flt, par := p1 r.val }).updSup (fun x => { x with railFault := true })).toAuxOnly)) ∧
  (∀ (s : State) (inlet outlet : Int) (secs : Nat),
    let bad : Bool := decide (45000 < inlet) || decide (25000 < outlet - inlet)
    let report : Bool := bad && 1 ≤ secs && s.main.sup.rails && s.main.pow.minCool != s.main.sec / 60 + 1
    let m1 := s.main.updPow (fun w => { w with inlet := inlet, outlet := outlet, minCool := if report then s.main.sec / 60 + 1 else w.minCool })
    let m2 := if report then m1.log! { code := 0x4703, cls := .adv, par := p1 (degrees inlet) ++ p1 (degrees outlet) } else m1
    exec (.coolantCheck inlet outlet secs) s = s.nextMain (m2.updSup (fun x => { x with hot := decide (45000 < inlet) })).mainEnable) ∧
  (∀ (s : State) (r : StageResult),
    s.main.sup.aux = true →
    s.main.sup.state ≠ .recovery →
    s.main.sup.stage = 1 →
    exec (.startUpStageComplete r) s = s.nextMain (if s.main.sup.recov then s.main.enterRecovery 0 else (s.main.updFw (fun f => { f with active := f.selB })).toStage 2)) ∧
  (∀ (s : State) (r : StageResult),
    s.main.sup.aux = true →
    s.main.sup.state ≠ .recovery →
    s.main.sup.stage = 2 →
    exec (.startUpStageComplete r) s = s.nextMain (if s.main.bankBoots r.good = true then s.main.coresUp.toStage 3 else s.main.bootFail)) ∧
  (∀ (s : State) (r : StageResult),
    s.main.sup.aux = true →
    s.main.sup.state ≠ .recovery →
    s.main.sup.stage = 3 →
    exec (.startUpStageComplete r) s = s.nextMain (((s.main.toStage 4).setState .auxOnly).mainEnable)) ∧
  (∀ (s : State) (r : StageResult),
    s.main.sup.aux = true →
    s.main.sup.state ≠ .recovery →
    s.main.sup.stage = 4 →
    s.main.sup.state = .starting →
    exec (.startUpStageComplete r) s = s.nextMain (s.main.toStage 5)) ∧
  (∀ (s : State) (r : StageResult),
    s.main.sup.aux = true →
    s.main.sup.state ≠ .recovery →
    s.main.sup.stage = 5 →
    exec (.startUpStageComplete r) s = s.nextMain ((((s.main.updSup (fun x => { x with rails := true })).toStage 6).wearSave false).updMir (fun x => { x with dropped := 0, advised := 0 }))) ∧
  (∀ (s : State) (r : StageResult),
    s.main.sup.aux = true →
    s.main.sup.state ≠ .recovery →
    s.main.sup.stage = 6 →
    exec (.startUpStageComplete r) s = s.nextMain ((s.main.stackTest r).toStage 7)) ∧
  (∀ (s : State) (r : StageResult),
    s.main.sup.aux = true →
    s.main.sup.state ≠ .recovery →
    s.main.sup.stage = 7 →
    let m1 := r.chans.foldl (fun m c => m.markChannel c.1.val c.2.val) s.main
    let m2 := r.lanes.foldl (fun m e => m.updChan e.1.val e.2.1.val (fun c => { c with repair := if c.repair.contains e.2.2 then c.repair else c.repair ++ [e.2.2] })) m1
    let m3 := (List.range m2.variant.stacks).foldl (fun m n => m.updHbm n (fun z => { z with ch := z.ch.map (fun (c : Nat × Channel) => (c.1, { c.2 with lanes := c.2.repair })) })) m2
    exec (.startUpStageComplete r) s = s.nextMain (m3.toStage 8)) ∧
  (∀ (s : State) (r : StageResult),
    s.main.sup.aux = true →
    s.main.sup.state ≠ .recovery →
    s.main.sup.stage = 8 →
    exec (.startUpStageComplete r) s = s.nextMain (((List.range s.main.variant.stacks).foldl Main.initStack { s.main with mem := { s.main.mem with hbm := {} } }).toStage 9)) ∧
  (∀ (s : State) (r : StageResult),
    s.main.sup.aux = true →
    s.main.sup.state ≠ .recovery →
    s.main.sup.stage = 9 →
    let m1 := (List.range s.main.variant.ports).foldl Main.portUp { s.main with cxl := { s.main.cxl with devs := r.devs.take 16 } }
    let m2 := (m1.variant.parts.foldl (fun m p => if (m.partAt p).st = .releasing then m.endRelease p else m) m1).toStage 10
    let m3 := (m2.updSup (fun x => { x with wasReady := true })).updFw (fun f => { f with trial := false, confirmed := some f.active, fails := 0, tried := false })
    let m4 : Main := { m3 with restartedAll := 0 }
    exec (.startUpStageComplete r) s = s.nextMain ((m4.setState m4.readyState).log! { code := 0xF021, cls := .rec_, par := p4 r.ms.toNat })) ∧
  (∀ (s : State),
    s.main.sup.aux = true →
    s.main.sup.state ≠ .recovery →
    (1 ≤ s.main.sup.stage.toNat ∧ s.main.sup.stage.toNat ≤ 9) →
    (s.main.sup.stage = 4 → s.main.sup.state = .starting) →
    exec (.startUpStageOverBound) s = s.nextMain ((s.main.log! { code := 0xF020, cls := .flt, par := p1 s.main.sup.stage.toNat }).bootFail))

/-- PERST#, the function reset and the controller cores' stops, restarts and copy checks act as R387 to R389 and R498 to R500 say. PERST# takes the link down and resets port A's side; its release lets the port train; a function reset does the same without loss of the link: leased regions are torn, transactions fail, interrupt, mailbox and copy-engine registers are reset, sessions over DOE end, the nonce goes. A fifth missed heartbeat stops a core, puts its duties in their safe state with 0xF001, ends the command core 0 was executing (a free choice, log 46) or core 3's update, degrades the device at the third restart within an hour, and fails the boot where all four restart before the first start-up ends. A restarted core resumes, core 2 with full firing, core 3 storing its buffered records. A copy check counts a mismatch and logs 0xF003 on the second in a row. -/
def Obligations.PortResetsAndCoresComplete : Prop :=
  (∀ (s : State),
    s.main.cxl.perst = false →
    let m1 := (s.main.linkDown false).portAReset
    exec (.perstAssert) s = s.nextMain ({ m1 with cxl := { m1.cxl with perst := true } })) ∧
  (∀ (s : State) (refclk : Bool), exec (.perstDeassert refclk) s = s.nextMain { s.main with cxl := { s.main.cxl with perst := false, refclk := refclk } }) ∧
  (∀ (s : State),
    let m1 := s.main.tearAll.failPort false
    let m2 : Main := { m1 with intr := {}, box := m1.box.map (fun (b : Nat × Mailbox) => (b.1, b.2.portReset)), eng := [], ectl := {} }
    let doe := (s.main.spdm.sess.filter (·.doe)).map (·.id)
    exec .functionReset s = s.nextMain ((doe.foldl Main.endSession m2).updLog (fun l => { l with nonce := none }))) ∧
  (∀ (s : State) (c : Fin 4),
    (s.main.core.get c.val).runs = true →
    let rs := recent s.main.sec 3600 (s.main.core.get c.val).restarts ++ [s.main.sec]
    let m1 : Main := { s.main with core := s.main.core.put c.val { runs := false, restarts := rs } }
    let m2 := (m1.safeState c.val).log! { code := 0xF001, cls := .rec_, par := p1 c.val }
    let m3 := if c.val = 0 then m2.interrupted else if c.val = 3 then m2.abortUpdate 1 else m2
    let m4 := if 3 ≤ rs.length then m3.degrade else m3
    exec (.coreHeartbeatMiss c) s = s.nextMain (if m4.sup.wasReady then m4
      else if m4.restartedAll ||| (1#4 <<< c.val) = 0xF then ({ m4 with restartedAll := m4.restartedAll ||| (1#4 <<< c.val) } : Main).bootFail
      else { m4 with restartedAll := m4.restartedAll ||| (1#4 <<< c.val) })) ∧
  (∀ (s : State) (c : Fin 4),
    s.main.sup.aux = true →
    s.main.fw.booted = true →
    (s.main.core.get c.val).runs = false →
    let m1 : Main := { s.main with core := s.main.core.upd c.val (fun k => { k with runs := true, bad := 0 }) }
    exec (.coreRestarted c) s = s.nextMain (match c.val with
      | 2 => (List.range 4).foldl (fun m d => m.updDp d (fun x => { x with fireTherm := 16 })) m1
      | 3 => m1.logBack
      | _ => m1)) ∧
  (∀ (s : State) (c : Fin 4) (same : Bool),
    (s.main.core.get c.val).runs = true →
    let k := s.main.core.get c.val
    exec (.settingsCopyCheck c same) s = s.nextMain (if same then { s.main with core := s.main.core.put c.val { k with bad := 0 } }
      else if k.bad = 0 then { s.main with core := s.main.core.put c.val { k with bad := 1 } }
      else { s.main with core := s.main.core.put c.val { k with bad := 0 } }.log! { code := 0xF003, cls := .rec_, par := p1 c.val }))

/-- A step runs the command at the front of the queue on the state with the rest of the queue; on an empty queue one microsecond passes. For every state whose queue has a command c in front, the step is exec of c on the state with the queue's rest. On an empty queue the step answers the state after one tick of the AUX clock: with AUX up one microsecond, and one operating second at each whole second; without AUX nothing. What an empty queue does is the model's choice (log 3). -/
def Obligations.StepTakesTheFrontCommand : Prop :=
  ∀ (s : State),
  (∀ (c : Instr) (rest : List Instr), s.pending = c :: rest → step s = exec c { s with pending := rest }) ∧
  (s.pending = [] → s.main.sup.aux = true → step s = s.nextMain
    { s.main with us := s.main.us + 1, opsec := if (s.main.us + 1) % 1000000 = 0 then s.main.opsec + 1 else s.main.opsec }) ∧
  (s.pending = [] → s.main.sup.aux = false → step s = .next s)

/-- Every step answers a next state, and takes exactly the command at the front of the queue. From every state, the step answers a next state: no command and no operand ends a run. In that state the queue of waiting commands is the old one without its front: no command adds, drops or reorders a waiting command. -/
def Obligations.EveryStepCompletes : Prop :=
  ∀ (s : State), ∃ t, step s = .next t ∧ t.pending = s.pending.tail

/-- No command of the main side changes the meter, and no command of the meter changes the main side. For every command but the meter's own nine and the mirror frame, the meter after it is the meter before it: nothing the controller, the host, the board controller, a manifest or a recovery download does reaches the energy register, the metrological log or any other state of the meter (R375). The meter's own nine commands leave the whole main side as it is. The mirror frame, the only command that reads the meter for the main side (R376), changes nothing of the meter but the reading that the next frame counts from (R383). -/
def Obligations.MainSideNeverReachesTheMeter : Prop :=
  ∀ (c : Instr) (s t : State), exec c s = .next t →
  match c with
  | .meterUpdate .. | .verificationPulseEnd | .meterStart .. | .meterSupplyLoss | .coverOpened | .readEnergyRecord _ | .readLog ..
  | .meterIdentity _ | .meterSpdmRequest .. => t.main = s.main
  | .mirrorFrame .. => t.meter = { s.meter with framed := t.meter.framed }
  | _ => t.meter = s.meter

/-- The meter is sound in the state before the first power-up. The meter before its first start is sound: its sub-milliwatt-hour part and milliseconds are in range, its log is empty, no pulse has been given for an energy register of 0, and its cover is closed. The initial values are the model's (log 1). -/
def Obligations.MeterSoundAtReset : Prop :=
  State.reset.meter.Sound

/-- Every step keeps the meter sound. From every state whose meter is sound, whatever command is in front of the queue, the meter after the step is sound: the energy below 1 mWh stays below it and the milliseconds below a second; the log keeps at most 1,024 entries; the verification pulses given are one for every 100 mWh of the register; and once the cover has been opened, code 0x0005 stands in the log, unless the log was full when it opened. -/
def Obligations.MeterSoundKept : Prop :=
  ∀ (s t : State), s.meter.Sound → step s = .next t → t.meter.Sound

/-- No step decreases the energy register, closes an opened cover, or drops or changes an entry of the metrological log. For every state with a sound meter and every step: the energy register does not fall, an opened cover stays opened, and the log after the step begins with the log before it, so that the entries kept are the first ones. -/
def Obligations.MeterOnlyAdds : Prop :=
  ∀ (s t : State), s.meter.Sound → step s = .next t →
  s.meter.energy.toNat ≤ t.meter.energy.toNat ∧ (s.meter.cover = true → t.meter.cover = true) ∧ ∃ l, t.meter.log = s.meter.log ++ l

/-- The channel interleave is the one of R172, and maps stack offsets to channels and channel addresses one to one. The channel of a stack offset below 2^37 is the low five bits of the exclusive or of the granule index with itself shifted right by 5, 10, 15 and 20, and its channel address is the granule index above its low five bits joined with the low twelve bits of the offset. For every fixed upper part of the granule index, the 32 values of its low five bits map to the 32 channels once each, and two offsets with the same channel and channel address are equal. -/
def Obligations.ChannelMapIsOneToOne : Prop :=
  (∀ o, o < 2 ^ 37 → chanOf o = (o / 2 ^ 12 ^^^ o / 2 ^ 17 ^^^ o / 2 ^ 22 ^^^ o / 2 ^ 27 ^^^ o / 2 ^ 32) % 32 ∧ chanAddr o = o / 2 ^ 17 * 2 ^ 12 + o % 2 ^ 12) ∧
  (∀ g b, g < 2 ^ 20 → b < 2 ^ 12 → ∀ ch, ch < 32 → ∃ i, i < 32 ∧ chanOf ((g * 32 + i) * 2 ^ 12 + b) = ch ∧ ∀ j, j < 32 → chanOf ((g * 32 + j) * 2 ^ 12 + b) = ch → j = i) ∧
  (∀ o o', o < 2 ^ 37 → o' < 2 ^ 37 → chanOf o = chanOf o' → chanAddr o = chanAddr o' → o = o')

/-- The draw of stochastic rounding is the value of R46 for every input. For every seed, step, tensor, element, hop and site, the draw is mix(mix(seed xor a) xor b), where a joins step and tensor, b joins the low forty bits of the element with hop and site, and mix is the five operations of the rule modulo 2^64. -/
def Obligations.StochasticDraw : Prop :=
  ∀ (seed : U64) (step tensor : U32) (element : U64) (hop : U16) (site : Byte),
  let mix := fun (z : U64) =>
    let z1 := z ^^^ (z >>> 32)
    let z2 := z1 * 0xA3B195E54C6F2D17
    let z3 := z2 ^^^ (z2 >>> 29)
    let z4 := z3 * 0x8CB92BA72F3D8DD7
    z4 ^^^ (z4 >>> 32)
  let a : U64 := (step.setWidth 64 <<< 32) ||| tensor.setWidth 64
  let b : U64 := ((element &&& 0xFFFFFFFFFF) <<< 24) ||| ((hop.setWidth 64 <<< 8) ||| site.setWidth 64)
  srDraw seed step tensor (element.setWidth 40) hop site = mix (mix (seed ^^^ a) ^^^ b)

/-- A completion counter that would pass 65,535 faults the blank with 0x1105, one below it counts on, and counters start at 0 unless the blank sets them. Whatever adds 1 to a completion counter of a tile that stands at 65,535 faults the blank with event 0x1105: a control operation at its issue, an operation of an engine or of the memory at its completion, and the Chuck or the Tailstock. A counter below 65,535 counts one up, and every other counter keeps its value. Loading a blank sets every counter of its die's tiles to 0, and then each counter of a tile with a record to the value of the record, 0 where it has none. -/
def Obligations.CompletionCounters : Prop :=
  ∀ (m : Main) (id : Nat) (i : BitVec 4),
  ((m.tileAt id).w.get i.toNat = 0xFFFF →
    (∀ k pc, m.signalNow id k pc (some i) = m.spFault id k pc 0x1105) ∧ m.addSignal id i = m.blankFault (id / 512) 0x1105 (p2 id) id 0 0) ∧
  (∀ o : Op, o.sig = some i → ((m.tileAt id).apply o).2 = true → (((m.tileAt id).apply o).1.retireOp o).w.get i.toNat = 0xFFFF →
    m.complete id o = ((m.finishOp id o).1.blankFault (id / 512) 0x1105 (p2 id ++ p1 o.sp.toNat ++ p4 o.pc.toNat) id o.sp.toNat o.pc.toNat).retireTiles [id]) ∧
  ((m.tileAt id).w.get i.toNat ≠ 0xFFFF → ∀ k pc,
    let w' := ((m.signalNow id k pc (some i)).tileAt id).w
    w'.get i.toNat = (m.tileAt id).w.get i.toNat + 1 ∧ ∀ j, j ≠ i.toNat → w'.get j = (m.tileAt id).w.get j) ∧
  (∀ t : Tile, t.fresh.w.get i.toNat = 0) ∧
  (∀ d b (r : TileRec), ((m.loadTile d b r).tileAt (d * 512 + r.tid.toNat)).w.get i.toNat = r.w.getD i.toNat 0)

/-- A mailbox command that is taken but not served leaves the queue, is answered with a status other than 0x00 and 0x03, and changes nothing else. For each of 73 TCS 3 commands: where the controller takes the command but its reserved fields, its requester's rights, the requester's ownership of what it names or the device state turn it away, the next state differs from the old one in two things alone: the command has left the queue, and its response, with tag and opcode echoed, a status from 0x01 to 0x09 other than 0x03, a zero payload and no record, stands behind the others. In which order the checks turn a command away is the model's (log 45). -/
def Obligations.TurnedAwayCommandsChangeNothing : Prop :=
  ∀ (s : State),
  (∀ (h : Hdr) (p : Payload), s.main.takes h.src = true → s.main.serves 0x0210 h p [(0, 13), (16, 8)] (owned := s.main.owns h.src (s.main.variant.diePart (bvAt p 12 1))) = false → ∃ st, 0 < st ∧ st < 10 ∧ st ≠ 3 ∧
    exec (.stageBlank h p) s = s.nextMain (s.main.turnedAway 0x0210 h st)) ∧
  (∀ (h : Hdr) (p : Payload), s.main.takes h.src = true → s.main.serves 0x0211 h p [(0, 2)] (owned := s.main.ownsDies h.src (p.extractLsb' 0 4)) (high := forcedRsv p) = false → ∃ st, 0 < st ∧ st < 10 ∧ st ≠ 3 ∧
    exec (.forcedRechuck h p) s = s.nextMain (s.main.turnedAway 0x0211 h st)) ∧
  (∀ (h : Hdr) (p : Payload), s.main.takes h.src = true → s.main.serves 0x0212 h p [(0, 1)] (reads := true) (owned := s.main.owns h.src (s.main.variant.diePart (bvAt p 0 1))) = false → ∃ st, 0 < st ∧ st < 10 ∧ st ≠ 3 ∧
    exec (.dieStatus h p) s = s.nextMain (s.main.turnedAway 0x0212 h st)) ∧
  (∀ (h : Hdr) (p : Payload), s.main.takes h.src = true → s.main.serves 0x0213 h p [(0, 1)] (owned := s.main.ownsDies h.src (p.extractLsb' 0 4)) (high := (bvAt p 0 1 < 16)) = false → ∃ st, 0 < st ∧ st < 10 ∧ st ≠ 3 ∧
    exec (.withdrawStagedBlanks h p) s = s.nextMain (s.main.turnedAway 0x0213 h st)) ∧
  (∀ (h : Hdr) (p : Payload), s.main.takes h.src = true → s.main.serves 0x0214 h p [(0, 1), (8, 16)] (owned := s.main.owns h.src (s.main.variant.diePart (bvAt p 0 1))) = false → ∃ st, 0 < st ∧ st < 10 ∧ st ≠ 3 ∧
    exec (.setShavingsArea h p) s = s.nextMain (s.main.turnedAway 0x0214 h st)) ∧
  (∀ (h : Hdr) (p : Payload), s.main.takes h.src = true → s.main.serves 0x0203 h p [(0, 8)] (owned := s.main.ownsJob h.src (bvAt p 0 4)) = false → ∃ st, 0 < st ∧ st < 10 ∧ st ≠ 3 ∧
    exec (.stepOpen h p) s = s.nextMain (s.main.turnedAway 0x0203 h st)) ∧
  (∀ (h : Hdr) (p : Payload), s.main.takes h.src = true → s.main.serves 0x0931 h p [(0, 21), (24, 3)] (reads := true) (high := (bvAt p 26 1 ≤ 2)) = false → ∃ st, 0 < st ∧ st < 10 ∧ st ≠ 3 ∧
    exec (.generatorProbe h p) s = s.nextMain (s.main.turnedAway 0x0931 h st)) ∧
  (∀ (h : Hdr) (p : Payload), s.main.takes h.src = true → s.main.serves 0x0201 h p [(0, 5), (6, 22)] (high := openRsv p) = false → ∃ st, 0 < st ∧ st < 10 ∧ st ≠ 3 ∧
    exec (.jobOpen h p) s = s.nextMain (s.main.turnedAway 0x0201 h st)) ∧
  (∀ (h : Hdr) (p : Payload), s.main.takes h.src = true → s.main.serves 0x0204 h p (if bvAt p 4 1 = 1 then [(0, 5), (8, 4)] else [(0, 5)]) (owned := s.main.ownsJob h.src (bvAt p 0 4)) = false → ∃ st, 0 < st ∧ st < 10 ∧ st ≠ 3 ∧
    exec (.restoreJob h p) s = s.nextMain (s.main.turnedAway 0x0204 h st)) ∧
  (∀ (h : Hdr) (p : Payload), s.main.takes h.src = true → s.main.serves 0x0321 h p [(0, 1)] (reads := true) (owned := s.main.owns h.src (s.main.variant.diePart (bvAt p 0 1))) = false → ∃ st, 0 < st ∧ st < 10 ∧ st ≠ 3 ∧
    exec (.stackedSramStatus h p) s = s.nextMain (s.main.turnedAway 0x0321 h st)) ∧
  (∀ (h : Hdr) (p : Payload), s.main.takes h.src = true → s.main.serves 0x0302 h p [(0, 2), (8, 16)] = false → ∃ st, 0 < st ∧ st < 10 ∧ st ≠ 3 ∧
    exec (.setStateRegion h p) s = s.nextMain (s.main.turnedAway 0x0302 h st)) ∧
  (∀ (h : Hdr) (p : Payload), s.main.takes h.src = true → s.main.serves 0x0303 h p [(0, 2)] (reads := true) (owned := s.main.owns h.src (s.main.variant.stackPart (bvAt p 0 1))) = false → ∃ st, 0 < st ∧ st < 10 ∧ st ≠ 3 ∧
    exec (.readStateRegion h p) s = s.nextMain (s.main.turnedAway 0x0303 h st)) ∧
  (∀ (h : Hdr) (p : Payload), s.main.takes h.src = true → s.main.serves 0x0310 h p [(0, 1), (8, 16)] (high := regRsv p) = false → ∃ st, 0 < st ∧ st < 10 ∧ st ≠ 3 ∧
    exec (.setMemoryRegulators h p) s = s.nextMain (s.main.turnedAway 0x0310 h st)) ∧
  (∀ (h : Hdr) (p : Payload), s.main.takes h.src = true → s.main.serves 0x0340 h p [(0, 32)] (owned := s.main.ownsJob h.src (bvAt p 0 4)) (high := (bvAt p 7 1 < 8)) = false → ∃ st, 0 < st ∧ st < 10 ∧ st ≠ 3 ∧
    exec (.setWeightLayer h p) s = s.nextMain (s.main.turnedAway 0x0340 h st)) ∧
  (∀ (h : Hdr) (p : Payload), s.main.takes h.src = true → s.main.serves 0x0341 h p [(0, 5)] (owned := s.main.ownsJob h.src (bvAt p 0 4)) = false → ∃ st, 0 < st ∧ st < 10 ∧ st ≠ 3 ∧
    exec (.setVersionMode h p) s = s.nextMain (s.main.turnedAway 0x0341 h st)) ∧
  (∀ (h : Hdr) (p : Payload), s.main.takes h.src = true → s.main.serves 0x0342 h p [(0, 6)] (reads := true) (owned := s.main.ownsJob h.src (bvAt p 0 4)) = false → ∃ st, 0 < st ∧ st < 10 ∧ st ≠ 3 ∧
    exec (.weightLayerStatus h p) s = s.nextMain (s.main.turnedAway 0x0342 h st)) ∧
  (∀ (h : Hdr) (p : Payload), s.main.takes h.src = true → s.main.serves 0x0350 h p [(0, 5), (8, 8)] (owned := s.main.ownsJob h.src (bvAt p 0 4)) = false → ∃ st, 0 < st ∧ st < 10 ∧ st ≠ 3 ∧
    exec (.setOptimiserProfile h p) s = s.nextMain (s.main.turnedAway 0x0350 h st)) ∧
  (∀ (h : Hdr) (p : Payload), s.main.takes h.src = true → s.main.serves 0x0351 h p [(0, 5), (8, 4)] (owned := s.main.ownsJob h.src (bvAt p 0 4)) = false → ∃ st, 0 < st ∧ st < 10 ∧ st ≠ 3 ∧
    exec (.setUpdateDiscipline h p) s = s.nextMain (s.main.turnedAway 0x0351 h st)) ∧
  (∀ (h : Hdr) (p : Payload), s.main.takes h.src = true → s.main.serves 0x0352 h p [(0, 22), (24, 4)] (owned := s.main.ownsJob h.src (bvAt p 0 4)) = false → ∃ st, 0 < st ∧ st < 10 ∧ st ≠ 3 ∧
    exec (.assignBlocks h p) s = s.nextMain (s.main.turnedAway 0x0352 h st)) ∧
  (∀ (h : Hdr) (p : Payload), s.main.takes h.src = true → s.main.serves 0x0353 h p [(0, 6), (8, 12)] (owned := s.main.ownsJob h.src (bvAt p 0 4)) = false → ∃ st, 0 < st ∧ st < 10 ∧ st ≠ 3 ∧
    exec (.moveBlockState h p) s = s.nextMain (s.main.turnedAway 0x0353 h st)) ∧
  (∀ (h : Hdr) (p : Payload), s.main.takes h.src = true → s.main.serves 0x0354 h p [(0, 5), (8, 16)] (owned := s.main.ownsJob h.src (bvAt p 0 4)) = false → ∃ st, 0 < st ∧ st < 10 ∧ st ≠ 3 ∧
    exec (.loadBlockState h p) s = s.nextMain (s.main.turnedAway 0x0354 h st)) ∧
  (∀ (h : Hdr) (p : Payload), s.main.takes h.src = true → s.main.serves 0x0355 h p [(0, 5), (8, 16)] (owned := s.main.ownsJob h.src (bvAt p 0 4)) = false → ∃ st, 0 < st ∧ st < 10 ∧ st ≠ 3 ∧
    exec (.saveBlockState h p) s = s.nextMain (s.main.turnedAway 0x0355 h st)) ∧
  (∀ (h : Hdr) (p : Payload), s.main.takes h.src = true → s.main.serves 0x0357 h p [(0, 6), (8, 16)] (owned := s.main.ownsJob h.src (bvAt p 0 4)) = false → ∃ st, 0 < st ∧ st < 10 ∧ st ≠ 3 ∧
    exec (.loadWorkingWeights h p) s = s.nextMain (s.main.turnedAway 0x0357 h st)) ∧
  (∀ (h : Hdr) (p : Payload), s.main.takes h.src = true → s.main.serves 0x0358 h p [(0, 5)] (reads := true) (owned := s.main.ownsJob h.src (bvAt p 0 4)) = false → ∃ st, 0 < st ∧ st < 10 ∧ st ≠ 3 ∧
    exec (.burnisherStatus h p) s = s.nextMain (s.main.turnedAway 0x0358 h st)) ∧
  (∀ (h : Hdr) (p : Payload), s.main.takes h.src = true → s.main.serves 0x0230 h p [(0, 28)] (owned := s.main.ownsJob h.src (bvAt p 0 4)) (high := (bvAt p 4 4 < 64)) = false → ∃ st, 0 < st ∧ st < 10 ∧ st ≠ 3 ∧
    exec (.setJobNumerics h p) s = s.nextMain (s.main.turnedAway 0x0230 h st)) ∧
  (∀ (h : Hdr) (p : Payload), s.main.takes h.src = true → s.main.serves 0x0231 h p [(0, 24)] (owned := s.main.ownsJob h.src (bvAt p 0 4)) (high := (bvAt p 10 1 < 4)) = false → ∃ st, 0 < st ∧ st < 10 ∧ st ≠ 3 ∧
    exec (.setLayerNumerics h p) s = s.nextMain (s.main.turnedAway 0x0231 h st)) ∧
  (∀ (h : Hdr) (p : Payload), s.main.takes h.src = true → s.main.serves 0x0232 h p [(0, 4), (8, 8)] (owned := s.main.ownsJob h.src (bvAt p 0 4)) = false → ∃ st, 0 < st ∧ st < 10 ∧ st ≠ 3 ∧
    exec (.saveNumericsState h p) s = s.nextMain (s.main.turnedAway 0x0232 h st)) ∧
  (∀ (h : Hdr) (p : Payload), s.main.takes h.src = true → s.main.serves 0x0233 h p [(0, 4), (8, 8)] (owned := s.main.ownsJob h.src (bvAt p 0 4)) = false → ∃ st, 0 < st ∧ st < 10 ∧ st ≠ 3 ∧
    exec (.loadNumericsState h p) s = s.nextMain (s.main.turnedAway 0x0233 h st)) ∧
  (∀ (h : Hdr) (p : Payload), s.main.takes h.src = true → s.main.serves 0x0234 h p [(0, 4)] (reads := true) (owned := s.main.ownsJob h.src (bvAt p 0 4)) = false → ∃ st, 0 < st ∧ st < 10 ∧ st ≠ 3 ∧
    exec (.numericsStatus h p) s = s.nextMain (s.main.turnedAway 0x0234 h st)) ∧
  (∀ (h : Hdr) (p : Payload), s.main.takes h.src = true → s.main.serves 0x0801 h p [(0, 1)] (reads := true) = false → ∃ st, 0 < st ∧ st < 10 ∧ st ≠ 3 ∧
    exec (.portStatus h p) s = s.nextMain (s.main.turnedAway 0x0801 h st)) ∧
  (∀ (h : Hdr) (p : Payload), s.main.takes h.src = true → s.main.serves 0x0802 h p [(0, 3)] = false → ∃ st, 0 < st ∧ st < 10 ∧ st ≠ 3 ∧
    exec (.portControl h p) s = s.nextMain (s.main.turnedAway 0x0802 h st)) ∧
  (∀ (h : Hdr) (p : Payload), s.main.takes h.src = true → s.main.serves 0x0803 h p [(0, 3)] = false → ∃ st, 0 < st ∧ st < 10 ∧ st ≠ 3 ∧
    exec (.arbitrationWeights h p) s = s.nextMain (s.main.turnedAway 0x0803 h st)) ∧
  (∀ (h : Hdr) (p : Payload), s.main.takes h.src = true → s.main.serves 0x0810 h p [(0, 7), (8, 2), (16, 8)] = false → ∃ st, 0 < st ∧ st < 10 ∧ st ≠ 3 ∧
    exec (.membershipChange h p) s = s.nextMain (s.main.turnedAway 0x0810 h st)) ∧
  (∀ (h : Hdr) (p : Payload), s.main.takes h.src = true → s.main.serves 0x0811 h p [(0, 16)] (owned := s.main.ownsJob h.src (bvAt p 0 4)) = false → ∃ st, 0 < st ∧ st < 10 ∧ st ≠ 3 ∧
    exec (.rankMap h p) s = s.nextMain (s.main.turnedAway 0x0811 h st)) ∧
  (∀ (h : Hdr) (p : Payload), s.main.takes h.src = true → s.main.serves 0x0812 h p [(0, 6), (8, 24)] (owned := s.main.ownsJob h.src (bvAt p 0 4)) = false → ∃ st, 0 < st ∧ st < 10 ∧ st ≠ 3 ∧
    exec (.collectivePlan h p) s = s.nextMain (s.main.turnedAway 0x0812 h st)) ∧
  (∀ (h : Hdr) (p : Payload), s.main.takes h.src = true → s.main.serves 0x0813 h p [] (reads := true) = false → ∃ st, 0 < st ∧ st < 10 ∧ st ≠ 3 ∧
    exec (.collectiveStatus h p) s = s.nextMain (s.main.turnedAway 0x0813 h st)) ∧
  (∀ (h : Hdr) (p : Payload), s.main.takes h.src = true → s.main.serves 0x0814 h p [(0, 5), (8, 4)] (owned := s.main.ownsJob h.src (bvAt p 0 4)) = false → ∃ st, 0 < st ∧ st < 10 ∧ st ≠ 3 ∧
    exec (.reissueReduction h p) s = s.nextMain (s.main.turnedAway 0x0814 h st)) ∧
  (∀ (h : Hdr) (p : Payload), s.main.takes h.src = true → s.main.serves 0x0820 h p [(0, 2), (8, 8)] (owned := !s.main.partOn || (s.main.owns h.src (bvAt p 1 1 / 8 % 4) && (!((s.main.fab.inmap.get (bvAt p 0 1)).valid) || s.main.owns h.src (s.main.fab.inmap.get (bvAt p 0 1)).part.toNat))) = false → ∃ st, 0 < st ∧ st < 10 ∧ st ≠ 3 ∧
    exec (.setInboundMapEntry h p) s = s.nextMain (s.main.turnedAway 0x0820 h st)) ∧
  (∀ (h : Hdr) (p : Payload), s.main.takes h.src = true → s.main.serves 0x0360 h p [(0, 1), (8, 8)] = false → ∃ st, 0 < st ∧ st < 10 ∧ st ≠ 3 ∧
    exec (.setSlowTierMap h p) s = s.nextMain (s.main.turnedAway 0x0360 h st)) ∧
  (∀ (h : Hdr) (p : Payload), s.main.takes h.src = true → s.main.serves 0x0361 h p [(0, 2)] = false → ∃ st, 0 < st ∧ st < 10 ∧ st ≠ 3 ∧
    exec (.slowTierDevice h p) s = s.nextMain (s.main.turnedAway 0x0361 h st)) ∧
  (∀ (h : Hdr) (p : Payload), s.main.takes h.src = true → s.main.serves 0x0362 h p [(0, 1), (8, 16)] = false → ∃ st, 0 < st ∧ st < 10 ∧ st ≠ 3 ∧
    exec (.setHostRange h p) s = s.nextMain (s.main.turnedAway 0x0362 h st)) ∧
  (∀ (h : Hdr) (p : Payload), s.main.takes h.src = true → s.main.serves 0x0363 h p [(0, 4), (8, 8)] = false → ∃ st, 0 < st ∧ st < 10 ∧ st ≠ 3 ∧
    exec (.setTailstockArea h p) s = s.nextMain (s.main.turnedAway 0x0363 h st)) ∧
  (∀ (h : Hdr) (p : Payload), s.main.takes h.src = true → s.main.serves 0x0364 h p [(0, 4)] (reads := true) (owned := s.main.ownsJob h.src (bvAt p 0 4)) = false → ∃ st, 0 < st ∧ st < 10 ∧ st ≠ 3 ∧
    exec (.tailstockStatus h p) s = s.nextMain (s.main.turnedAway 0x0364 h st)) ∧
  (∀ (h : Hdr) (p : Payload), s.main.takes h.src = true → s.main.serves 0x0401 h p [(0, 1), (2, 8)] (high := (bvAt p 0 1 < 16)) = false → ∃ st, 0 < st ∧ st < 10 ∧ st ≠ 3 ∧
    exec (.setPreferredPoints h p) s = s.nextMain (s.main.turnedAway 0x0401 h st)) ∧
  (∀ (h : Hdr) (p : Payload), s.main.takes h.src = true → s.main.serves 0x0403 h p [(0, 3)] (reads := true) (owned := s.main.owns h.src (s.main.variant.diePart (bvAt p 0 2 / 512 % 4))) = false → ∃ st, 0 < st ∧ st < 10 ∧ st ≠ 3 ∧
    exec (.readCharacterisedTable h p) s = s.nextMain (s.main.turnedAway 0x0403 h st)) ∧
  (∀ (h : Hdr) (p : Payload), s.main.takes h.src = true → s.main.serves 0x0404 h p [(0, 1)] (reads := true) (owned := s.main.owns h.src (s.main.variant.diePart (bvAt p 0 1 % 4))) = false → ∃ st, 0 < st ∧ st < 10 ∧ st ≠ 3 ∧
    exec (.readWearLedger h p) s = s.nextMain (s.main.turnedAway 0x0404 h st)) ∧
  (∀ (h : Hdr) (p : Payload), s.main.takes h.src = true → s.main.serves 0x0405 h p [(0, 1), (8, 2)] (high := (bvAt p 8 1 < 2)) = false → ∃ st, 0 < st ∧ st < 10 ∧ st ≠ 3 ∧
    exec (.setSteadyRest h p) s = s.nextMain (s.main.turnedAway 0x0405 h st)) ∧
  (∀ (h : Hdr) (p : Payload), s.main.takes h.src = true → s.main.serves 0x0402 h p [(0, 3), (4, 8)] (high := decide (bvAt p 2 1 < 2)) = false → ∃ st, 0 < st ∧ st < 10 ∧ st ≠ 3 ∧
    exec (.setPowerLimits h p) s = s.nextMain (s.main.turnedAway 0x0402 h st)) ∧
  (∀ (h : Hdr) (p : Payload), s.main.takes h.src = true → s.main.serves 0x0406 h p [] (reads := true) = false → ∃ st, 0 < st ∧ st < 10 ∧ st ≠ 3 ∧
    exec (.powerStatus h p) s = s.nextMain (s.main.turnedAway 0x0406 h st)) ∧
  (∀ (h : Hdr) (p : Payload), s.main.takes h.src = true → s.main.serves 0x0410 h p [(8, 8)] (high := decide (bvAt p 14 2 < 16)) = false → ∃ st, 0 < st ∧ st < 10 ∧ st ≠ 3 ∧
    exec (.setFlywheel h p) s = s.nextMain (s.main.turnedAway 0x0410 h st)) ∧
  (∀ (h : Hdr) (p : Payload), s.main.takes h.src = true → s.main.serves 0x0407 h p [(0, 2)] (reads := true) (owned := s.main.owns h.src (s.main.variant.diePart (bvAt p 0 1 % 4))) = false → ∃ st, 0 < st ∧ st < 10 ∧ st ≠ 3 ∧
    exec (.thermalStatus h p) s = s.nextMain (s.main.turnedAway 0x0407 h st)) ∧
  (∀ (h : Hdr) (p : Payload), s.main.takes h.src = true → s.main.serves 0x0420 h p [] (reads := true) = false → ∃ st, 0 < st ∧ st < 10 ∧ st ≠ 3 ∧
    exec (.meterMirrorStatus h p) s = s.nextMain (s.main.turnedAway 0x0420 h st)) ∧
  (∀ (h : Hdr) (p : Payload), s.main.takes h.src = true → s.main.serves 0x0101 h p [] (reads := true) = false → ∃ st, 0 < st ∧ st < 10 ∧ st ≠ 3 ∧
    exec (.deviceIdentity h p) s = s.nextMain (s.main.turnedAway 0x0101 h st)) ∧
  (∀ (h : Hdr) (p : Payload), s.main.takes h.src = true → s.main.serves 0x0102 h p [(0, 1)] (reads := true) (anyState := true) = false → ∃ st, 0 < st ∧ st < 10 ∧ st ≠ 3 ∧
    exec (.deviceStatus h p) s = s.nextMain (s.main.turnedAway 0x0102 h st)) ∧
  (∀ (h : Hdr) (p : Payload), s.main.takes h.src = true → s.main.serves 0x0702 h p [] (reads := true) = false → ∃ st, 0 < st ∧ st < 10 ∧ st ≠ 3 ∧
    exec (.ringLogStatus h p) s = s.nextMain (s.main.turnedAway 0x0702 h st)) ∧
  (∀ (h : Hdr) (p : Payload), s.main.takes h.src = true → s.main.serves 0x0704 h p [] = false → ∃ st, 0 < st ∧ st < 10 ∧ st ≠ 3 ∧
    exec (.getNonce h p) s = s.nextMain (s.main.turnedAway 0x0704 h st)) ∧
  (∀ (h : Hdr) (p : Payload), s.main.takes h.src = true → s.main.serves 0x0705 h p [(0, 1), (8, 24)] = false → ∃ st, 0 < st ∧ st < 10 ∧ st ≠ 3 ∧
    exec (.stageAuthorisation h p) s = s.nextMain (s.main.turnedAway 0x0705 h st)) ∧
  (∀ (h : Hdr) (p : Payload), s.main.takes h.src = true → s.main.serves 0x0703 h p [] = false → ∃ st, 0 < st ∧ st < 10 ∧ st ≠ 3 ∧
    exec (.clear h p) s = s.nextMain (s.main.turnedAway 0x0703 h st)) ∧
  (∀ (h : Hdr) (p : Payload), s.main.takes h.src = true → s.main.serves 0x0706 h p [] = false → ∃ st, 0 < st ∧ st < 10 ∧ st ≠ 3 ∧
    exec (.setLogClearKey h p) s = s.nextMain (s.main.turnedAway 0x0706 h st)) ∧
  (∀ (h : Hdr) (p : Payload), s.main.takes h.src = true → s.main.serves 0x0501 h p [(0, 1)] = false → ∃ st, 0 < st ∧ st < 10 ∧ st ≠ 3 ∧
    exec (.setPartitioning h p) s = s.nextMain (s.main.turnedAway 0x0501 h st)) ∧
  (∀ (h : Hdr) (p : Payload), s.main.takes h.src = true → s.main.serves 0x0502 h p [(0, 2), (8, 16)] (high := decide (bvAt p 1 1 < 16)) = false → ∃ st, 0 < st ∧ st < 10 ∧ st ≠ 3 ∧
    exec (.setPartitionResources h p) s = s.nextMain (s.main.turnedAway 0x0502 h st)) ∧
  (∀ (h : Hdr) (p : Payload), s.main.takes h.src = true → s.main.serves 0x0503 h p [(0, 1)] (reads := true) (owned := match h.src with
      | .tenant q => q.toNat = bvAt p 0 1
      | _ => true) = false → ∃ st, 0 < st ∧ st < 10 ∧ st ≠ 3 ∧
    exec (.partitionStatus h p) s = s.nextMain (s.main.turnedAway 0x0503 h st)) ∧
  (∀ (h : Hdr) (p : Payload), s.main.takes h.src = true → s.main.serves 0x0520 h p [(0, 32)] = false → ∃ st, 0 < st ∧ st < 10 ∧ st ≠ 3 ∧
    exec (.sealedImport h p) s = s.nextMain (s.main.turnedAway 0x0520 h st)) ∧
  (∀ (h : Hdr) (p : Payload), s.main.takes h.src = true → s.main.serves 0x0521 h p [(0, 20), (24, 8)] = false → ∃ st, 0 < st ∧ st < 10 ∧ st ≠ 3 ∧
    exec (.sealedExport h p) s = s.nextMain (s.main.turnedAway 0x0521 h st)) ∧
  (∀ (h : Hdr) (p : Payload), s.main.takes h.src = true → s.main.serves 0x0510 h p [] = false → ∃ st, 0 < st ∧ st < 10 ∧ st ≠ 3 ∧
    exec (.debugLock h p) s = s.nextMain (s.main.turnedAway 0x0510 h st)) ∧
  (∀ (h : Hdr) (p : Payload), s.main.takes h.src = true → s.main.serves 0x0601 h p [(0, 8), (8, 4)] = false → ∃ st, 0 < st ∧ st < 10 ∧ st ≠ 3 ∧
    exec (.startUpdate h p) s = s.nextMain (s.main.turnedAway 0x0601 h st)) ∧
  (∀ (h : Hdr) (p : Payload), s.main.takes h.src = true → s.main.serves 0x0602 h p [] (reads := true) = false → ∃ st, 0 < st ∧ st < 10 ∧ st ≠ 3 ∧
    exec (.updateStatus h p) s = s.nextMain (s.main.turnedAway 0x0602 h st)) ∧
  (∀ (h : Hdr) (p : Payload), s.main.takes h.src = true → s.main.serves 0x0604 h p [] = false → ∃ st, 0 < st ∧ st < 10 ∧ st ≠ 3 ∧
    exec (.cancelUpdate h p) s = s.nextMain (s.main.turnedAway 0x0604 h st)) ∧
  (∀ (h : Hdr) (p : Payload), s.main.takes h.src = true → s.main.serves 0x0606 h p [] = false → ∃ st, 0 < st ∧ st < 10 ∧ st ≠ 3 ∧
    exec (.commitSecurityVersion h p) s = s.nextMain (s.main.turnedAway 0x0606 h st)) ∧
  (∀ (h : Hdr) (p : Payload), s.main.takes h.src = true → s.main.serves 0x0912 h p [(0, 2)] = false → ∃ st, 0 < st ∧ st < 10 ∧ st ≠ 3 ∧
    exec (.clearPortRetirement h p) s = s.nextMain (s.main.turnedAway 0x0912 h st)) ∧
  (∀ (h : Hdr) (p : Payload), s.main.takes h.src = true → s.main.serves 0x0701 h p [(0, 4)] (reads := true) = false → ∃ st, 0 < st ∧ st < 10 ∧ st ≠ 3 ∧
    exec (.readRecord h p) s = s.nextMain (s.main.turnedAway 0x0701 h st)) ∧
  (∀ (h : Hdr) (p : Payload), s.main.takes h.src = true → s.main.serves 0x0910 h p [(0, 3)] (reads := true) (owned := s.main.ownsMap h.src p) = false → ∃ st, 0 < st ∧ st < 10 ∧ st ≠ 3 ∧
    exec (.degradationMap h p) s = s.nextMain (s.main.turnedAway 0x0910 h st)) ∧
  (∀ (h : Hdr) (p : Payload), s.main.takes h.src = true → s.main.serves 0x0932 h p [(0, 2), (8, 18)] (reads := bvAt p 0 1 % 2 = 1 || 3 < bvAt p 0 1) = false → ∃ st, 0 < st ∧ st < 10 ∧ st ≠ 3 ∧
    exec (.checkerAccess h p) s = s.nextMain (s.main.turnedAway 0x0932 h st))

/-- A command that only reads changes nothing but the queue and the responses. For each of 24 commands that only read, in every state, with every header and payload, whether it is left alone, turned away, refused or served: the next state differs from the old one at most in the controller's queue and in the responses. No register, memory, log, counter, job, tile or meter changes. -/
def Obligations.QueriesChangeNothing : Prop :=
  ∀ (s u : State) (h : Hdr),
  let same := u = { s with main := { s.main with queue := u.main.queue, resps := u.main.resps } }
  (∀ p : Payload,
    (exec (.dieStatus h p) s = .next u → same) ∧
    (exec (.generatorProbe h p) s = .next u → same) ∧
    (exec (.stackedSramStatus h p) s = .next u → same) ∧
    (exec (.readStateRegion h p) s = .next u → same) ∧
    (exec (.weightLayerStatus h p) s = .next u → same) ∧
    (exec (.numericsStatus h p) s = .next u → same) ∧
    (exec (.collectiveStatus h p) s = .next u → same) ∧
    (exec (.tailstockStatus h p) s = .next u → same) ∧
    (exec (.readCharacterisedTable h p) s = .next u → same) ∧
    (exec (.readWearLedger h p) s = .next u → same) ∧
    (exec (.powerStatus h p) s = .next u → same) ∧
    (exec (.thermalStatus h p) s = .next u → same) ∧
    (exec (.meterMirrorStatus h p) s = .next u → same) ∧
    (exec (.deviceIdentity h p) s = .next u → same) ∧
    (exec (.deviceStatus h p) s = .next u → same) ∧
    (exec (.ringLogStatus h p) s = .next u → same) ∧
    (exec (.partitionStatus h p) s = .next u → same) ∧
    (exec (.updateStatus h p) s = .next u → same) ∧
    (exec (.readRecord h p) s = .next u → same) ∧
    (exec (.degradationMap h p) s = .next u → same)) ∧
  (∀ p : BitVec 384,
    (exec (.status h p) s = .next u → same) ∧
    (exec (.identify h p) s = .next u → same) ∧
    (exec (.readPower h p) s = .next u → same) ∧
    (exec (.tcs2ReadLog h p) s = .next u → same))

/-- The power, pace and thermal events change no tile, memory, job, Burnisher, partition, session, firmware or command at hand. For every event of the power loops, the limits, the Flywheel, the operating points and the thermal loops (parking and events included, a hardware trip not), in every state: tiles with their registers and local stores, every stored byte, memory stacks, stacked SRAM, jobs, Burnishers, partitions, sessions, firmware, the controller's queue and its responses, the meter and the waiting commands are the same after it. -/
def Obligations.PowerEventsLeaveTheWork : Prop :=
  ∀ (c : Instr) (s u : State), exec c s = .next u →
  match c with
  | .fastPowerLoop _ | .telemetryCrossCheck .. | .estimateFallbackTimer | .activityRefitComplete _ | .pointSelection _ | .regionParkTick _ | .electricalLimitTimer _ | .boostWindowExhausted _ | .flywheelPeriod .. | .startOffsetExpiry | .stopRamp | .pointMove _ | .pacedPointLower _ | .thermalLoop .. | .heatTokenPlan .. | .dieThermalCeilingStep _ | .regionParkedAtCriticalTemperature .. => s.main.SameWork u.main ∧ u.meter = s.meter ∧ u.pending = s.pending
  | _ => True

/-- A write to a byte store puts its bytes at its addresses and leaves every other delivered byte as it was. For every byte store in canonical form and every run of whole 8-byte words: after the write, each address of the run delivers the byte written there, whatever the run held before (zeros, an undefined run, a word in error or a poisoned one), every address outside the run delivers what it delivered before, and the store is in canonical form again. -/
def Obligations.StoresWriteExactlyTheirBytes : Prop :=
  ∀ (m : Mem) (a : Nat) (l : List Byte), Memory.wf m = true → a % 8 = 0 → l.length % 8 = 0 →
  Memory.wf (m.write a l) = true ∧
  (∀ i, i < l.length → (m.write a l).byte (a + i) = l.getD i 0) ∧
  (∀ b, b < a ∨ a + l.length ≤ b → (m.write a l).byte b = m.byte b)

/-- NOP, LOOP, CINV, SMOVI, SALU, GETID and FLAGRD change, of all tiles and memories, only their spindle, its destination register and their tile's own counters. When one of these instructions issues on a tile that waits in no HALT, FENCE or QSEND, names no counter to wait for or to signal and consumes no token: every other tile, the memory stacks, pinned windows, slow tier and host memory, the jobs and the meter are unchanged; in its tile the tensor registers, the groups, the local store, the completion counters, the queues and the operations in flight are unchanged; the scalar registers, loop counters and pc of every other spindle are unchanged; of its own spindle every scalar register is unchanged but the destination of SMOVI, SALU, GETID and FLAGRD, and every loop counter but that of LOOP. -/
def Obligations.RegisterInstructionsFrame : Prop :=
  ∀ (s u : State) (t : TileRef) (k : Fin 8) (f : Fields), (s.main.tileAt t.id).quiet → f.se = 0 → f.wn = 0 → f.qa.getLsbD 5 = false → f.qb.getLsbD 5 = false →
  let x := s.main.tileAt t.id
  let y := u.main.tileAt t.id
  let same := fun (keeps : BitVec 5 → Prop) (counts : Nat → Prop) =>
    (∀ id, id ≠ t.id → u.main.tileAt id = s.main.tileAt id) ∧ u.main.mem = s.main.mem ∧ u.main.jobs = s.main.jobs ∧ u.meter = s.meter ∧
    y.treg = x.treg ∧ y.grp = x.grp ∧ y.store = x.store ∧ y.w = x.w ∧ y.q = x.q ∧ y.ops = x.ops ∧
    (∀ j, j ≠ k.val → (y.spin j).s = (x.spin j).s ∧ (y.spin j).c = (x.spin j).c ∧ (y.spin j).pc = (x.spin j).pc) ∧
    (∀ r, keeps r → (y.spin k.val).reg r = (x.spin k.val).reg r) ∧ (∀ j, counts j → (y.spin k.val).c.get j = (x.spin k.val).c.get j)
  (s.main.issues t.id ⟨k.val, 0x00, f⟩ [] → exec (.nop t k f) s = .next u → same (fun _ => True) (fun _ => True)) ∧
  (s.main.issues t.id ⟨k.val, 0x04, f⟩ [] → exec (.loop t k f) s = .next u → same (fun _ => True) (fun j => j ≠ f.lc.toNat)) ∧
  (s.main.issues t.id ⟨k.val, 0x0A, f⟩ [] → exec (.cinv t k f) s = .next u → same (fun _ => True) (fun _ => True)) ∧
  (s.main.issues t.id ⟨k.val, 0x06, f⟩ [] → exec (.smovi t k f) s = .next u → same (fun r => r ≠ f.sa) (fun _ => True)) ∧
  (s.main.issues t.id ⟨k.val, 0x07, f⟩ [] → exec (.salu t k f) s = .next u → same (fun r => r ≠ f.sa) (fun _ => True)) ∧
  (s.main.issues t.id ⟨k.val, 0x0B, f⟩ [] → exec (.getid t k f) s = .next u → same (fun r => r ≠ f.sa) (fun _ => True)) ∧
  (s.main.issues t.id ⟨k.val, 0x0C, f⟩ [] → exec (.flagrd t k f) s = .next u → same (fun r => r ≠ f.sa) (fun _ => True))

/-- Before its first power-up the unit is off with nothing stored, and AUX up starts it at stage 1 of its first power cycle. The initial state has no supply, no command waiting, no record in the ring log, no job, no stored byte and every partition open. AUX up leads from it to ROM boot at start-up stage 1 with the straps as read, in power cycle 1, with the clock and the count of commands at 0, no settings of any block, no mailbox owned and the side-band without an endpoint ID. That the model starts before the first power-up is its choice (log 1). -/
def Obligations.ColdResetOfTheFirstPowerUp : Prop :=
  State.reset.pending = [] ∧ State.reset.main.sup.aux = false ∧ State.reset.main.log.recs = [] ∧ State.reset.main.jobs = [] ∧ State.reset.main.mem.hbm.cells = [] ∧
  (∀ p, State.reset.main.masked p = false) ∧
  ∀ recov tlock sbaddr, ∃ u, exec (.auxUp recov tlock sbaddr) State.reset = .next u ∧
    u.main.sup.aux = true ∧ u.main.sup.state = .romBoot ∧ u.main.sup.stage = 1 ∧ u.main.sup.recov = recov ∧ u.main.sup.tlock = tlock ∧
    u.main.pcyc = 1 ∧ u.main.us = 0 ∧ u.main.cmds = 0 ∧ u.main.box = [] ∧ u.main.intr = {} ∧ u.main.sb.eid = 0 ∧ u.main.sb.sbaddr = sbaddr ∧
    (∀ c, (u.main.core.get c).runs = false) ∧ u.meter = State.reset.meter
end

