-- ==== Sys2Proof/Machine/BarRead.lean ====
section
/-! DEFINITION. What a read of BAR0 returns (R11, R12, R183, R325, R346, R368, R390–R397, R444, R467). -/

namespace Sys2Proof.Machine

/-! ### Fields -/

/-- A register from its fields: lowest bit and value. Every bit that no field names reads as 0 (R11). -/
def regOf (l : List (Nat × Nat)) : U64 := BitVec.ofNat 64 (l.map (fun e => e.2 * 2 ^ e.1)).sum

/-- A staged control register: PEND, REJ and GEN with the block's own places of them. WO bits read as 0 (R12). -/
def BlockCtl.fields (c : BlockCtl) (pend : Bool) : List (Nat × Nat) := [(1, pend.toNat), (2, c.rej.toNat), (8, c.gen.toNat)]

/-- Some staged regulator setting differs from the one in force (R183). -/
def Main.regPend (m : Main) : Bool := m.hbm.any (fun h => h.2.reg.any (fun r => r.2.staged != r.2.force))

/-- Some staged copy-engine setting differs from the one in force (R325). -/
def Main.copyPend (m : Main) : Bool :=
  m.eng.any (fun e => e.2.stBase != e.2.base || e.2.stSize != e.2.size || e.2.stEn != e.2.en || e.2.stVec != e.2.vec)

/-- Some staged Steady Rest setting differs from the one in force (R346). -/
def Main.beatPend (m : Main) : Bool := m.dp.any (fun d => d.2.stEn != d.2.en || d.2.stPace != d.2.pace)

/-- Some staged value of the power and load block differs from the one in force (R368). -/
def Main.powPend (m : Main) : Bool :=
  m.pow.stFly != m.pow.fly || m.pow.stHost != m.pow.host || m.pow.stBoard != m.pow.board || m.dp.any (fun d => d.2.stCap != d.2.cap)

/-- Number of a ceiling's source (R346). -/
def Csrc.num : Csrc → Nat
  | .none => 0 | .cap => 1 | .dieTemp => 2 | .memTemp => 3 | .wear => 4 | .boost => 5 | .fallback => 6

/-! ### Blocks -/

/-- The status block (R392). -/
def Main.statusRead (m : Main) : Nat → U64
  | 0x00 => regOf [(0, m.statusReg)]
  | 0x08 => regOf [(0, m.opsec.toNat), (32, m.pcyc.toNat % 2 ^ 24)]
  | 0x10 => regOf [(0, m.tickNow), (32, m.cmds.toNat)]
  | 0x18 => regOf [(0, m.log.next.toNat), (32, m.log.recs.length), (48, m.log.full.toNat)]
  | 0x20 => regOf [(0, m.log.fcode.toNat), (16, m.log.fseq.toNat)]
  | _ => 0

/-- The interrupt block (R393): VMAP reads as staged. -/
def Main.intrRead (m : Main) : Nat → U64
  | 0x00 => regOf [(0, m.intr.cause.toNat)]
  | 0x08 => regOf [(0, m.intr.en.toNat)]
  | 0x10 => regOf [(0, m.intr.stVmap.toNat)]
  | 0x18 => regOf [(1, (m.intr.stVmap != m.intr.vmap).toNat), (8, m.intr.gen.toNat)]
  | _ => 0

/-- The staged summary block (R395). -/
def Main.summaryRead (m : Main) : Nat → U64
  | 0x00 => regOf [(0, m.regPend.toNat), (1, m.copyPend.toNat), (2, m.beatPend.toNat), (3, m.powPend.toNat),
      (4, (m.intr.stVmap != m.intr.vmap).toNat), (8, m.rctl.rej.toNat), (9, m.ectl.rej.toNat), (10, m.pow.bctl.rej.toNat), (11, m.pow.ctl.rej.toNat)]
  | _ => 0

/-- The snapshot block (R396). -/
def Main.snapRead (m : Main) : Nat → U64
  | 0x00 => regOf [(32, m.snap.sseq.toNat)]
  | 0x08 => regOf [(0, m.snap.sopsec.toNat), (32, m.snap.stick.toNat)]
  | 0x10 => regOf [(0, m.snap.scmds.toNat), (32, m.snap.snext.toNat)]
  | _ => 0

/-- A register of host mailbox `k` (R397, R399). -/
def Main.boxRead (m : Main) (k o : Nat) : U64 :=
  let b := m.box.get k
  if o < 0x40 then b.cmd.extractLsb' (8 * o) 64
  else if o < 0x80 then b.resp.extractLsb' (8 * (o - 0x40)) 64
  else
    match o with
    | 0x80 => regOf [(1, b.own.toNat), (2, b.done.toNat), (3, b.cie.toNat), (4, b.cmem.toNat), (8, (m.boxVec k).toNat), (16, b.seq.toNat)]
    | 0x88 => regOf [(6, b.offs.toNat)]
    | 0x90 => regOf [(0, b.part.toNat), (2, b.bound.toNat)]
    | _ => 0

/-- The memory-regulator block (R183): the staged configuration, and the statistics of the last snapshot. -/
def Main.regRead (m : Main) (o : Nat) : U64 :=
  let n := (o - 0x100) / 0x40
  let r := (m.hbmAt n).reg.get ((o - 0x100) / 0x10 % 4)
  if o = 0 then regOf (m.rctl.fields m.regPend ++ [(16, m.rctl.who.toNat)])
  else if o < 0x100 || n ≥ m.variant.stacks then 0
  else if o % 0x10 = 0 then regOf [(0, r.staged.bits)]
  else regOf [(0, r.snServed.toNat), (32, r.snHeld.toNat)]

/-- The copy-engine block (R325); its REJ and PEND stand the other way round. -/
def Main.copyRegRead (m : Main) (o : Nat) : U64 :=
  let x := m.engAt ((o - 0x100) / 0x40)
  if o = 0 then regOf [(1, m.ectl.rej.toNat), (2, m.copyPend.toNat), (8, m.ectl.gen.toNat), (16, m.ectl.who.toNat)]
  else if o < 0x100 || (o - 0x100) / 0x40 ≥ 8 then 0
  else
    match (o - 0x100) % 0x40 with
    | 0x00 => regOf [(12, x.stBase.toNat)]
    | 0x08 => regOf [(0, x.stSize.toNat), (4, x.stEn.toNat), (16, x.stVec.toNat)]
    | 0x10 => regOf [(0, x.tail.toNat)]
    | 0x18 => regOf [(0, x.head.toNat), (16, x.halt.toNat), (17, (x.inflight = 0 : Bool).toNat), (24, x.last.toNat)]
    | _ => 0

/-- The beat and pace block (R346). -/
def Main.beatRead (m : Main) (o : Nat) : U64 :=
  let d := (o - 0x100) / 0x40
  let x := m.dpAt d
  if o = 0 then regOf (m.pow.bctl.fields m.beatPend ++ [(4, m.pow.bctl.who.toNat % 4), (16, m.pow.bctl.rsn.toNat)])
  else if o < 0x100 || d ≥ 4 then 0
  else
    match (o - 0x100) % 0x40 with
    | 0x00 => regOf [(0, x.stEn.toNat), (8, x.stPace.toNat)]
    | 0x08 => regOf [(0, x.point.toNat), (3, x.target.toNat), (6, (m.dieAt d).phase.toNat), (9, x.csrc.num), (12, (x.paceF != 0).toNat),
        (13, x.plow.toNat), (14, (m.pow.x = .fallback && x.paceF != 0 : Bool).toNat), (15, x.wcap.toNat), (16, x.paceF.toNat)]
    | 0x10 => x.snBeats
    | 0x18 => regOf [(0, x.snSkips.toNat)]
    | _ => 0

/-- The power and load block (R368): the cap register gives the host's staged cap. -/
def Main.powRead (m : Main) : Nat → U64
  | 0x000 => regOf (m.pow.ctl.fields m.powPend ++ [(16, m.pow.ctl.rsn.toNat)])
  | 0x100 => regOf [(0, m.pow.stFly.bits)]
  | 0x108 => regOf [(0, m.capOf m.pow.stHost), (12, m.pow.stHost.boost.toNat)]
  | 0x110 => regOf ((List.range 4).map (fun d => (16 * d, (m.dpAt d).stCap.toNat)))
  | 0x118 => m.pow.snA
  | 0x120 => m.pow.snB
  | _ => 0

/-- Eight bytes of the ring-log snapshot window: records as far as COUNT, 0 beyond (R467). -/
def Main.logRead (m : Main) (o : Nat) : U64 :=
  match m.log.recs[o / 32]? with
  | some r => r.bits.extractLsb' (8 * (o % 32)) 64
  | none => 0

/-- Eight bytes of the MSI-X table (R390). -/
def Main.msixRead (m : Main) (o : Nat) : U64 := bvOf 64 ((List.range 8).map (fun i => (cellGet m.intr.table (o + i)).getD 0))

/-- The 8-byte register at offset `r` of BAR0 (R390): what no block lists reads as 0. The windows of the debug block are read by commands
of their own (R444). -/
def Main.regGet (m : Main) (r : Nat) : U64 :=
  let o := r % 0x1000
  if 0x100000 ≤ r && r < 0x200000 then m.logRead (r - 0x100000)
  else if r = 0x200000 then BitVec.ofNat 64 m.debugCtl
  else if inMsix r then m.msixRead (r - 0x3F0000)
  else if r = 0x3F8000 then m.intr.pba
  else
    match r / 0x1000 with
    | 0x00 => m.statusRead o
    | 0x01 => m.intrRead o
    | 0x02 => m.summaryRead o
    | 0x03 => m.snapRead o
    | 0x10 => m.boxRead (o / 0x100) (o % 0x100)
    | 0x20 => m.regRead o
    | 0x21 => m.copyRegRead o
    | 0x22 => m.beatRead o
    | 0x23 => m.powRead o
    | _ => 0

/-- A read of `size` bytes at offset `off` of BAR0: the value, and the state after it (R12, R390, R391). Only naturally aligned reads of 4 or
8 bytes are accepted; any other reads 0 and logs event 0xF004. The opcode table has no row for a read (log 155). -/
def Main.barRead (m : Main) (off size : Nat) : Main × U64 :=
  if (size != 4 && size != 8) || off % size != 0 then (m.malformed off, 0)
  else
    let v := m.regGet (off / 8 * 8)
    (m, if size = 8 then v else (v >>> (8 * (off % 8))).setWidth 32 |>.setWidth 64)

end Sys2Proof.Machine
end

