-- ==== Sys2Proof/Laws/Bar.lean ====
section
/-! SUPPORT. What a read of BAR0 can do: an accepted one changes nothing, any other reads 0 (R12, R391). -/

namespace Sys2Proof.Machine

theorem Main.barRead_accepted (m : Main) (off size : Nat) (hs : size = 4 ∨ size = 8) (ha : off % size = 0) :
    (m.barRead off size).1 = m := by
  rcases hs with rfl | rfl <;> simp [Main.barRead, ha]

theorem Main.barRead_malformed (m : Main) (off size : Nat) (h : (size ≠ 4 ∧ size ≠ 8) ∨ off % size ≠ 0) :
    m.barRead off size = (m.malformed off, 0) := by
  have hc : ((size != 4 && size != 8) || off % size != 0) = true := by simpa using h
  simp [Main.barRead, hc]

/-- A read of 8 bytes at a register's own offset gives the register. -/
theorem Main.barRead_register (m : Main) (off : Nat) (ha : off % 8 = 0) : m.barRead off 8 = (m, m.regGet off) := by
  have : off / 8 * 8 = off := by omega
  simp [Main.barRead, ha, this]

end Sys2Proof.Machine
end

