-- ==== Sys2Proof/Laws/Tables.lean ====
section
/-! SUPPORT. Tables: what is read after a write, and that writing keeps the keys in rising order. -/

namespace Sys2Proof

/-- The keys of a table rise strictly. -/
def Table.sorted {α : Type} (t : Table α) : Prop := t.Pairwise (fun a b => a.1 < b.1)

variable {α : Type}

@[simp] theorem Table.find_put_same (t : Table α) (k : Nat) (v : α) : (t.put k v).find k = some v := by
  induction t with
  | nil => simp [Table.put, Table.find]
  | cons e r ih =>
    obtain ⟨k', v'⟩ := e
    by_cases h1 : k < k'
    · simp [Table.put, Table.find, h1]
    · by_cases h2 : k = k'
      · simp [Table.put, Table.find, h2]
      · simp [Table.put, Table.find, h1, h2, ih]

@[simp] theorem Table.get_put_same [Inhabited α] (t : Table α) (k : Nat) (v : α) : (t.put k v).get k = v := by
  induction t with
  | nil => simp [Table.put, Table.get]
  | cons e r ih =>
    obtain ⟨k', v'⟩ := e
    by_cases h1 : k < k'
    · simp [Table.put, Table.get, h1]
    · by_cases h2 : k = k'
      · simp [Table.put, Table.get, h2]
      · simp [Table.put, Table.get, h1, h2, ih]

theorem Table.get_put_other [Inhabited α] (t : Table α) {k j : Nat} (v : α) (h : j ≠ k) : (t.put k v).get j = t.get j := by
  induction t with
  | nil => simp [Table.put, Table.get, h]
  | cons e r ih =>
    obtain ⟨k', v'⟩ := e
    by_cases h1 : k < k'
    · simp [Table.put, Table.get, h1, h]
    · by_cases h2 : k = k'
      · subst h2; simp [Table.put, Table.get, h]
      · simp [Table.put, Table.get, h1, h2, ih]

theorem Table.find_put_other (t : Table α) {k j : Nat} (v : α) (h : j ≠ k) : (t.put k v).find j = t.find j := by
  induction t with
  | nil => simp [Table.put, Table.find, h]
  | cons e r ih =>
    obtain ⟨k', v'⟩ := e
    by_cases h1 : k < k'
    · simp [Table.put, Table.find, h1, h]
    · by_cases h2 : k = k'
      · subst h2; simp [Table.put, Table.find, h]
      · simp [Table.put, Table.find, h1, h2, ih]

@[simp] theorem Table.get_upd_same [Inhabited α] (t : Table α) (k : Nat) (f : α → α) : (t.upd k f).get k = f (t.get k) := by
  simp [Table.upd]

theorem Table.get_upd_other [Inhabited α] (t : Table α) {k j : Nat} (f : α → α) (h : j ≠ k) : (t.upd k f).get j = t.get j := by
  simp [Table.upd, Table.get_put_other, h]

/-- A write keeps every key above a bound that the key written lies above. -/
theorem Table.put_above (t : Table α) (k : Nat) (v : α) (b : Nat) (hb : b < k) (h : ∀ e ∈ t, b < e.1) :
    ∀ e ∈ t.put k v, b < e.1 := by
  induction t with
  | nil => simpa [Table.put] using hb
  | cons e r ih =>
    obtain ⟨k', v'⟩ := e
    have hr : ∀ e ∈ r, b < e.1 := fun e he => h e (List.mem_cons_of_mem _ he)
    have hk : b < k' := h (k', v') List.mem_cons_self
    intro e he
    unfold Table.put at he
    split at he
    · rcases List.mem_cons.mp he with rfl | he
      · exact hb
      · rcases List.mem_cons.mp he with rfl | he
        · exact hk
        · exact hr e he
    · split at he
      · rcases List.mem_cons.mp he with rfl | he
        · exact hb
        · exact hr e he
      · rcases List.mem_cons.mp he with rfl | he
        · exact hk
        · exact ih hr e he

theorem Table.put_sorted (t : Table α) (k : Nat) (v : α) (h : t.sorted) : (t.put k v).sorted := by
  induction t with
  | nil => simp [Table.sorted, Table.put]
  | cons e r ih =>
    obtain ⟨k', v'⟩ := e
    obtain ⟨h1, h2⟩ := List.pairwise_cons.mp h
    unfold Table.put
    split
    · next hlt =>
      refine List.pairwise_cons.mpr ⟨fun e he => ?_, h⟩
      rcases List.mem_cons.mp he with rfl | he
      · exact hlt
      · exact Nat.lt_trans hlt (h1 e he)
    · split
      · next heq => subst heq; exact List.pairwise_cons.mpr ⟨h1, h2⟩
      · next h3 h4 => exact List.pairwise_cons.mpr ⟨Table.put_above r k v k' (by omega) h1, ih h2⟩

theorem Table.del_sorted (t : Table α) (k : Nat) (h : t.sorted) : (t.del k).sorted := h.filter _

/-- What a key holds after another or the same key is dropped. -/
theorem Table.find_del (t : Table α) (k j : Nat) : (t.del k).find j = if j = k then none else t.find j := by
  induction t with
  | nil => simp [Table.del, Table.find]
  | cons e r ih =>
    obtain ⟨a, v⟩ := e
    unfold Table.del at *
    by_cases h : a = k
    · simp [h, ih, Table.find]; grind
    · simp [h, Table.find]; grind

end Sys2Proof
end

