-- ==== Sys2Proof/Laws/State.lean ====
section
/-! SUPPORT. State: one lemma for each field and each update of it, true by unfolding. -/

namespace Sys2Proof.Machine

/-! ### setTile -/

@[simp] theorem Main.setTile_variant (m : Main) (id : Nat) (t : Tile) : (m.setTile id t).variant = m.variant := rfl
@[simp] theorem Main.setTile_serial (m : Main) (id : Nat) (t : Tile) : (m.setTile id t).serial = m.serial := rfl
@[simp] theorem Main.setTile_us (m : Main) (id : Nat) (t : Tile) : (m.setTile id t).us = m.us := rfl
@[simp] theorem Main.setTile_opsec (m : Main) (id : Nat) (t : Tile) : (m.setTile id t).opsec = m.opsec := rfl
@[simp] theorem Main.setTile_opSaved (m : Main) (id : Nat) (t : Tile) : (m.setTile id t).opSaved = m.opSaved := rfl
@[simp] theorem Main.setTile_pcyc (m : Main) (id : Nat) (t : Tile) : (m.setTile id t).pcyc = m.pcyc := rfl
@[simp] theorem Main.setTile_cmds (m : Main) (id : Nat) (t : Tile) : (m.setTile id t).cmds = m.cmds := rfl
@[simp] theorem Main.setTile_draws (m : Main) (id : Nat) (t : Tile) : (m.setTile id t).draws = m.draws := rfl
@[simp] theorem Main.setTile_sup (m : Main) (id : Nat) (t : Tile) : (m.setTile id t).sup = m.sup := rfl
@[simp] theorem Main.setTile_tile (m : Main) (id : Nat) (t : Tile) : (m.setTile id t).tile = m.tile.put id t := rfl
@[simp] theorem Main.setTile_die (m : Main) (id : Nat) (t : Tile) : (m.setTile id t).die = m.die := rfl
@[simp] theorem Main.setTile_sram (m : Main) (id : Nat) (t : Tile) : (m.setTile id t).sram = m.sram := rfl
@[simp] theorem Main.setTile_hbm (m : Main) (id : Nat) (t : Tile) : (m.setTile id t).hbm = m.hbm := rfl
@[simp] theorem Main.setTile_burn (m : Main) (id : Nat) (t : Tile) : (m.setTile id t).burn = m.burn := rfl
@[simp] theorem Main.setTile_mem (m : Main) (id : Nat) (t : Tile) : (m.setTile id t).mem = m.mem := rfl
@[simp] theorem Main.setTile_jobs (m : Main) (id : Nat) (t : Tile) : (m.setTile id t).jobs = m.jobs := rfl
@[simp] theorem Main.setTile_assigned (m : Main) (id : Nat) (t : Tile) : (m.setTile id t).assigned = m.assigned := rfl
@[simp] theorem Main.setTile_closing (m : Main) (id : Nat) (t : Tile) : (m.setTile id t).closing = m.closing := rfl
@[simp] theorem Main.setTile_rctl (m : Main) (id : Nat) (t : Tile) : (m.setTile id t).rctl = m.rctl := rfl
@[simp] theorem Main.setTile_fab (m : Main) (id : Nat) (t : Tile) : (m.setTile id t).fab = m.fab := rfl
@[simp] theorem Main.setTile_cxl (m : Main) (id : Nat) (t : Tile) : (m.setTile id t).cxl = m.cxl := rfl
@[simp] theorem Main.setTile_region (m : Main) (id : Nat) (t : Tile) : (m.setTile id t).region = m.region := rfl
@[simp] theorem Main.setTile_tail (m : Main) (id : Nat) (t : Tile) : (m.setTile id t).tail = m.tail := rfl
@[simp] theorem Main.setTile_eng (m : Main) (id : Nat) (t : Tile) : (m.setTile id t).eng = m.eng := rfl
@[simp] theorem Main.setTile_ectl (m : Main) (id : Nat) (t : Tile) : (m.setTile id t).ectl = m.ectl := rfl
@[simp] theorem Main.setTile_dp (m : Main) (id : Nat) (t : Tile) : (m.setTile id t).dp = m.dp := rfl
@[simp] theorem Main.setTile_pow (m : Main) (id : Nat) (t : Tile) : (m.setTile id t).pow = m.pow := rfl
@[simp] theorem Main.setTile_mir (m : Main) (id : Nat) (t : Tile) : (m.setTile id t).mir = m.mir := rfl
@[simp] theorem Main.setTile_core (m : Main) (id : Nat) (t : Tile) : (m.setTile id t).core = m.core := rfl
@[simp] theorem Main.setTile_restartedAll (m : Main) (id : Nat) (t : Tile) : (m.setTile id t).restartedAll = m.restartedAll := rfl
@[simp] theorem Main.setTile_box (m : Main) (id : Nat) (t : Tile) : (m.setTile id t).box = m.box := rfl
@[simp] theorem Main.setTile_side (m : Main) (id : Nat) (t : Tile) : (m.setTile id t).side = m.side := rfl
@[simp] theorem Main.setTile_queue (m : Main) (id : Nat) (t : Tile) : (m.setTile id t).queue = m.queue := rfl
@[simp] theorem Main.setTile_resps (m : Main) (id : Nat) (t : Tile) : (m.setTile id t).resps = m.resps := rfl
@[simp] theorem Main.setTile_intr (m : Main) (id : Nat) (t : Tile) : (m.setTile id t).intr = m.intr := rfl
@[simp] theorem Main.setTile_snap (m : Main) (id : Nat) (t : Tile) : (m.setTile id t).snap = m.snap := rfl
@[simp] theorem Main.setTile_log (m : Main) (id : Nat) (t : Tile) : (m.setTile id t).log = m.log := rfl
@[simp] theorem Main.setTile_sb (m : Main) (id : Nat) (t : Tile) : (m.setTile id t).sb = m.sb := rfl
@[simp] theorem Main.setTile_spdm (m : Main) (id : Nat) (t : Tile) : (m.setTile id t).spdm = m.spdm := rfl
@[simp] theorem Main.setTile_partOn (m : Main) (id : Nat) (t : Tile) : (m.setTile id t).partOn = m.partOn := rfl
@[simp] theorem Main.setTile_part (m : Main) (id : Nat) (t : Tile) : (m.setTile id t).part = m.part := rfl
@[simp] theorem Main.setTile_clock (m : Main) (id : Nat) (t : Tile) : (m.setTile id t).clock = m.clock := rfl
@[simp] theorem Main.setTile_fw (m : Main) (id : Nat) (t : Tile) : (m.setTile id t).fw = m.fw := rfl
@[simp] theorem Main.setTile_out (m : Main) (id : Nat) (t : Tile) : (m.setTile id t).out = m.out := rfl

/-! ### updTile -/

@[simp] theorem Main.updTile_variant (m : Main) (id : Nat) (f : Tile → Tile) : (m.updTile id f).variant = m.variant := rfl
@[simp] theorem Main.updTile_serial (m : Main) (id : Nat) (f : Tile → Tile) : (m.updTile id f).serial = m.serial := rfl
@[simp] theorem Main.updTile_us (m : Main) (id : Nat) (f : Tile → Tile) : (m.updTile id f).us = m.us := rfl
@[simp] theorem Main.updTile_opsec (m : Main) (id : Nat) (f : Tile → Tile) : (m.updTile id f).opsec = m.opsec := rfl
@[simp] theorem Main.updTile_opSaved (m : Main) (id : Nat) (f : Tile → Tile) : (m.updTile id f).opSaved = m.opSaved := rfl
@[simp] theorem Main.updTile_pcyc (m : Main) (id : Nat) (f : Tile → Tile) : (m.updTile id f).pcyc = m.pcyc := rfl
@[simp] theorem Main.updTile_cmds (m : Main) (id : Nat) (f : Tile → Tile) : (m.updTile id f).cmds = m.cmds := rfl
@[simp] theorem Main.updTile_draws (m : Main) (id : Nat) (f : Tile → Tile) : (m.updTile id f).draws = m.draws := rfl
@[simp] theorem Main.updTile_sup (m : Main) (id : Nat) (f : Tile → Tile) : (m.updTile id f).sup = m.sup := rfl
@[simp] theorem Main.updTile_tile (m : Main) (id : Nat) (f : Tile → Tile) : (m.updTile id f).tile = m.tile.put id (f (m.tileAt id)) := rfl
@[simp] theorem Main.updTile_die (m : Main) (id : Nat) (f : Tile → Tile) : (m.updTile id f).die = m.die := rfl
@[simp] theorem Main.updTile_sram (m : Main) (id : Nat) (f : Tile → Tile) : (m.updTile id f).sram = m.sram := rfl
@[simp] theorem Main.updTile_hbm (m : Main) (id : Nat) (f : Tile → Tile) : (m.updTile id f).hbm = m.hbm := rfl
@[simp] theorem Main.updTile_burn (m : Main) (id : Nat) (f : Tile → Tile) : (m.updTile id f).burn = m.burn := rfl
@[simp] theorem Main.updTile_mem (m : Main) (id : Nat) (f : Tile → Tile) : (m.updTile id f).mem = m.mem := rfl
@[simp] theorem Main.updTile_jobs (m : Main) (id : Nat) (f : Tile → Tile) : (m.updTile id f).jobs = m.jobs := rfl
@[simp] theorem Main.updTile_assigned (m : Main) (id : Nat) (f : Tile → Tile) : (m.updTile id f).assigned = m.assigned := rfl
@[simp] theorem Main.updTile_closing (m : Main) (id : Nat) (f : Tile → Tile) : (m.updTile id f).closing = m.closing := rfl
@[simp] theorem Main.updTile_rctl (m : Main) (id : Nat) (f : Tile → Tile) : (m.updTile id f).rctl = m.rctl := rfl
@[simp] theorem Main.updTile_fab (m : Main) (id : Nat) (f : Tile → Tile) : (m.updTile id f).fab = m.fab := rfl
@[simp] theorem Main.updTile_cxl (m : Main) (id : Nat) (f : Tile → Tile) : (m.updTile id f).cxl = m.cxl := rfl
@[simp] theorem Main.updTile_region (m : Main) (id : Nat) (f : Tile → Tile) : (m.updTile id f).region = m.region := rfl
@[simp] theorem Main.updTile_tail (m : Main) (id : Nat) (f : Tile → Tile) : (m.updTile id f).tail = m.tail := rfl
@[simp] theorem Main.updTile_eng (m : Main) (id : Nat) (f : Tile → Tile) : (m.updTile id f).eng = m.eng := rfl
@[simp] theorem Main.updTile_ectl (m : Main) (id : Nat) (f : Tile → Tile) : (m.updTile id f).ectl = m.ectl := rfl
@[simp] theorem Main.updTile_dp (m : Main) (id : Nat) (f : Tile → Tile) : (m.updTile id f).dp = m.dp := rfl
@[simp] theorem Main.updTile_pow (m : Main) (id : Nat) (f : Tile → Tile) : (m.updTile id f).pow = m.pow := rfl
@[simp] theorem Main.updTile_mir (m : Main) (id : Nat) (f : Tile → Tile) : (m.updTile id f).mir = m.mir := rfl
@[simp] theorem Main.updTile_core (m : Main) (id : Nat) (f : Tile → Tile) : (m.updTile id f).core = m.core := rfl
@[simp] theorem Main.updTile_restartedAll (m : Main) (id : Nat) (f : Tile → Tile) : (m.updTile id f).restartedAll = m.restartedAll := rfl
@[simp] theorem Main.updTile_box (m : Main) (id : Nat) (f : Tile → Tile) : (m.updTile id f).box = m.box := rfl
@[simp] theorem Main.updTile_side (m : Main) (id : Nat) (f : Tile → Tile) : (m.updTile id f).side = m.side := rfl
@[simp] theorem Main.updTile_queue (m : Main) (id : Nat) (f : Tile → Tile) : (m.updTile id f).queue = m.queue := rfl
@[simp] theorem Main.updTile_resps (m : Main) (id : Nat) (f : Tile → Tile) : (m.updTile id f).resps = m.resps := rfl
@[simp] theorem Main.updTile_intr (m : Main) (id : Nat) (f : Tile → Tile) : (m.updTile id f).intr = m.intr := rfl
@[simp] theorem Main.updTile_snap (m : Main) (id : Nat) (f : Tile → Tile) : (m.updTile id f).snap = m.snap := rfl
@[simp] theorem Main.updTile_log (m : Main) (id : Nat) (f : Tile → Tile) : (m.updTile id f).log = m.log := rfl
@[simp] theorem Main.updTile_sb (m : Main) (id : Nat) (f : Tile → Tile) : (m.updTile id f).sb = m.sb := rfl
@[simp] theorem Main.updTile_spdm (m : Main) (id : Nat) (f : Tile → Tile) : (m.updTile id f).spdm = m.spdm := rfl
@[simp] theorem Main.updTile_partOn (m : Main) (id : Nat) (f : Tile → Tile) : (m.updTile id f).partOn = m.partOn := rfl
@[simp] theorem Main.updTile_part (m : Main) (id : Nat) (f : Tile → Tile) : (m.updTile id f).part = m.part := rfl
@[simp] theorem Main.updTile_clock (m : Main) (id : Nat) (f : Tile → Tile) : (m.updTile id f).clock = m.clock := rfl
@[simp] theorem Main.updTile_fw (m : Main) (id : Nat) (f : Tile → Tile) : (m.updTile id f).fw = m.fw := rfl
@[simp] theorem Main.updTile_out (m : Main) (id : Nat) (f : Tile → Tile) : (m.updTile id f).out = m.out := rfl

/-! ### setDie -/

@[simp] theorem Main.setDie_variant (m : Main) (d : Nat) (v : Die) : (m.setDie d v).variant = m.variant := rfl
@[simp] theorem Main.setDie_serial (m : Main) (d : Nat) (v : Die) : (m.setDie d v).serial = m.serial := rfl
@[simp] theorem Main.setDie_us (m : Main) (d : Nat) (v : Die) : (m.setDie d v).us = m.us := rfl
@[simp] theorem Main.setDie_opsec (m : Main) (d : Nat) (v : Die) : (m.setDie d v).opsec = m.opsec := rfl
@[simp] theorem Main.setDie_opSaved (m : Main) (d : Nat) (v : Die) : (m.setDie d v).opSaved = m.opSaved := rfl
@[simp] theorem Main.setDie_pcyc (m : Main) (d : Nat) (v : Die) : (m.setDie d v).pcyc = m.pcyc := rfl
@[simp] theorem Main.setDie_cmds (m : Main) (d : Nat) (v : Die) : (m.setDie d v).cmds = m.cmds := rfl
@[simp] theorem Main.setDie_draws (m : Main) (d : Nat) (v : Die) : (m.setDie d v).draws = m.draws := rfl
@[simp] theorem Main.setDie_sup (m : Main) (d : Nat) (v : Die) : (m.setDie d v).sup = m.sup := rfl
@[simp] theorem Main.setDie_tile (m : Main) (d : Nat) (v : Die) : (m.setDie d v).tile = m.tile := rfl
@[simp] theorem Main.setDie_die (m : Main) (d : Nat) (v : Die) : (m.setDie d v).die = m.die.put d v := rfl
@[simp] theorem Main.setDie_sram (m : Main) (d : Nat) (v : Die) : (m.setDie d v).sram = m.sram := rfl
@[simp] theorem Main.setDie_hbm (m : Main) (d : Nat) (v : Die) : (m.setDie d v).hbm = m.hbm := rfl
@[simp] theorem Main.setDie_burn (m : Main) (d : Nat) (v : Die) : (m.setDie d v).burn = m.burn := rfl
@[simp] theorem Main.setDie_mem (m : Main) (d : Nat) (v : Die) : (m.setDie d v).mem = m.mem := rfl
@[simp] theorem Main.setDie_jobs (m : Main) (d : Nat) (v : Die) : (m.setDie d v).jobs = m.jobs := rfl
@[simp] theorem Main.setDie_assigned (m : Main) (d : Nat) (v : Die) : (m.setDie d v).assigned = m.assigned := rfl
@[simp] theorem Main.setDie_closing (m : Main) (d : Nat) (v : Die) : (m.setDie d v).closing = m.closing := rfl
@[simp] theorem Main.setDie_rctl (m : Main) (d : Nat) (v : Die) : (m.setDie d v).rctl = m.rctl := rfl
@[simp] theorem Main.setDie_fab (m : Main) (d : Nat) (v : Die) : (m.setDie d v).fab = m.fab := rfl
@[simp] theorem Main.setDie_cxl (m : Main) (d : Nat) (v : Die) : (m.setDie d v).cxl = m.cxl := rfl
@[simp] theorem Main.setDie_region (m : Main) (d : Nat) (v : Die) : (m.setDie d v).region = m.region := rfl
@[simp] theorem Main.setDie_tail (m : Main) (d : Nat) (v : Die) : (m.setDie d v).tail = m.tail := rfl
@[simp] theorem Main.setDie_eng (m : Main) (d : Nat) (v : Die) : (m.setDie d v).eng = m.eng := rfl
@[simp] theorem Main.setDie_ectl (m : Main) (d : Nat) (v : Die) : (m.setDie d v).ectl = m.ectl := rfl
@[simp] theorem Main.setDie_dp (m : Main) (d : Nat) (v : Die) : (m.setDie d v).dp = m.dp := rfl
@[simp] theorem Main.setDie_pow (m : Main) (d : Nat) (v : Die) : (m.setDie d v).pow = m.pow := rfl
@[simp] theorem Main.setDie_mir (m : Main) (d : Nat) (v : Die) : (m.setDie d v).mir = m.mir := rfl
@[simp] theorem Main.setDie_core (m : Main) (d : Nat) (v : Die) : (m.setDie d v).core = m.core := rfl
@[simp] theorem Main.setDie_restartedAll (m : Main) (d : Nat) (v : Die) : (m.setDie d v).restartedAll = m.restartedAll := rfl
@[simp] theorem Main.setDie_box (m : Main) (d : Nat) (v : Die) : (m.setDie d v).box = m.box := rfl
@[simp] theorem Main.setDie_side (m : Main) (d : Nat) (v : Die) : (m.setDie d v).side = m.side := rfl
@[simp] theorem Main.setDie_queue (m : Main) (d : Nat) (v : Die) : (m.setDie d v).queue = m.queue := rfl
@[simp] theorem Main.setDie_resps (m : Main) (d : Nat) (v : Die) : (m.setDie d v).resps = m.resps := rfl
@[simp] theorem Main.setDie_intr (m : Main) (d : Nat) (v : Die) : (m.setDie d v).intr = m.intr := rfl
@[simp] theorem Main.setDie_snap (m : Main) (d : Nat) (v : Die) : (m.setDie d v).snap = m.snap := rfl
@[simp] theorem Main.setDie_log (m : Main) (d : Nat) (v : Die) : (m.setDie d v).log = m.log := rfl
@[simp] theorem Main.setDie_sb (m : Main) (d : Nat) (v : Die) : (m.setDie d v).sb = m.sb := rfl
@[simp] theorem Main.setDie_spdm (m : Main) (d : Nat) (v : Die) : (m.setDie d v).spdm = m.spdm := rfl
@[simp] theorem Main.setDie_partOn (m : Main) (d : Nat) (v : Die) : (m.setDie d v).partOn = m.partOn := rfl
@[simp] theorem Main.setDie_part (m : Main) (d : Nat) (v : Die) : (m.setDie d v).part = m.part := rfl
@[simp] theorem Main.setDie_clock (m : Main) (d : Nat) (v : Die) : (m.setDie d v).clock = m.clock := rfl
@[simp] theorem Main.setDie_fw (m : Main) (d : Nat) (v : Die) : (m.setDie d v).fw = m.fw := rfl
@[simp] theorem Main.setDie_out (m : Main) (d : Nat) (v : Die) : (m.setDie d v).out = m.out := rfl

/-! ### updDie -/

@[simp] theorem Main.updDie_variant (m : Main) (d : Nat) (f : Die → Die) : (m.updDie d f).variant = m.variant := rfl
@[simp] theorem Main.updDie_serial (m : Main) (d : Nat) (f : Die → Die) : (m.updDie d f).serial = m.serial := rfl
@[simp] theorem Main.updDie_us (m : Main) (d : Nat) (f : Die → Die) : (m.updDie d f).us = m.us := rfl
@[simp] theorem Main.updDie_opsec (m : Main) (d : Nat) (f : Die → Die) : (m.updDie d f).opsec = m.opsec := rfl
@[simp] theorem Main.updDie_opSaved (m : Main) (d : Nat) (f : Die → Die) : (m.updDie d f).opSaved = m.opSaved := rfl
@[simp] theorem Main.updDie_pcyc (m : Main) (d : Nat) (f : Die → Die) : (m.updDie d f).pcyc = m.pcyc := rfl
@[simp] theorem Main.updDie_cmds (m : Main) (d : Nat) (f : Die → Die) : (m.updDie d f).cmds = m.cmds := rfl
@[simp] theorem Main.updDie_draws (m : Main) (d : Nat) (f : Die → Die) : (m.updDie d f).draws = m.draws := rfl
@[simp] theorem Main.updDie_sup (m : Main) (d : Nat) (f : Die → Die) : (m.updDie d f).sup = m.sup := rfl
@[simp] theorem Main.updDie_tile (m : Main) (d : Nat) (f : Die → Die) : (m.updDie d f).tile = m.tile := rfl
@[simp] theorem Main.updDie_die (m : Main) (d : Nat) (f : Die → Die) : (m.updDie d f).die = m.die.put d (f (m.dieAt d)) := rfl
@[simp] theorem Main.updDie_sram (m : Main) (d : Nat) (f : Die → Die) : (m.updDie d f).sram = m.sram := rfl
@[simp] theorem Main.updDie_hbm (m : Main) (d : Nat) (f : Die → Die) : (m.updDie d f).hbm = m.hbm := rfl
@[simp] theorem Main.updDie_burn (m : Main) (d : Nat) (f : Die → Die) : (m.updDie d f).burn = m.burn := rfl
@[simp] theorem Main.updDie_mem (m : Main) (d : Nat) (f : Die → Die) : (m.updDie d f).mem = m.mem := rfl
@[simp] theorem Main.updDie_jobs (m : Main) (d : Nat) (f : Die → Die) : (m.updDie d f).jobs = m.jobs := rfl
@[simp] theorem Main.updDie_assigned (m : Main) (d : Nat) (f : Die → Die) : (m.updDie d f).assigned = m.assigned := rfl
@[simp] theorem Main.updDie_closing (m : Main) (d : Nat) (f : Die → Die) : (m.updDie d f).closing = m.closing := rfl
@[simp] theorem Main.updDie_rctl (m : Main) (d : Nat) (f : Die → Die) : (m.updDie d f).rctl = m.rctl := rfl
@[simp] theorem Main.updDie_fab (m : Main) (d : Nat) (f : Die → Die) : (m.updDie d f).fab = m.fab := rfl
@[simp] theorem Main.updDie_cxl (m : Main) (d : Nat) (f : Die → Die) : (m.updDie d f).cxl = m.cxl := rfl
@[simp] theorem Main.updDie_region (m : Main) (d : Nat) (f : Die → Die) : (m.updDie d f).region = m.region := rfl
@[simp] theorem Main.updDie_tail (m : Main) (d : Nat) (f : Die → Die) : (m.updDie d f).tail = m.tail := rfl
@[simp] theorem Main.updDie_eng (m : Main) (d : Nat) (f : Die → Die) : (m.updDie d f).eng = m.eng := rfl
@[simp] theorem Main.updDie_ectl (m : Main) (d : Nat) (f : Die → Die) : (m.updDie d f).ectl = m.ectl := rfl
@[simp] theorem Main.updDie_dp (m : Main) (d : Nat) (f : Die → Die) : (m.updDie d f).dp = m.dp := rfl
@[simp] theorem Main.updDie_pow (m : Main) (d : Nat) (f : Die → Die) : (m.updDie d f).pow = m.pow := rfl
@[simp] theorem Main.updDie_mir (m : Main) (d : Nat) (f : Die → Die) : (m.updDie d f).mir = m.mir := rfl
@[simp] theorem Main.updDie_core (m : Main) (d : Nat) (f : Die → Die) : (m.updDie d f).core = m.core := rfl
@[simp] theorem Main.updDie_restartedAll (m : Main) (d : Nat) (f : Die → Die) : (m.updDie d f).restartedAll = m.restartedAll := rfl
@[simp] theorem Main.updDie_box (m : Main) (d : Nat) (f : Die → Die) : (m.updDie d f).box = m.box := rfl
@[simp] theorem Main.updDie_side (m : Main) (d : Nat) (f : Die → Die) : (m.updDie d f).side = m.side := rfl
@[simp] theorem Main.updDie_queue (m : Main) (d : Nat) (f : Die → Die) : (m.updDie d f).queue = m.queue := rfl
@[simp] theorem Main.updDie_resps (m : Main) (d : Nat) (f : Die → Die) : (m.updDie d f).resps = m.resps := rfl
@[simp] theorem Main.updDie_intr (m : Main) (d : Nat) (f : Die → Die) : (m.updDie d f).intr = m.intr := rfl
@[simp] theorem Main.updDie_snap (m : Main) (d : Nat) (f : Die → Die) : (m.updDie d f).snap = m.snap := rfl
@[simp] theorem Main.updDie_log (m : Main) (d : Nat) (f : Die → Die) : (m.updDie d f).log = m.log := rfl
@[simp] theorem Main.updDie_sb (m : Main) (d : Nat) (f : Die → Die) : (m.updDie d f).sb = m.sb := rfl
@[simp] theorem Main.updDie_spdm (m : Main) (d : Nat) (f : Die → Die) : (m.updDie d f).spdm = m.spdm := rfl
@[simp] theorem Main.updDie_partOn (m : Main) (d : Nat) (f : Die → Die) : (m.updDie d f).partOn = m.partOn := rfl
@[simp] theorem Main.updDie_part (m : Main) (d : Nat) (f : Die → Die) : (m.updDie d f).part = m.part := rfl
@[simp] theorem Main.updDie_clock (m : Main) (d : Nat) (f : Die → Die) : (m.updDie d f).clock = m.clock := rfl
@[simp] theorem Main.updDie_fw (m : Main) (d : Nat) (f : Die → Die) : (m.updDie d f).fw = m.fw := rfl
@[simp] theorem Main.updDie_out (m : Main) (d : Nat) (f : Die → Die) : (m.updDie d f).out = m.out := rfl

/-! ### updSram -/

@[simp] theorem Main.updSram_variant (m : Main) (n : Nat) (f : Sram → Sram) : (m.updSram n f).variant = m.variant := rfl
@[simp] theorem Main.updSram_serial (m : Main) (n : Nat) (f : Sram → Sram) : (m.updSram n f).serial = m.serial := rfl
@[simp] theorem Main.updSram_us (m : Main) (n : Nat) (f : Sram → Sram) : (m.updSram n f).us = m.us := rfl
@[simp] theorem Main.updSram_opsec (m : Main) (n : Nat) (f : Sram → Sram) : (m.updSram n f).opsec = m.opsec := rfl
@[simp] theorem Main.updSram_opSaved (m : Main) (n : Nat) (f : Sram → Sram) : (m.updSram n f).opSaved = m.opSaved := rfl
@[simp] theorem Main.updSram_pcyc (m : Main) (n : Nat) (f : Sram → Sram) : (m.updSram n f).pcyc = m.pcyc := rfl
@[simp] theorem Main.updSram_cmds (m : Main) (n : Nat) (f : Sram → Sram) : (m.updSram n f).cmds = m.cmds := rfl
@[simp] theorem Main.updSram_draws (m : Main) (n : Nat) (f : Sram → Sram) : (m.updSram n f).draws = m.draws := rfl
@[simp] theorem Main.updSram_sup (m : Main) (n : Nat) (f : Sram → Sram) : (m.updSram n f).sup = m.sup := rfl
@[simp] theorem Main.updSram_tile (m : Main) (n : Nat) (f : Sram → Sram) : (m.updSram n f).tile = m.tile := rfl
@[simp] theorem Main.updSram_die (m : Main) (n : Nat) (f : Sram → Sram) : (m.updSram n f).die = m.die := rfl
@[simp] theorem Main.updSram_sram (m : Main) (n : Nat) (f : Sram → Sram) : (m.updSram n f).sram = m.sram.upd n f := rfl
@[simp] theorem Main.updSram_hbm (m : Main) (n : Nat) (f : Sram → Sram) : (m.updSram n f).hbm = m.hbm := rfl
@[simp] theorem Main.updSram_burn (m : Main) (n : Nat) (f : Sram → Sram) : (m.updSram n f).burn = m.burn := rfl
@[simp] theorem Main.updSram_mem (m : Main) (n : Nat) (f : Sram → Sram) : (m.updSram n f).mem = m.mem := rfl
@[simp] theorem Main.updSram_jobs (m : Main) (n : Nat) (f : Sram → Sram) : (m.updSram n f).jobs = m.jobs := rfl
@[simp] theorem Main.updSram_assigned (m : Main) (n : Nat) (f : Sram → Sram) : (m.updSram n f).assigned = m.assigned := rfl
@[simp] theorem Main.updSram_closing (m : Main) (n : Nat) (f : Sram → Sram) : (m.updSram n f).closing = m.closing := rfl
@[simp] theorem Main.updSram_rctl (m : Main) (n : Nat) (f : Sram → Sram) : (m.updSram n f).rctl = m.rctl := rfl
@[simp] theorem Main.updSram_fab (m : Main) (n : Nat) (f : Sram → Sram) : (m.updSram n f).fab = m.fab := rfl
@[simp] theorem Main.updSram_cxl (m : Main) (n : Nat) (f : Sram → Sram) : (m.updSram n f).cxl = m.cxl := rfl
@[simp] theorem Main.updSram_region (m : Main) (n : Nat) (f : Sram → Sram) : (m.updSram n f).region = m.region := rfl
@[simp] theorem Main.updSram_tail (m : Main) (n : Nat) (f : Sram → Sram) : (m.updSram n f).tail = m.tail := rfl
@[simp] theorem Main.updSram_eng (m : Main) (n : Nat) (f : Sram → Sram) : (m.updSram n f).eng = m.eng := rfl
@[simp] theorem Main.updSram_ectl (m : Main) (n : Nat) (f : Sram → Sram) : (m.updSram n f).ectl = m.ectl := rfl
@[simp] theorem Main.updSram_dp (m : Main) (n : Nat) (f : Sram → Sram) : (m.updSram n f).dp = m.dp := rfl
@[simp] theorem Main.updSram_pow (m : Main) (n : Nat) (f : Sram → Sram) : (m.updSram n f).pow = m.pow := rfl
@[simp] theorem Main.updSram_mir (m : Main) (n : Nat) (f : Sram → Sram) : (m.updSram n f).mir = m.mir := rfl
@[simp] theorem Main.updSram_core (m : Main) (n : Nat) (f : Sram → Sram) : (m.updSram n f).core = m.core := rfl
@[simp] theorem Main.updSram_restartedAll (m : Main) (n : Nat) (f : Sram → Sram) : (m.updSram n f).restartedAll = m.restartedAll := rfl
@[simp] theorem Main.updSram_box (m : Main) (n : Nat) (f : Sram → Sram) : (m.updSram n f).box = m.box := rfl
@[simp] theorem Main.updSram_side (m : Main) (n : Nat) (f : Sram → Sram) : (m.updSram n f).side = m.side := rfl
@[simp] theorem Main.updSram_queue (m : Main) (n : Nat) (f : Sram → Sram) : (m.updSram n f).queue = m.queue := rfl
@[simp] theorem Main.updSram_resps (m : Main) (n : Nat) (f : Sram → Sram) : (m.updSram n f).resps = m.resps := rfl
@[simp] theorem Main.updSram_intr (m : Main) (n : Nat) (f : Sram → Sram) : (m.updSram n f).intr = m.intr := rfl
@[simp] theorem Main.updSram_snap (m : Main) (n : Nat) (f : Sram → Sram) : (m.updSram n f).snap = m.snap := rfl
@[simp] theorem Main.updSram_log (m : Main) (n : Nat) (f : Sram → Sram) : (m.updSram n f).log = m.log := rfl
@[simp] theorem Main.updSram_sb (m : Main) (n : Nat) (f : Sram → Sram) : (m.updSram n f).sb = m.sb := rfl
@[simp] theorem Main.updSram_spdm (m : Main) (n : Nat) (f : Sram → Sram) : (m.updSram n f).spdm = m.spdm := rfl
@[simp] theorem Main.updSram_partOn (m : Main) (n : Nat) (f : Sram → Sram) : (m.updSram n f).partOn = m.partOn := rfl
@[simp] theorem Main.updSram_part (m : Main) (n : Nat) (f : Sram → Sram) : (m.updSram n f).part = m.part := rfl
@[simp] theorem Main.updSram_clock (m : Main) (n : Nat) (f : Sram → Sram) : (m.updSram n f).clock = m.clock := rfl
@[simp] theorem Main.updSram_fw (m : Main) (n : Nat) (f : Sram → Sram) : (m.updSram n f).fw = m.fw := rfl
@[simp] theorem Main.updSram_out (m : Main) (n : Nat) (f : Sram → Sram) : (m.updSram n f).out = m.out := rfl

/-! ### updHbm -/

@[simp] theorem Main.updHbm_variant (m : Main) (n : Nat) (f : Stack → Stack) : (m.updHbm n f).variant = m.variant := rfl
@[simp] theorem Main.updHbm_serial (m : Main) (n : Nat) (f : Stack → Stack) : (m.updHbm n f).serial = m.serial := rfl
@[simp] theorem Main.updHbm_us (m : Main) (n : Nat) (f : Stack → Stack) : (m.updHbm n f).us = m.us := rfl
@[simp] theorem Main.updHbm_opsec (m : Main) (n : Nat) (f : Stack → Stack) : (m.updHbm n f).opsec = m.opsec := rfl
@[simp] theorem Main.updHbm_opSaved (m : Main) (n : Nat) (f : Stack → Stack) : (m.updHbm n f).opSaved = m.opSaved := rfl
@[simp] theorem Main.updHbm_pcyc (m : Main) (n : Nat) (f : Stack → Stack) : (m.updHbm n f).pcyc = m.pcyc := rfl
@[simp] theorem Main.updHbm_cmds (m : Main) (n : Nat) (f : Stack → Stack) : (m.updHbm n f).cmds = m.cmds := rfl
@[simp] theorem Main.updHbm_draws (m : Main) (n : Nat) (f : Stack → Stack) : (m.updHbm n f).draws = m.draws := rfl
@[simp] theorem Main.updHbm_sup (m : Main) (n : Nat) (f : Stack → Stack) : (m.updHbm n f).sup = m.sup := rfl
@[simp] theorem Main.updHbm_tile (m : Main) (n : Nat) (f : Stack → Stack) : (m.updHbm n f).tile = m.tile := rfl
@[simp] theorem Main.updHbm_die (m : Main) (n : Nat) (f : Stack → Stack) : (m.updHbm n f).die = m.die := rfl
@[simp] theorem Main.updHbm_sram (m : Main) (n : Nat) (f : Stack → Stack) : (m.updHbm n f).sram = m.sram := rfl
@[simp] theorem Main.updHbm_hbm (m : Main) (n : Nat) (f : Stack → Stack) : (m.updHbm n f).hbm = m.hbm.upd n f := rfl
@[simp] theorem Main.updHbm_burn (m : Main) (n : Nat) (f : Stack → Stack) : (m.updHbm n f).burn = m.burn := rfl
@[simp] theorem Main.updHbm_mem (m : Main) (n : Nat) (f : Stack → Stack) : (m.updHbm n f).mem = m.mem := rfl
@[simp] theorem Main.updHbm_jobs (m : Main) (n : Nat) (f : Stack → Stack) : (m.updHbm n f).jobs = m.jobs := rfl
@[simp] theorem Main.updHbm_assigned (m : Main) (n : Nat) (f : Stack → Stack) : (m.updHbm n f).assigned = m.assigned := rfl
@[simp] theorem Main.updHbm_closing (m : Main) (n : Nat) (f : Stack → Stack) : (m.updHbm n f).closing = m.closing := rfl
@[simp] theorem Main.updHbm_rctl (m : Main) (n : Nat) (f : Stack → Stack) : (m.updHbm n f).rctl = m.rctl := rfl
@[simp] theorem Main.updHbm_fab (m : Main) (n : Nat) (f : Stack → Stack) : (m.updHbm n f).fab = m.fab := rfl
@[simp] theorem Main.updHbm_cxl (m : Main) (n : Nat) (f : Stack → Stack) : (m.updHbm n f).cxl = m.cxl := rfl
@[simp] theorem Main.updHbm_region (m : Main) (n : Nat) (f : Stack → Stack) : (m.updHbm n f).region = m.region := rfl
@[simp] theorem Main.updHbm_tail (m : Main) (n : Nat) (f : Stack → Stack) : (m.updHbm n f).tail = m.tail := rfl
@[simp] theorem Main.updHbm_eng (m : Main) (n : Nat) (f : Stack → Stack) : (m.updHbm n f).eng = m.eng := rfl
@[simp] theorem Main.updHbm_ectl (m : Main) (n : Nat) (f : Stack → Stack) : (m.updHbm n f).ectl = m.ectl := rfl
@[simp] theorem Main.updHbm_dp (m : Main) (n : Nat) (f : Stack → Stack) : (m.updHbm n f).dp = m.dp := rfl
@[simp] theorem Main.updHbm_pow (m : Main) (n : Nat) (f : Stack → Stack) : (m.updHbm n f).pow = m.pow := rfl
@[simp] theorem Main.updHbm_mir (m : Main) (n : Nat) (f : Stack → Stack) : (m.updHbm n f).mir = m.mir := rfl
@[simp] theorem Main.updHbm_core (m : Main) (n : Nat) (f : Stack → Stack) : (m.updHbm n f).core = m.core := rfl
@[simp] theorem Main.updHbm_restartedAll (m : Main) (n : Nat) (f : Stack → Stack) : (m.updHbm n f).restartedAll = m.restartedAll := rfl
@[simp] theorem Main.updHbm_box (m : Main) (n : Nat) (f : Stack → Stack) : (m.updHbm n f).box = m.box := rfl
@[simp] theorem Main.updHbm_side (m : Main) (n : Nat) (f : Stack → Stack) : (m.updHbm n f).side = m.side := rfl
@[simp] theorem Main.updHbm_queue (m : Main) (n : Nat) (f : Stack → Stack) : (m.updHbm n f).queue = m.queue := rfl
@[simp] theorem Main.updHbm_resps (m : Main) (n : Nat) (f : Stack → Stack) : (m.updHbm n f).resps = m.resps := rfl
@[simp] theorem Main.updHbm_intr (m : Main) (n : Nat) (f : Stack → Stack) : (m.updHbm n f).intr = m.intr := rfl
@[simp] theorem Main.updHbm_snap (m : Main) (n : Nat) (f : Stack → Stack) : (m.updHbm n f).snap = m.snap := rfl
@[simp] theorem Main.updHbm_log (m : Main) (n : Nat) (f : Stack → Stack) : (m.updHbm n f).log = m.log := rfl
@[simp] theorem Main.updHbm_sb (m : Main) (n : Nat) (f : Stack → Stack) : (m.updHbm n f).sb = m.sb := rfl
@[simp] theorem Main.updHbm_spdm (m : Main) (n : Nat) (f : Stack → Stack) : (m.updHbm n f).spdm = m.spdm := rfl
@[simp] theorem Main.updHbm_partOn (m : Main) (n : Nat) (f : Stack → Stack) : (m.updHbm n f).partOn = m.partOn := rfl
@[simp] theorem Main.updHbm_part (m : Main) (n : Nat) (f : Stack → Stack) : (m.updHbm n f).part = m.part := rfl
@[simp] theorem Main.updHbm_clock (m : Main) (n : Nat) (f : Stack → Stack) : (m.updHbm n f).clock = m.clock := rfl
@[simp] theorem Main.updHbm_fw (m : Main) (n : Nat) (f : Stack → Stack) : (m.updHbm n f).fw = m.fw := rfl
@[simp] theorem Main.updHbm_out (m : Main) (n : Nat) (f : Stack → Stack) : (m.updHbm n f).out = m.out := rfl

/-! ### updBurn -/

@[simp] theorem Main.updBurn_variant (m : Main) (n : Nat) (f : Burn → Burn) : (m.updBurn n f).variant = m.variant := rfl
@[simp] theorem Main.updBurn_serial (m : Main) (n : Nat) (f : Burn → Burn) : (m.updBurn n f).serial = m.serial := rfl
@[simp] theorem Main.updBurn_us (m : Main) (n : Nat) (f : Burn → Burn) : (m.updBurn n f).us = m.us := rfl
@[simp] theorem Main.updBurn_opsec (m : Main) (n : Nat) (f : Burn → Burn) : (m.updBurn n f).opsec = m.opsec := rfl
@[simp] theorem Main.updBurn_opSaved (m : Main) (n : Nat) (f : Burn → Burn) : (m.updBurn n f).opSaved = m.opSaved := rfl
@[simp] theorem Main.updBurn_pcyc (m : Main) (n : Nat) (f : Burn → Burn) : (m.updBurn n f).pcyc = m.pcyc := rfl
@[simp] theorem Main.updBurn_cmds (m : Main) (n : Nat) (f : Burn → Burn) : (m.updBurn n f).cmds = m.cmds := rfl
@[simp] theorem Main.updBurn_draws (m : Main) (n : Nat) (f : Burn → Burn) : (m.updBurn n f).draws = m.draws := rfl
@[simp] theorem Main.updBurn_sup (m : Main) (n : Nat) (f : Burn → Burn) : (m.updBurn n f).sup = m.sup := rfl
@[simp] theorem Main.updBurn_tile (m : Main) (n : Nat) (f : Burn → Burn) : (m.updBurn n f).tile = m.tile := rfl
@[simp] theorem Main.updBurn_die (m : Main) (n : Nat) (f : Burn → Burn) : (m.updBurn n f).die = m.die := rfl
@[simp] theorem Main.updBurn_sram (m : Main) (n : Nat) (f : Burn → Burn) : (m.updBurn n f).sram = m.sram := rfl
@[simp] theorem Main.updBurn_hbm (m : Main) (n : Nat) (f : Burn → Burn) : (m.updBurn n f).hbm = m.hbm := rfl
@[simp] theorem Main.updBurn_burn (m : Main) (n : Nat) (f : Burn → Burn) : (m.updBurn n f).burn = m.burn.upd n f := rfl
@[simp] theorem Main.updBurn_mem (m : Main) (n : Nat) (f : Burn → Burn) : (m.updBurn n f).mem = m.mem := rfl
@[simp] theorem Main.updBurn_jobs (m : Main) (n : Nat) (f : Burn → Burn) : (m.updBurn n f).jobs = m.jobs := rfl
@[simp] theorem Main.updBurn_assigned (m : Main) (n : Nat) (f : Burn → Burn) : (m.updBurn n f).assigned = m.assigned := rfl
@[simp] theorem Main.updBurn_closing (m : Main) (n : Nat) (f : Burn → Burn) : (m.updBurn n f).closing = m.closing := rfl
@[simp] theorem Main.updBurn_rctl (m : Main) (n : Nat) (f : Burn → Burn) : (m.updBurn n f).rctl = m.rctl := rfl
@[simp] theorem Main.updBurn_fab (m : Main) (n : Nat) (f : Burn → Burn) : (m.updBurn n f).fab = m.fab := rfl
@[simp] theorem Main.updBurn_cxl (m : Main) (n : Nat) (f : Burn → Burn) : (m.updBurn n f).cxl = m.cxl := rfl
@[simp] theorem Main.updBurn_region (m : Main) (n : Nat) (f : Burn → Burn) : (m.updBurn n f).region = m.region := rfl
@[simp] theorem Main.updBurn_tail (m : Main) (n : Nat) (f : Burn → Burn) : (m.updBurn n f).tail = m.tail := rfl
@[simp] theorem Main.updBurn_eng (m : Main) (n : Nat) (f : Burn → Burn) : (m.updBurn n f).eng = m.eng := rfl
@[simp] theorem Main.updBurn_ectl (m : Main) (n : Nat) (f : Burn → Burn) : (m.updBurn n f).ectl = m.ectl := rfl
@[simp] theorem Main.updBurn_dp (m : Main) (n : Nat) (f : Burn → Burn) : (m.updBurn n f).dp = m.dp := rfl
@[simp] theorem Main.updBurn_pow (m : Main) (n : Nat) (f : Burn → Burn) : (m.updBurn n f).pow = m.pow := rfl
@[simp] theorem Main.updBurn_mir (m : Main) (n : Nat) (f : Burn → Burn) : (m.updBurn n f).mir = m.mir := rfl
@[simp] theorem Main.updBurn_core (m : Main) (n : Nat) (f : Burn → Burn) : (m.updBurn n f).core = m.core := rfl
@[simp] theorem Main.updBurn_restartedAll (m : Main) (n : Nat) (f : Burn → Burn) : (m.updBurn n f).restartedAll = m.restartedAll := rfl
@[simp] theorem Main.updBurn_box (m : Main) (n : Nat) (f : Burn → Burn) : (m.updBurn n f).box = m.box := rfl
@[simp] theorem Main.updBurn_side (m : Main) (n : Nat) (f : Burn → Burn) : (m.updBurn n f).side = m.side := rfl
@[simp] theorem Main.updBurn_queue (m : Main) (n : Nat) (f : Burn → Burn) : (m.updBurn n f).queue = m.queue := rfl
@[simp] theorem Main.updBurn_resps (m : Main) (n : Nat) (f : Burn → Burn) : (m.updBurn n f).resps = m.resps := rfl
@[simp] theorem Main.updBurn_intr (m : Main) (n : Nat) (f : Burn → Burn) : (m.updBurn n f).intr = m.intr := rfl
@[simp] theorem Main.updBurn_snap (m : Main) (n : Nat) (f : Burn → Burn) : (m.updBurn n f).snap = m.snap := rfl
@[simp] theorem Main.updBurn_log (m : Main) (n : Nat) (f : Burn → Burn) : (m.updBurn n f).log = m.log := rfl
@[simp] theorem Main.updBurn_sb (m : Main) (n : Nat) (f : Burn → Burn) : (m.updBurn n f).sb = m.sb := rfl
@[simp] theorem Main.updBurn_spdm (m : Main) (n : Nat) (f : Burn → Burn) : (m.updBurn n f).spdm = m.spdm := rfl
@[simp] theorem Main.updBurn_partOn (m : Main) (n : Nat) (f : Burn → Burn) : (m.updBurn n f).partOn = m.partOn := rfl
@[simp] theorem Main.updBurn_part (m : Main) (n : Nat) (f : Burn → Burn) : (m.updBurn n f).part = m.part := rfl
@[simp] theorem Main.updBurn_clock (m : Main) (n : Nat) (f : Burn → Burn) : (m.updBurn n f).clock = m.clock := rfl
@[simp] theorem Main.updBurn_fw (m : Main) (n : Nat) (f : Burn → Burn) : (m.updBurn n f).fw = m.fw := rfl
@[simp] theorem Main.updBurn_out (m : Main) (n : Nat) (f : Burn → Burn) : (m.updBurn n f).out = m.out := rfl

/-! ### setJob -/

@[simp] theorem Main.setJob_variant (m : Main) (j : Nat) (v : Job) : (m.setJob j v).variant = m.variant := rfl
@[simp] theorem Main.setJob_serial (m : Main) (j : Nat) (v : Job) : (m.setJob j v).serial = m.serial := rfl
@[simp] theorem Main.setJob_us (m : Main) (j : Nat) (v : Job) : (m.setJob j v).us = m.us := rfl
@[simp] theorem Main.setJob_opsec (m : Main) (j : Nat) (v : Job) : (m.setJob j v).opsec = m.opsec := rfl
@[simp] theorem Main.setJob_opSaved (m : Main) (j : Nat) (v : Job) : (m.setJob j v).opSaved = m.opSaved := rfl
@[simp] theorem Main.setJob_pcyc (m : Main) (j : Nat) (v : Job) : (m.setJob j v).pcyc = m.pcyc := rfl
@[simp] theorem Main.setJob_cmds (m : Main) (j : Nat) (v : Job) : (m.setJob j v).cmds = m.cmds := rfl
@[simp] theorem Main.setJob_draws (m : Main) (j : Nat) (v : Job) : (m.setJob j v).draws = m.draws := rfl
@[simp] theorem Main.setJob_sup (m : Main) (j : Nat) (v : Job) : (m.setJob j v).sup = m.sup := rfl
@[simp] theorem Main.setJob_tile (m : Main) (j : Nat) (v : Job) : (m.setJob j v).tile = m.tile := rfl
@[simp] theorem Main.setJob_die (m : Main) (j : Nat) (v : Job) : (m.setJob j v).die = m.die := rfl
@[simp] theorem Main.setJob_sram (m : Main) (j : Nat) (v : Job) : (m.setJob j v).sram = m.sram := rfl
@[simp] theorem Main.setJob_hbm (m : Main) (j : Nat) (v : Job) : (m.setJob j v).hbm = m.hbm := rfl
@[simp] theorem Main.setJob_burn (m : Main) (j : Nat) (v : Job) : (m.setJob j v).burn = m.burn := rfl
@[simp] theorem Main.setJob_mem (m : Main) (j : Nat) (v : Job) : (m.setJob j v).mem = m.mem := rfl
@[simp] theorem Main.setJob_jobs (m : Main) (j : Nat) (v : Job) : (m.setJob j v).jobs = m.jobs.put j v := rfl
@[simp] theorem Main.setJob_assigned (m : Main) (j : Nat) (v : Job) : (m.setJob j v).assigned = m.assigned := rfl
@[simp] theorem Main.setJob_closing (m : Main) (j : Nat) (v : Job) : (m.setJob j v).closing = m.closing := rfl
@[simp] theorem Main.setJob_rctl (m : Main) (j : Nat) (v : Job) : (m.setJob j v).rctl = m.rctl := rfl
@[simp] theorem Main.setJob_fab (m : Main) (j : Nat) (v : Job) : (m.setJob j v).fab = m.fab := rfl
@[simp] theorem Main.setJob_cxl (m : Main) (j : Nat) (v : Job) : (m.setJob j v).cxl = m.cxl := rfl
@[simp] theorem Main.setJob_region (m : Main) (j : Nat) (v : Job) : (m.setJob j v).region = m.region := rfl
@[simp] theorem Main.setJob_tail (m : Main) (j : Nat) (v : Job) : (m.setJob j v).tail = m.tail := rfl
@[simp] theorem Main.setJob_eng (m : Main) (j : Nat) (v : Job) : (m.setJob j v).eng = m.eng := rfl
@[simp] theorem Main.setJob_ectl (m : Main) (j : Nat) (v : Job) : (m.setJob j v).ectl = m.ectl := rfl
@[simp] theorem Main.setJob_dp (m : Main) (j : Nat) (v : Job) : (m.setJob j v).dp = m.dp := rfl
@[simp] theorem Main.setJob_pow (m : Main) (j : Nat) (v : Job) : (m.setJob j v).pow = m.pow := rfl
@[simp] theorem Main.setJob_mir (m : Main) (j : Nat) (v : Job) : (m.setJob j v).mir = m.mir := rfl
@[simp] theorem Main.setJob_core (m : Main) (j : Nat) (v : Job) : (m.setJob j v).core = m.core := rfl
@[simp] theorem Main.setJob_restartedAll (m : Main) (j : Nat) (v : Job) : (m.setJob j v).restartedAll = m.restartedAll := rfl
@[simp] theorem Main.setJob_box (m : Main) (j : Nat) (v : Job) : (m.setJob j v).box = m.box := rfl
@[simp] theorem Main.setJob_side (m : Main) (j : Nat) (v : Job) : (m.setJob j v).side = m.side := rfl
@[simp] theorem Main.setJob_queue (m : Main) (j : Nat) (v : Job) : (m.setJob j v).queue = m.queue := rfl
@[simp] theorem Main.setJob_resps (m : Main) (j : Nat) (v : Job) : (m.setJob j v).resps = m.resps := rfl
@[simp] theorem Main.setJob_intr (m : Main) (j : Nat) (v : Job) : (m.setJob j v).intr = m.intr := rfl
@[simp] theorem Main.setJob_snap (m : Main) (j : Nat) (v : Job) : (m.setJob j v).snap = m.snap := rfl
@[simp] theorem Main.setJob_log (m : Main) (j : Nat) (v : Job) : (m.setJob j v).log = m.log := rfl
@[simp] theorem Main.setJob_sb (m : Main) (j : Nat) (v : Job) : (m.setJob j v).sb = m.sb := rfl
@[simp] theorem Main.setJob_spdm (m : Main) (j : Nat) (v : Job) : (m.setJob j v).spdm = m.spdm := rfl
@[simp] theorem Main.setJob_partOn (m : Main) (j : Nat) (v : Job) : (m.setJob j v).partOn = m.partOn := rfl
@[simp] theorem Main.setJob_part (m : Main) (j : Nat) (v : Job) : (m.setJob j v).part = m.part := rfl
@[simp] theorem Main.setJob_clock (m : Main) (j : Nat) (v : Job) : (m.setJob j v).clock = m.clock := rfl
@[simp] theorem Main.setJob_fw (m : Main) (j : Nat) (v : Job) : (m.setJob j v).fw = m.fw := rfl
@[simp] theorem Main.setJob_out (m : Main) (j : Nat) (v : Job) : (m.setJob j v).out = m.out := rfl

/-! ### updPort -/

@[simp] theorem Main.updPort_variant (m : Main) (p : Nat) (f : Port → Port) : (m.updPort p f).variant = m.variant := rfl
@[simp] theorem Main.updPort_serial (m : Main) (p : Nat) (f : Port → Port) : (m.updPort p f).serial = m.serial := rfl
@[simp] theorem Main.updPort_us (m : Main) (p : Nat) (f : Port → Port) : (m.updPort p f).us = m.us := rfl
@[simp] theorem Main.updPort_opsec (m : Main) (p : Nat) (f : Port → Port) : (m.updPort p f).opsec = m.opsec := rfl
@[simp] theorem Main.updPort_opSaved (m : Main) (p : Nat) (f : Port → Port) : (m.updPort p f).opSaved = m.opSaved := rfl
@[simp] theorem Main.updPort_pcyc (m : Main) (p : Nat) (f : Port → Port) : (m.updPort p f).pcyc = m.pcyc := rfl
@[simp] theorem Main.updPort_cmds (m : Main) (p : Nat) (f : Port → Port) : (m.updPort p f).cmds = m.cmds := rfl
@[simp] theorem Main.updPort_draws (m : Main) (p : Nat) (f : Port → Port) : (m.updPort p f).draws = m.draws := rfl
@[simp] theorem Main.updPort_sup (m : Main) (p : Nat) (f : Port → Port) : (m.updPort p f).sup = m.sup := rfl
@[simp] theorem Main.updPort_tile (m : Main) (p : Nat) (f : Port → Port) : (m.updPort p f).tile = m.tile := rfl
@[simp] theorem Main.updPort_die (m : Main) (p : Nat) (f : Port → Port) : (m.updPort p f).die = m.die := rfl
@[simp] theorem Main.updPort_sram (m : Main) (p : Nat) (f : Port → Port) : (m.updPort p f).sram = m.sram := rfl
@[simp] theorem Main.updPort_hbm (m : Main) (p : Nat) (f : Port → Port) : (m.updPort p f).hbm = m.hbm := rfl
@[simp] theorem Main.updPort_burn (m : Main) (p : Nat) (f : Port → Port) : (m.updPort p f).burn = m.burn := rfl
@[simp] theorem Main.updPort_mem (m : Main) (p : Nat) (f : Port → Port) : (m.updPort p f).mem = m.mem := rfl
@[simp] theorem Main.updPort_jobs (m : Main) (p : Nat) (f : Port → Port) : (m.updPort p f).jobs = m.jobs := rfl
@[simp] theorem Main.updPort_assigned (m : Main) (p : Nat) (f : Port → Port) : (m.updPort p f).assigned = m.assigned := rfl
@[simp] theorem Main.updPort_closing (m : Main) (p : Nat) (f : Port → Port) : (m.updPort p f).closing = m.closing := rfl
@[simp] theorem Main.updPort_rctl (m : Main) (p : Nat) (f : Port → Port) : (m.updPort p f).rctl = m.rctl := rfl
@[simp] theorem Main.updPort_fab (m : Main) (p : Nat) (f : Port → Port) : (m.updPort p f).fab = { m.fab with port := m.fab.port.upd p f } := rfl
@[simp] theorem Main.updPort_cxl (m : Main) (p : Nat) (f : Port → Port) : (m.updPort p f).cxl = m.cxl := rfl
@[simp] theorem Main.updPort_region (m : Main) (p : Nat) (f : Port → Port) : (m.updPort p f).region = m.region := rfl
@[simp] theorem Main.updPort_tail (m : Main) (p : Nat) (f : Port → Port) : (m.updPort p f).tail = m.tail := rfl
@[simp] theorem Main.updPort_eng (m : Main) (p : Nat) (f : Port → Port) : (m.updPort p f).eng = m.eng := rfl
@[simp] theorem Main.updPort_ectl (m : Main) (p : Nat) (f : Port → Port) : (m.updPort p f).ectl = m.ectl := rfl
@[simp] theorem Main.updPort_dp (m : Main) (p : Nat) (f : Port → Port) : (m.updPort p f).dp = m.dp := rfl
@[simp] theorem Main.updPort_pow (m : Main) (p : Nat) (f : Port → Port) : (m.updPort p f).pow = m.pow := rfl
@[simp] theorem Main.updPort_mir (m : Main) (p : Nat) (f : Port → Port) : (m.updPort p f).mir = m.mir := rfl
@[simp] theorem Main.updPort_core (m : Main) (p : Nat) (f : Port → Port) : (m.updPort p f).core = m.core := rfl
@[simp] theorem Main.updPort_restartedAll (m : Main) (p : Nat) (f : Port → Port) : (m.updPort p f).restartedAll = m.restartedAll := rfl
@[simp] theorem Main.updPort_box (m : Main) (p : Nat) (f : Port → Port) : (m.updPort p f).box = m.box := rfl
@[simp] theorem Main.updPort_side (m : Main) (p : Nat) (f : Port → Port) : (m.updPort p f).side = m.side := rfl
@[simp] theorem Main.updPort_queue (m : Main) (p : Nat) (f : Port → Port) : (m.updPort p f).queue = m.queue := rfl
@[simp] theorem Main.updPort_resps (m : Main) (p : Nat) (f : Port → Port) : (m.updPort p f).resps = m.resps := rfl
@[simp] theorem Main.updPort_intr (m : Main) (p : Nat) (f : Port → Port) : (m.updPort p f).intr = m.intr := rfl
@[simp] theorem Main.updPort_snap (m : Main) (p : Nat) (f : Port → Port) : (m.updPort p f).snap = m.snap := rfl
@[simp] theorem Main.updPort_log (m : Main) (p : Nat) (f : Port → Port) : (m.updPort p f).log = m.log := rfl
@[simp] theorem Main.updPort_sb (m : Main) (p : Nat) (f : Port → Port) : (m.updPort p f).sb = m.sb := rfl
@[simp] theorem Main.updPort_spdm (m : Main) (p : Nat) (f : Port → Port) : (m.updPort p f).spdm = m.spdm := rfl
@[simp] theorem Main.updPort_partOn (m : Main) (p : Nat) (f : Port → Port) : (m.updPort p f).partOn = m.partOn := rfl
@[simp] theorem Main.updPort_part (m : Main) (p : Nat) (f : Port → Port) : (m.updPort p f).part = m.part := rfl
@[simp] theorem Main.updPort_clock (m : Main) (p : Nat) (f : Port → Port) : (m.updPort p f).clock = m.clock := rfl
@[simp] theorem Main.updPort_fw (m : Main) (p : Nat) (f : Port → Port) : (m.updPort p f).fw = m.fw := rfl
@[simp] theorem Main.updPort_out (m : Main) (p : Nat) (f : Port → Port) : (m.updPort p f).out = m.out := rfl

/-! ### updDp -/

@[simp] theorem Main.updDp_variant (m : Main) (d : Nat) (f : DiePow → DiePow) : (m.updDp d f).variant = m.variant := rfl
@[simp] theorem Main.updDp_serial (m : Main) (d : Nat) (f : DiePow → DiePow) : (m.updDp d f).serial = m.serial := rfl
@[simp] theorem Main.updDp_us (m : Main) (d : Nat) (f : DiePow → DiePow) : (m.updDp d f).us = m.us := rfl
@[simp] theorem Main.updDp_opsec (m : Main) (d : Nat) (f : DiePow → DiePow) : (m.updDp d f).opsec = m.opsec := rfl
@[simp] theorem Main.updDp_opSaved (m : Main) (d : Nat) (f : DiePow → DiePow) : (m.updDp d f).opSaved = m.opSaved := rfl
@[simp] theorem Main.updDp_pcyc (m : Main) (d : Nat) (f : DiePow → DiePow) : (m.updDp d f).pcyc = m.pcyc := rfl
@[simp] theorem Main.updDp_cmds (m : Main) (d : Nat) (f : DiePow → DiePow) : (m.updDp d f).cmds = m.cmds := rfl
@[simp] theorem Main.updDp_draws (m : Main) (d : Nat) (f : DiePow → DiePow) : (m.updDp d f).draws = m.draws := rfl
@[simp] theorem Main.updDp_sup (m : Main) (d : Nat) (f : DiePow → DiePow) : (m.updDp d f).sup = m.sup := rfl
@[simp] theorem Main.updDp_tile (m : Main) (d : Nat) (f : DiePow → DiePow) : (m.updDp d f).tile = m.tile := rfl
@[simp] theorem Main.updDp_die (m : Main) (d : Nat) (f : DiePow → DiePow) : (m.updDp d f).die = m.die := rfl
@[simp] theorem Main.updDp_sram (m : Main) (d : Nat) (f : DiePow → DiePow) : (m.updDp d f).sram = m.sram := rfl
@[simp] theorem Main.updDp_hbm (m : Main) (d : Nat) (f : DiePow → DiePow) : (m.updDp d f).hbm = m.hbm := rfl
@[simp] theorem Main.updDp_burn (m : Main) (d : Nat) (f : DiePow → DiePow) : (m.updDp d f).burn = m.burn := rfl
@[simp] theorem Main.updDp_mem (m : Main) (d : Nat) (f : DiePow → DiePow) : (m.updDp d f).mem = m.mem := rfl
@[simp] theorem Main.updDp_jobs (m : Main) (d : Nat) (f : DiePow → DiePow) : (m.updDp d f).jobs = m.jobs := rfl
@[simp] theorem Main.updDp_assigned (m : Main) (d : Nat) (f : DiePow → DiePow) : (m.updDp d f).assigned = m.assigned := rfl
@[simp] theorem Main.updDp_closing (m : Main) (d : Nat) (f : DiePow → DiePow) : (m.updDp d f).closing = m.closing := rfl
@[simp] theorem Main.updDp_rctl (m : Main) (d : Nat) (f : DiePow → DiePow) : (m.updDp d f).rctl = m.rctl := rfl
@[simp] theorem Main.updDp_fab (m : Main) (d : Nat) (f : DiePow → DiePow) : (m.updDp d f).fab = m.fab := rfl
@[simp] theorem Main.updDp_cxl (m : Main) (d : Nat) (f : DiePow → DiePow) : (m.updDp d f).cxl = m.cxl := rfl
@[simp] theorem Main.updDp_region (m : Main) (d : Nat) (f : DiePow → DiePow) : (m.updDp d f).region = m.region := rfl
@[simp] theorem Main.updDp_tail (m : Main) (d : Nat) (f : DiePow → DiePow) : (m.updDp d f).tail = m.tail := rfl
@[simp] theorem Main.updDp_eng (m : Main) (d : Nat) (f : DiePow → DiePow) : (m.updDp d f).eng = m.eng := rfl
@[simp] theorem Main.updDp_ectl (m : Main) (d : Nat) (f : DiePow → DiePow) : (m.updDp d f).ectl = m.ectl := rfl
@[simp] theorem Main.updDp_dp (m : Main) (d : Nat) (f : DiePow → DiePow) : (m.updDp d f).dp = m.dp.upd d f := rfl
@[simp] theorem Main.updDp_pow (m : Main) (d : Nat) (f : DiePow → DiePow) : (m.updDp d f).pow = m.pow := rfl
@[simp] theorem Main.updDp_mir (m : Main) (d : Nat) (f : DiePow → DiePow) : (m.updDp d f).mir = m.mir := rfl
@[simp] theorem Main.updDp_core (m : Main) (d : Nat) (f : DiePow → DiePow) : (m.updDp d f).core = m.core := rfl
@[simp] theorem Main.updDp_restartedAll (m : Main) (d : Nat) (f : DiePow → DiePow) : (m.updDp d f).restartedAll = m.restartedAll := rfl
@[simp] theorem Main.updDp_box (m : Main) (d : Nat) (f : DiePow → DiePow) : (m.updDp d f).box = m.box := rfl
@[simp] theorem Main.updDp_side (m : Main) (d : Nat) (f : DiePow → DiePow) : (m.updDp d f).side = m.side := rfl
@[simp] theorem Main.updDp_queue (m : Main) (d : Nat) (f : DiePow → DiePow) : (m.updDp d f).queue = m.queue := rfl
@[simp] theorem Main.updDp_resps (m : Main) (d : Nat) (f : DiePow → DiePow) : (m.updDp d f).resps = m.resps := rfl
@[simp] theorem Main.updDp_intr (m : Main) (d : Nat) (f : DiePow → DiePow) : (m.updDp d f).intr = m.intr := rfl
@[simp] theorem Main.updDp_snap (m : Main) (d : Nat) (f : DiePow → DiePow) : (m.updDp d f).snap = m.snap := rfl
@[simp] theorem Main.updDp_log (m : Main) (d : Nat) (f : DiePow → DiePow) : (m.updDp d f).log = m.log := rfl
@[simp] theorem Main.updDp_sb (m : Main) (d : Nat) (f : DiePow → DiePow) : (m.updDp d f).sb = m.sb := rfl
@[simp] theorem Main.updDp_spdm (m : Main) (d : Nat) (f : DiePow → DiePow) : (m.updDp d f).spdm = m.spdm := rfl
@[simp] theorem Main.updDp_partOn (m : Main) (d : Nat) (f : DiePow → DiePow) : (m.updDp d f).partOn = m.partOn := rfl
@[simp] theorem Main.updDp_part (m : Main) (d : Nat) (f : DiePow → DiePow) : (m.updDp d f).part = m.part := rfl
@[simp] theorem Main.updDp_clock (m : Main) (d : Nat) (f : DiePow → DiePow) : (m.updDp d f).clock = m.clock := rfl
@[simp] theorem Main.updDp_fw (m : Main) (d : Nat) (f : DiePow → DiePow) : (m.updDp d f).fw = m.fw := rfl
@[simp] theorem Main.updDp_out (m : Main) (d : Nat) (f : DiePow → DiePow) : (m.updDp d f).out = m.out := rfl

/-! ### updPart -/

@[simp] theorem Main.updPart_variant (m : Main) (p : Nat) (f : Part → Part) : (m.updPart p f).variant = m.variant := rfl
@[simp] theorem Main.updPart_serial (m : Main) (p : Nat) (f : Part → Part) : (m.updPart p f).serial = m.serial := rfl
@[simp] theorem Main.updPart_us (m : Main) (p : Nat) (f : Part → Part) : (m.updPart p f).us = m.us := rfl
@[simp] theorem Main.updPart_opsec (m : Main) (p : Nat) (f : Part → Part) : (m.updPart p f).opsec = m.opsec := rfl
@[simp] theorem Main.updPart_opSaved (m : Main) (p : Nat) (f : Part → Part) : (m.updPart p f).opSaved = m.opSaved := rfl
@[simp] theorem Main.updPart_pcyc (m : Main) (p : Nat) (f : Part → Part) : (m.updPart p f).pcyc = m.pcyc := rfl
@[simp] theorem Main.updPart_cmds (m : Main) (p : Nat) (f : Part → Part) : (m.updPart p f).cmds = m.cmds := rfl
@[simp] theorem Main.updPart_draws (m : Main) (p : Nat) (f : Part → Part) : (m.updPart p f).draws = m.draws := rfl
@[simp] theorem Main.updPart_sup (m : Main) (p : Nat) (f : Part → Part) : (m.updPart p f).sup = m.sup := rfl
@[simp] theorem Main.updPart_tile (m : Main) (p : Nat) (f : Part → Part) : (m.updPart p f).tile = m.tile := rfl
@[simp] theorem Main.updPart_die (m : Main) (p : Nat) (f : Part → Part) : (m.updPart p f).die = m.die := rfl
@[simp] theorem Main.updPart_sram (m : Main) (p : Nat) (f : Part → Part) : (m.updPart p f).sram = m.sram := rfl
@[simp] theorem Main.updPart_hbm (m : Main) (p : Nat) (f : Part → Part) : (m.updPart p f).hbm = m.hbm := rfl
@[simp] theorem Main.updPart_burn (m : Main) (p : Nat) (f : Part → Part) : (m.updPart p f).burn = m.burn := rfl
@[simp] theorem Main.updPart_mem (m : Main) (p : Nat) (f : Part → Part) : (m.updPart p f).mem = m.mem := rfl
@[simp] theorem Main.updPart_jobs (m : Main) (p : Nat) (f : Part → Part) : (m.updPart p f).jobs = m.jobs := rfl
@[simp] theorem Main.updPart_assigned (m : Main) (p : Nat) (f : Part → Part) : (m.updPart p f).assigned = m.assigned := rfl
@[simp] theorem Main.updPart_closing (m : Main) (p : Nat) (f : Part → Part) : (m.updPart p f).closing = m.closing := rfl
@[simp] theorem Main.updPart_rctl (m : Main) (p : Nat) (f : Part → Part) : (m.updPart p f).rctl = m.rctl := rfl
@[simp] theorem Main.updPart_fab (m : Main) (p : Nat) (f : Part → Part) : (m.updPart p f).fab = m.fab := rfl
@[simp] theorem Main.updPart_cxl (m : Main) (p : Nat) (f : Part → Part) : (m.updPart p f).cxl = m.cxl := rfl
@[simp] theorem Main.updPart_region (m : Main) (p : Nat) (f : Part → Part) : (m.updPart p f).region = m.region := rfl
@[simp] theorem Main.updPart_tail (m : Main) (p : Nat) (f : Part → Part) : (m.updPart p f).tail = m.tail := rfl
@[simp] theorem Main.updPart_eng (m : Main) (p : Nat) (f : Part → Part) : (m.updPart p f).eng = m.eng := rfl
@[simp] theorem Main.updPart_ectl (m : Main) (p : Nat) (f : Part → Part) : (m.updPart p f).ectl = m.ectl := rfl
@[simp] theorem Main.updPart_dp (m : Main) (p : Nat) (f : Part → Part) : (m.updPart p f).dp = m.dp := rfl
@[simp] theorem Main.updPart_pow (m : Main) (p : Nat) (f : Part → Part) : (m.updPart p f).pow = m.pow := rfl
@[simp] theorem Main.updPart_mir (m : Main) (p : Nat) (f : Part → Part) : (m.updPart p f).mir = m.mir := rfl
@[simp] theorem Main.updPart_core (m : Main) (p : Nat) (f : Part → Part) : (m.updPart p f).core = m.core := rfl
@[simp] theorem Main.updPart_restartedAll (m : Main) (p : Nat) (f : Part → Part) : (m.updPart p f).restartedAll = m.restartedAll := rfl
@[simp] theorem Main.updPart_box (m : Main) (p : Nat) (f : Part → Part) : (m.updPart p f).box = m.box := rfl
@[simp] theorem Main.updPart_side (m : Main) (p : Nat) (f : Part → Part) : (m.updPart p f).side = m.side := rfl
@[simp] theorem Main.updPart_queue (m : Main) (p : Nat) (f : Part → Part) : (m.updPart p f).queue = m.queue := rfl
@[simp] theorem Main.updPart_resps (m : Main) (p : Nat) (f : Part → Part) : (m.updPart p f).resps = m.resps := rfl
@[simp] theorem Main.updPart_intr (m : Main) (p : Nat) (f : Part → Part) : (m.updPart p f).intr = m.intr := rfl
@[simp] theorem Main.updPart_snap (m : Main) (p : Nat) (f : Part → Part) : (m.updPart p f).snap = m.snap := rfl
@[simp] theorem Main.updPart_log (m : Main) (p : Nat) (f : Part → Part) : (m.updPart p f).log = m.log := rfl
@[simp] theorem Main.updPart_sb (m : Main) (p : Nat) (f : Part → Part) : (m.updPart p f).sb = m.sb := rfl
@[simp] theorem Main.updPart_spdm (m : Main) (p : Nat) (f : Part → Part) : (m.updPart p f).spdm = m.spdm := rfl
@[simp] theorem Main.updPart_partOn (m : Main) (p : Nat) (f : Part → Part) : (m.updPart p f).partOn = m.partOn := rfl
@[simp] theorem Main.updPart_part (m : Main) (p : Nat) (f : Part → Part) : (m.updPart p f).part = m.part.upd p f := rfl
@[simp] theorem Main.updPart_clock (m : Main) (p : Nat) (f : Part → Part) : (m.updPart p f).clock = m.clock := rfl
@[simp] theorem Main.updPart_fw (m : Main) (p : Nat) (f : Part → Part) : (m.updPart p f).fw = m.fw := rfl
@[simp] theorem Main.updPart_out (m : Main) (p : Nat) (f : Part → Part) : (m.updPart p f).out = m.out := rfl

/-! ### send -/

@[simp] theorem Main.send_variant (m : Main) (o : Out) : (m.send o).variant = m.variant := rfl
@[simp] theorem Main.send_serial (m : Main) (o : Out) : (m.send o).serial = m.serial := rfl
@[simp] theorem Main.send_us (m : Main) (o : Out) : (m.send o).us = m.us := rfl
@[simp] theorem Main.send_opsec (m : Main) (o : Out) : (m.send o).opsec = m.opsec := rfl
@[simp] theorem Main.send_opSaved (m : Main) (o : Out) : (m.send o).opSaved = m.opSaved := rfl
@[simp] theorem Main.send_pcyc (m : Main) (o : Out) : (m.send o).pcyc = m.pcyc := rfl
@[simp] theorem Main.send_cmds (m : Main) (o : Out) : (m.send o).cmds = m.cmds := rfl
@[simp] theorem Main.send_draws (m : Main) (o : Out) : (m.send o).draws = m.draws := rfl
@[simp] theorem Main.send_sup (m : Main) (o : Out) : (m.send o).sup = m.sup := rfl
@[simp] theorem Main.send_tile (m : Main) (o : Out) : (m.send o).tile = m.tile := rfl
@[simp] theorem Main.send_die (m : Main) (o : Out) : (m.send o).die = m.die := rfl
@[simp] theorem Main.send_sram (m : Main) (o : Out) : (m.send o).sram = m.sram := rfl
@[simp] theorem Main.send_hbm (m : Main) (o : Out) : (m.send o).hbm = m.hbm := rfl
@[simp] theorem Main.send_burn (m : Main) (o : Out) : (m.send o).burn = m.burn := rfl
@[simp] theorem Main.send_mem (m : Main) (o : Out) : (m.send o).mem = m.mem := rfl
@[simp] theorem Main.send_jobs (m : Main) (o : Out) : (m.send o).jobs = m.jobs := rfl
@[simp] theorem Main.send_assigned (m : Main) (o : Out) : (m.send o).assigned = m.assigned := rfl
@[simp] theorem Main.send_closing (m : Main) (o : Out) : (m.send o).closing = m.closing := rfl
@[simp] theorem Main.send_rctl (m : Main) (o : Out) : (m.send o).rctl = m.rctl := rfl
@[simp] theorem Main.send_fab (m : Main) (o : Out) : (m.send o).fab = m.fab := rfl
@[simp] theorem Main.send_cxl (m : Main) (o : Out) : (m.send o).cxl = m.cxl := rfl
@[simp] theorem Main.send_region (m : Main) (o : Out) : (m.send o).region = m.region := rfl
@[simp] theorem Main.send_tail (m : Main) (o : Out) : (m.send o).tail = m.tail := rfl
@[simp] theorem Main.send_eng (m : Main) (o : Out) : (m.send o).eng = m.eng := rfl
@[simp] theorem Main.send_ectl (m : Main) (o : Out) : (m.send o).ectl = m.ectl := rfl
@[simp] theorem Main.send_dp (m : Main) (o : Out) : (m.send o).dp = m.dp := rfl
@[simp] theorem Main.send_pow (m : Main) (o : Out) : (m.send o).pow = m.pow := rfl
@[simp] theorem Main.send_mir (m : Main) (o : Out) : (m.send o).mir = m.mir := rfl
@[simp] theorem Main.send_core (m : Main) (o : Out) : (m.send o).core = m.core := rfl
@[simp] theorem Main.send_restartedAll (m : Main) (o : Out) : (m.send o).restartedAll = m.restartedAll := rfl
@[simp] theorem Main.send_box (m : Main) (o : Out) : (m.send o).box = m.box := rfl
@[simp] theorem Main.send_side (m : Main) (o : Out) : (m.send o).side = m.side := rfl
@[simp] theorem Main.send_queue (m : Main) (o : Out) : (m.send o).queue = m.queue := rfl
@[simp] theorem Main.send_resps (m : Main) (o : Out) : (m.send o).resps = m.resps := rfl
@[simp] theorem Main.send_intr (m : Main) (o : Out) : (m.send o).intr = m.intr := rfl
@[simp] theorem Main.send_snap (m : Main) (o : Out) : (m.send o).snap = m.snap := rfl
@[simp] theorem Main.send_log (m : Main) (o : Out) : (m.send o).log = m.log := rfl
@[simp] theorem Main.send_sb (m : Main) (o : Out) : (m.send o).sb = m.sb := rfl
@[simp] theorem Main.send_spdm (m : Main) (o : Out) : (m.send o).spdm = m.spdm := rfl
@[simp] theorem Main.send_partOn (m : Main) (o : Out) : (m.send o).partOn = m.partOn := rfl
@[simp] theorem Main.send_part (m : Main) (o : Out) : (m.send o).part = m.part := rfl
@[simp] theorem Main.send_clock (m : Main) (o : Out) : (m.send o).clock = m.clock := rfl
@[simp] theorem Main.send_fw (m : Main) (o : Out) : (m.send o).fw = m.fw := rfl
@[simp] theorem Main.send_out (m : Main) (o : Out) : (m.send o).out = o :: m.out := rfl

/-! ### draw -/

@[simp] theorem Main.draw_variant (m : Main) : (m.draw).variant = m.variant := rfl
@[simp] theorem Main.draw_serial (m : Main) : (m.draw).serial = m.serial := rfl
@[simp] theorem Main.draw_us (m : Main) : (m.draw).us = m.us := rfl
@[simp] theorem Main.draw_opsec (m : Main) : (m.draw).opsec = m.opsec := rfl
@[simp] theorem Main.draw_opSaved (m : Main) : (m.draw).opSaved = m.opSaved := rfl
@[simp] theorem Main.draw_pcyc (m : Main) : (m.draw).pcyc = m.pcyc := rfl
@[simp] theorem Main.draw_cmds (m : Main) : (m.draw).cmds = m.cmds := rfl
@[simp] theorem Main.draw_draws (m : Main) : (m.draw).draws = m.draws + 1 := rfl
@[simp] theorem Main.draw_sup (m : Main) : (m.draw).sup = m.sup := rfl
@[simp] theorem Main.draw_tile (m : Main) : (m.draw).tile = m.tile := rfl
@[simp] theorem Main.draw_die (m : Main) : (m.draw).die = m.die := rfl
@[simp] theorem Main.draw_sram (m : Main) : (m.draw).sram = m.sram := rfl
@[simp] theorem Main.draw_hbm (m : Main) : (m.draw).hbm = m.hbm := rfl
@[simp] theorem Main.draw_burn (m : Main) : (m.draw).burn = m.burn := rfl
@[simp] theorem Main.draw_mem (m : Main) : (m.draw).mem = m.mem := rfl
@[simp] theorem Main.draw_jobs (m : Main) : (m.draw).jobs = m.jobs := rfl
@[simp] theorem Main.draw_assigned (m : Main) : (m.draw).assigned = m.assigned := rfl
@[simp] theorem Main.draw_closing (m : Main) : (m.draw).closing = m.closing := rfl
@[simp] theorem Main.draw_rctl (m : Main) : (m.draw).rctl = m.rctl := rfl
@[simp] theorem Main.draw_fab (m : Main) : (m.draw).fab = m.fab := rfl
@[simp] theorem Main.draw_cxl (m : Main) : (m.draw).cxl = m.cxl := rfl
@[simp] theorem Main.draw_region (m : Main) : (m.draw).region = m.region := rfl
@[simp] theorem Main.draw_tail (m : Main) : (m.draw).tail = m.tail := rfl
@[simp] theorem Main.draw_eng (m : Main) : (m.draw).eng = m.eng := rfl
@[simp] theorem Main.draw_ectl (m : Main) : (m.draw).ectl = m.ectl := rfl
@[simp] theorem Main.draw_dp (m : Main) : (m.draw).dp = m.dp := rfl
@[simp] theorem Main.draw_pow (m : Main) : (m.draw).pow = m.pow := rfl
@[simp] theorem Main.draw_mir (m : Main) : (m.draw).mir = m.mir := rfl
@[simp] theorem Main.draw_core (m : Main) : (m.draw).core = m.core := rfl
@[simp] theorem Main.draw_restartedAll (m : Main) : (m.draw).restartedAll = m.restartedAll := rfl
@[simp] theorem Main.draw_box (m : Main) : (m.draw).box = m.box := rfl
@[simp] theorem Main.draw_side (m : Main) : (m.draw).side = m.side := rfl
@[simp] theorem Main.draw_queue (m : Main) : (m.draw).queue = m.queue := rfl
@[simp] theorem Main.draw_resps (m : Main) : (m.draw).resps = m.resps := rfl
@[simp] theorem Main.draw_intr (m : Main) : (m.draw).intr = m.intr := rfl
@[simp] theorem Main.draw_snap (m : Main) : (m.draw).snap = m.snap := rfl
@[simp] theorem Main.draw_log (m : Main) : (m.draw).log = m.log := rfl
@[simp] theorem Main.draw_sb (m : Main) : (m.draw).sb = m.sb := rfl
@[simp] theorem Main.draw_spdm (m : Main) : (m.draw).spdm = m.spdm := rfl
@[simp] theorem Main.draw_partOn (m : Main) : (m.draw).partOn = m.partOn := rfl
@[simp] theorem Main.draw_part (m : Main) : (m.draw).part = m.part := rfl
@[simp] theorem Main.draw_clock (m : Main) : (m.draw).clock = m.clock := rfl
@[simp] theorem Main.draw_fw (m : Main) : (m.draw).fw = m.fw := rfl
@[simp] theorem Main.draw_out (m : Main) : (m.draw).out = m.out := rfl

/-! ### Units read back -/

@[simp] theorem Main.updTile_tileAt_same (m : Main) (id : Nat) (f : Tile → Tile) : (m.updTile id f).tileAt id = f (m.tileAt id) := by
  simp [Main.tileAt]

@[simp] theorem Main.setTile_tileAt_same (m : Main) (id : Nat) (t : Tile) : (m.setTile id t).tileAt id = t := by
  simp [Main.tileAt]

@[simp] theorem Main.updDie_dieAt_same (m : Main) (d : Nat) (f : Die → Die) : (m.updDie d f).dieAt d = f (m.dieAt d) := by
  simp [Main.dieAt]

@[simp] theorem Main.setDie_dieAt_same (m : Main) (d : Nat) (v : Die) : (m.setDie d v).dieAt d = v := by
  simp [Main.dieAt]

@[simp] theorem Main.updTile_dieAt (m : Main) (id : Nat) (f : Tile → Tile) (i : Nat) : (m.updTile id f).dieAt i = m.dieAt i := rfl

@[simp] theorem Main.updDie_tileAt (m : Main) (d : Nat) (f : Die → Die) (i : Nat) : (m.updDie d f).tileAt i = m.tileAt i := rfl

@[simp] theorem Main.setJob_tileAt (m : Main) (j : Nat) (v : Job) (i : Nat) : (m.setJob j v).tileAt i = m.tileAt i := rfl

@[simp] theorem Main.setJob_dieAt (m : Main) (j : Nat) (v : Job) (i : Nat) : (m.setJob j v).dieAt i = m.dieAt i := rfl

@[simp] theorem Main.setTile_dieAt (m : Main) (id : Nat) (t : Tile) (i : Nat) : (m.setTile id t).dieAt i = m.dieAt i := rfl

@[simp] theorem Main.draw_tileAt (m : Main) (i : Nat) : (m.draw).tileAt i = m.tileAt i := rfl

@[simp] theorem Main.draw_dieAt (m : Main) (i : Nat) : (m.draw).dieAt i = m.dieAt i := rfl

theorem Main.updTile_tileAt_other (m : Main) {id j : Nat} (f : Tile → Tile) (h : j ≠ id) : (m.updTile id f).tileAt j = m.tileAt j := by
  simp [Main.tileAt, Table.get_put_other, h]

theorem Main.updDie_dieAt_other (m : Main) {d j : Nat} (f : Die → Die) (h : j ≠ d) : (m.updDie d f).dieAt j = m.dieAt j := by
  simp [Main.dieAt, Table.get_put_other, h]

@[simp] theorem Main.setJob_job?_same (m : Main) (j : Nat) (v : Job) : (m.setJob j v).job? j = some v := by
  simp [Main.job?]

/-! ### The whole block -/

@[simp] theorem State.with_main_main (s : State) (x : Main) : ({ s with main := x } : State).main = x := rfl
@[simp] theorem State.with_main_meter (s : State) (x : Main) : ({ s with main := x } : State).meter = s.meter := rfl
@[simp] theorem State.with_main_pending (s : State) (x : Main) : ({ s with main := x } : State).pending = s.pending := rfl
@[simp] theorem State.with_meter_main (s : State) (x : Meter) : ({ s with meter := x } : State).main = s.main := rfl
@[simp] theorem State.with_meter_meter (s : State) (x : Meter) : ({ s with meter := x } : State).meter = x := rfl
@[simp] theorem State.with_meter_pending (s : State) (x : Meter) : ({ s with meter := x } : State).pending = s.pending := rfl
@[simp] theorem State.with_pending_main (s : State) (x : List Instr) : ({ s with pending := x } : State).main = s.main := rfl
@[simp] theorem State.with_pending_meter (s : State) (x : List Instr) : ({ s with pending := x } : State).meter = s.meter := rfl
@[simp] theorem State.with_pending_pending (s : State) (x : List Instr) : ({ s with pending := x } : State).pending = x := rfl

end Sys2Proof.Machine
end

