-- ==== Sys2Proof/Laws/Ops.lean ====
section
/-! SUPPORT. The shared operations: what a lifted command, a served mailbox command and one beat of a tile do. -/

namespace Sys2Proof.Machine

/-! ### Lifted commands -/

theorem onMain_eq (f : Main → Main) (s : State) : onMain f s = s.nextMain (f s.main) := rfl
theorem onMeter_eq (f : Meter → Meter) (s : State) : onMeter f s = s.nextMeter (f s.meter) := rfl

/-! ### Mailbox commands -/

@[simp] theorem dropQueued_self (src : Src) (q : Queued) (r : List Queued) (h : q.src = src) : dropQueued src (q :: r) = r := by
  simp [dropQueued, h]

theorem dropQueued_length (src : Src) (l : List Queued) : (dropQueued src l).length ≤ l.length := by
  induction l with
  | nil => simp [dropQueued]
  | cons q r ih => unfold dropQueued; split <;> simp <;> omega

section Command

variable {m : Main} {op : Nat} {h : Hdr} {p : Payload} {fields : List (Nat × Nat)} {reads owned high anyState : Bool}

theorem Main.serves_takes (H : m.serves op h p fields reads owned high anyState = true) : m.takes h.src = true := by
  simp only [Main.serves, Bool.and_eq_true] at H; exact H.1

theorem Main.serves_screen (H : m.serves op h p fields reads owned high anyState = true) :
    (m.taken h.src).screen op h reads owned (reservedZero p fields && high) anyState = 0 := by
  simp only [Main.serves, Bool.and_eq_true, beq_iff_eq] at H; exact H.2

/-- A served command runs its body and replies (R398, R402, R403). -/
theorem Main.command_serves (body : Main → Reply) (tcs2 : Bool) (H : m.serves op h p fields reads owned high anyState = true) :
    m.command op h p fields body reads owned tcs2 high anyState = (m.taken h.src).reply op h (body (m.taken h.src)) tcs2 := by
  unfold Main.command
  rw [if_neg (by simp [Main.serves_takes H])]
  simp only [Main.serves_screen H]
  rfl

/-- A served command whose body applies is done (R402, R403). -/
theorem Main.command_done {body : Main → Reply} {tcs2 : Bool} {m' : Main} {l : List (Nat × Nat × Nat)}
    (H : m.serves op h p fields reads owned high anyState = true) (hb : body (m.taken h.src) = ok m' l) :
    m.command op h p fields body reads owned tcs2 high anyState = m.done op h m' l tcs2 := by
  rw [Main.command_serves _ _ H, hb]; rfl

/-- A command that the controller takes and a check turns away changes nothing but the queue and its response (R403). -/
theorem Main.command_refused (body : Main → Reply) (tcs2 : Bool) (h1 : m.takes h.src = true)
    (h2 : (m.taken h.src).screen op h reads owned (reservedZero p fields && high) anyState ≠ 0) :
    m.command op h p fields body reads owned tcs2 high anyState =
      (m.taken h.src).reply op h
        (m.taken h.src, (m.taken h.src).screen op h reads owned (reservedZero p fields && high) anyState, 0) tcs2 := by
  unfold Main.command
  rw [if_neg (by simp [h1])]
  simp only [bne_iff_ne, ne_eq, h2, not_false_eq_true, if_true]

/-- A command that the controller does not take is left alone (R387, R430). -/
theorem Main.command_left (body : Main → Reply) (tcs2 : Bool) (h1 : m.takes h.src = false) :
    m.command op h p fields body reads owned tcs2 high anyState = m := by
  unfold Main.command; simp [h1]

/-- A command that the controller takes and does not serve is turned away with one of the statuses of the checks (R403). -/
theorem Main.command_away {tcs2 : Bool} (h1 : m.takes h.src = true) (h2 : m.serves op h p fields reads owned high anyState = false) :
    ∃ st, 0 < st ∧ st < 10 ∧ st ≠ 3 ∧ ∀ body, m.command op h p fields body reads owned tcs2 high anyState = m.turnedAway op h st tcs2 := by
  have h3 : (m.taken h.src).screen op h reads owned (reservedZero p fields && high) anyState ≠ 0 := by
    intro e; simp [Main.serves, h1, e] at h2
  refine ⟨(m.taken h.src).screen op h reads owned (reservedZero p fields && high) anyState, Nat.pos_of_ne_zero h3, ?_, ?_, fun body => ?_⟩
  · unfold Main.screen; simp only []; repeat' split
    all_goals decide
  · unfold Main.screen; simp only []; repeat' split
    all_goals decide
  · rw [Main.command_refused body tcs2 h1 h3]
    have hb : ((m.taken h.src).screen op h reads owned (reservedZero p fields && high) anyState) ≠ 3 := by
      unfold Main.screen; simp only []; repeat' split
      all_goals decide
    generalize (m.taken h.src).screen op h reads owned (reservedZero p fields && high) anyState = st at *
    unfold Main.reply Main.turnedAway
    simp [h3, hb, Main.taken]

/-- A command whose body changes nothing changes at most the queue and the responses. -/
theorem Main.command_pure {body : Main → Reply} {tcs2 : Bool} (hb : ∀ m, (body m).1 = m) : ∃ q r, m.command op h p fields body reads owned tcs2 high anyState = { m with queue := q, resps := r } := by
  unfold Main.command
  split
  · exact ⟨m.queue, m.resps, rfl⟩
  · simp only []
    unfold Main.reply
    split
    · exact ⟨_, _, rfl⟩
    · rw [hb]; exact ⟨_, _, rfl⟩

/-- A next state whose main side differs at most in the queue and the responses. -/
theorem nextMain_same {s u : State} {m : Main} (hm : ∃ q r, m = { s.main with queue := q, resps := r }) (h : s.nextMain m = .next u) :
    u = { s with main := { s.main with queue := u.main.queue, resps := u.main.resps } } := by
  obtain ⟨q, r, rfl⟩ := hm
  cases h; rfl

/-- A body behind the checks of a state-placement command (R225). -/
theorem Main.placing_ok {m m' : Main} {jid : Nat} {anyTime : Bool} {body : Job → Reply} {j : Job} {l : List (Nat × Nat × Nat)}
    (h1 : m.job? jid = some j) (h2 : j.stepOpen = false ∨ anyTime = true) (hb : body j = ok m' l) :
    m.placing jid anyTime body = ok (m'.onceOver jid) l := by
  have h3 : (j.stepOpen && !anyTime) = false := by rcases h2 with h2 | h2 <;> simp [h2]
  simp only [Main.placing, h1, h3, hb, ok]; rfl

/-- A body behind the checks that name entries (R225). -/
theorem Main.onEntries_pass {m : Main} {h : Hdr} {jid n i c : Nat} (body : Reply) (h1 : m.ownsStack h n = true)
    (h2 : m.entriesIn n i c = true) (h3 : m.assignedAll jid n i c = true) : m.onEntries h jid n i c body = body := by
  simp [Main.onEntries, h1, h2, h3]

/-- A body behind the checks of a numerics command (R253). -/
theorem Main.numerics_pass {m : Main} {jid : Nat} {anyTime : Bool} {body : Job → Reply} {j : Job}
    (h1 : m.job? jid = some j) (h2 : j.stepOpen = false ∨ anyTime = true) : m.numerics jid anyTime body = body j := by
  have h3 : (j.stepOpen && !anyTime) = false := by rcases h2 with h2 | h2 <;> simp [h2]
  simp [Main.numerics, h1, h3]

end Command

/-! ### One beat of a tile -/

/-- An instruction row whose instruction issues is that instruction's issue in the beat (R61). -/
theorem Main.issueRow_issues {m : Main} {t : TileRef} {k : Fin 8} {op : Nat} {f : Fields} {rs : List Req}
    (H : m.issues t.id ⟨k.val, op, f⟩ rs) :
    m.issueRow t k op f = (m.beatOf t.id k.val).perform t.id ⟨k.val, op, f⟩ rs := by
  obtain ⟨h1, h2, h3, h4⟩ := H
  unfold Main.issueRow Main.runBeat
  rw [if_neg (by simp [h1])]
  generalize hb : m.beatStart t.id = b at *
  unfold Main.beatRun
  simp [h2, h3, h4, Tile.choose, Main.noteReady, Main.beatOf, hb]

/-- A row whose instruction cannot issue performs nothing: the beat passes (R60, R61). -/
theorem Main.issueRow_idle {m : Main} {t : TileRef} {k : Fin 8} {op : Nat} {f : Fields} (h : m.tileRuns t.id = false) :
    m.issueRow t k op f = m := by
  simp [Main.issueRow, Main.runBeat, h]

end Sys2Proof.Machine
end

