-- ==== Sys2Proof/Laws/Beat.lean ====
section
/-! SUPPORT. One beat of a quiet tile: what its start and the common part of an issue change. -/

namespace Sys2Proof.Machine

/-- Of tiles, byte stores and jobs, the second state differs from the first at most in tile `id`, which is `T`. -/
structure Main.OnlyTile (m u : Main) (id : Nat) (T : Tile) : Prop where
  other : ∀ j, j ≠ id → u.tileAt j = m.tileAt j
  mem : u.mem = m.mem
  jobs : u.jobs = m.jobs
  here : u.tileAt id = T

theorem Main.onlyTile_refl (m : Main) (id) : Main.OnlyTile m m id (m.tileAt id) := ⟨fun _ _ => rfl, rfl, rfl, rfl⟩

theorem Main.onlyTile_updDie {m u : Main} {id T} (h : Main.OnlyTile m u id T) (d f) : Main.OnlyTile m (u.updDie d f) id T := ⟨h.other, h.mem, h.jobs, h.here⟩

theorem Main.onlyTile_setTile {m u : Main} {id T} (h : Main.OnlyTile m u id T) (T') : Main.OnlyTile m (u.setTile id T') id T' :=
  ⟨fun j hj => (Table.get_put_other _ _ hj).trans (h.other j hj), h.mem, h.jobs, Table.get_put_same ..⟩

theorem Main.onlyTile_updTile {m u : Main} {id T} (h : Main.OnlyTile m u id T) (f) : Main.OnlyTile m (u.updTile id f) id (f T) := by
  have := Main.onlyTile_setTile h (f (u.tileAt id)); rw [h.here] at this; unfold Main.updTile; rw [h.here]; exact this

/-- Nothing goes on in a quiet tile (R59). -/
theorem Main.settle_quiet {m : Main} {id} (h : (m.tileAt id).quiet) : m.settle id = m := by
  unfold Main.settle
  have : ∀ l : List Nat, (∀ k ∈ l, k < 8) → l.foldl (fun m k => m.settleSp id k) m = m := by
    intro l
    induction l with
    | nil => intro _; rfl
    | cons k r ih =>
      intro hl
      obtain ⟨a, b, c⟩ := h k (hl k (List.mem_cons_self ..))
      have e : m.settleSp id k = m := by
        unfold Main.settleSp Main.settleFence
        simp only [a]
        unfold Main.settleSend
        simp only [b]
        unfold Main.settleHalt
        simp [c]
      rw [List.foldl_cons, e]; exact ih (fun k hk => hl k (List.mem_cons_of_mem _ hk))
  exact this _ (fun k hk => by simpa using hk)

/-- The start of a beat of a quiet tile only counts the beat (R61). -/
theorem Main.beatStart_quiet {m : Main} {id} (h : (m.tileAt id).quiet) : Main.OnlyTile m (m.beatStart id) id { m.tileAt id with beat := (m.tileAt id).beat + 1 } := by
  unfold Main.beatStart
  have h1 := Main.onlyTile_updTile (Main.onlyTile_refl m id) (fun t => { t with beat := t.beat + 1 })
  have h2 := Main.onlyTile_updDie h1 (id/512) (fun v => { v with beats := max v.beats ((m.updTile id (fun t => { t with beat := t.beat + 1 })).tileAt id).beat })
  have q : (((m.updTile id (fun t => { t with beat := t.beat + 1 })).updDie (id/512) (fun v => { v with beats := max v.beats ((m.updTile id (fun t => { t with beat := t.beat + 1 })).tileAt id).beat })).tileAt id).quiet := by
    rw [h2.here]; exact h
  dsimp only
  rw [Main.settle_quiet q]
  have h3 := Main.onlyTile_updTile h2 (fun t => (List.range 8).foldl (fun (t : Tile) k =>
    match (t.spin k).sending with
    | some (b, _) => t.noteWait k (.credit b)
    | none => t) t)
  have e : ∀ (t : Tile), t.quiet → ∀ l : List Nat, (∀ k ∈ l, k < 8) → l.foldl (fun (t : Tile) k =>
    match (t.spin k).sending with
    | some (b, _) => t.noteWait k (.credit b)
    | none => t) t = t := by
    intro t ht l
    induction l with
    | nil => intro _; rfl
    | cons k r ih =>
      intro hl
      rw [List.foldl_cons]
      have a := (ht k (hl k (List.mem_cons_self ..))).2.1
      simp only [a]
      exact ih (fun k hk => hl k (List.mem_cons_of_mem _ hk))
  have e' := e { m.tileAt id with beat := (m.tileAt id).beat + 1 } h (List.range 8) (fun k hk => by simpa using hk)
  have h4 := h3.here.trans e'
  exact ⟨h3.other, h3.mem, h3.jobs, h4⟩

/-- An issue that waits for no counter and consumes no token (R60, R63). -/
theorem Main.issued_plain {m : Main} {id} {c : Cand} (h1 : c.f.wn = 0) (h2 : c.f.qa.getLsbD 5 = false) (h3 : c.f.qb.getLsbD 5 = false) :
    m.issued id c = m.updTile id (fun t => t.updSp c.k (fun p => { p with pc := p.pc + 1, last := t.beat, wait := .none })) := by
  unfold Main.issued
  simp only [h1, h2, h3, Bool.false_and, if_true, Bool.false_eq_true, if_false]

/-- No signal changes nothing (R62). -/
theorem Main.onlyTile_signalled_none {m u : Main} {id T} (h : Main.OnlyTile m u id T) (k pc) : Main.OnlyTile m (u.signalled id k pc none) id T := by
  unfold Main.signalled Main.signalNow Tile.signal
  split
  · simp only [if_true]; have := Main.onlyTile_setTile h (u.tileAt id); rw [h.here] at this ⊢; exact this
  · exact h

/-- A tile that was quiet, after the start of its beat and the common part of an issue by spindle `k` (R60, R61). -/
def Tile.afterIssue (t : Tile) (k : Nat) : Tile :=
  let t := { t with beat := t.beat + 1 }
  let t := t.updSp k (fun p => { p with wait := .none })
  t.updSp k (fun p => { p with pc := p.pc + 1, last := t.beat, wait := .none })

/-- The common part of an issue on a quiet tile (R60, R61). -/
theorem Main.issued_quiet {m : Main} {id k op} {f : Fields} (hq : (m.tileAt id).quiet) (h1 : f.wn = 0) (h2 : f.qa.getLsbD 5 = false) (h3 : f.qb.getLsbD 5 = false) :
    Main.OnlyTile m ((m.beatOf id k).issued id ⟨k, op, f⟩) id (Tile.afterIssue (m.tileAt id) k) := by
  have e := Main.issued_plain (m := m.beatOf id k) (id := id) (c := ⟨k, op, f⟩) h1 h2 h3
  rw [e]
  have a : Main.OnlyTile m (m.beatOf id k) id (({ m.tileAt id with beat := (m.tileAt id).beat + 1 } : Tile).updSp k (fun p => { p with wait := .none })) := Main.onlyTile_updTile (Main.beatStart_quiet hq) _
  exact Main.onlyTile_updTile a _

end Sys2Proof.Machine
end

