-- ==== Sys2Proof/Laws/Memory.lean ====
section
/-! SUPPORT. Byte stores: what is read after a write, and that every operation keeps the canonical form. -/

namespace Sys2Proof.Machine

/-! ### The canonical form -/

/-- A listed byte is not 0, and the addresses rise strictly. -/
def cellsSorted (l : List (Nat × Byte)) : Prop := l.Pairwise (fun x y => x.1 < y.1) ∧ ∀ e ∈ l, e.2 ≠ 0

theorem cellsWf_iff (l : List (Nat × Byte)) : cellsWf l = true ↔ cellsSorted l := by
  unfold cellsSorted
  induction l with
  | nil => simp [cellsWf]
  | cons x r ih =>
    obtain ⟨a, v⟩ := x
    cases r with
    | nil => simp [cellsWf]
    | cons y r =>
      obtain ⟨b, w⟩ := y
      simp only [cellsWf, Bool.and_eq_true, bne_iff_ne, decide_eq_true_eq, ih, List.pairwise_cons, List.mem_cons]
      constructor
      · rintro ⟨⟨hv, hab⟩, ⟨hb, hr⟩, hn⟩
        refine ⟨⟨?_, hb, hr⟩, ?_⟩
        · rintro e (rfl | he)
          · exact hab
          · exact Nat.lt_trans hab (hb e he)
        · rintro e (rfl | he)
          · exact hv
          · exact hn e he
      · rintro ⟨⟨ha, hb, hr⟩, hn⟩
        exact ⟨⟨hn _ (.inl rfl), ha _ (.inl rfl)⟩, ⟨hb, hr⟩, fun e he => hn e (.inr he)⟩

theorem cellPut_mem {l : List (Nat × Byte)} {a : Nat} {b : Byte} {e : Nat × Byte} (h : e ∈ cellPut l a b) :
    e ∈ l ∨ (e = (a, b) ∧ b ≠ 0) := by
  induction l with
  | nil =>
    unfold cellPut at h
    split at h
    · simp at h
    · simp at h; exact .inr ⟨h, ‹_›⟩
  | cons x r ih =>
    obtain ⟨k, v⟩ := x
    unfold cellPut at h
    split at h
    · split at h
      · exact .inl h
      · rcases List.mem_cons.mp h with h | h
        · exact .inr ⟨h, ‹_›⟩
        · exact .inl h
    · split at h
      · split at h
        · exact .inl (List.mem_cons_of_mem _ h)
        · rcases List.mem_cons.mp h with h | h
          · refine .inr ⟨?_, ‹_›⟩
            have e1 : a = k := ‹_›
            rw [h, e1]
          · exact .inl (List.mem_cons_of_mem _ h)
      · rcases List.mem_cons.mp h with h | h
        · exact .inl (h ▸ List.mem_cons_self ..)
        · rcases ih h with h | h
          · exact .inl (List.mem_cons_of_mem _ h)
          · exact .inr h

theorem cellPut_sorted {l : List (Nat × Byte)} (a : Nat) (b : Byte) (h : cellsSorted l) : cellsSorted (cellPut l a b) := by
  refine ⟨?_, fun e he => ?_⟩
  · induction l with
    | nil => unfold cellPut; split <;> simp
    | cons x r ih =>
      obtain ⟨k, v⟩ := x
      have hp := List.pairwise_cons.mp h.1
      have hr : cellsSorted r := ⟨hp.2, fun e he => h.2 e (List.mem_cons_of_mem _ he)⟩
      unfold cellPut
      split
      · split
        · exact h.1
        · refine List.pairwise_cons.mpr ⟨fun e he => ?_, h.1⟩
          rcases List.mem_cons.mp he with rfl | he
          · assumption
          · exact Nat.lt_trans ‹a < k› (hp.1 e he)
      · split
        · split
          · exact hp.2
          · exact List.pairwise_cons.mpr ⟨hp.1, hp.2⟩
        · refine List.pairwise_cons.mpr ⟨fun e he => ?_, ih hr⟩
          rcases cellPut_mem he with he | ⟨rfl, _⟩
          · exact hp.1 e he
          · show k < a; omega
  · rcases cellPut_mem he with he | ⟨rfl, hb⟩
    · exact h.2 e he
    · exact hb

theorem cellsSorted_filter {l : List (Nat × Byte)} (p : Nat × Byte → Bool) (h : cellsSorted l) : cellsSorted (l.filter p) :=
  ⟨h.1.filter _, fun e he => h.2 e (List.mem_of_mem_filter he)⟩

/-! ### Every operation keeps the canonical form -/

theorem Mem.putData_wf {m : Mem} (a : Nat) (b : Byte) (h : Memory.wf m = true) : Memory.wf (m.putData a b) = true :=
  (cellsWf_iff _).mpr (cellPut_sorted a b ((cellsWf_iff _).mp h))

theorem Mem.set_wf {m : Mem} (a : Nat) (b : Byte) (h : Memory.wf m = true) : Memory.wf (m.set a b) = true :=
  Mem.putData_wf a b h

theorem Mem.write_wf {m : Mem} (a : Nat) (l : List Byte) (h : Memory.wf m = true) : Memory.wf (m.write a l) = true := by
  induction l generalizing m a with
  | nil => exact h
  | cons b r ih => exact ih (a + 1) (Mem.set_wf a b h)

theorem Mem.zero_wf {m : Mem} (a n : Nat) (h : Memory.wf m = true) : Memory.wf (m.zero a n) = true :=
  (cellsWf_iff _).mpr (cellsSorted_filter _ ((cellsWf_iff _).mp h))

theorem Mem.forget_wf {m : Mem} (a n stamp : Nat) (h : Memory.wf m = true) : Memory.wf (m.forget a n stamp) = true := by
  unfold Mem.forget; dsimp only
  split <;> exact Mem.zero_wf a n h

theorem Mem.poison_wf {m : Mem} (a n : Nat) (h : Memory.wf m = true) : Memory.wf (m.poison a n) = true :=
  Mem.zero_wf _ _ h

theorem Mem.rawPut_wf {m : Mem} (w : Nat) (d : U64) (x : U16) (h : Memory.wf m = true) : Memory.wf (m.rawPut w d x) = true := by
  unfold Mem.rawPut; dsimp only
  split <;> exact Mem.write_wf _ _ h

theorem Mem.pageXor_wf {m : Mem} (page : Nat) (d : BitVec 256) (h : Memory.wf m = true) : Memory.wf (m.pageXor page d) = true := h

theorem Mem.hbmRaw_wf {m : Mem} (w : Nat) (d : U64) (x : U16) (h : Memory.wf m = true) : Memory.wf (m.hbmRaw w d x) = true :=
  Mem.rawPut_wf w d x h

theorem Mem.dropColumn_wf {m : Mem} (s c : Nat) (h : Memory.wf m = true) : Memory.wf (m.dropColumn s c) = true :=
  (cellsWf_iff _).mpr (cellsSorted_filter _ ((cellsWf_iff _).mp h))

/-- The stores of the state before the first power-up are in canonical form. -/
theorem reset_mems_wf : Memory.wf State.reset.main.mem.hbm = true ∧ Memory.wf State.reset.main.mem.pin = true ∧
    Memory.wf State.reset.main.mem.slow = true ∧ Memory.wf State.reset.main.mem.host = true := by decide

/-! ### What is read after a write -/

theorem cellGet_above {l : List (Nat × Byte)} {a : Nat} (h : ∀ e ∈ l, a < e.1) : cellGet l a = none := by
  cases l with
  | nil => rfl
  | cons x r =>
    obtain ⟨k, v⟩ := x
    have : a < k := h _ (List.mem_cons_self ..)
    unfold cellGet
    rw [if_neg (by omega), if_pos this]

/-- The listed byte at an address after a byte is put at it. -/
theorem cellGet_put_same {l : List (Nat × Byte)} (a : Nat) (b : Byte) (h : cellsSorted l) :
    cellGet (cellPut l a b) a = if b = 0 then none else some b := by
  induction l with
  | nil => unfold cellPut; split <;> simp [cellGet]
  | cons x r ih =>
    obtain ⟨k, v⟩ := x
    have hp := List.pairwise_cons.mp h.1
    have hr : cellsSorted r := ⟨hp.2, fun e he => h.2 e (List.mem_cons_of_mem _ he)⟩
    unfold cellPut
    split
    · split
      · unfold cellGet; rw [if_neg (by omega), if_pos ‹_›]
      · simp [cellGet]
    · split
      · subst a
        split
        · exact cellGet_above hp.1
        · simp [cellGet]
      · unfold cellGet
        rw [if_neg ‹_›, if_neg ‹_›, ih hr]

/-- The listed byte at another address is unchanged. -/
theorem cellGet_put_other {l : List (Nat × Byte)} {a c : Nat} (b : Byte) (h : cellsSorted l) (hc : c ≠ a) :
    cellGet (cellPut l a b) c = cellGet l c := by
  induction l with
  | nil =>
    unfold cellPut
    split
    · rfl
    · simp [cellGet, hc]
  | cons x r ih =>
    obtain ⟨k, v⟩ := x
    have hp := List.pairwise_cons.mp h.1
    have hr : cellsSorted r := ⟨hp.2, fun e he => h.2 e (List.mem_cons_of_mem _ he)⟩
    unfold cellPut
    split
    · split
      · rfl
      · show (if c = a then some b else if c < a then none else cellGet ((k, v) :: r) c) = _
        rw [if_neg hc]
        split
        · exact (cellGet_above (fun e he => by
            rcases List.mem_cons.mp he with rfl | he
            · show c < k; omega
            · have := hp.1 e he; simp only at this; omega)).symm
        · rfl
    · split
      · subst a
        split
        · show cellGet r c = (if c = k then some v else if c < k then none else cellGet r c)
          rw [if_neg hc]
          split
          · rename_i hk
            exact cellGet_above (fun e he => Nat.lt_trans hk (hp.1 e he))
          · rfl
        · simp [cellGet, hc]
      · show (if c = k then some v else if c < k then none else cellGet (cellPut r a b) c) = _
        rw [ih hr]; rfl

/-- The undefined run at an address after a run has been taken out. -/
theorem undefAt_cut (l : List (Nat × Nat × Nat)) (b n a : Nat) :
    ((l.flatMap (cutRun b n)).find? (fun u => decide (u.1 ≤ a) && decide (a < u.1 + u.2.1))).map (·.2.2) =
      if b ≤ a ∧ a < b + n then none else (l.find? (fun u => decide (u.1 ≤ a) && decide (a < u.1 + u.2.1))).map (·.2.2) := by
  induction l with
  | nil => simp
  | cons u r ih =>
    obtain ⟨x, y, z⟩ := u
    rw [List.flatMap_cons, List.find?_append]
    have key : (cutRun b n (x, y, z)).find? (fun u => decide (u.1 ≤ a) && decide (a < u.1 + u.2.1)) = none ∧
        ((b ≤ a ∧ a < b + n) ∨ ¬(x ≤ a ∧ a < x + y)) ∨
        ((cutRun b n (x, y, z)).find? (fun u => decide (u.1 ≤ a) && decide (a < u.1 + u.2.1))).map (·.2.2) = some z ∧
        ¬(b ≤ a ∧ a < b + n) ∧ x ≤ a ∧ a < x + y := by
      unfold cutRun
      simp only [Bool.or_eq_true, decide_eq_true_eq]
      split
      · by_cases hx : x ≤ a ∧ a < x + y
        · exact .inr ⟨by simp [hx], by omega, hx⟩
        · exact .inl ⟨by simp; omega, .inr hx⟩
      · by_cases hx : x ≤ a ∧ a < x + y
        · by_cases hb : b ≤ a ∧ a < b + n
          · refine .inl ⟨?_, .inl hb⟩
            rw [List.find?_append]
            split <;> split <;> simp <;> omega
          · refine .inr ⟨?_, hb, hx⟩
            rw [List.find?_append]
            by_cases h1 : a < b
            · rw [if_pos (by omega)]
              simp [hx.1, show a < x + (b - x) by omega]
            · have h2 : ¬ (a < x + (b - x)) := by omega
              rw [if_pos (show b + n < x + y by omega)]
              have h3 : b + n ≤ a := by omega
              have h4 : a < b + n + (x + y - (b + n)) := by omega
              split <;> simp [h2, h3, h4]
        · refine .inl ⟨?_, .inr hx⟩
          rw [List.find?_append]
          split <;> split <;> simp <;> omega
    rcases key with ⟨h1, h2⟩ | ⟨h1, h2, h3⟩
    · rw [h1, Option.none_or, ih]
      rcases h2 with h2 | h2
      · rw [if_pos h2, if_pos h2]
      · rw [List.find?_cons_of_neg (by simpa using h2)]
    · rw [if_neg h2, List.find?_cons_of_pos (by simpa using h3)]
      cases hq : (cutRun b n (x, y, z)).find? (fun u => decide (u.1 ≤ a) && decide (a < u.1 + u.2.1)) with
      | none => rw [hq] at h1; cases h1
      | some v => rw [hq] at h1; simpa using h1

/-- The stored byte at an address after a byte is put at it. -/
theorem Mem.raw_putData_same {m : Mem} (a : Nat) (b : Byte) (h : Memory.wf m = true) : (m.putData a b).raw a = b := by
  have hg := cellGet_put_same a b ((cellsWf_iff _).mp h)
  unfold Mem.raw Mem.putData Mem.undefAt
  dsimp only
  rw [hg, undefAt_cut, if_pos (show a ≤ a ∧ a < a + 1 by omega)]
  by_cases hb : b = 0
  · subst hb; rfl
  · simp only [hb]; rfl

/-- The stored byte at another address is unchanged. -/
theorem Mem.raw_putData_other {m : Mem} {a c : Nat} (b : Byte) (h : Memory.wf m = true) (hc : c ≠ a) :
    (m.putData a b).raw c = m.raw c := by
  have hg := cellGet_put_other b ((cellsWf_iff _).mp h) hc
  unfold Mem.raw Mem.putData Mem.undefAt
  dsimp only
  rw [hg, undefAt_cut, if_neg (by omega)]

theorem Mem.raw_set_same {m : Mem} (a : Nat) (b : Byte) (h : Memory.wf m = true) : (m.set a b).raw a = b :=
  Mem.raw_putData_same a b h

theorem Mem.raw_set_other {m : Mem} {a c : Nat} (b : Byte) (h : Memory.wf m = true) (hc : c ≠ a) : (m.set a b).raw c = m.raw c :=
  Mem.raw_putData_other b h hc

/-- The stored byte at an address outside a written run is unchanged. -/
theorem Mem.raw_write_other {m : Mem} {a c : Nat} (l : List Byte) (h : Memory.wf m = true) (hc : c < a ∨ a + l.length ≤ c) :
    (m.write a l).raw c = m.raw c := by
  induction l generalizing m a with
  | nil => rfl
  | cons b r ih =>
    simp only [List.length_cons] at hc
    show ((m.set a b).write (a + 1) r).raw c = _
    rw [ih (Mem.set_wf a b h) (by omega), Mem.raw_set_other b h (by omega)]

/-- The stored byte at an address of a written run. -/
theorem Mem.raw_write_same {m : Mem} {a : Nat} (l : List Byte) (h : Memory.wf m = true) {i : Nat} (hi : i < l.length) :
    (m.write a l).raw (a + i) = l.getD i 0 := by
  induction l generalizing m a i with
  | nil => simp at hi
  | cons b r ih =>
    show ((m.set a b).write (a + 1) r).raw (a + i) = _
    cases i with
    | zero => rw [Mem.raw_write_other r (Mem.set_wf a b h) (by omega), Nat.add_zero, Mem.raw_set_same a b h]; rfl
    | succ i =>
      have := ih (m := m.set a b) (a := a + 1) (Mem.set_wf a b h) (i := i) (by simpa using hi)
      rw [show a + (i + 1) = a + 1 + i by omega, this]; rfl

/-- A written run leaves no side entry in its words and the others as they were (R478). -/
theorem Mem.side_write (m : Mem) (a : Nat) (l : List Byte) (w : Nat) :
    (m.write a l).side.find w = if l ≠ [] ∧ a / 8 ≤ w ∧ w ≤ (a + l.length - 1) / 8 then none else m.side.find w := by
  induction l generalizing m a with
  | nil => simp [Mem.write]
  | cons b r ih =>
    show ((m.set a b).write (a + 1) r).side.find w = _
    rw [ih]
    have : (m.set a b).side.find w = if w = a / 8 then none else m.side.find w := Table.find_del _ _ _
    rw [this]
    cases r with
    | nil => simp; grind
    | cons c r =>
      simp only [ne_eq, reduceCtorEq, not_false_eq_true, true_and, List.length_cons]
      split_ifs <;> first | rfl | omega

end Sys2Proof.Machine
end

