-- ==== Sys2Proof/Laws/Meter.lean ====
section
/-! SUPPORT. The meter: each of its operations keeps it sound and only adds. -/

namespace Sys2Proof.Machine

/-- The second meter is sound, and its register, cover and log only added to the first one's. -/
structure Meter.Grows (t u : Meter) : Prop where
  sound : u.Sound
  energy : t.energy.toNat ≤ u.energy.toNat
  cover : t.cover = true → u.cover = true
  log : ∃ l, u.log = t.log ++ l

/-- A change of other fields. -/
theorem Meter.grows_same {t u : Meter} (h : t.Sound) (h1 : u.energy = t.energy) (h2 : u.cover = t.cover) (h3 : u.log = t.log) (h4 : u.part = t.part) (h5 : u.pulses = t.pulses) (h6 : u.ms < 1000) : t.Grows u :=
  ⟨⟨by rw [h4]; exact h.part, h6, by rw [h3]; exact h.log, by rw [h5, h1]; exact h.pulses, by rw [h2, h3]; exact h.cover⟩, by rw [h1], by rw [h2]; exact id, ⟨[], by rw [h3]; simp⟩⟩

theorem Meter.Grows.trans {a b c : Meter} (h : a.Grows b) (k : b.Grows c) : a.Grows c := by
  obtain ⟨l, hl⟩ := h.log; obtain ⟨l', hl'⟩ := k.log
  exact ⟨k.sound, Nat.le_trans h.energy k.energy, fun x => k.cover (h.cover x), ⟨l ++ l', by rw [hl', hl, List.append_assoc]⟩⟩

/-- A log entry (R381). -/
theorem Meter.grows_enter {t : Meter} (h : t.Sound) (c) : t.Grows (t.enter c) := by
  unfold Meter.enter; dsimp only
  refine ⟨⟨h.part, h.ms, ?_, h.pulses, fun hc => ?_⟩, Nat.le_refl _, id, ?_⟩
  · dsimp only; split
    · simp; omega
    · exact h.log
  · dsimp only at hc ⊢
    split
    · rcases h.cover hc with ⟨e, he, h5⟩ | hl
      · exact .inl ⟨e, List.mem_append_left _ he, h5⟩
      · omega
    · exact h.cover hc
  · dsimp only; split
    · exact ⟨_, rfl⟩
    · exact ⟨[], by simp⟩

theorem Meter.grows_enterIf {t : Meter} (h : t.Sound) (b c) : t.Grows (t.enterIf b c) := by
  unfold Meter.enterIf; split
  · exact Meter.grows_enter h c
  · exact Meter.grows_same h rfl rfl rfl rfl rfl h.ms

/-- A broken wire (R376). -/
theorem Meter.grows_broken {t : Meter} (h : t.Sound) : t.Grows t.broken := by
  unfold Meter.broken; split
  · exact Meter.grows_same h rfl rfl rfl rfl rfl h.ms
  · unfold Meter.enter; dsimp only
    refine ⟨⟨h.part, h.ms, ?_, h.pulses, fun _ => ?_⟩, Nat.le_refl _, fun _ => rfl, ?_⟩
    · dsimp only; split
      · simp; omega
      · exact h.log
    · dsimp only
      split
      · exact .inl ⟨_, List.mem_append_right _ (List.mem_singleton_self _), rfl⟩
      · have := h.log; right; omega
    · dsimp only; split
      · exact ⟨_, rfl⟩
      · exact ⟨[], by simp⟩

/-- An update of the register (R372). -/
theorem Meter.grows_register {t : Meter} (h : t.Sound) (uj) : t.Grows (t.register uj) := by
  have h0 := t.energy.isLt
  have hp := h.pulses
  unfold Meter.register; dsimp only
  have he : (BitVec.ofNat 64 (min (2 ^ 64 - 1) (t.energy.toNat + (t.part + uj) / 3600000))).toNat = min (2 ^ 64 - 1) (t.energy.toNat + (t.part + uj) / 3600000) := by
    rw [BitVec.toNat_ofNat, Nat.mod_eq_of_lt (by omega)]
  refine ⟨⟨Nat.mod_lt _ (by decide), h.ms, h.log, ?_, h.cover⟩, ?_, id, ⟨[], by simp⟩⟩
  · dsimp only
    rw [he, hp]
    have : t.energy.toNat / 100 ≤ min (2 ^ 64 - 1) (t.energy.toNat + (t.part + uj) / 3600000) / 100 := Nat.div_le_div_right (by omega)
    omega
  · dsimp only; rw [he]; omega

/-- A millisecond (R374). -/
theorem Meter.grows_clock {t : Meter} (h : t.Sound) : t.Grows t.clock := by
  unfold Meter.clock; split
  · exact Meter.grows_same h rfl rfl rfl rfl rfl (show 0 < 1000 by decide)
  · have := h.ms; exact Meter.grows_same h rfl rfl rfl rfl rfl (by show t.ms + 1 < 1000; omega)

/-- The range checks (R379, R381). -/
theorem Meter.grows_range {t : Meter} (h : t.Sound) (v c) : t.Grows (t.range v c) := by
  unfold Meter.range; dsimp only
  have key : ∀ (a b : Bool) (x y : Nat) (p q : Bool), t.Grows (({ t with fVolt := a, fCurr := b, voltFor := x, currFor := y }.enterIf p 3).enterIf q 4) := by
    intro a b x y p q
    have k1 : t.Grows { t with fVolt := a, fCurr := b, voltFor := x, currFor := y } := Meter.grows_same h rfl rfl rfl rfl rfl h.ms
    have k2 := k1.trans (Meter.grows_enterIf k1.sound p 3)
    exact k2.trans (Meter.grows_enterIf k2.sound q 4)
  exact key _ _ _ _ _ _

end Sys2Proof.Machine
end

