-- ==== Sys2Proof/Laws/Work.lean ====
section
/-! SUPPORT. What the shared operations of logging, power and parking leave as it was: the work at hand. -/

namespace Sys2Proof.Machine

theorem Main.SameWork.refl (m : Main) : m.SameWork m := ⟨rfl, rfl, rfl, rfl, rfl, rfl, rfl, rfl, rfl, rfl, rfl⟩

theorem Main.SameWork.trans {a b c : Main} (h : a.SameWork b) (k : b.SameWork c) : a.SameWork c :=
  ⟨k.1.trans h.1, k.2.trans h.2, k.3.trans h.3, k.4.trans h.4, k.5.trans h.5, k.6.trans h.6, k.7.trans h.7, k.8.trans h.8,
    k.9.trans h.9, k.10.trans h.10, k.11.trans h.11⟩

theorem Main.SameWork.ite {m a b : Main} {c : Prop} [Decidable c] (ha : m.SameWork a) (hb : m.SameWork b) :
    m.SameWork (if c then a else b) := by
  split <;> assumption

/-- A step that may be taken or left out. -/
theorem Main.SameWork.opt {m a : Main} {c : Prop} [Decidable c] (ha : m.SameWork a) : m.SameWork (if c then a else m) :=
  .ite ha (.refl m)

theorem Main.SameWork.foldl {α : Type} (f : Main → α → Main) (h : ∀ (m : Main) (a : α), m.SameWork (f m a)) (l : List α) (m : Main) :
    m.SameWork (l.foldl f m) := by
  induction l generalizing m with
  | nil => exact .refl m
  | cons a r ih => exact (h m a).trans (ih _)

theorem Main.sameWork_updDp (m : Main) (d : Nat) (f : DiePow → DiePow) : m.SameWork (m.updDp d f) :=
  ⟨rfl, rfl, rfl, rfl, rfl, rfl, rfl, rfl, rfl, rfl, rfl⟩
theorem Main.sameWork_updPow (m : Main) (f : Power → Power) : m.SameWork (m.updPow f) :=
  ⟨rfl, rfl, rfl, rfl, rfl, rfl, rfl, rfl, rfl, rfl, rfl⟩
theorem Main.sameWork_updDie (m : Main) (d : Nat) (f : Die → Die) : m.SameWork (m.updDie d f) :=
  ⟨rfl, rfl, rfl, rfl, rfl, rfl, rfl, rfl, rfl, rfl, rfl⟩
theorem Main.sameWork_reparked (m : Main) (d : Nat) : m.SameWork (m.reparked d) :=
  ⟨rfl, rfl, rfl, rfl, rfl, rfl, rfl, rfl, rfl, rfl, rfl⟩
theorem Main.sameWork_send (m : Main) (o : Out) : m.SameWork (m.send o) :=
  ⟨rfl, rfl, rfl, rfl, rfl, rfl, rfl, rfl, rfl, rfl, rfl⟩
theorem Main.sameWork_intr (m : Main) (i : Intr) : m.SameWork { m with intr := i } :=
  ⟨rfl, rfl, rfl, rfl, rfl, rfl, rfl, rfl, rfl, rfl, rfl⟩
theorem Main.sameWork_ringLog (m : Main) (l : RingLog) : m.SameWork { m with log := l } :=
  ⟨rfl, rfl, rfl, rfl, rfl, rfl, rfl, rfl, rfl, rfl, rfl⟩
theorem Main.sameWork_side (m : Main) (x : SideBand) : m.SameWork { m with sb := x } :=
  ⟨rfl, rfl, rfl, rfl, rfl, rfl, rfl, rfl, rfl, rfl, rfl⟩

theorem Main.sameWork_setCause (m : Main) (i : Nat) : m.SameWork (m.setCause i) := by
  unfold Main.setCause; dsimp only
  exact .ite (.refl m) (.ite ((Main.sameWork_intr m _).trans (Main.sameWork_send _ _)) (Main.sameWork_intr m _))

theorem Main.sameWork_store (m : Main) (rs : List LogRec) : m.SameWork (m.store rs).1 := by
  unfold Main.store; dsimp only
  split
  · exact Main.sameWork_ringLog _ _
  · split
    · exact Main.sameWork_ringLog _ _
    · exact (Main.sameWork_ringLog _ _).trans (Main.sameWork_setCause _ _)

theorem Main.sameWork_causeIf (m : Main) (c : Bool) (i : Nat) : m.SameWork (m.causeIf c i) :=
  .opt (Main.sameWork_setCause m i)

theorem Main.sameWork_platformEvents (m : Main) (out : List (BitVec 256)) : m.SameWork (m.platformEvents out) := by
  unfold Main.platformEvents
  split
  · exact .foldl _ (fun m a => Main.sameWork_send m _) _ _
  · exact Main.sameWork_side _ _

theorem Main.sameWork_postCauses (m : Main) (code : U16) (cls : BitVec 2) (seq : U32) : m.SameWork (m.postCauses code cls seq) :=
  (((((Main.SameWork.opt (Main.sameWork_ringLog m _)).trans (Main.sameWork_causeIf _ _ _)).trans (Main.sameWork_causeIf _ _ _)).trans
    (Main.sameWork_causeIf _ _ _)).trans (Main.sameWork_causeIf _ _ _)).trans (Main.sameWork_causeIf _ _ _)

/-- Storing an event's records and what follows (R394, R416, R462–R466). -/
theorem Main.sameWork_post (m : Main) (code : U16) (cls : BitVec 2) (rs : U32 → List LogRec) : m.SameWork (m.post code cls rs) :=
  have h := (Main.sameWork_store m (rs m.log.next)).trans (Main.sameWork_postCauses _ code cls _)
  .ite h (h.trans (Main.sameWork_platformEvents _ _))

/-- Logging an event (R387, R388). -/
theorem Main.sameWork_log (m : Main) (e : Ev) : m.SameWork (m.log! e) := by
  unfold Main.log!
  generalize hd : e.die = o
  cases o with
  | none =>
    dsimp only
    exact .ite (.ite (Main.sameWork_ringLog _ _) (Main.sameWork_ringLog _ _)) (Main.sameWork_post _ _ _ _)
  | some d =>
    dsimp only
    exact (Main.sameWork_updDie m d _).trans (.ite (.ite (Main.sameWork_ringLog _ _) (Main.sameWork_ringLog _ _)) (Main.sameWork_post _ _ _ _))

/-! ### Power, points and temperatures -/

theorem Main.sameWork_startRefit (m : Main) : m.SameWork m.startRefit := by
  unfold Main.startRefit
  exact Main.SameWork.ite (Main.sameWork_updPow _ _) (Main.SameWork.ite (.refl _) ((Main.sameWork_updPow _ _).trans (Main.sameWork_log _ _)))

theorem Main.sameWork_enterX (m : Main) (x c) : m.SameWork (m.enterX x c) := by
  unfold Main.enterX; simp only []
  refine Main.SameWork.ite ((Main.sameWork_updPow _ _).trans (Main.SameWork.ite (.refl _) (Main.sameWork_log _ _))) ?_
  exact ((Main.sameWork_updPow _ _).trans (Main.SameWork.ite (.refl _) (Main.sameWork_log _ _))).trans (Main.sameWork_startRefit _)

theorem sameWork_byCore (c : Nat) (f : Main → Main) (h : ∀ m : Main, m.SameWork (f m)) (m : Main) : m.SameWork (byCore c f m) := by
  unfold byCore; exact Main.SameWork.ite (h m) (.refl m)

theorem sameWork_of (f : Main → Main) (h : ∀ m : Main, m.SameWork (f m)) {s u : State} (e : onMain f s = .next u) : s.main.SameWork u.main ∧ u.meter = s.meter ∧ u.pending = s.pending := by
  cases e; exact ⟨h _, rfl, rfl⟩

theorem Main.sameWork_fastLoop (a) (m : Main) : m.SameWork (m.fastLoop a) := by
  unfold Main.fastLoop; simp only []
  refine .trans ?_ (Main.SameWork.foldl _ (fun m a => Main.sameWork_updDp _ _ _) _ _)
  refine Main.SameWork.ite ?_ (Main.sameWork_updPow _ _)
  exact (Main.sameWork_updPow _ _).trans (Main.SameWork.foldl _ (fun m a => Main.sameWork_updDp _ _ _) _ _)

theorem Main.sameWork_parkOne (m : Main) (e on) : m.SameWork (m.parkOne e on) := by
  unfold Main.parkOne; simp only []
  exact (((Main.sameWork_updDp _ _ _).trans (Main.sameWork_reparked _ _)).trans (Main.sameWork_updPow _ _)).trans (Main.sameWork_log _ _)

theorem Main.sameWork_selectPaced (m : Main) (d n) : m.SameWork (m.selectPaced d n) := by
  unfold Main.selectPaced; simp only []
  refine .trans ?_ (Main.sameWork_updDp _ _ _)
  exact Main.SameWork.ite (Main.sameWork_log _ _) (Main.SameWork.ite (Main.sameWork_log _ _) (.refl _))

theorem Main.sameWork_selectDie (m : Main) (d) : m.SameWork (m.selectDie d) := by
  unfold Main.selectDie; simp only []
  have k (x : Main) (f : DiePow → DiePow) : x.SameWork (match x.paceSet d with
    | some n => x.selectPaced d n
    | none => x.updDp d f) := by
    split
    · exact Main.sameWork_selectPaced _ _ _
    · exact Main.sameWork_updDp _ _ _
  exact .trans (Main.sameWork_updDp _ _ _) (k _ _)

theorem Main.sameWork_capStep (m : Main) (p d) : m.SameWork (m.capStep p d) := Main.sameWork_updDp _ _ _

theorem Main.sameWork_elecRise (m : Main) (p) : m.SameWork (m.elecRise p) := by
  unfold Main.elecRise; simp only []
  refine Main.SameWork.ite ?_ (.refl _)
  exact (Main.sameWork_updPow _ _).trans (Main.SameWork.foldl _ (fun m a => Main.sameWork_updDp _ _ _) _ _)

/-- The begin of a stop ramp (R367). -/
theorem Main.sameWork_stopRamp (m : Main) : m.SameWork m.stopRamp := by
  unfold Main.stopRamp; simp only []
  exact .ite (.refl m) ((Main.sameWork_updPow m (fun w => { w with ramp := .stop, rampDraw := w.capping w.est, rampFor := 0 })).trans (Main.sameWork_log _ _))

theorem Main.sameWork_flywheel (a b c) (m : Main) : m.SameWork (m.flywheel a b c) := by
  unfold Main.flywheel
  refine Main.SameWork.ite ((Main.sameWork_updPow _ _).trans (Main.SameWork.foldl _ (fun m a => Main.sameWork_updDp _ _ _) _ _)) ?_
  generalize m.bounds a b = q
  obtain ⟨lo, hi⟩ := q
  simp only []
  have key (r : Bool) (x : Main) : x.SameWork (if r = true then x.log! { code := 0x4403, cls := .adv } else x) := Main.SameWork.ite (Main.sameWork_log _ _) (.refl _)
  have bal (r : Bool) (x : Main) : x.SameWork (if r = true then x else (List.range 4).foldl (fun m d => m.updDp d (fun x => { x with ballast := 0 })) x) :=
    Main.SameWork.ite (.refl _) (Main.SameWork.foldl _ (fun m a => Main.sameWork_updDp _ _ _) _ _)
  refine Main.SameWork.ite ?_ (Main.SameWork.ite ?_ (Main.SameWork.ite (Main.SameWork.ite ?_ ?_) ?_))
  all_goals first
    | exact (((Main.sameWork_updPow _ _).trans (key _ _)).trans (bal _ _)).trans (Main.SameWork.foldl _ (fun m a => Main.sameWork_updDp _ _ _) _ _)
    | exact ((Main.sameWork_updPow _ _).trans (key _ _)).trans (bal _ _)

theorem Main.sameWork_checkDiode (m : Main) (d s) : m.SameWork (m.checkDiode d s) := by
  unfold Main.checkDiode; simp only []
  refine Main.SameWork.ite (.refl _) ?_
  refine Main.SameWork.ite ?_ (Main.SameWork.ite (Main.SameWork.ite ?_ ?_) (Main.sameWork_updDp _ _ _))
  · split
    · exact ((Main.sameWork_updDp _ _ _).trans (Main.sameWork_updDp _ _ _)).trans (Main.sameWork_log _ _)
    · exact Main.sameWork_updDp _ _ _
  · exact ((((Main.sameWork_updDp _ _ _).trans (Main.sameWork_updDp _ _ _)).trans (Main.sameWork_log _ _)).trans (Main.sameWork_updDp _ _ _)).trans (Main.sameWork_log _ _)
  · exact ((Main.sameWork_updDp _ _ _).trans (Main.sameWork_updDp _ _ _)).trans (Main.sameWork_log _ _)

theorem Main.sameWork_ioThermal (m : Main) (r) : m.SameWork (m.ioThermal r) := by
  unfold Main.ioThermal
  refine Main.SameWork.foldl _ (fun m e => ?_) _ _
  simp only []
  exact Main.SameWork.ite ((Main.sameWork_updPow _ _).trans (Main.sameWork_log _ _)) (Main.sameWork_updPow _ _)

theorem Main.sameWork_thermal (m : Main) (d r a) : m.SameWork (m.thermal d r a) := by
  unfold Main.thermal; simp only []
  refine .trans ?_ (Main.sameWork_ioThermal _ _)
  have h1 : ∀ x : Main, x.SameWork ((List.range 24).foldl (fun m s => m.checkDiode d s) x) := fun x => Main.SameWork.foldl _ (fun m s => Main.sameWork_checkDiode _ _ _) _ _
  refine Main.SameWork.ite ?_ ?_
  · exact ((((Main.sameWork_updDp _ _ _).trans (h1 _)).trans (Main.sameWork_updDp _ _ _)).trans (Main.sameWork_updDp _ _ _)).trans (Main.sameWork_reparked _ _)
  · exact (((Main.sameWork_updDp _ _ _).trans (h1 _)).trans (Main.sameWork_updDp _ _ _))

theorem Main.sameWork_heatPlan (m : Main) (d b) : m.SameWork (m.heatPlan d b) := by
  unfold Main.heatPlan; simp only []
  refine (Main.sameWork_updDp _ _ _).trans (Main.SameWork.foldl _ (fun m r => ?_) _ _)
  exact Main.SameWork.ite (.refl _) ((Main.sameWork_updDp _ _ _).trans (Main.sameWork_log _ _))

end Sys2Proof.Machine
end

