-- ==== Sys2Proof/WellFormed.lean ====
section
/-! DEFINITION. Which commands are well formed: an instruction row carries a word that the load check of R67 accepts. -/

namespace Sys2Proof

/-- Opcode and fields of the instruction word that a tile's row stands for, none for a row that is no instruction (R66, R69). -/
def Instr.tileWord : Instr → Option (Nat × Fields)
  | .nop _ _ f => some (0x00, f)
  | .halt _ _ f => some (0x01, f)
  | .br _ _ f => some (0x02, f)
  | .brc _ _ f => some (0x03, f)
  | .loop _ _ f => some (0x04, f)
  | .endl _ _ f => some (0x05, f)
  | .smovi _ _ f => some (0x06, f)
  | .salu _ _ f => some (0x07, f)
  | .fence _ _ f => some (0x09, f)
  | .cinv _ _ f => some (0x0A, f)
  | .getid _ _ f => some (0x0B, f)
  | .flagrd _ _ f => some (0x0C, f)
  | .ldt _ _ f => some (0x20, f)
  | .stt _ _ f => some (0x21, f)
  | .ldg _ _ f => some (0x22, f)
  | .stg _ _ f => some (0x23, f)
  | .lds _ _ f => some (0x24, f)
  | .sts _ _ f => some (0x25, f)
  | .redg _ _ f => some (0x26, f)
  | .qpop _ _ f => some (0x27, f)
  | .qsend _ _ f => some (0x28, f)
  | .mma _ _ f => some (0x40, f)
  | .amov _ _ f => some (0x41, f)
  | .aload _ _ f => some (0x42, f)
  | .aclose _ _ f => some (0x43, f)
  | .vadd _ _ f => some (0x60, f)
  | .vsub _ _ f => some (0x61, f)
  | .vmul _ _ f => some (0x62, f)
  | .vfma _ _ f => some (0x63, f)
  | .vmax _ _ f => some (0x64, f)
  | .vmin _ _ f => some (0x65, f)
  | .vdiv _ _ f => some (0x66, f)
  | .vsqrt _ _ f => some (0x67, f)
  | .vexp _ _ f => some (0x68, f)
  | .vlog _ _ f => some (0x69, f)
  | .vmov _ _ f => some (0x6A, f)
  | .vops _ _ f => some (0x6B, f)
  | .vrow _ _ f => some (0x6C, f)
  | .vred _ _ f => some (0x6D, f)
  | .vcvt _ _ f => some (0x6E, f)
  | .vcvtl _ _ f => some (0x6F, f)
  | .vscale _ _ f => some (0x70, f)
  | .vcmp _ _ f => some (0x71, f)
  | .vsel _ _ f => some (0x72, f)
  | .instructionIssueSelect _ => none
  | .mmaComplete _ => none
  | .vectorOpComplete _ _ => none
  | .memoryResponse _ _ _ => none
  | .slotReservation _ => none
  | .tileIdleOnOneSlice _ => none
  | .accumulationGroupCycle _ => none
  | .tokenDelivered _ _ => none
  | .steeringUnitFiring _ _ => none
  | .chatterWindowExpiry _ => none
  | .spillRefill _ _ => none
  | .stageBlank _ _ => none
  | .forcedRechuck _ _ => none
  | .forcedRechuckRequestTimeout _ => none
  | .dieStatus _ _ => none
  | .withdrawStagedBlanks _ _ => none
  | .setShavingsArea _ _ => none
  | .sectionEnd _ => none
  | .normalRechuck _ => none
  | .peerGroupExchange _ => none
  | .versionGateOpen _ => none
  | .blankLoad _ => none
  | .peerDieFaulted _ => none
  | .phaseCollectiveWait _ => none
  | .stepOpen _ _ => none
  | .verdictContribution _ => none
  | .stepEndTimeout _ => none
  | .stepLimitExpiry _ => none
  | .verdictApply _ _ => none
  | .backgroundResolve _ => none
  | .rederivationComplete _ _ => none
  | .generatorProbe _ _ => none
  | .setPinnedPool _ _ => none
  | .stackedSramStatus _ _ => none
  | .sliceRead _ _ => none
  | .sliceWrite _ _ _ _ => none
  | .sliceRedg _ _ _ _ => none
  | .fillReturn _ => none
  | .reductionFillReturn _ => none
  | .baseDieAccess _ _ _ => none
  | .inputBufferAging _ _ => none
  | .cacheSliceThrashing _ _ => none
  | .dowelBeatReceive _ _ _ => none
  | .dowelMarginCheck _ _ => none
  | .dowelSparing _ _ => none
  | .setStateRegion _ _ => none
  | .readStateRegion _ _ => none
  | .setMemoryRegulators _ _ => none
  | .regulatorCommit _ => none
  | .regulatorSnapshot _ => none
  | .regulatorWindow _ _ => none
  | .memoryStackTempSample _ _ _ => none
  | .memoryThermalStepDown _ => none
  | .memoryThermalStepUp _ => none
  | .setWeightLayer _ _ => none
  | .setVersionMode _ _ => none
  | .weightLayerStatus _ _ => none
  | .setOptimiserProfile _ _ => none
  | .setUpdateDiscipline _ _ => none
  | .assignBlocks _ _ => none
  | .moveBlockState _ _ => none
  | .loadBlockState _ _ => none
  | .saveBlockState _ _ => none
  | .driftAudit _ _ => none
  | .loadWorkingWeights _ _ => none
  | .burnisherStatus _ _ => none
  | .blockLanding _ _ _ _ => none
  | .blockApply _ _ => none
  | .slowTierFetchReturn _ _ _ => none
  | .slowTierFetchTimeout _ _ => none
  | .setJobNumerics _ _ => none
  | .setLayerNumerics _ _ => none
  | .saveNumericsState _ _ => none
  | .loadNumericsState _ _ => none
  | .numericsStatus _ _ => none
  | .portStatus _ _ => none
  | .portControl _ _ => none
  | .arbitrationWeights _ _ => none
  | .portBringUp _ _ => none
  | .portBringUpStepTimeout _ _ => none
  | .flitReceive _ _ => none
  | .linkReplayTimeout _ => none
  | .activeLinkFailure _ => none
  | .packetReceive _ _ _ _ => none
  | .peerResponse _ _ _ => none
  | .linkRekey _ => none
  | .oldKeyExpiry _ => none
  | .collectiveIssue _ => none
  | .collectiveDataReceive _ => none
  | .allGatherPanelReceive _ _ _ _ => none
  | .membershipChange _ _ => none
  | .rankMap _ _ => none
  | .collectivePlan _ _ => none
  | .collectiveStatus _ _ => none
  | .reissueReduction _ _ => none
  | .setInboundMapEntry _ _ => none
  | .cxlPortLinkUp _ _ _ => none
  | .cxlPortLinkDown _ => none
  | .hostSnoop _ _ => none
  | .slowTierTransactionComplete _ _ _ => none
  | .slowTierTransactionTimeout _ _ => none
  | .setSlowTierMap _ _ => none
  | .slowTierDevice _ _ => none
  | .setHostRange _ _ => none
  | .setTailstockArea _ _ => none
  | .tailstockStatus _ _ => none
  | .tailstockRecordStart _ => none
  | .offloadWritesComplete _ => none
  | .leaseReadbackComplete _ => none
  | .tailstockFetchComplete _ => none
  | .copyEngineCommit _ => none
  | .copyEngineTailWrite _ _ => none
  | .copyDescriptorComplete _ _ => none
  | .setPreferredPoints _ _ => none
  | .readCharacterisedTable _ _ => none
  | .readWearLedger _ _ => none
  | .setSteadyRest _ _ => none
  | .paceCommit _ => none
  | .beatSnapshot _ => none
  | .pointSelection _ => none
  | .pacedPointLower _ => none
  | .phaseDwellExpiry _ => none
  | .beatMonitorCheck _ _ _ => none
  | .wearLedgerTick _ => none
  | .wearLedgerSave => none
  | .fastPowerLoop _ => none
  | .telemetryCrossCheck _ _ => none
  | .estimateFallbackTimer => none
  | .activityRefitComplete _ => none
  | .regionParkTick _ => none
  | .electricalLimitTimer _ => none
  | .boostWindowExhausted _ => none
  | .thermalLoop _ _ _ => none
  | .heatTokenPlan _ _ => none
  | .dieThermalCeilingStep _ => none
  | .regionParkedAtCriticalTemperature _ _ => none
  | .hardwareThermalTrip _ => none
  | .flywheelPeriod _ _ _ => none
  | .startOffsetExpiry => none
  | .stopRamp => none
  | .powerCommit _ => none
  | .powerSnapshot _ => none
  | .setPowerLimits _ _ => none
  | .powerStatus _ _ => none
  | .thermalStatus _ _ => none
  | .setFlywheel _ _ => none
  | .meterUpdate _ _ _ _ => none
  | .verificationPulseEnd => none
  | .meterStart _ _ => none
  | .meterSupplyLoss => none
  | .coverOpened => none
  | .readEnergyRecord _ => none
  | .readLog _ _ _ => none
  | .meterIdentity _ => none
  | .meterSpdmRequest _ _ => none
  | .mirrorFrame _ _ _ _ _ => none
  | .mirrorLost => none
  | .meterMirrorStatus _ _ => none
  | .coreHeartbeatMiss _ => none
  | .coreRestarted _ => none
  | .settingsCopyCheck _ _ => none
  | .mailboxGo _ _ => none
  | .commandCompletion _ => none
  | .sidebandMailboxRequest _ _ => none
  | .registerWrite _ _ _ => none
  | .interruptCommit _ => none
  | .multiCommit _ => none
  | .globalSnapshot _ => none
  | .deviceIdentity _ _ => none
  | .deviceStatus _ _ => none
  | .jobOpen _ _ => none
  | .jobClose _ _ => none
  | .restoreJob _ _ => none
  | .identify _ _ => none
  | .status _ _ => none
  | .openJob _ _ => none
  | .loadImage _ _ => none
  | .resetDie _ _ => none
  | .closeJob _ _ => none
  | .step _ _ => none
  | .setPowerLimit _ _ => none
  | .readPower _ _ => none
  | .tcs2ReadLog _ _ => none
  | .tcs2UnsupportedOpcode _ _ _ => none
  | .entdaa _ => none
  | .smbusFallback => none
  | .setEndpointId _ _ _ => none
  | .getEndpointId => none
  | .getEndpointUuid => none
  | .getMctpVersionSupport _ => none
  | .getMessageTypeSupport => none
  | .getVendorDefinedMessageSupport _ => none
  | .gettid => none
  | .getpldmversion _ => none
  | .getpldmtypes => none
  | .getpldmcommands _ => none
  | .getpdr _ => none
  | .getsensorreading _ => none
  | .getstatesensorreadings _ => none
  | .seteventreceiver _ _ => none
  | .pollforplatformeventmessage => none
  | .querydeviceidentifiers => none
  | .getfirmwareparameters => none
  | .requestupdate _ => none
  | .passcomponenttable _ => none
  | .updatecomponent _ _ => none
  | .requestfirmwaredataResponse _ => none
  | .activatefirmware => none
  | .getstatus => none
  | .cancelupdate => none
  | .getVersion => none
  | .getCapabilities _ => none
  | .negotiateAlgorithms _ => none
  | .getDigests => none
  | .getCertificate _ _ _ => none
  | .challenge _ _ => none
  | .getMeasurements _ _ _ => none
  | .keyExchange _ _ => none
  | .finish _ _ => none
  | .heartbeat _ => none
  | .spdmHeartbeatTimeout _ => none
  | .keyUpdate _ => none
  | .endSession _ => none
  | .claim _ _ _ _ _ _ => none
  | .attach _ _ _ => none
  | .release _ _ => none
  | .tenantCommand _ _ => none
  | .inactivityTimeout _ => none
  | .setPartitioning _ _ => none
  | .setPartitionResources _ _ => none
  | .partitionStatus _ _ => none
  | .forcedRelease _ _ => none
  | .debugLock _ _ => none
  | .debugWindowAccess _ _ => none
  | .sealedImport _ _ => none
  | .sealedExport _ _ => none
  | .ideStreamLost _ _ => none
  | .startUpdate _ _ => none
  | .updateBackground => none
  | .updateStatus _ _ => none
  | .activate _ _ => none
  | .cancelUpdate _ _ => none
  | .moduleReset _ _ => none
  | .commitSecurityVersion _ _ => none
  | .readRecord _ _ => none
  | .ringLogStatus _ _ => none
  | .clear _ _ => none
  | .getNonce _ _ => none
  | .nonceExpiry => none
  | .stageAuthorisation _ _ => none
  | .setLogClearKey _ _ => none
  | .logFlashProgram => none
  | .degradationMap _ _ => none
  | .clearPortRetirement _ _ => none
  | .checkerAccess _ _ => none
  | .patrolScrub _ => none
  | .correctedWordsAdvisory _ => none
  | .auxUp _ _ _ => none
  | .auxLoss => none
  | .mainPresent => none
  | .mainInputLost => none
  | .railOutOfTolerance _ => none
  | .startUpStageComplete _ => none
  | .startUpStageOverBound => none
  | .perstAssert => none
  | .perstDeassert _ => none
  | .functionReset => none
  | .coolantCheck _ _ _ => none
  | .pointMove _ => none
  | .ideKm _ _ => none
  | .operatingSecondsSave => none

/-- A tile's instruction word is one that some blank format accepts (R67, R86); every other command is well formed as it is: what is
wrong with it, its own meaning answers (R403). -/
def Instr.wellFormed (i : Instr) : Bool :=
  match i.tileWord with
  | some (op, f) => Machine.wordOk true op f || Machine.wordOk false op f
  | none => true

end Sys2Proof
end

