-- ==== Sys2Proof/Tests/Slice0.lean ====
section
/-! SUPPORT. Checks of the model's own: ill-formed instruction words are refused, single steps from the spec's text, and for each
obligation with hypotheses states and operands that meet them together (test_wit_<obligation>_<n>). -/

namespace Sys2Proof.Tests
open Sys2Proof Sys2Proof.Machine

set_option maxRecDepth 100000
set_option Elab.async false

/-! ### Ill-formed instruction words (R67) -/

/-- Tile d0.r0.t0. -/
def t0 : TileRef := ⟨0, 0⟩

/-- A field that the operation does not use is not 0 (R11, R67). -/
theorem test_wf_unused_field : (Instr.nop t0 0 { imm := 1 }).wellFormed = false ∧ (Instr.smovi t0 0 { sb := 1 }).wellFormed = false := by
  decide +kernel

/-- A branch condition, a loop count, an SALU operation, a GETID item and a queue that R69 does not give. -/
theorem test_wf_scalar :
    (Instr.brc t0 0 { mod := 6 }).wellFormed = false ∧ (Instr.loop t0 0 {}).wellFormed = false ∧
    (Instr.salu t0 0 { mod := 11 }).wellFormed = false ∧ (Instr.getid t0 0 { mod := 5 }).wellFormed = false ∧
    (Instr.getid t0 0 { mod := 13 }).wellFormed = false ∧ (Instr.qpop t0 0 { qa := 0x20 }).wellFormed = false := by decide +kernel

/-- A memory instruction of no lines or of 33, and a REDG of neither BF16 nor FP32 (R69). -/
theorem test_wf_memory :
    (Instr.ldg t0 0 {}).wellFormed = false ∧ (Instr.stg t0 0 { cnt := 33 }).wellFormed = false ∧
    (Instr.redg t0 0 { cnt := 1, mod := 0xE0 }).wellFormed = false := by decide +kernel

/-- An MMA of a pair that no class accepts, of no K or too much, and of a K that is no multiple of 32 without a close (R68, R70, R72). -/
theorem test_wf_mma :
    (Instr.mma t0 0 { mod := 0xDE, cnt := 32 }).wellFormed = false ∧ (Instr.mma t0 0 { mod := 0xDD }).wellFormed = false ∧
    (Instr.mma t0 0 { mod := 0xDD, cnt := 64 }).wellFormed = false ∧ (Instr.mma t0 0 { mod := 0xDD, cnt := 16 }).wellFormed = false ∧
    (Instr.mma t0 0 { mod := 0xDD, cnt := 16, agm := 2 }).wellFormed = true ∧
    (Instr.amov t0 0 { mod := 0x0D, imm := 2 }).wellFormed = false := by decide +kernel

/-- Vector operations: no elements, a narrow format, an undefined selection, rows that do not divide, a run past t63 (R68, R69, R80, R82). -/
theorem test_wf_vector :
    (Instr.vadd t0 0 { mod := 0xFF }).wellFormed = false ∧ (Instr.vadd t0 0 { mod := 0xF7, cnt := 1 }).wellFormed = false ∧
    (Instr.vmov t0 0 { mod := 0xFF, cnt := 1, imm := 3 }).wellFormed = false ∧
    (Instr.vcmp t0 0 { mod := 0xF0, cnt := 1, imm := 6 }).wellFormed = false ∧
    (Instr.vrow t0 0 { mod := 0xFF, cnt := 5, imm := 2 }).wellFormed = false ∧
    (Instr.vred t0 0 { mod := 0xFF, cnt := 4, imm := 0xC002 }).wellFormed = false ∧
    (Instr.vadd t0 0 { mod := 0xFF, cnt := 1025, td := 63 }).wellFormed = false := by decide +kernel

/-- VCVT: no row width, blocks that do not fill a row, a tensor scale from s31, two scale runs from t63, a masked scaled conversion (R84). -/
theorem test_wf_vcvt :
    (Instr.vcvt t0 0 { mod := 0xFF, cnt := 32 }).wellFormed = false ∧
    (Instr.vcvt t0 0 { mod := 0xF1, cnt := 48, imm := 16 }).wellFormed = false ∧
    (Instr.vcvt t0 0 { mod := 0xF0, cnt := 32, imm := 32, sa := 31 }).wellFormed = false ∧
    (Instr.vcvt t0 0 { mod := 0x11, cnt := 32, imm := 32, tc := 63 }).wellFormed = false ∧
    (Instr.vcvt t0 0 { mod := 0xF1, cnt := 32, imm := 32, lc := 1 }).wellFormed = false := by decide +kernel

/-- No row of the table has bits, so no word spells a command. -/
theorem test_decode_none : decodeTableWord 128 0 = none := rfl

/-! ### Examples that the spec works out -/

/-- Tile d2.r5.t17 has tile ID 0x0551 (chapter 00). -/
theorem test_tile_id : TileRef.id ⟨2, ⟨5 * 36 + 17, by decide⟩⟩ = 0x0551 := by decide

/-- The word of the MMA of chapter 03 gives its fields (R66). -/
theorem test_mma_word : wordFields 0x4011000317A40105000180800000_0000 =
    (0x40, { mod := 0x11, wi := 3, wn := 1, si := 7, se := 1, ag := 2, agm := 1, ta := 4, tb := 5, tc := 6, cnt := 128 }) := by
  decide +kernel

/-- 3.0 and 1.0 as VLOG16 (R42). -/
theorem test_vlog16 : (vlogEnc 0x40400000).code = 0x8096 ∧ (vlogEnc 0x3F800000).code = 0x7F00 := by decide +kernel

/-- 400, halfway between 384 and 416, and −12.4 as E4M3 (R43). -/
theorem test_e4m3_tie : (Elem.e4m3.conv .rne (.rat false 400 1 0)).code = 0x7C ∧
    (Elem.e4m3.conv .rne (.rat true 124 10 0)).code = 0xD4 := by decide +kernel

/-- 0.3 as E2M1 rounds up from a draw of 0x6667 on (R45). -/
theorem test_stochastic : (Elem.e2m1.conv (.sr 0x6667) (val32 0x3E99999A)).code = 1 ∧
    (Elem.e2m1.conv (.sr 0x6666) (val32 0x3E99999A)).code = 0 := by decide +kernel

/-- DA 0x00_0060_0012_3480 lies on stack 3, channel 10, at 0x9480, with home slice 42 of compute stack 1 (R149, R172). -/
theorem test_channel_map : chanOf (0x6000123480 % 2 ^ 37) = 10 ∧ chanAddr (0x6000123480 % 2 ^ 37) = 0x9480 ∧
    ({} : Main).home 0x6000123480 = (1, 42) := by decide +kernel

/-- 2³⁰, 1 and −2³⁰ reduce to 1.0 in any order (R159, R162). -/
theorem test_reduction :
    let x := fun c => val32 c
    accFinal true (accAdd (accAdd (accAdd 0 (x 0x4E800000)) (x 0x3F800000)) (x 0xCE800000)) = 0x3F800000 ∧
    accFinal true (accAdd (accAdd (accAdd 0 (x 0xCE800000)) (x 0x3F800000)) (x 0x4E800000)) = 0x3F800000 := by decide +kernel

/-- Where the records of layer 12 of chapter 07 lie in versions 0 and 1 (R194, R196). -/
theorem test_record_address :
    let m : Main := { hbm := [(6, { region := [(4, 0, 0x100000000)] })] }
    let x : Layer := { stack := 6, a := 0x10000000, kb := 128, nb := 256 }
    x.size = 0x8000000 ∧ m.recordDa false x false + 4096 * 9999 + 552 = 0xC01270F228 ∧
    m.recordDa false x true + x.size + 4096 * x.panel2 9999 + 2568 = 0xC098F4EA08 := by decide +kernel

/-- The fresh block of chapter 08: encoded gradient, and the master, moments and codes after one AdamW update (R229, R232, R234). -/
theorem test_adamw :
    let p : Prof := { bias := true, b1 := 0x3F666666, b2 := 0x3F7FBE77, eps := 0x322BCC77, segs := [{ lr0 := 0x3A83126F }] }
    let r := (UpdEnv.of p 0 0x3F800000).apply 0x3F000000 0x3F800000 0 0
    pendElem 0 0 0 (-15) 0 0x3F000000 = (0x74, 0, false) ∧ r.1 = 0x3F7FBE77 ∧ (Elem.bf16.conv .rne (val32 r.2.1)).code = 0x3D4D ∧
    (vlogEnc r.2.2.1).code = 0x7309 ∧ workCode 0x3B800000 r.1 = 0x78 := by decide +kernel

/-- The delayed scale of a gradient tensor in E5M2 with margin 1 (R259). -/
theorem test_delayed_scale : ({ fmt := 8, hist := 0x447A0000 :: List.replicate 15 0 } : Watched).scaleWord 1 = 0x3D800000 := by
  decide +kernel

/-! ### Single steps -/

/-- The state after a step. -/
def after (s : State) : State :=
  match step s with
  | .next u => u
  | _ => s

/-- An ended loop falls through with its counter at 0, and the step takes the row from the queue (R69). -/
theorem test_endl :
    let v : Die := { st := .running, run := some { tiles := [{}] } }
    let x : Tile := { plen := 4, sp := [(0, { st := .running, c := [(1, 1)] })] }
    let u := after { main := { die := [(0, v)], tile := [(0, x)] }, pending := [.endl t0 0 { lc := 1 }] }
    ((u.main.tileAt 0).spin 0).pc = 1 ∧ ((u.main.tileAt 0).spin 0).c.get 1 = 0 ∧ u.pending = [] := by decide +kernel

/-- SALU with mode 0 adds modulo 2⁶⁴ where a register is also its destination (R69). -/
theorem test_salu : salu 0 0xFFFFFFFFFFFFFFFF 2 = 1 ∧ salu 1 0 1 = 0xFFFFFFFFFFFFFFFF := by decide +kernel

/-- The meter gives one verification pulse for 100 mWh (R374). -/
theorem test_meter_pulse :
    let u := after { meter := { running := true, energy := 99, part := 3599999 }, pending := [.meterUpdate 1 0 0 0] }
    u.meter.energy = 100 ∧ u.meter.part = 0 ∧ u.meter.pulses = 1 := by decide +kernel

/-! ### Witnesses of the obligations -/

/-- A unit at work: every core runs and every supply is up. -/
def ready : Main :=
  { core := [(0, { runs := true }), (1, { runs := true }), (2, { runs := true }), (3, { runs := true })],
    sup := { state := .ready, aux := true, main := true, rails := true, wasReady := true } }
/-- Tile 0 with a program of four words, its spindle 0 running. -/
def tl : Tile := { plen := 4, sp := [(0, { st := .running })] }
/-- Die 0 runs a Blank of tile 0, the tile being `x`. -/
def runs (x : Tile) (b : Blank := { tiles := [{ tid := 0 }] }) : Main :=
  { ready with die := [(0, { st := .running, run := some b })], tile := [(0, x)] }
/-- A payload from pairs of a byte offset and a value. -/
def pay (l : List (Nat × Nat)) : Payload := BitVec.ofNat _ ((l.map (fun x => x.2 * 2 ^ (8 * x.1))).sum)
def goes : Rdy → List Req
  | .go l => l
  | _ => []
/-- Bytes from pairs of an offset and a value. -/
def fld (n : Nat) (l : List (Nat × Nat)) : List Byte := toBytes n ((l.map (fun x => x.2 * 2 ^ (8 * x.1))).sum)
/-- A blank image of one tile with a program of one NOP, for job 1 on die 3 (R97, R101, R102). -/
def img (fmt : Nat := 3) (crc : Nat := 0) : List Byte :=
  fld 256 [(0, 0x4B4C4256), (4, fmt), (6, 64), (8, 256), (12, crc), (16, 1), (25, 0xFF), (26, 8), (32, 1), (34, 2), (36, 64),
    (64, 1), (68, 1), (72, 128), (76, 64), (80, 2), (84, 1), (88, 192), (92, 16),
    (130, 1), (136, 0xFFFFFFFF), (146, 0xFFFFFFFFFFFFFFFFFFFFFFFFFFFF)]
/-- Memory with bytes at an address. -/
def holds (a : Nat) (l : List Byte) : Mems := { hbm := ({} : Mem).write a l }
def okOr {ε α : Type} (d : α) : Except ε α → α
  | .ok a => a
  | .error _ => d
/-- Job 1 with a block in entry 0 of stack 0, whose PRT entry is `prt`; every state region of the stack is 2 MiB long. -/
def blocks (j : Job) (prt : Nat := 1) : Main :=
  { ready with
    jobs := [(1, j)], mem := holds 0x200000 (toBytes 32 prt), assigned := [(1, { runs := [⟨0, 0, 1, 0, 0⟩] })],
    hbm := [(0, { region := [(1, 0x200000, 0x200000), (2, 0x400000, 0x200000), (3, 0x600000, 0x200000), (4, 0x800000, 0x200000),
      (5, 0xA00000, 0x200000)] })] }
/-- Port A up with 4 GiB of host memory, its bytes in `m`. -/
def hosted (m : Mem := {}) : Main :=
  { ready with
    mem := { host := m }, cxl := { a := { mode := .cxl31 }, host := [(0, 0, 0x100000000)] } }
/-- A manifest of four full components of 4 KiB each (R449, R450). -/
def manifest : Mem :=
  ((({} : Mem).write 0 (fld 64 [(0, 0x4D464E56), (4, 3), (6, 256), (8, 1010), (12, 1), (16, 2), (22, 4), (23, 3)]))
    |>.write 256 (fld 16 [(0, 1), (8, 4096), (12, 1)]) |>.write 416 (fld 16 [(0, 2), (8, 4096), (12, 1)])
    |>.write 576 (fld 16 [(0, 3), (8, 4096), (12, 1)]) |>.write 736 (fld 16 [(0, 4), (8, 4096), (12, 1)]))
/-- Partition 1 sealed to session 7, which is established. -/
def tenanted : Main :=
  { ready with
    partOn := true, part := [(1, { st := .sealed, sess := some 7, idle := 60 })]
    spdm := { version := true, caps := true, algs := true, sess := [{ id := 7, est := true, part := some 1 }], next := 8 } }

theorem test_wit_RegisterInstructionsComplete :
    (let s : State := { main := runs tl }
     let t : TileRef := ⟨0, 0⟩
     let k : Fin 8 := 0
     let f : Fields := {}
     (∀ op ∈ [0x00, 0x06, 0x07, 0x0B, 0x0A, 0x0C], s.main.issues t.id ⟨k.val, op, f⟩ [])) ∧
    (let s : State := { main := runs tl }
     let t : TileRef := ⟨0, 0⟩
     let k : Fin 8 := 0
     let f : Fields := { imm := 0xFFFF, lc := 3 }
     s.main.issues t.id ⟨k.val, 0x04, f⟩ []) ∧
    (let s : State := { main := runs { tl with grp := [(0, { st := .opened })] } }
     let t : TileRef := ⟨0, 0⟩
     let k : Fin 8 := 0
     let f : Fields := {}
     (s.main.issues t.id ⟨k.val, 0x43, f⟩ [] ∧ ((((s.main.beatOf t.id k.val).issued t.id ⟨k.val, 0x43, f⟩).tileAt t.id).grp.get f.ag.toNat).st = .opened ∧ ((((s.main.beatOf t.id k.val).issued t.id ⟨k.val, 0x43, f⟩).tileAt t.id).grp.get f.ag.toNat).owner.toNat = k.val)) := by
  refine ⟨?_, ?_, ?_⟩ <;> decide +kernel

theorem test_wit_BranchesComplete :
    (let s : State := { main := runs tl }
     let t : TileRef := ⟨0, 0⟩
     let k : Fin 8 := 0
     let f : Fields := { imm := 3 }
     let p := ((s.main.beatOf t.id k.val).tileAt t.id).spin k.val
     (s.main.issues t.id ⟨k.val, 0x02, f⟩ [] ∧ f.imm.toNat < ((((s.main.beatOf t.id k.val).issued t.id ⟨k.val, 0x02, f⟩).holdSp t.id k.val).tileAt t.id).plen) ∧
     (s.main.issues t.id ⟨k.val, 0x03, f⟩ [] ∧ brCond f.mod (p.reg f.sa) (p.reg f.sb) = true ∧ f.imm.toNat < ((((s.main.beatOf t.id k.val).issued t.id ⟨k.val, 0x03, f⟩).holdSp t.id k.val).tileAt t.id).plen)) ∧
    (let s : State := { main := runs tl }
     let t : TileRef := ⟨0, 0⟩
     let k : Fin 8 := 0
     let f : Fields := { mod := 1, imm := 4 }
     let p := ((s.main.beatOf t.id k.val).tileAt t.id).spin k.val
     (s.main.issues t.id ⟨k.val, 0x03, f⟩ [] ∧ brCond f.mod (p.reg f.sa) (p.reg f.sb) = false)) ∧
    (let s : State := { main := runs { tl with sp := [(0, { st := .running, c := [(3, 1)] })] } }
     let t : TileRef := ⟨0, 0⟩
     let k : Fin 8 := 0
     let f : Fields := { lc := 3 }
     let p := ((s.main.beatOf t.id k.val).tileAt t.id).spin k.val
     (s.main.issues t.id ⟨k.val, 0x05, f⟩ [] ∧ p.c.get f.lc.toNat = 1)) ∧
    (let s : State := { main := runs { tl with sp := [(0, { st := .running, c := [(3, 0xFFFF)] })] } }
     let t : TileRef := ⟨0, 0⟩
     let k : Fin 8 := 0
     let f : Fields := { lc := 3, imm := 3 }
     let p := ((s.main.beatOf t.id k.val).tileAt t.id).spin k.val
     (s.main.issues t.id ⟨k.val, 0x05, f⟩ [] ∧ p.c.get f.lc.toNat ≠ 0 ∧ p.c.get f.lc.toNat ≠ 1 ∧ f.imm.toNat < (((((s.main.beatOf t.id k.val).issued t.id ⟨k.val, 0x05, f⟩).updTile t.id (fun x => x.updSp k.val (fun q => { q with c := q.c.put f.lc.toNat (p.c.get f.lc.toNat - 1) }))).holdSp t.id k.val).tileAt t.id).plen)) ∧
    (let s : State := { main := runs tl }
     let t : TileRef := ⟨0, 0⟩
     let k : Fin 8 := 0
     let f : Fields := { lc := 3, imm := 4 }
     let p := ((s.main.beatOf t.id k.val).tileAt t.id).spin k.val
     (s.main.issues t.id ⟨k.val, 0x05, f⟩ [] ∧ p.c.get f.lc.toNat = 0)) := by
  refine ⟨?_, ?_, ?_, ?_, ?_⟩ <;> decide +kernel

theorem test_wit_VectorOperationsComplete :
    (let s : State := { main := runs tl }
     let t : TileRef := ⟨0, 0⟩
     let k : Fin 8 := 0
     let f : Fields := { td := 63, ta := 62, cnt := 1, mod := 0xFF }
     let d := t.id / 512
     let iss := fun (op : Nat) => ((s.main.beatOf t.id k.val).issued t.id ⟨k.val, op, f⟩).phaseBack d
     let nat := fun (op : Nat) => (iss op).native d
     (∀ op ∈ [0x60, 0x61, 0x62, 0x63, 0x64, 0x65, 0x66, 0x67, 0x68, 0x69, 0x6A, 0x6B, 0x70], (s.main.issues t.id ⟨k.val, op, f⟩ [] ∧ ¬ ∃ w ∈ ((iss op).tileAt t.id).parity, w / 512 ∈ readsT (nat op) op f))) ∧
    (let s : State := { main := runs tl }
     let t : TileRef := ⟨0, 0⟩
     let k : Fin 8 := 0
     let f : Fields := { td := 60, cnt := 0x1000, mod := 0xDF, imm := 1 }
     let d := t.id / 512
     let iss := fun (op : Nat) => ((s.main.beatOf t.id k.val).issued t.id ⟨k.val, op, f⟩).phaseBack d
     let nat := fun (op : Nat) => (iss op).native d
     (∀ op ∈ [0x6C, 0x6D], (s.main.issues t.id ⟨k.val, op, f⟩ [] ∧ ¬ ∃ w ∈ ((iss op).tileAt t.id).parity, w / 512 ∈ readsT (nat op) op f))) ∧
    (let s : State := { main := runs tl }
     let t : TileRef := ⟨0, 0⟩
     let k : Fin 8 := 0
     let f : Fields := { td := 63, cnt := 0x3FFF, mod := 0xD0, imm := 5 }
     let d := t.id / 512
     let iss := fun (op : Nat) => ((s.main.beatOf t.id k.val).issued t.id ⟨k.val, op, f⟩).phaseBack d
     let nat := fun (op : Nat) => (iss op).native d
     (s.main.issues t.id ⟨k.val, 0x71, f⟩ [] ∧ ¬ ∃ w ∈ ((iss 0x71).tileAt t.id).parity, w / 512 ∈ readsT (nat 0x71) 0x71 f)) ∧
    (let s : State := { main := runs tl }
     let t : TileRef := ⟨0, 0⟩
     let k : Fin 8 := 0
     let f : Fields := { td := 63, ta := 62, tc := 63, cnt := 2048, mod := 0xDD }
     let d := t.id / 512
     let iss := fun (op : Nat) => ((s.main.beatOf t.id k.val).issued t.id ⟨k.val, op, f⟩).phaseBack d
     let nat := fun (op : Nat) => (iss op).native d
     (s.main.issues t.id ⟨k.val, 0x72, f⟩ [] ∧ ¬ ∃ w ∈ ((iss 0x72).tileAt t.id).parity, w / 512 ∈ readsT (nat 0x72) 0x72 f)) := by
  refine ⟨?_, ?_, ?_, ?_⟩ <;> decide +kernel

theorem test_wit_MatrixAndConversionsComplete :
    (let s : State := { main := runs { tl with grp := [(0, { st := .opened })] } }
     let t : TileRef := ⟨0, 0⟩
     let k : Fin 8 := 0
     let f : Fields := { ta := 63, cnt := 32, mod := 0xDD }
     let d := t.id / 512
     let iss := fun (op : Nat) => ((s.main.beatOf t.id k.val).issued t.id ⟨k.val, op, f⟩).phaseBack d
     let nat := fun (op : Nat) => (iss op).native d
     (s.main.issues t.id ⟨k.val, 0x40, f⟩ [] ∧ ¬ ∃ w ∈ ((iss 0x40).tileAt t.id).parity, w / 512 ∈ readsT (nat 0x40) 0x40 f ∧ ((((iss 0x40).tileAt t.id).grp.get f.ag.toNat).mmaIssue k.val f).2 = true)) ∧
    (let s : State := { main := runs { tl with grp := [(0, { st := .opened, int := true })] } }
     let t : TileRef := ⟨0, 0⟩
     let k : Fin 8 := 0
     let f : Fields := { ta := 63, cnt := 32, mod := 0xDD }
     let d := t.id / 512
     let iss := fun (op : Nat) => ((s.main.beatOf t.id k.val).issued t.id ⟨k.val, op, f⟩).phaseBack d
     let nat := fun (op : Nat) => (iss op).native d
     (s.main.issues t.id ⟨k.val, 0x40, f⟩ [] ∧ ¬ ∃ w ∈ ((iss 0x40).tileAt t.id).parity, w / 512 ∈ readsT (nat 0x40) 0x40 f ∧ ((((iss 0x40).tileAt t.id).grp.get f.ag.toNat).mmaIssue k.val f).2 = false)) ∧
    (let s : State := { main := runs tl }
     let t : TileRef := ⟨0, 0⟩
     let k : Fin 8 := 0
     let f : Fields := { td := 63, mod := 0x0F }
     let d := t.id / 512
     let iss := fun (op : Nat) => ((s.main.beatOf t.id k.val).issued t.id ⟨k.val, op, f⟩).phaseBack d
     let nat := fun (op : Nat) => (iss op).native d
     (s.main.issues t.id ⟨k.val, 0x41, f⟩ [] ∧ ¬ ∃ w ∈ ((iss 0x41).tileAt t.id).parity, w / 512 ∈ readsT (nat 0x41) 0x41 f)) ∧
    (let s : State := { main := runs tl }
     let t : TileRef := ⟨0, 0⟩
     let k : Fin 8 := 0
     let f : Fields := { ta := 60, imm := 3 }
     let d := t.id / 512
     let iss := fun (op : Nat) => ((s.main.beatOf t.id k.val).issued t.id ⟨k.val, op, f⟩).phaseBack d
     let nat := fun (op : Nat) => (iss op).native d
     (s.main.issues t.id ⟨k.val, 0x42, f⟩ [] ∧ ¬ ∃ w ∈ ((iss 0x42).tileAt t.id).parity, w / 512 ∈ readsT (nat 0x42) 0x42 f)) ∧
    (let s : State := { main := runs tl }
     let t : TileRef := ⟨0, 0⟩
     let k : Fin 8 := 0
     let f : Fields := { td := 63, cnt := 32, mod := 0xF0, imm := 32 }
     let d := t.id / 512
     let iss := fun (op : Nat) => ((s.main.beatOf t.id k.val).issued t.id ⟨k.val, op, f⟩).phaseBack d
     let nat := fun (op : Nat) => (iss op).native d
     (s.main.issues t.id ⟨k.val, 0x6E, f⟩ [] ∧ ¬ ∃ w ∈ ((iss 0x6E).tileAt t.id).parity, w / 512 ∈ readsT (nat 0x6E) 0x6E f)) ∧
    (let s : State := { main := runs tl }
     let t : TileRef := ⟨0, 0⟩
     let k : Fin 8 := 0
     let f : Fields := { td := 63, cnt := 1024, mod := 1 }
     let d := t.id / 512
     let iss := fun (op : Nat) => ((s.main.beatOf t.id k.val).issued t.id ⟨k.val, op, f⟩).phaseBack d
     let nat := fun (op : Nat) => (iss op).native d
     (s.main.issues t.id ⟨k.val, 0x6F, f⟩ [] ∧ ¬ ∃ w ∈ ((iss 0x6F).tileAt t.id).parity, w / 512 ∈ readsT (nat 0x6F) 0x6F f)) := by
  refine ⟨?_, ?_, ?_, ?_, ?_, ?_⟩ <;> decide +kernel

theorem test_wit_LocalStoreAndQueueOperationsComplete :
    (let s : State := { main := runs tl }
     let t : TileRef := ⟨0, 0⟩
     let k : Fin 8 := 0
     let f : Fields := { td := 63, imm := 0x7F000 }
     let p := ((s.main.beatOf t.id k.val).tileAt t.id).spin k.val
     let iss := fun (op : Nat) => (s.main.beatOf t.id k.val).issued t.id ⟨k.val, op, f⟩
     let x := fun (op : Nat) => (iss op).tileAt t.id
     let a := addrOf p f
     (s.main.issues t.id ⟨k.val, 0x20, f⟩ [] ∧ (x 0x20).storeCheck a 4096 64 false = none)) ∧
    (let s : State := { main := runs tl }
     let t : TileRef := ⟨0, 0⟩
     let k : Fin 8 := 0
     let f : Fields := { ta := 63, imm := 0x7E000 }
     let p := ((s.main.beatOf t.id k.val).tileAt t.id).spin k.val
     let iss := fun (op : Nat) => (s.main.beatOf t.id k.val).issued t.id ⟨k.val, op, f⟩
     let x := fun (op : Nat) => (iss op).tileAt t.id
     let a := addrOf p f
     (s.main.issues t.id ⟨k.val, 0x21, f⟩ [] ∧ (x 0x21).storeCheck a 4096 64 true = none)) ∧
    (let s : State := { main := runs tl }
     let t : TileRef := ⟨0, 0⟩
     let k : Fin 8 := 0
     let f : Fields := { sb := 31, imm := 0x7FFF8 }
     let p := ((s.main.beatOf t.id k.val).tileAt t.id).spin k.val
     let iss := fun (op : Nat) => (s.main.beatOf t.id k.val).issued t.id ⟨k.val, op, f⟩
     let x := fun (op : Nat) => (iss op).tileAt t.id
     let a := addrOf p f
     (s.main.issues t.id ⟨k.val, 0x24, f⟩ [] ∧ (x 0x24).storeCheck a 8 8 false = none)) ∧
    (let s : State := { main := runs tl }
     let t : TileRef := ⟨0, 0⟩
     let k : Fin 8 := 0
     let f : Fields := { sb := 31, imm := 0x7FFB8 }
     let p := ((s.main.beatOf t.id k.val).tileAt t.id).spin k.val
     let iss := fun (op : Nat) => (s.main.beatOf t.id k.val).issued t.id ⟨k.val, op, f⟩
     let x := fun (op : Nat) => (iss op).tileAt t.id
     let a := addrOf p f
     (s.main.issues t.id ⟨k.val, 0x25, f⟩ [] ∧ (x 0x25).storeCheck a 8 8 true = none)) ∧
    (let s : State := { main := runs { tl with q := [(15, { toks := [{}] })] } }
     let t : TileRef := ⟨0, 0⟩
     let k : Fin 8 := 0
     let f : Fields := { td := 63, qa := 0x3F, imm := 7 }
     s.main.issues t.id ⟨k.val, 0x27, f⟩ []) ∧
    (let s : State := { main := runs tl }
     let t : TileRef := ⟨0, 0⟩
     let k : Fin 8 := 0
     let f : Fields := { imm := 0x7F040 }
     let p := ((s.main.beatOf t.id k.val).tileAt t.id).spin k.val
     let iss := fun (op : Nat) => (s.main.beatOf t.id k.val).issued t.id ⟨k.val, op, f⟩
     let x := fun (op : Nat) => (iss op).tileAt t.id
     let a := addrOf p f
     (s.main.issues t.id ⟨k.val, 0x20, f⟩ [] ∧ ((x 0x20).storeCheck a 4096 64 false = some 0x1103))) ∧
    (let s : State := { main := runs tl }
     let t : TileRef := ⟨0, 0⟩
     let k : Fin 8 := 0
     let f : Fields := { imm := 0x7F000 }
     let p := ((s.main.beatOf t.id k.val).tileAt t.id).spin k.val
     let iss := fun (op : Nat) => (s.main.beatOf t.id k.val).issued t.id ⟨k.val, op, f⟩
     let x := fun (op : Nat) => (iss op).tileAt t.id
     let a := addrOf p f
     (s.main.issues t.id ⟨k.val, 0x21, f⟩ [] ∧ ((x 0x21).storeCheck a 4096 64 true = some 0x1203))) ∧
    (let s : State := { main := runs tl }
     let t : TileRef := ⟨0, 0⟩
     let k : Fin 8 := 0
     let f : Fields := { imm := 0xFFFFFFFF }
     let p := ((s.main.beatOf t.id k.val).tileAt t.id).spin k.val
     let iss := fun (op : Nat) => (s.main.beatOf t.id k.val).issued t.id ⟨k.val, op, f⟩
     let x := fun (op : Nat) => (iss op).tileAt t.id
     let a := addrOf p f
     (s.main.issues t.id ⟨k.val, 0x24, f⟩ [] ∧ ((x 0x24).storeCheck a 8 8 false = some 0x1103))) ∧
    (let s : State := { main := runs tl }
     let t : TileRef := ⟨0, 0⟩
     let k : Fin 8 := 0
     let f : Fields := { imm := 0x7FFC0 }
     let p := ((s.main.beatOf t.id k.val).tileAt t.id).spin k.val
     let iss := fun (op : Nat) => (s.main.beatOf t.id k.val).issued t.id ⟨k.val, op, f⟩
     let x := fun (op : Nat) => (iss op).tileAt t.id
     let a := addrOf p f
     (s.main.issues t.id ⟨k.val, 0x25, f⟩ [] ∧ ((x 0x25).storeCheck a 8 8 true = some 0x1203))) := by
  refine ⟨?_, ?_, ?_, ?_, ?_, ?_, ?_, ?_, ?_⟩ <;> decide +kernel

theorem test_wit_MemoryInstructionsComplete :
    (let s : State := { main := runs tl }
     let t : TileRef := ⟨0, 0⟩
     let k : Fin 8 := 0
     let f : Fields := { cnt := 32, td := 63, imm := 0x80 }
     let rs : List Req := goes ((s.main.beatStart t.id).ready t.id ⟨k.val, 0x22, f⟩)
     let p := ((s.main.beatOf t.id k.val).tileAt t.id).spin k.val
     let a := addrOf p f
     (s.main.issues t.id ⟨k.val, 0x22, f⟩ rs ∧ a % 128 = 0)) ∧
    (let s : State := { main := runs tl }
     let t : TileRef := ⟨0, 0⟩
     let k : Fin 8 := 0
     let f : Fields := { cnt := 1, imm := 0xFFFFFFFF }
     let rs : List Req := goes ((s.main.beatStart t.id).ready t.id ⟨k.val, 0x22, f⟩)
     let p := ((s.main.beatOf t.id k.val).tileAt t.id).spin k.val
     let a := addrOf p f
     (s.main.issues t.id ⟨k.val, 0x22, f⟩ rs ∧ a % 128 ≠ 0)) ∧
    (let s : State := { main := runs tl }
     let t : TileRef := ⟨0, 0⟩
     let k : Fin 8 := 0
     let f : Fields := { cnt := 32, ta := 63, imm := 0x80 }
     let rs : List Req := goes ((s.main.beatStart t.id).ready t.id ⟨k.val, 0x23, f⟩)
     let p := ((s.main.beatOf t.id k.val).tileAt t.id).spin k.val
     let a := addrOf p f
     (s.main.issues t.id ⟨k.val, 0x23, f⟩ rs ∧ a % 128 = 0)) ∧
    (let s : State := { main := runs tl }
     let t : TileRef := ⟨0, 0⟩
     let k : Fin 8 := 0
     let f : Fields := { cnt := 1, imm := 0x7F }
     let rs : List Req := goes ((s.main.beatStart t.id).ready t.id ⟨k.val, 0x23, f⟩)
     let p := ((s.main.beatOf t.id k.val).tileAt t.id).spin k.val
     let a := addrOf p f
     (s.main.issues t.id ⟨k.val, 0x23, f⟩ rs ∧ a % 128 ≠ 0)) ∧
    (let s : State := { main := runs tl }
     let t : TileRef := ⟨0, 0⟩
     let k : Fin 8 := 0
     let f : Fields := { cnt := 32, ta := 63, mod := 0xF0 }
     let rs : List Req := goes ((s.main.beatStart t.id).ready t.id ⟨k.val, 0x26, f⟩)
     let p := ((s.main.beatOf t.id k.val).tileAt t.id).spin k.val
     let a := addrOf p f
     (s.main.issues t.id ⟨k.val, 0x26, f⟩ rs ∧ a % 128 = 0)) ∧
    (let s : State := { main := runs tl }
     let t : TileRef := ⟨0, 0⟩
     let k : Fin 8 := 0
     let f : Fields := { cnt := 1, mod := 0xD0, imm := 0x40 }
     let rs : List Req := goes ((s.main.beatStart t.id).ready t.id ⟨k.val, 0x26, f⟩)
     let p := ((s.main.beatOf t.id k.val).tileAt t.id).spin k.val
     let a := addrOf p f
     (s.main.issues t.id ⟨k.val, 0x26, f⟩ rs ∧ a % 128 ≠ 0)) := by
  refine ⟨?_, ?_, ?_, ?_, ?_, ?_⟩ <;> decide +kernel

theorem test_wit_HaltFenceAndSendComplete :
    (let s : State := { main := runs tl }
     let t : TileRef := ⟨0, 0⟩
     let k : Fin 8 := 0
     let f : Fields := {}
     (∀ op ∈ [0x01, 0x09], s.main.issues t.id ⟨k.val, op, f⟩ [])) ∧
    (let s : State := { main := runs tl }
     let t : TileRef := ⟨0, 0⟩
     let k : Fin 8 := 0
     let f : Fields := { ta := 63, imm := 0x1FF }
     s.main.issues t.id ⟨k.val, 0x28, f⟩ []) ∧
    (let t : TileRef := ⟨0, 0⟩
     let k : Fin 8 := 0
     let m : Main := runs { tl with sp := [(0, { st := .halting })] }
     let q : Spindle := (m.tileAt 0).spin 0
     (m.tileAt t.id).spin k.val = q ∧
     q.fence = none ∧
     q.sending = none ∧
     q.st = .halting ∧
     (∀ o ∈ (m.tileAt t.id).ops, o.sp.toNat ≠ k.val)) ∧
    (let t : TileRef := ⟨0, 0⟩
     let k : Fin 8 := 0
     let d := t.id / 512
     let m : Main := runs { tl with sp := [(0, { st := .running, sending := some (63, 1) })], bind := [(63, { valid := true, credits := 1 })] }
     let q : Spindle := (m.tileAt 0).spin 0
     let data : BitVec 4096 := 1
     let b : BitVec 6 := 63
     (m.tileAt t.id).spin k.val = q ∧
     q.fence = none ∧
     q.sending = some (b, data) ∧
     (m.dieAt d).st = .running ∧
     ((m.tileAt t.id).bind.get b.toNat).credits ≠ 0 ∧
     (m.tileAt t.id).sendHold ≤ (m.tileAt t.id).beat) := by
  refine ⟨?_, ?_, ?_, ?_⟩ <;> decide +kernel

theorem test_wit_SequencerEventsComplete :
    (let s : State := { main := runs tl }
     let t : TileRef := ⟨0, 0⟩
     let c : Cand := ⟨0, 0, {}⟩
     let rs : List Req := []
     let b := s.main.beatStart t.id
     let live := (List.range 8).filter (fun k => (s.main.tileAt t.id).mayIssue k)
     let cs := live.filterMap (s.main.tileAt t.id).fetch
     let st := (cs.filter (fun c => (b.tileAt t.id).mayIssue c.k && wordOk (b.native (t.id / 512)) c.op c.f)).map (fun c => (c, b.ready t.id c))
     let m := b.noteReady t.id st
     s.main.tileRuns t.id = true ∧
     live.find? (fun k => ((s.main.tileAt t.id).fetch k).isNone) = none ∧
     (m.tileAt t.id).choose st = some (c, rs)) ∧
    (let s : State := { main := { ready with tile := [(0, { ops := [{ unit := .matrix }] })] } }
     let t : TileRef := ⟨0, 0⟩
     let o : Op := { unit := .matrix }
     (s.main.tileAt t.id).ops.find? (fun o => o.unit == .matrix) = some o) ∧
    (let s : State := { main := { ready with tile := [(0, { ops := [{ unit := .local }] })] } }
     let t : TileRef := ⟨0, 0⟩
     let loc : Bool := true
     let o : Op := { unit := .local }
     (s.main.tileAt t.id).ops.find? (fun o => o.unit == (if loc then .local else .vector)) = some o) ∧
    (let s : State := { main := { ready with tile := [(0, { ops := [{ unit := .vector }] })] } }
     let t : TileRef := ⟨0, 0⟩
     let loc : Bool := false
     let o : Op := { unit := .vector }
     (s.main.tileAt t.id).ops.find? (fun o => o.unit == (if loc then .local else .vector)) = some o) ∧
    (let m : Main := runs { tl with ops := [{ unit := .local, work := .sts 0 1 }] }
     let id : Nat := 0
     let o : Op := { unit := .local, work := .sts 0 1 }
     ((m.tileAt id).apply o).2 = true ∧
     o.sig = none ∧
     o.unit = .local) ∧
    (let s : State := { main := { ready with tile := [(0, { slots := [(63, { lines := 1, served := [0] })], ops := [{}] })] } }
     let t : TileRef := ⟨0, 0⟩
     let slot : Fin 64 := 63
     let r0 : Req := { lines := 1, served := [0] }
     let r : Req := { lines := 1, served := [0] }
     let m0 : Main := (s.main.performReq t.id r0).1
     let o : Op := {}
     let m1 := m0.updTile t.id (fun x => { x with slots := x.slots.del slot.val })
     (s.main.tileAt t.id).slots.find slot.val = some r0 ∧
     (s.main.performReq t.id r0).2 = r ∧
     r.bad = false ∧
     r.lines ≤ r.served.length ∧
     r.kind = .load ∧
     (m1.tileAt t.id).ops.find? (fun o => o.id = r.op) = some o) ∧
    (let s : State := { main := { ready with tile := [(0, { slots := [(63, { lines := 1, served := [0] })], ops := [{}] })] } }
     let t : TileRef := ⟨0, 0⟩
     let slot : Fin 64 := 63
     let r : Req := { lines := 1, served := [0] }
     let o : Op := {}
     let m1 := s.main.updTile t.id (fun x => { x with slots := x.slots.del slot.val })
     (s.main.tileAt t.id).slots.find slot.val = some r ∧
     r.kind = .load ∧
     r.err = 0 ∧
     (m1.tileAt t.id).ops.find? (fun o => o.id = r.op) = some o) ∧
    (let s : State := { main := { ready with tile := [(0, { beat := 600, sp := [(3, { st := .running, wait := .slotTotal, since := 88 }), (7, { st := .running, wait := .slotTotal, since := 87 })] })] } }
     let t : TileRef := ⟨0, 0⟩
     let k : Nat := 7
     let x := s.main.tileAt t.id
     let due := (List.range 8).filter (fun k => (x.spin k).st = .running && (x.spin k).wait.cls = 1 && (x.spin k).since + 512 ≤ x.beat)
     x.resv = none ∧
     due.foldl (fun (b : Option Nat) k => match b with | none => some k | some j => if (x.spin k).since < (x.spin j).since then some k else b) none = some k) ∧
    (let s : State := { main := runs { tl with beat := 16384, sp := [(7, { st := .running, wait := .slotSlice 3 })] } }
     let t : TileRef := ⟨0, 0⟩
     let x := s.main.tileAt t.id
     let act := (List.range 8).filter (fun k => (x.spin k).st = .running || (x.spin k).st = .halting)
     s.main.tileRuns t.id = true ∧
     x.idleRaised = false ∧
     act ≠ [] ∧
     (∀ k ∈ act, (x.spin k).wait.cls = 1 ∧ (x.spin k).since + 16384 ≤ x.beat)) ∧
    (let s : State := { main := runs { tl with sp := [(0, { st := .running, wait := .group 1 }), (1, { st := .running, wait := .group 0 })], grp := [(0, { st := .opened, owner := 0 }), (1, { st := .opened, owner := 1 })] } }
     let t : TileRef := ⟨0, 0⟩
     let k : Nat := 0
     s.main.tileRuns t.id = true ∧
     (List.range 8).find? (s.main.tileAt t.id).onCycle = some k) := by
  refine ⟨?_, ?_, ?_, ?_, ?_, ?_, ?_, ?_, ?_, ?_⟩ <;> decide +kernel

theorem test_wit_TokenEventsComplete :
    (let s : State := { main := { ready with die := [(3, { st := .running, run := some { tiles := [{ tid := 0 }], peers := 9 }, flight := [(1536, 0, { src := 1 }), (1536, 0, {})] })] } }
     let d : Fin 4 := 3
     let i : Nat := 1
     let dst : BitVec 11 := 1536
     let dq : Byte := 0
     let k : Token := {}
     let v := s.main.dieAt d.val
     let m := s.main.updDie d.val (fun v => { v with flight := v.flight.eraseIdx i })
     v.flight[i]? = some (dst, dq, k) ∧
     (∀ e ∈ v.flight.take i, ¬ (e.2.2.src = k.src ∧ e.2.2.sidx = k.sidx)) ∧
     (m.dieAt d.val).st = v.st ∧
     (v.st = .running ∨ v.st = .ending) ∧
     m.stale d.val dst.toNat k = false) ∧
    (let s : State := { main := { ready with die := [(3, { st := .forcing, flight := [(1536, 0, {})] })] } }
     let d : Fin 4 := 3
     let i : Nat := 0
     let dst : BitVec 11 := 1536
     let dq : Byte := 0
     let k : Token := {}
     let v := s.main.dieAt d.val
     let m := s.main.updDie d.val (fun v => { v with flight := v.flight.eraseIdx i })
     v.flight[i]? = some (dst, dq, k) ∧
     (∀ e ∈ v.flight.take i, ¬ (e.2.2.src = k.src ∧ e.2.2.sidx = k.sidx)) ∧
     (m.dieAt d.val).st = v.st ∧
     (v.st = .forcing ∨ v.st = .faulted)) ∧
    (let m : Main := ready
     let dst : Nat := 0
     let q : Nat := 15
     ((m.tileAt dst).queue q).spilling = false ∧
     ((m.tileAt dst).queue q).toks.length < queueSize q) ∧
    (let s : State := { main := runs { tl with steer := [(3, { dq := some 15, ctl := { toks := [{ data := 0xFF08 }] } })], q := [(15, { toks := [{}] })], bind := [(0x4F, { valid := true, credits := 1 })] } }
     let t : TileRef := ⟨0, 0⟩
     let u : Fin 4 := 3
     let q : BitVec 4 := 15
     let c : Token := { data := 0xFF08 }
     let k : Token := {}
     let l : List Token := []
     let l2 : List Token := []
     let x := s.main.tileAt t.id
     let r := routing c.data
     s.main.tileRuns t.id = true ∧
     (x.steer.get u.val).dq = some q ∧
     (x.steer.get u.val).ctl.toks = c :: l ∧
     (x.q.get q.toNat).toks = k :: l2 ∧
     x.badRouting u.val r = false ∧
     r.drop = false ∧
     (∀ o ∈ r.outs, (x.bind.get (0x40 + 4 * u.val + o)).credits ≠ 0)) ∧
    (let s : State := { main := runs { tl with steer := [(3, { dq := some 15, ctl := { toks := [{ data := 1 }] } })], q := [(15, { toks := [{}] })], bind := [] } }
     let t : TileRef := ⟨0, 0⟩
     let u : Fin 4 := 3
     let q : BitVec 4 := 15
     let c : Token := { data := 1 }
     let k : Token := {}
     let l : List Token := []
     let l2 : List Token := []
     let x := s.main.tileAt t.id
     s.main.tileRuns t.id = true ∧
     (x.steer.get u.val).dq = some q ∧
     (x.steer.get u.val).ctl.toks = c :: l ∧
     (x.q.get q.toNat).toks = k :: l2 ∧
     x.badRouting u.val (routing c.data) = true) ∧
    (let s : State := { main := { ready with die := [(3, { st := .running, run := some {}, progress := true })] } }
     let d : Fin 4 := 3
     (s.main.dieAt d.val).st = .running ∧
     s.main.windowHeld d.val = false ∧
     (s.main.dieAt d.val).progress = true) ∧
    (let y : Queue := { spill := [{ data := 5 }], freed := 1, toks := [{}, {}, {}, {}, {}, {}, {}] }
     let n : Nat := 8
     let k : Token := { data := 5 }
     let l : List Token := []
     y.spill = k :: l ∧
     y.freed ≠ 0 ∧
     y.toks.length < n) ∧
    (let s : State := { main := { ready with die := [(3, { st := .running, run := some {}, progress := false })] } }
     let d : Fin 4 := 3
     (s.main.dieAt d.val).st = .running ∧
     s.main.windowHeld d.val = false ∧
     (s.main.dieAt d.val).progress = false ∧
     (∀ id ∈ s.main.blankTiles d.val, (s.main.tileAt id).waitingSenders = []) ∧
     s.main.fullQueues d.val = []) := by
  refine ⟨?_, ?_, ?_, ?_, ?_, ?_, ?_, ?_⟩ <;> decide +kernel

theorem test_wit_RechuckEventsComplete :
    (let s : State := { main := { ready with die := [(3, { st := .running, run := some {} })] } }
     let d : Fin 4 := 3
     (s.main.dieAt d.val).st = .running ∧
     s.main.sectionDone d.val = true) ∧
    (let s : State := { main := { ready with die := [(0, { st := .ending, settled := false, run := some { peers := 9 } }), (3, { st := .ending, settled := false, run := some { peers := 9 } })] } }
     let d : Fin 4 := 3
     let g := s.main.groupOf d.val
     let m1 := g.foldl Main.landAll s.main
     s.main.barrier d.val = true ∧
     (∀ q ∈ g, (m1.dieAt q).st = .ending) ∧
     (∀ q ∈ g, m1.leftover q = 0)) ∧
    (let s : State := { main := { ready with die := [(0, { st := .ending, settled := false, run := some { peers := 9, tiles := [{}] } }), (3, { st := .ending, settled := false, run := some { peers := 9 } })], tile := [(0, { q := [(0, { toks := [{ held := false }] })] })] } }
     let d : Fin 4 := 3
     let g := s.main.groupOf d.val
     let m1 := g.foldl Main.landAll s.main
     let left := g.filter (fun q => m1.leftover q != 0)
     s.main.barrier d.val = true ∧
     (∀ q ∈ g, (m1.dieAt q).st = .ending) ∧
     left ≠ []) ∧
    (let s : State := { main := { ready with die := [(0, { staged := [{ peers := 9 }] }), (3, { staged := [{ peers := 9 }] })] } }
     let d : Fin 4 := 3
     let b : Blank := { peers := 9 }
     let r : List Blank := []
     (s.main.dieAt d.val).staged = b :: r ∧
     (s.main.dieAt d.val).agreed = false ∧
     (∀ q ∈ diesOf b.peers, (s.main.dieAt q).waitsHead = true) ∧
     (∀ q ∈ diesOf b.peers, (s.main.dieAt q).staged.head?.any (fun c => c.job = b.job && c.section_ = b.section_ && c.peers = b.peers) = true)) ∧
    (let s : State := { main := { ready with die := [(0, { staged := [{ peers := 9 }] }), (3, { staged := [{ peers := 9, section_ := 1 }] })] } }
     let d : Fin 4 := 0
     let b : Blank := { peers := 9 }
     let r : List Blank := []
     (s.main.dieAt d.val).staged = b :: r ∧
     (s.main.dieAt d.val).agreed = false ∧
     (∀ q ∈ diesOf b.peers, (s.main.dieAt q).waitsHead = true) ∧
     ((s.main.dieAt 3).staged.head?.any (fun c => c.job = b.job && c.section_ = b.section_ && c.peers = b.peers) = false ∧ 3 ∈ diesOf b.peers)) ∧
    (let s : State := { main := { ready with jobs := [(1, { stepOpen := true, watched := [{}] })], die := [(0, { staged := [{ job := 1, peers := 1, training := true }], agreed := true })] } }
     let d : Fin 4 := 0
     let b : Blank := { job := 1, peers := 1, training := true }
     let r : List Blank := []
     let y : Job := { stepOpen := true, watched := [{}] }
     (s.main.dieAt d.val).staged = b :: r ∧
     s.main.job? b.job.toNat = some y ∧
     (s.main.dieAt d.val).agreed = true ∧
     (s.main.dieAt d.val).gated = false ∧
     y.gateFault b = none ∧
     (y.watch b).watched.length ≤ 4096 ∧
     y.gateOpen b = true ∧
     (∀ l ∈ b.weightLayers, b.training = true → (y.layers.get l).issued = false) ∧
     s.main.grainHeld d.val b = false ∧
     s.main.offloadHeld d.val b = false) ∧
    (let s : State := { main := { ready with mem := holds 0x40 (img 3 1338562443), die := [(3, { staged := [{ da := 0x40, len := 256, crc := 1338562443, peers := 8, job := 1, tiles := [{ prog := [0], entry := [0] }] }], gated := true })] } }
     let d : Fin 4 := 3
     let b : Blank := { da := 0x40, len := 256, crc := 1338562443, peers := 8, job := 1, tiles := [{ prog := [0], entry := [0] }] }
     let r : List Blank := []
     let g := diesOf b.peers
     let epoch := (s.main.dieAt (g.headD d.val)).epoch + 1
     let m1 := g.foldl (fun m q => m.loadDie q epoch) s.main
     (s.main.dieAt d.val).staged = b :: r ∧
     (∀ q ∈ g, (s.main.dieAt q).gated = true ∧ (s.main.dieAt q).staged ≠ []) ∧
     (∀ q ∈ g, (s.main.dieAt q).staged.head?.any (fun c => c.epoch.any (· != epoch)) = false) ∧
     (∀ q ∈ g, (m1.dieAt q).st = .loading)) ∧
    (let s : State := { main := { ready with die := [(0, { staged := [{ peers := 1, epoch := some 3 }], gated := true })] } }
     let d : Fin 4 := 0
     let b : Blank := { peers := 1, epoch := some 3 }
     let r : List Blank := []
     let g := diesOf b.peers
     let epoch := (s.main.dieAt (g.headD d.val)).epoch + 1
     let bad := g.filter (fun q => (s.main.dieAt q).staged.head?.any (fun c => c.epoch.any (· != epoch)))
     (s.main.dieAt d.val).staged = b :: r ∧
     (∀ q ∈ g, (s.main.dieAt q).gated = true ∧ (s.main.dieAt q).staged ≠ []) ∧
     bad ≠ []) ∧
    (let s : State := { main := { ready with die := [(0, { st := .running, run := some { peers := 3 } }), (1, { st := .faulted, run := some { peers := 3 } })] } }
     let d : Fin 4 := 0
     s.main.peerFaulted d.val = true) ∧
    (let s : State := { main := { ready with jobs := [(1, { colls := [{}] })], die := [(3, { st := .running, run := some { job := 1, training := true }, beats := 4096, job := 1 })] } }
     let d : Fin 4 := 3
     let b : Blank := { job := 1, training := true }
     let j : Job := { colls := [{}] }
     (s.main.dieAt d.val).run = some b ∧
     s.main.dieJob d.val = some j ∧
     (s.main.dieAt d.val).st = .running ∧
     b.training = true ∧
     j.colls ≠ [] ∧
     (s.main.dieAt d.val).lastMma + 4096 ≤ (s.main.dieAt d.val).beats) ∧
    (let s : State := { main := { ready with die := [(0, { st := .forcing, settled := false, run := some { tiles := [{}] } })], tile := [(0, { slots := [(0, {})] })] } }
     let d : Fin 4 := 0
     (s.main.dieAt d.val).st = .forcing ∧
     (s.main.dieAt d.val).settled = false ∧
     s.main.outstanding d.val ≠ 0) := by
  refine ⟨?_, ?_, ?_, ?_, ?_, ?_, ?_, ?_, ?_, ?_, ?_⟩ <;> decide +kernel

theorem test_wit_ChuckCommandsComplete :
    (let s : State := { main := { ready with jobs := [(1, { dies := 15 })], die := [(3, { shavings := some (0x40000000, 0x8000000) })], mem := holds 0x40 (img 3 1338562443) } }
     let h : Hdr := {}
     let p : Payload := pay [(0, 64), (8, 256), (12, 3), (16, 1)]
     let j : Job := { dies := 15 }
     let m1 : Main := ((s.main.taken h.src).daGet ((s.main.taken h.src).diePartOf 3) 64 256).1
     let img : List Byte := img 3 1338562443
     let b : Blank := okOr {} (imageChk (m1.stageEnv 3 j 1 0 256 false) img 64)
     let x := s.main.taken h.src
     s.main.serves 0x0210 h p [(0, 13), (16, 8)] (owned := s.main.owns h.src (s.main.variant.diePart (bvAt p 12 1))) = true ∧
     bvAt p 12 1 ≤ 3 ∧
     bvAt p 0 8 % 64 = 0 ∧
     x.job? (bvAt p 16 4) = some j ∧
     j.dies.getLsbD (bvAt p 12 1) = true ∧
     (x.dieAt (bvAt p 12 1)).shavings ≠ none ∧
     (x.dieAt (bvAt p 12 1)).staged.length < 4 ∧
     (¬ ((x.sramAt (bvAt p 12 1)).below = true ∧ (x.sramAt (bvAt p 12 1)).live < 0x10000000)) ∧
     (64 ≤ bvAt p 8 4 ∧ bvAt p 8 4 ≤ 0x4000000 ∧ bvAt p 8 4 % 64 = 0) ∧
     x.daGet (x.diePartOf (bvAt p 12 1)) (bvAt p 0 8) (bvAt p 8 4) = (m1, some img) ∧
     imageChk (m1.stageEnv (bvAt p 12 1) j (bvAt p 16 4) (bvAt p 20 4) (bvAt p 8 4) false) img (bvAt p 0 8) = .ok b) ∧
    (let s : State := { main := runs tl }
     let h : Hdr := {}
     let p : Payload := pay [(0, 3)]
     let x := s.main.taken h.src
     s.main.serves 0x0211 h p [(0, 2)] (owned := s.main.ownsDies h.src (p.extractLsb' 0 4)) (high := forcedRsv p) = true ∧
     (∀ d ∈ diesOf (p.extractLsb' 0 4), ∀ q ∈ x.groupOf d, (p.extractLsb' 0 4).getLsbD q = true)) ∧
    (let s : State := { main := ready }
     let h : Hdr := {}
     let p : Payload := pay [(0, 3)]
     s.main.serves 0x0212 h p [(0, 1)] (reads := true) (owned := s.main.owns h.src (s.main.variant.diePart (bvAt p 0 1))) = true ∧
     bvAt p 0 1 ≤ 3) ∧
    (let s : State := { main := ready }
     let h : Hdr := {}
     let p : Payload := pay [(0, 15)]
     s.main.serves 0x0213 h p [(0, 1)] (owned := s.main.ownsDies h.src (p.extractLsb' 0 4)) (high := (bvAt p 0 1 < 16)) = true) ∧
    (let s : State := { main := ready }
     let h : Hdr := {}
     let p : Payload := pay [(0, 3), (8, 0x200000), (16, 0x8000000)]
     let x := s.main.taken h.src
     s.main.serves 0x0214 h p [(0, 1), (8, 16)] (owned := s.main.owns h.src (s.main.variant.diePart (bvAt p 0 1))) = true ∧
     bvAt p 0 1 ≤ 3 ∧
     bvAt p 8 8 % 0x200000 = 0 ∧
     (bvAt p 8 8 % 0x200000 = 0) ∧
     (0x8000000 ≤ bvAt p 16 8 ∧ bvAt p 16 8 ≤ 0x100000000) ∧
     bvAt p 8 8 < 2 ^ 41 ∧
     x.mapped (x.diePartOf (bvAt p 0 1)) (bvAt p 8 8) (bvAt p 16 8) = true ∧
     x.freeRun (some (bvAt p 0 1)) (bvAt p 8 8) (bvAt p 16 8) = true) := by
  refine ⟨?_, ?_, ?_, ?_, ?_⟩ <;> decide +kernel

theorem test_wit_StepCommandsComplete :
    (let s : State := { main := { ready with jobs := [(1, { dies := 1, step := 7 })] } }
     let h : Hdr := {}
     let p : Payload := pay [(0, 1), (4, 7)]
     let j : Job := { dies := 1, step := 7 }
     let x := s.main.taken h.src
     s.main.serves 0x0203 h p [(0, 8)] (owned := s.main.ownsJob h.src (bvAt p 0 4)) = true ∧
     x.job? (bvAt p 0 4) = some j ∧
     j.stepOpen = false ∧
     (j.unrec = false ∧ j.restoring = false) ∧
     p.extractLsb' 32 32 = j.step) ∧
    (let s : State := { main := { ready with jobs := [(1, { stepOpen := true, next := 3 })] } }
     let j : U32 := 1
     let v : Job := { stepOpen := true, next := 3 }
     s.main.job? j.toNat = some v ∧
     (s.main.core.get 3).runs = true ∧
     v.stepOpen = true ∧
     v.voted = false ∧
     s.main.openCond j.toNat v = none) ∧
    (let s : State := { main := { ready with jobs := [(1, { stepOpen := true, voted := false })] } }
     let j : U32 := 1
     let v : Job := { stepOpen := true, voted := false }
     s.main.job? j.toNat = some v ∧
     v.stepOpen = true ∧
     v.voted = false) ∧
    (let s : State := { main := { ready with jobs := [(1, { stepOpen := true, voted := true, reduced := some (0, true) })] } }
     let j : U32 := 1
     let word : U64 := 0
     let v : Job := { stepOpen := true, voted := true, reduced := some (0, true) }
     s.main.job? j.toNat = some v ∧
     v.stepOpen = true ∧
     v.voted = true ∧
     v.reduced = some (word, true) ∧
     s.main.inTorus = true) ∧
    (let s : State := { main := { ready with jobs := [(1, { stepOpen := true, voted := true, reduced := some (0x80000000, false) })] } }
     let j : U32 := 1
     let word : U64 := 0x80000000
     let v : Job := { stepOpen := true, voted := true, reduced := some (0x80000000, false) }
     s.main.job? j.toNat = some v ∧
     v.stepOpen = true ∧
     v.voted = true ∧
     v.reduced = some (word, false) ∧
     s.main.inTorus = true) ∧
    (let s : State := { main := { ready with jobs := [(1, { stepOpen := true, lastBack := some 0, plan := [{}] })] } }
     let j : U32 := 1
     let v : Job := { stepOpen := true, lastBack := some 0, plan := [{}] }
     let c : Nat := 0
     s.main.job? j.toNat = some v ∧
     v.stepOpen = true ∧
     v.voted = false ∧
     v.lastBack ≠ none ∧
     s.main.openCond j.toNat v = some c) ∧
    (let s : State := { main := { ready with jobs := [(1, { layers := [(4095, { st := .restoring })] })] } }
     let j : U32 := 1
     let l : U16 := 4095
     let v : Job := { layers := [(4095, { st := .restoring })] }
     let y : Layer := { st := .restoring }
     s.main.job? j.toNat = some v ∧
     v.layers.find l.toNat = some y ∧
     y.st = .restoring) ∧
    (let s : State := { main := ready }
     let h : Hdr := {}
     let p : Payload := pay [(26, 2)]
     s.main.serves 0x0931 h p [(0, 21), (24, 3)] (reads := true) (high := (bvAt p 26 1 ≤ 2)) = true) := by
  refine ⟨?_, ?_, ?_, ?_, ?_, ?_, ?_, ?_⟩ <;> decide +kernel

theorem test_wit_JobCommandsComplete :
    (let s : State := { main := ready }
     let h : Hdr := {}
     let p : Payload := pay [(0, 1), (4, 15), (6, 32768), (16, 600000), (24, 3600)]
     let x := s.main.taken h.src
     s.main.serves 0x0201 h p [(0, 5), (6, 22)] (high := openRsv p) = true ∧
     p.extractLsb' 32 4 ≠ (0 : BitVec 4) ∧
     (bvAt p 0 4 ≠ 0 ∧ x.job? (bvAt p 0 4) = none) ∧
     (∀ d ∈ diesOf (p.extractLsb' 32 4), (x.dieAt d).job = 0) ∧
     (1 ≤ bvAt p 6 2 ∧ bvAt p 6 2 ≤ 32768) ∧
     (bvAt p 16 4 = 0 ∨ (10 ≤ bvAt p 16 4 ∧ bvAt p 16 4 ≤ 600000)) ∧
     bvAt p 24 4 ≤ 3600 ∧
     x.ownsDies h.src (p.extractLsb' 32 4) = true ∧
     (x.sup.tlock = true → ∀ d ∈ diesOf (p.extractLsb' 32 4), x.partOn = true ∧ x.sealed (x.variant.diePart d) = true)) ∧
    (let s : State := { main := { ready with jobs := [(1, { dies := 1 })] } }
     let h : Hdr := {}
     let p : Payload := pay [(0, 1)]
     let j : Job := { dies := 1 }
     let x := s.main.taken h.src
     s.main.serves 0x0202 h p [(0, 5)] (owned := s.main.ownsJob h.src (bvAt p 0 4)) (high := (bvAt p 4 1 < 2)) = true ∧
     x.job? (bvAt p 0 4) = some j ∧
     j.stepOpen = false) ∧
    (let s : State := { main := { ready with jobs := [(1, { dies := 1, stepOpen := true })] } }
     let h : Hdr := {}
     let p : Payload := pay [(0, 1), (4, 1)]
     let j : Job := { dies := 1, stepOpen := true }
     let x := s.main.taken h.src
     s.main.serves 0x0202 h p [(0, 5)] (owned := s.main.ownsJob h.src (bvAt p 0 4)) (high := (bvAt p 4 1 < 2)) = true ∧
     x.job? (bvAt p 0 4) = some j ∧
     j.stepOpen = true ∧
     p.getLsbD 32 = true) ∧
    (let s : State := { main := { ready with jobs := [(1, { dies := 1, layers := [(0, {})] })] } }
     let h : Hdr := {}
     let p : Payload := pay [(0, 1)]
     let j : Job := { dies := 1, layers := [(0, {})] }
     let x := s.main.taken h.src
     s.main.serves 0x0204 h p (if bvAt p 4 1 = 1 then [(0, 5), (8, 4)] else [(0, 5)]) (owned := s.main.ownsJob h.src (bvAt p 0 4)) = true ∧
     x.job? (bvAt p 0 4) = some j ∧
     j.stepOpen = false ∧
     bvAt p 4 1 = 0 ∧
     (∀ l ∈ j.layers, l.2.st ≠ .updating ∧ l.2.st ≠ .restoring)) ∧
    (let s : State := { main := { ready with jobs := [(1, { dies := 1, restoring := true, layers := [(0, { st := .reading })] })] } }
     let h : Hdr := {}
     let p : Payload := pay [(0, 1), (4, 1)]
     let j : Job := { dies := 1, restoring := true, layers := [(0, { st := .reading })] }
     let x := s.main.taken h.src
     s.main.serves 0x0204 h p (if bvAt p 4 1 = 1 then [(0, 5), (8, 4)] else [(0, 5)]) (owned := s.main.ownsJob h.src (bvAt p 0 4)) = true ∧
     x.job? (bvAt p 0 4) = some j ∧
     j.stepOpen = false ∧
     bvAt p 4 1 = 1 ∧
     j.restoring = true ∧
     x.allLoaded (bvAt p 0 4) = true ∧
     (∀ l ∈ j.layers, l.2.st = .reading)) := by
  refine ⟨?_, ?_, ?_, ?_, ?_⟩ <;> decide +kernel

theorem test_wit_PoolsAndSliceArrivalsComplete :
    (let s : State := { main := ready }
     let h : Hdr := {}
     let p : Payload := pay [(0, 3), (16, 0x20000000)]
     let x := s.main.taken h.src
     s.main.serves 0x0320 h p [(0, 1), (8, 16)] = true ∧
     bvAt p 0 1 ≤ 3 ∧
     x.owns h.src (x.variant.diePart (bvAt p 0 1)) = true ∧
     (bvAt p 8 8 % 65536 = 0 ∧ bvAt p 16 8 % 65536 = 0) ∧
     (bvAt p 8 8 ≤ 2 ^ 30 ∧ bvAt p 16 8 ≤ 2 ^ 30) ∧
     poolFloor ≤ (x.sramAt (bvAt p 0 1)).liveFor (bvAt p 8 8) (bvAt p 16 8) ∧
     ((x.dieAt (bvAt p 0 1)).st = .idle ∨ (x.dieAt (bvAt p 0 1)).st = .faulted) ∧
     ((x.dieAt (bvAt p 0 1)).staged = [] ∨ ((x.sramAt (bvAt p 0 1)).p1 ≤ bvAt p 8 8 ∧ (x.sramAt (bvAt p 0 1)).p2 ≤ bvAt p 16 8))) ∧
    (let m : Main := { ready with resps := [{ stack := some 2 }] }
     let r : Resp := { stack := some 3 }
     let n : Nat := 3
     r.stack = some n ∧
     (∀ x ∈ m.resps, x.stack ≠ some n)) ∧
    (let s : State := { main := ready }
     let h : Hdr := {}
     let p : Payload := pay [(0, 3)]
     s.main.serves 0x0321 h p [(0, 1)] (reads := true) (owned := s.main.owns h.src (s.main.variant.diePart (bvAt p 0 1))) = true ∧
     bvAt p 0 1 ≤ 3) ∧
    (let s : State := { main := ready }
     let da : DA := 0xE000000080
     let n : Nat := 7
     let o : Nat := 0x80
     s.main.rng da.toNat = .hbm n o ∧
     s.main.inRegion (da.toNat / 128 * 128) 128 = false) ∧
    (let s : State := { main := { ready with hbm := [(7, { region := [(1, 0, 0x200000)] })] } }
     let da : DA := 0xE000000080
     let n : Nat := 7
     let o : Nat := 0x80
     s.main.rng da.toNat = .hbm n o ∧
     s.main.inRegion (da.toNat / 128 * 128) 128 = true) ∧
    (let s : State := { main := { ready with tile := [(0, { slots := [(63, { kind := .load, da := 0x80, lines := 1, target := .slice 0 0 })] })] } }
     let da : DA := 0x80
     let t : TileRef := ⟨0, 0⟩
     let slot : Fin 64 := 63
     let r : Req := { kind := .load, da := 0x80, lines := 1, target := .slice 0 0 }
     let i : Nat := 0
     s.main.reqFor t slot da.toNat .load = some (r, i)) ∧
    (let s : State := { main := { ready with tile := [(0, { slots := [(63, { kind := .store, da := 0x80, lines := 1, target := .slice 0 0 })] })] } }
     let da : DA := 0x80
     let t : TileRef := ⟨0, 0⟩
     let slot : Fin 64 := 63
     let r : Req := { kind := .store, da := 0x80, lines := 1, target := .slice 0 0 }
     let i : Nat := 0
     s.main.reqFor t slot da.toNat .store = some (r, i)) ∧
    (let s : State := { main := { ready with tile := [(0, { slots := [(63, { kind := .reduce false, da := 0x80, lines := 1, target := .slice 0 0 })] })] } }
     let da : DA := 0x80
     let fp32 : Bool := false
     let t : TileRef := ⟨0, 0⟩
     let slot : Fin 64 := 63
     let r : Req := { kind := .reduce false, da := 0x80, lines := 1, target := .slice 0 0 }
     let i : Nat := 0
     s.main.reqFor t slot da.toNat (.reduce fp32) = some (r, i)) := by
  refine ⟨?_, ?_, ?_, ?_, ?_, ?_, ?_, ?_⟩ <;> decide +kernel

theorem test_wit_SliceEventsComplete :
    (let s : State := { main := { ready with sram := [(0, { slices := [(0, { lines := [(1, { st := .fillPending })] })] })] } }
     let da : DA := 0x80
     let l : Line := { st := .fillPending }
     s.main.line? da.toNat = some l ∧
     l.st = .fillPending ∧
     s.main.mayAccess (da.toNat / 2 ^ 37) l.part = true) ∧
    (let s : State := { main := { ready with sram := [(0, { slices := [(0, { lines := [(1, { st := .redPending })] })] })] } }
     let da : DA := 0x80
     let l : Line := { st := .redPending }
     s.main.line? da.toNat = some l ∧
     l.st = .redPending ∧
     s.main.mayAccess (da.toNat / 2 ^ 37) l.part = true) ∧
    (let s : State := { main := ready }
     let da : DA := 0xE0000000FF
     let n : Nat := 7
     let o : Nat := 0x80
     let a := da.toNat / 128 * 128
     s.main.rng (da.toNat / 128 * 128) = .hbm n o ∧
     s.main.mayAccess n (s.main.ownPart a) = true) ∧
    (let s : State := { main := { ready with sram := [(3, { slices := [(63, { inbuf := [{ aged := true }, { line := 5 }] })] })] } }
     let j : Fin 4 := 3
     let i : Fin 64 := 63
     let l : List Waiting := [{ aged := true }]
     let r : List Waiting := []
     let w : Waiting := { line := 5 }
     (s.main.sliceAt j.val i.val).inbuf = l ++ w :: r ∧
     (∀ v ∈ l, v.aged = true) ∧
     w.aged = false) := by
  refine ⟨?_, ?_, ?_, ?_⟩ <;> decide +kernel

theorem test_wit_DowelEventsComplete :
    (let s : State := { main := ready }
     let g : DowelRef := ⟨3, 287, true, false⟩
     let d : BitVec 1024 := 0
     let crc : U16 := (crcUpper 0).setWidth 16
     (s.main.dowel g).sparing = false ∧
     (s.main.sramAt g.stack.val).retired.contains g.col.val = false ∧
     beatOk g.upper d crc = true) ∧
    (let s : State := { main := ready }
     let g : DowelRef := ⟨3, 287, false, false⟩
     let d : BitVec 1024 := 0
     let crc : U16 := crcLower 0
     (s.main.dowel g).sparing = false ∧
     (s.main.sramAt g.stack.val).retired.contains g.col.val = false ∧
     beatOk g.upper d crc = true) ∧
    (let s : State := { main := ready }
     let g : DowelRef := ⟨3, 287, true, false⟩
     let d : BitVec 1024 := 0
     let crc : U16 := (crcUpper 0 + 1).setWidth 16
     (s.main.dowel g).sparing = false ∧
     (s.main.sramAt g.stack.val).retired.contains g.col.val = false ∧
     beatOk g.upper d crc = false ∧
     (s.main.dowel g).tries < 3) ∧
    (let s : State := { main := { ready with sram := [(3, { dowels := [(dowelKey 287 true false, { tries := 3 })] })] } }
     let g : DowelRef := ⟨3, 287, true, false⟩
     let d : BitVec 1024 := 0
     let crc : U16 := (crcUpper 0 + 1).setWidth 16
     (s.main.dowel g).sparing = false ∧
     (s.main.sramAt g.stack.val).retired.contains g.col.val = false ∧
     beatOk g.upper d crc = false ∧
     3 ≤ (s.main.dowel g).tries) ∧
    (let s : State := { main := { ready with sram := [(3, { dowels := [(dowelKey 287 true false, { sparing := true })] })] } }
     let g : DowelRef := ⟨3, 287, true, false⟩
     ((s.main.dowel g).sparing = true ∨ (s.main.sramAt g.stack.val).retired.contains g.col.val = true)) ∧
    (let s : State := { main := { ready with sram := [(3, { retired := [287] })] } }
     let g : DowelRef := ⟨3, 287, true, false⟩
     let below : List (Fin 538) := [0]
     ((s.main.dowel g).sparing = true ∨ (s.main.sramAt g.stack.val).retired.contains g.col.val = true) ∧
     (below = [] ∨ (s.main.sramAt g.stack.val).retired.contains g.col.val = true)) ∧
    (let s : State := { main := ready }
     let g : DowelRef := ⟨3, 287, true, false⟩
     let below : List (Fin 538) := [537]
     below ≠ [] ∧
     (s.main.sramAt g.stack.val).retired.contains g.col.val = false) ∧
    (let s : State := { main := ready }
     let g : DowelRef := ⟨3, 287, true, false⟩
     let below : List (Fin 538) := []
     (below = [] ∨ (s.main.sramAt g.stack.val).retired.contains g.col.val = true)) ∧
    (let s : State := { main := { ready with sram := [(3, { dowels := [(dowelKey 287 true false, { sparing := true })] })] } }
     let g : DowelRef := ⟨3, 287, true, false⟩
     let failed : List (Fin 538) := (List.range 524).map (fun i => Fin.ofNat 538 i)
     let f := failed.map (·.val)
     let x := s.main.dowel g
     let free := x.free g.upper f
     (s.main.dowel g).sparing = true ∧
     (x.needs g.upper f).length > free.length) ∧
    (let s : State := { main := { ready with sram := [(3, { dowels := [(dowelKey 287 true false, { sparing := true })] })] } }
     let g : DowelRef := ⟨3, 287, true, false⟩
     let failed : List (Fin 538) := [0]
     let f := failed.map (·.val)
     let x := s.main.dowel g
     let free := x.free g.upper f
     (s.main.dowel g).sparing = true ∧
     (x.needs g.upper f).length ≤ free.length) ∧
    (let s : State := { main := ready }
     let g : DowelRef := ⟨3, 287, true, false⟩
     (s.main.dowel g).sparing = false) := by
  refine ⟨?_, ?_, ?_, ?_, ?_, ?_, ?_, ?_, ?_, ?_, ?_⟩ <;> decide +kernel

theorem test_wit_RegionAndRegulatorCommandsComplete :
    (let s : State := { main := ready }
     let h : Hdr := {}
     let p : Payload := pay [(0, 7), (1, 1), (8, 0x200000), (16, 0x20000000)]
     let x := s.main.taken h.src
     let n := bvAt p 0 1
     let k := bvAt p 1 1
     let off := bvAt p 8 8
     let size := bvAt p 16 8
     s.main.serves 0x0302 h p [(0, 2), (8, 16)] = true ∧
     (n < x.variant.stacks ∧ 1 ≤ k ∧ k ≤ 5) ∧
     x.owns h.src (x.variant.stackPart n) = true ∧
     x.jobs = [] ∧
     (size ≠ 0 ∧ off % 0x200000 = 0 ∧ size % 0x200000 = 0) ∧
     off + size ≤ x.visible n ∧
     (∀ r ∈ (x.hbmAt n).region.del k, overlap off size r.2.1 r.2.2 = false) ∧
     (List.range 4).all (fun d => (x.dieAt d).shavings.isNone) = true ∧
     (k = 1 → ((x.hbm.del n).map (fun e => ((e.2.region.find 1).map (·.2)).getD 0)).sum + size ≤ 0x20000000)) ∧
    (let s : State := { main := ready }
     let h : Hdr := {}
     let p : Payload := pay [(0, 7), (1, 5)]
     let x := s.main.taken h.src
     s.main.serves 0x0303 h p [(0, 2)] (reads := true) (owned := s.main.owns h.src (s.main.variant.stackPart (bvAt p 0 1))) = true ∧
     (bvAt p 0 1 < x.variant.stacks ∧ 1 ≤ bvAt p 1 1 ∧ bvAt p 1 1 ≤ 5)) ∧
    (let s : State := { main := ready }
     let v : U64 := 4
     let m1 : Main := if v.getLsbD 2 then { s.main with rctl := { s.main.rctl with rej := false } } else s.main
     m1.regBad = none ∧
     v.getLsbD 3 = false) ∧
    (let s : State := { main := { ready with hbm := [(7, { reg := [(0, { staged := { guar := 65, en := true } })] })] } }
     let v : U64 := 4
     let m1 : Main := if v.getLsbD 2 then { s.main with rctl := { s.main.rctl with rej := false } } else s.main
     let n := 7
     m1.regBad = some n ∧
     v.getLsbD 3 = false) ∧
    (let v : U64 := 2
     v.getLsbD 0 = false ∧
     v.getLsbD 2 = false) ∧
    (let s : State := { main := ready }
     let h : Hdr := {}
     let p : Payload := pay [(0, 7), (8, 0x80014040)]
     let x := s.main.taken h.src
     let cfg := fun (i : Nat) => RegCfg.of (BitVec.ofNat 32 (bvAt p (8 + 4 * i) 4))
     s.main.serves 0x0310 h p [(0, 1), (8, 16)] (high := regRsv p) = true ∧
     bvAt p 0 1 < x.variant.stacks ∧
     (Src.operator h.src = true ∧ x.owns h.src (x.variant.stackPart (bvAt p 0 1)) = true) ∧
     x.regOk cfg = true) := by
  refine ⟨?_, ?_, ?_, ?_, ?_, ?_⟩ <;> decide +kernel

theorem test_wit_MemoryTemperatureEventsComplete :
    (let s : State := { main := ready }
     let n : Fin 10 := 7
     n.val < s.main.variant.stacks) ∧
    (let s : State := { main := { ready with hbm := [(7, { stages := 4 })] } }
     let n : Fin 10 := 7
     (s.main.hbmAt n.val).stages.getLsbD 2 = true) ∧
    (let s : State := { main := ready }
     let d : Fin 4 := 3
     s.main.homeStage d.val 2 = false) := by
  refine ⟨?_, ?_, ?_⟩ <;> decide +kernel

theorem test_wit_WeightLayerCommandsComplete :
    (let s : State := { main := blocks { dies := 1 } }
     let h : Hdr := {}
     let p : Payload := pay [(0, 1), (4, 4095), (8, 0x1000), (16, 1), (18, 1), (20, 0x3f800000)]
     let j : Job := { dies := 1 }
     let x := s.main.taken h.src
     let jid := bvAt p 0 4
     let l := bvAt p 4 2
     let n := bvAt p 6 1
     let y : Layer := { stack := n, a := bvAt p 8 8, kb := bvAt p 16 2, nb := bvAt p 18 2, tw := p.extractLsb' 160 32, axisK := p.getLsbD 56, rowMask := p.getLsbD 57, blockMask := p.getLsbD 58, mask := p.extractLsb' 192 56 }
     s.main.serves 0x0340 h p [(0, 32)] (owned := s.main.ownsJob h.src (bvAt p 0 4)) (high := (bvAt p 7 1 < 8)) = true ∧
     x.job? (bvAt p 0 4) = some j ∧
     (l ≤ 4095 ∧ n < x.variant.stacks) ∧
     x.owns h.src (x.variant.stackPart n) = true ∧
     x.jobRuns j = false ∧
     (1 ≤ y.kb ∧ 1 ≤ y.nb ∧ y.kb ≤ 4096 ∧ y.nb ≤ 4096 ∧ y.kb * y.nb * 4096 ≤ 2 ^ 32) ∧
     ((j.layers.find l).isNone = true → j.layers.length < 4096) ∧
     twOk y.tw.toNat = true ∧
     (y.a % 4096 = 0 ∧ (y.blockBytes + y.rowBytes = 0 ∨ (bvAt p 24 8 % 64 = 0 ∧ bvAt p 24 8 < 2 ^ 41 ∧ x.mapped (x.stackPartOf n) (bvAt p 24 8) (y.blockBytes + y.rowBytes) = true ∧ x.inRegion (bvAt p 24 8) (y.blockBytes + y.rowBytes) = false))) ∧
     y.a + 2 * y.size ≤ (if j.single then (((x.hbmAt n).region.find 4).getD (0, 0)).2 else (((x.hbmAt n).region.find 4).getD (0, 0)).2 / 2) ∧
     (∀ e ∈ x.jobs, ∀ z ∈ e.2.layers, ¬ (e.1 = jid ∧ z.1 = l) → x.recordsMeet j.single y e.2.single z.2 = false)) ∧
    (let s : State := { main := blocks { dies := 1 } }
     let h : Hdr := {}
     let p : Payload := pay [(0, 1), (4, 4095), (6, 255)]
     let j : Job := { dies := 1 }
     let x := s.main.taken h.src
     s.main.serves 0x0340 h p [(0, 32)] (owned := s.main.ownsJob h.src (bvAt p 0 4)) (high := (bvAt p 7 1 < 8)) = true ∧
     x.job? (bvAt p 0 4) = some j ∧
     bvAt p 4 2 ≤ 4095 ∧
     (bvAt p 6 1 < x.variant.stacks → x.owns h.src (x.variant.stackPart (bvAt p 6 1)) = true) ∧
     x.jobRuns j = false ∧
     (bvAt p 16 2 = 0 ∧ bvAt p 18 2 = 0)) ∧
    (let s : State := { main := blocks { dies := 1 } }
     let h : Hdr := {}
     let p : Payload := pay [(0, 1), (4, 1)]
     let j : Job := { dies := 1 }
     let x := s.main.taken h.src
     s.main.serves 0x0341 h p [(0, 5)] (owned := s.main.ownsJob h.src (bvAt p 0 4)) = true ∧
     x.job? (bvAt p 0 4) = some j ∧
     bvAt p 4 1 ≤ 1 ∧
     x.jobRuns j = false ∧
     j.layers = []) ∧
    (let s : State := { main := blocks { dies := 1, layers := [(4095, { kb := 1, nb := 1 })] } }
     let h : Hdr := {}
     let p : Payload := pay [(0, 1), (4, 4095)]
     let j : Job := { dies := 1, layers := [(4095, { kb := 1, nb := 1 })] }
     let y : Layer := { kb := 1, nb := 1 }
     let x := s.main.taken h.src
     s.main.serves 0x0342 h p [(0, 6)] (reads := true) (owned := s.main.ownsJob h.src (bvAt p 0 4)) = true ∧
     x.job? (bvAt p 0 4) = some j ∧
     j.layers.find (bvAt p 4 2) = some y) := by
  refine ⟨?_, ?_, ?_, ?_⟩ <;> decide +kernel

theorem test_wit_StatePlacementCommandsComplete :
    (let s : State := { main := { hosted (({} : Mem).write 0x40 (fld 512 [(4, 1), (28, 0x3f800000)])) with jobs := [(1, { dies := 1 })] } }
     let h : Hdr := {}
     let p : Payload := pay [(0, 1), (4, 63), (8, hostBase + 0x40)]
     let j : Job := { dies := 1 }
     let r : List Byte := fld 512 [(4, 1), (28, 0x3f800000)]
     let x := s.main.taken h.src
     let part := x.diePartOf ((diesOf j.dies).headD 0)
     s.main.serves 0x0350 h p [(0, 5), (8, 8)] (owned := s.main.ownsJob h.src (bvAt p 0 4)) = true ∧
     x.job? (bvAt p 0 4) = some j ∧
     j.stepOpen = false ∧
     bvAt p 4 1 ≤ 63 ∧
     bvAt p 8 8 % 64 = 0 ∧
     x.rngFor part (bvAt p 8 8) = .host 0x40 ∧
     x.mapped part (bvAt p 8 8) 512 = true ∧
     (x.daGet part (bvAt p 8 8) 512).2 = some r ∧
     profOk r = true ∧
     (natAt r 2 1 = 3 → j.disc = .stepEnd)) ∧
    (let s : State := { main := blocks { dies := 1, guard := 0 } }
     let h : Hdr := {}
     let p : Payload := pay [(0, 1), (4, 0), (8, 0xFFFFFFFF)]
     let j : Job := { dies := 1, guard := 0 }
     let x := s.main.taken h.src
     s.main.serves 0x0351 h p [(0, 5), (8, 4)] (owned := s.main.ownsJob h.src (bvAt p 0 4)) = true ∧
     x.job? (bvAt p 0 4) = some j ∧
     j.stepOpen = false ∧
     bvAt p 4 1 ≤ 2 ∧
     (Discipline.of (bvAt p 4 1) = j.disc ∨ x.ownedBlocks (bvAt p 0 4) = 0) ∧
     (Discipline.of (bvAt p 4 1) = .eagerInPlace → j.guard = 0) ∧
     (Discipline.of (bvAt p 4 1) ≠ .stepEnd → ∀ r ∈ j.prof, natAt r.2 2 1 ≠ 3)) ∧
    (let s : State := { main := { blocks ({ dies := 1, layers := [(0, { kb := 1, nb := 1 })], prof := [(63, fld 512 [(4, 1), (28, 0x3f800000)])] }) with assigned := [] } }
     let h : Hdr := {}
     let p : Payload := pay [(0, 1), (7, 0xFC), (12, 1)]
     let j : Job := { dies := 1, layers := [(0, { kb := 1, nb := 1 })], prof := [(63, fld 512 [(4, 1), (28, 0x3f800000)])] }
     let y : Layer := { kb := 1, nb := 1 }
     let x := s.main.taken h.src
     let jid := bvAt p 0 4
     let l := bvAt p 4 2
     let n := bvAt p 6 1
     let place := bvAt p 7 1 % 4
     let prof := bvAt p 7 1 / 4
     let p0 := bvAt p 8 4
     let c := bvAt p 12 4
     let i := bvAt p 16 4
     let rank := bvAt p 20 2
     let stoff := bvAt p 24 4
     let r := j.disc.rec_
     s.main.serves 0x0352 h p [(0, 22), (24, 4)] (owned := s.main.ownsJob h.src (bvAt p 0 4)) = true ∧
     x.job? (bvAt p 0 4) = some j ∧
     j.stepOpen = false ∧
     (x.ownsStack h n = true ∧ x.entriesIn n i c = true ∧ place < 3) ∧
     j.layers.find l = some y ∧
     p0 + c ≤ y.panels ∧
     rank < j.ranks ∧
     j.prof.find prof ≠ none ∧
     (∀ q ∈ x.runsOf jid, q.layer = l → Prt.prof (bvOf 256 (x.mem.hbm.read (x.prtDa q.stack q.entry) 32)) = prof) ∧
     (∀ k < c, x.entryJob n (i + k) = none ∧ x.entryOf jid l (p0 + k) = none) ∧
     (x.stridesIn r n (i + c) place = true ∧ runCount x.assigned < 65536) ∧
     x.slowFree r place n i c stoff = true) ∧
    (let s : State := { main := blocks { dies := 1, layers := [(0, { kb := 1, nb := 1 })], prof := [(63, fld 512 [(4, 1), (28, 0x3f800000)])] } }
     let h : Hdr := {}
     let p : Payload := pay [(0, 1), (7, 3), (12, 1)]
     let j : Job := { dies := 1, layers := [(0, { kb := 1, nb := 1 })], prof := [(63, fld 512 [(4, 1), (28, 0x3f800000)])] }
     let x := s.main.taken h.src
     let n := bvAt p 6 1
     let c := bvAt p 12 4
     let i := bvAt p 16 4
     let t := x.assigned.upd (bvAt p 0 4) (fun a => { a with runs := (a.runs.map (cutPanels n i c)).flatten })
     s.main.serves 0x0352 h p [(0, 22), (24, 4)] (owned := s.main.ownsJob h.src (bvAt p 0 4)) = true ∧
     x.job? (bvAt p 0 4) = some j ∧
     j.stepOpen = false ∧
     (x.ownsStack h n = true ∧ x.entriesIn n i c = true ∧ bvAt p 7 1 % 4 = 3) ∧
     x.assignedAll (bvAt p 0 4) n i c = true ∧
     runCount t ≤ 65536) ∧
    (let s : State := { main := blocks { dies := 1, layers := [(0, { kb := 1, nb := 1 })], prof := [(63, fld 512 [(4, 1), (28, 0x3f800000)])] } }
     let h : Hdr := {}
     let p : Payload := pay [(0, 1), (12, 1)]
     let j : Job := { dies := 1, layers := [(0, { kb := 1, nb := 1 })], prof := [(63, fld 512 [(4, 1), (28, 0x3f800000)])] }
     let x := s.main.taken h.src
     let n := bvAt p 4 1
     let i := bvAt p 8 4
     let c := bvAt p 12 4
     s.main.serves 0x0353 h p [(0, 6), (8, 12)] (owned := s.main.ownsJob h.src (bvAt p 0 4)) = true ∧
     x.job? (bvAt p 0 4) = some j ∧
     j.stepOpen = false ∧
     (x.ownsStack h n = true ∧ x.entriesIn n i c = true ∧ x.assignedAll (bvAt p 0 4) n i c = true) ∧
     bvAt p 5 1 ≤ 2 ∧
     x.stridesIn j.disc.rec_ n (i + c) (bvAt p 5 1) = true ∧
     x.slowFree j.disc.rec_ (bvAt p 5 1) n i c (bvAt p 16 4) = true ∧
     (x.slotsAll (bvAt p 0 4) j.disc.rec_ n ((List.range c).map (i + ·))).2.isSome = true) ∧
    (let s : State := { main := { blocks ({ dies := 1, layers := [(0, { kb := 1, nb := 1 })], prof := [(63, fld 512 [(4, 1), (28, 0x3f800000)])] }) with cxl := { a := { mode := .cxl31 }, host := [(0, 0, 0x100000000)] } } }
     let h : Hdr := {}
     let p : Payload := pay [(0, 1), (12, 1), (16, hostBase)]
     let j : Job := { dies := 1, layers := [(0, { kb := 1, nb := 1 })], prof := [(63, fld 512 [(4, 1), (28, 0x3f800000)])] }
     let x := s.main.taken h.src
     let n := bvAt p 4 1
     let i := bvAt p 8 4
     let c := bvAt p 12 4
     s.main.serves 0x0354 h p [(0, 5), (8, 16)] (owned := s.main.ownsJob h.src (bvAt p 0 4)) = true ∧
     x.job? (bvAt p 0 4) = some j ∧
     j.stepOpen = false ∧
     (x.ownsStack h n = true ∧ x.entriesIn n i c = true ∧ x.assignedAll (bvAt p 0 4) n i c = true) ∧
     x.layersKnown j n i c = true ∧
     (x.daGet (x.stackPartOf n) (bvAt p 16 8) (0x8000 * c)).2.isSome = true) ∧
    (let s : State := { main := blocks { dies := 1, layers := [(0, { kb := 1, nb := 1 })], prof := [(63, fld 512 [(4, 1), (28, 0x3f800000)])] } }
     let h : Hdr := {}
     let p : Payload := pay [(0, 1), (12, 1), (16, 0x10000000)]
     let j : Job := { dies := 1, layers := [(0, { kb := 1, nb := 1 })], prof := [(63, fld 512 [(4, 1), (28, 0x3f800000)])] }
     let x := s.main.taken h.src
     let n := bvAt p 4 1
     let i := bvAt p 8 4
     let c := bvAt p 12 4
     s.main.serves 0x0355 h p [(0, 5), (8, 16)] (owned := s.main.ownsJob h.src (bvAt p 0 4)) = true ∧
     x.job? (bvAt p 0 4) = some j ∧
     j.stepOpen = false ∧
     (x.ownsStack h n = true ∧ x.entriesIn n i c = true ∧ x.assignedAll (bvAt p 0 4) n i c = true) ∧
     x.mapped (x.stackPartOf n) (bvAt p 16 8) (0x8000 * c) = true ∧
     (x.slotsAll (bvAt p 0 4) j.disc.rec_ n ((List.range c).map (i + ·))).2.isSome = true ∧
     ((x.slotsAll (bvAt p 0 4) j.disc.rec_ n ((List.range c).map (i + ·))).1.basePut (bvAt p 0 4) ((x.slotsAll (bvAt p 0 4) j.disc.rec_ n ((List.range c).map (i + ·))).1.stackPartOf n) (bvAt p 16 8) ((((x.slotsAll (bvAt p 0 4) j.disc.rec_ n ((List.range c).map (i + ·))).2.getD []).map (fun b => b.2.2.1 ++ b.2.2.2.take 0x2000 ++ (if natAt ((j.prof.find b.2.1.prof).getD []) 0 1 = 0 then b.2.2.2.drop 0x2000 else List.replicate 0x2000 0))).flatten)).2 = true) ∧
    (let s : State := { main := blocks { dies := 1, layers := [(0, { kb := 1, nb := 1 })], prof := [(63, fld 512 [(4, 1), (28, 0x3f800000)])] } }
     let h : Hdr := {}
     let p : Payload := pay [(0, 1), (12, 1)]
     let j : Job := { dies := 1, layers := [(0, { kb := 1, nb := 1 })], prof := [(63, fld 512 [(4, 1), (28, 0x3f800000)])] }
     let x := s.main.taken h.src
     let n := bvAt p 4 1
     let i := bvAt p 8 4
     let c := bvAt p 12 4
     s.main.serves 0x0356 h p [(0, 5), (8, 8)] (owned := s.main.ownsJob h.src (bvAt p 0 4)) = true ∧
     x.job? (bvAt p 0 4) = some j ∧
     (x.ownsStack h n = true ∧ x.entriesIn n i c = true ∧ x.assignedAll (bvAt p 0 4) n i c = true) ∧
     (x.auditAll (bvAt p 0 4) n j ((List.range c).map (i + ·))).2.2.2 = none) ∧
    (let s : State := { main := { blocks ({ dies := 1, layers := [(0, { kb := 1, nb := 1, st := .reading })] }) with mem := { hbm := (({} : Mem).write 0x200000 (toBytes 32 1)).write 0x800000 (toBytes 8 1) } } }
     let h : Hdr := {}
     let p : Payload := pay [(0, 1), (12, 1)]
     let j : Job := { dies := 1, layers := [(0, { kb := 1, nb := 1, st := .reading })] }
     let x := s.main.taken h.src
     let n := bvAt p 4 1
     let i := bvAt p 8 4
     let c := bvAt p 12 4
     s.main.serves 0x0356 h p [(0, 5), (8, 8)] (owned := s.main.ownsJob h.src (bvAt p 0 4)) = true ∧
     x.job? (bvAt p 0 4) = some j ∧
     (x.ownsStack h n = true ∧ x.entriesIn n i c = true ∧ x.assignedAll (bvAt p 0 4) n i c = true) ∧
     (x.auditAll (bvAt p 0 4) n j ((List.range c).map (i + ·))).2.2.2 = some (0, 0, 1)) ∧
    (let s : State := { main := { blocks ({ dies := 1, layers := [(0, { kb := 1, nb := 1 })], prof := [(63, fld 512 [(4, 1), (28, 0x3f800000)])] }) with cxl := { a := { mode := .cxl31 }, host := [(0, 0, 0x100000000)] } } }
     let h : Hdr := {}
     let p : Payload := pay [(0, 1), (12, 1), (16, hostBase)]
     let j : Job := { dies := 1, layers := [(0, { kb := 1, nb := 1 })], prof := [(63, fld 512 [(4, 1), (28, 0x3f800000)])] }
     let y : Layer := { kb := 1, nb := 1 }
     let x := s.main.taken h.src
     let l := bvAt p 4 2
     let p0 := bvAt p 8 4
     let c := bvAt p 12 4
     s.main.serves 0x0357 h p [(0, 6), (8, 16)] (owned := s.main.ownsJob h.src (bvAt p 0 4)) = true ∧
     x.job? (bvAt p 0 4) = some j ∧
     j.stepOpen = false ∧
     j.layers.find l = some y ∧
     x.ownsStack h y.stack = true ∧
     (p0 + c ≤ y.panels ∧ y.st = .landing) ∧
     (x.daGet (x.stackPartOf y.stack) (bvAt p 16 8) (4096 * c)).2.isSome = true) ∧
    (let s : State := { main := blocks { dies := 1, layers := [(0, { kb := 1, nb := 1 })], prof := [(63, fld 512 [(4, 1), (28, 0x3f800000)])] } }
     let h : Hdr := {}
     let p : Payload := pay [(0, 1), (4, 7)]
     let j : Job := { dies := 1, layers := [(0, { kb := 1, nb := 1 })], prof := [(63, fld 512 [(4, 1), (28, 0x3f800000)])] }
     let x := s.main.taken h.src
     s.main.serves 0x0358 h p [(0, 5)] (reads := true) (owned := s.main.ownsJob h.src (bvAt p 0 4)) = true ∧
     x.job? (bvAt p 0 4) = some j ∧
     bvAt p 4 1 < x.variant.stacks ∧
     x.ownsStack h (bvAt p 4 1) = true) := by
  refine ⟨?_, ?_, ?_, ?_, ?_, ?_, ?_, ?_, ?_, ?_, ?_⟩ <;> decide +kernel

theorem test_wit_BurnisherEventsComplete :
    (let s : State := { main := blocks { dies := 1, stepOpen := true, layers := [(0, { kb := 1, nb := 1, st := .updating })] } 0x400001 }
     let jj : U32 := 1
     let l : U16 := 0
     let panel : BitVec 20 := 0
     let gs : List U32 := [0]
     let j : Job := { dies := 1, stepOpen := true, layers := [(0, { kb := 1, nb := 1, st := .updating })] }
     let x : Layer := { kb := 1, nb := 1, st := .updating }
     let n : Nat := 0
     let i : Nat := 0
     let e : Prt := BitVec.ofNat 256 0x400001
     s.main.job? jj.toNat = some j ∧
     j.layers.find l.toNat = some x ∧
     j.stepOpen = true ∧
     x.st = .updating ∧
     panel.toNat < x.panels ∧
     gs ≠ [] ∧
     s.main.entryOf jj.toNat l.toNat panel.toNat = some (n, i) ∧
     (s.main.getPrt jj.toNat n i).2 = some e ∧
     e.loaded = true ∧
     (¬ (e.pend = true ∧ e.wstep = j.step.toNat))) ∧
    (let s : State := { main := { blocks ({ dies := 1, stepOpen := true, layers := [(0, { kb := 1, nb := 1, st := .updating })] }) 0x400021 with burn := [(0, { wait := [0] })] } }
     let n : Fin 10 := 0
     let ii : BitVec 24 := 0
     let jid : Nat := 1
     let j : Job := { dies := 1, stepOpen := true, layers := [(0, { kb := 1, nb := 1, st := .updating })] }
     let x : Layer := { kb := 1, nb := 1, st := .updating }
     let m1 : Main := (s.main.getPrt 1 0 0).1
     let m2 : Main := (m1.firstReady 0 0).1
     let m3 : Main := (m2.engRead 0 (m2.masterDa 0x8000 0 0 0x400021 false) 0x4000).1
     let m4 : Main := (m3.engRead 0 (m3.momentDa 0x8000 0 0 0x400021 false) 0x4000).1
     let e : Prt := BitVec.ofNat 256 0x400021
     let i := ii.toNat
     let r := j.disc.rec_
     s.main.entryJob n.val i = some jid ∧
     s.main.job? jid = some j ∧
     (s.main.getPrt jid n.val i).2 = some e ∧
     m1.blockReady jid n.val i e = true ∧
     j.layers.find e.layer = some x ∧
     j.versionFree e.layer = true ∧
     (m1.firstReady n.val i).2 = true ∧
     (m2.engRead n.val (m2.masterDa r n.val i e e.live) 0x4000).2.isSome = true ∧
     (m3.engRead n.val (m3.momentDa r n.val i e e.live) 0x4000).2.isSome = true ∧
     (m4.engRead n.val (m4.pendDa n.val i) 0x2000).2.isSome = true) ∧
    (let s : State := { main := { blocks ({ dies := 1, stepOpen := true, layers := [(0, { kb := 1, nb := 1, st := .updating })] }) with burn := [(0, { fetch := [(0, 0)], wait := [0] })], cxl := { b := { mode := .cxl31 }, live := [.burn 0 0] } } }
     let n : Fin 10 := 0
     let ii : BitVec 24 := 0
     let jid : Nat := 1
     let i := ii.toNat
     s.main.entryJob n.val i = some jid ∧
     (∃ f ∈ (s.main.burnAt n.val).fetch, f.1 = i) ∧
     i ∉ (s.main.burnAt n.val).stale ∧
     s.main.slowLive (.burn n.val i) = true ∧
     s.main.bServes (s.main.stackPartOf n.val) = true ∧
     s.main.fetchPoison jid n.val i = false) := by
  refine ⟨?_, ?_, ?_⟩ <;> decide +kernel

theorem test_wit_NumericsCommandsComplete :
    (let s : State := { main := { ready with jobs := [(1, { dies := 1 })] } }
     let h : Hdr := {}
     let p : Payload := pay [(0, 1), (4, 0x3F), (25, 64), (27, 32)]
     let j : Job := { dies := 1 }
     let x := s.main.taken h.src
     let da := bvAt p 8 8
     let sz := bvAt p 16 8
     let n := 2 * sz * (x.localRanks j).2
     s.main.serves 0x0230 h p [(0, 28)] (owned := s.main.ownsJob h.src (bvAt p 0 4)) (high := (bvAt p 4 4 < 64)) = true ∧
     x.job? (bvAt p 0 4) = some j ∧
     j.stepOpen = false ∧
     (p.extractLsb' 32 6 = (0 : BitVec 6) ∨ j.disc ≠ .eagerInPlace) ∧
     (bvAt p 25 1 ≤ 64 ∧ bvAt p 27 1 ≤ 32 ∧ sz % 0x200000 = 0) ∧
     (sz ≠ 0 → x.ownsRun h da n = true ∧ da % 0x200000 = 0 ∧ da + n ≤ 2 ^ 41 ∧ x.mapped (x.diePartOf ((diesOf j.dies).headD 0)) da n = true ∧ (x.setJob (bvAt p 0 4) { j with carry := none }).freeRun none da n = true ∧ ∀ l ∈ j.layers, l.2.carry + l.2.carryBytes ≤ sz)) ∧
    (let s : State := { main := { ready with jobs := [(1, { dies := 1 })] } }
     let h : Hdr := {}
     let p : Payload := pay [(0, 1), (4, 0x3F), (8, 0x200000), (16, 0x200000)]
     let j : Job := { dies := 1 }
     let x := s.main.taken h.src
     let da := bvAt p 8 8
     let sz := bvAt p 16 8
     let n := 2 * sz * (x.localRanks j).2
     s.main.serves 0x0230 h p [(0, 28)] (owned := s.main.ownsJob h.src (bvAt p 0 4)) (high := (bvAt p 4 4 < 64)) = true ∧
     x.job? (bvAt p 0 4) = some j ∧
     j.stepOpen = false ∧
     (p.extractLsb' 32 6 = (0 : BitVec 6) ∨ j.disc ≠ .eagerInPlace) ∧
     (bvAt p 25 1 ≤ 64 ∧ bvAt p 27 1 ≤ 32 ∧ sz % 0x200000 = 0) ∧
     (x.ownsRun h da n = true ∧ da % 0x200000 = 0 ∧ da + n ≤ 2 ^ 41 ∧ x.mapped (x.diePartOf ((diesOf j.dies).headD 0)) da n = true ∧ (x.setJob (bvAt p 0 4) { j with carry := none }).freeRun none da n = true ∧ j.layers = [])) ∧
    (let s : State := { main := { ready with jobs := [(1, { dies := 1, carry := some (0x200000, 0x200000), layers := [(4095, { kb := 1, nb := 1 })] })] } }
     let h : Hdr := {}
     let p : Payload := pay [(0, 1), (4, 4095), (6, 1), (7, 7), (8, 3), (9, 2), (10, 3), (11, 16), (12, 1), (16, 2092928)]
     let j : Job := { dies := 1, carry := some (0x200000, 0x200000), layers := [(4095, { kb := 1, nb := 1 })] }
     let y : Layer := { kb := 1, nb := 1 }
     let x := s.main.taken h.src
     s.main.serves 0x0231 h p [(0, 24)] (owned := s.main.ownsJob h.src (bvAt p 0 4)) (high := (bvAt p 10 1 < 4)) = true ∧
     x.job? (bvAt p 0 4) = some j ∧
     j.stepOpen = false ∧
     j.layers.find (bvAt p 4 2) = some y ∧
     (bvAt p 6 1 ≤ 1 ∧ bvAt p 7 1 ≤ 7 ∧ 1 ≤ bvAt p 8 1 ∧ bvAt p 8 1 ≤ 3 ∧ bvAt p 9 1 < bvAt p 8 1 ∧ bvAt p 11 1 ≤ 16) ∧
     (isNan32 (p.extractLsb' 96 32) = false ∧ flt 0 (p.extractLsb' 96 32) = true) ∧
     bvAt p 16 8 % 64 = 0 ∧
     (∀ a, j.carry = some a → bvAt p 16 8 + y.carryBytes ≤ a.2)) ∧
    (let s : State := { main := { ready with jobs := [(1, { dies := 1 })] } }
     let h : Hdr := {}
     let p : Payload := pay [(0, 1)]
     let j : Job := { dies := 1 }
     let x := s.main.taken h.src
     s.main.serves 0x0234 h p [(0, 4)] (reads := true) (owned := s.main.ownsJob h.src (bvAt p 0 4)) = true ∧
     x.job? (bvAt p 0 4) = some j) := by
  refine ⟨?_, ?_, ?_, ?_⟩ <;> decide +kernel

theorem test_wit_NumericsCommandsComplete_2 :
    let s : State := { main := { ready with jobs := [(1, { dies := 1 })] } }
    let h : Hdr := {}
    let p : Payload := pay [(0, 1), (8, 0x40)]
    let j : Job := { dies := 1 }
    let x := s.main.taken h.src
    s.main.serves 0x0232 h p [(0, 4), (8, 8)] (owned := s.main.ownsJob h.src (bvAt p 0 4)) = true ∧
    x.job? (bvAt p 0 4) = some j ∧
    j.stepOpen = false ∧
    bvAt p 8 8 % 64 = 0 ∧
    (x.daPut (x.diePartOf ((diesOf j.dies).headD 0)) (bvAt p 8 8) j.numImage).2 = true := by
  have hl : (({ dies := 1 } : Job).numImage).length = 4160 := by simp [Job.numImage, p4, toBytes]
  exact ⟨by decide +kernel, by decide +kernel, by decide +kernel, by decide +kernel, by unfold Main.daPut; rw [hl]; decide +kernel⟩

theorem test_wit_PortCommandsComplete :
    (let s : State := { main := ready }
     let h : Hdr := {}
     let p : Payload := pay [(0, 5)]
     let x := s.main.taken h.src
     s.main.serves 0x0801 h p [(0, 1)] (reads := true) = true ∧
     bvAt p 0 1 < x.variant.ports) ∧
    (let s : State := { main := ready }
     let h : Hdr := {}
     let p : Payload := pay [(0, 0x3F), (2, 1)]
     let x := s.main.taken h.src
     s.main.serves 0x0802 h p [(0, 3)] = true ∧
     bvAt p 2 1 ≤ 1 ∧
     (p.extractLsb' 0 16).toNat < 2 ^ x.variant.ports) ∧
    (let s : State := { main := ready }
     let h : Hdr := {}
     let p : Payload := pay [(0, 1), (1, 15), (2, 15)]
     s.main.serves 0x0803 h p [(0, 3)] = true ∧
     (∀ i < 3, 1 ≤ bvAt p i 1 ∧ bvAt p i 1 ≤ 15)) ∧
    (let s : State := { main := { ready with fab := { port := [(5, { st := .training })] } } }
     let q : Fin 9 := 5
     let r : BringUp := { lanes := 0x0E }
     let m0 := s.main.countLanes q.val (r.lanes &&& ~~~(s.main.portAt q.val).laneRet)
     let l := laneSet (r.lanes &&& ~~~(s.main.portAt q.val).laneRet)
     q.val < s.main.variant.ports ∧
     (s.main.portAt q.val).st = .training ∧
     (s.main.portAt q.val).retired = false ∧
     ((m0.portAt q.val).retired = true ∨ l = 0)) ∧
    (let s : State := { main := { ready with fab := { port := [(5, { st := .training })] } } }
     let q : Fin 9 := 5
     let r : BringUp := { lanes := 0x0F, part := 0xFF }
     let m0 := s.main.countLanes q.val (r.lanes &&& ~~~(s.main.portAt q.val).laneRet)
     let l := laneSet (r.lanes &&& ~~~(s.main.portAt q.val).laneRet)
     let m1 := m0.updPort q.val (fun k => { k with lanes := l })
     let m2 := if l = 0xFF then m1 else m1.log! { code := 0x5107, cls := .rec_, par := p1 q.val }
     q.val < s.main.variant.ports ∧
     (s.main.portAt q.val).st = .training ∧
     (s.main.portAt q.val).retired = false ∧
     (m0.portAt q.val).retired = false ∧
     l ≠ 0 ∧
     r.part.toNat ≠ m2.variant.code) ∧
    (let s : State := { main := { ready with fab := { port := [(5, { st := .training })] } } }
     let q : Fin 9 := 5
     let r : BringUp := { lanes := 0xF0, part := BitVec.ofNat 8 ready.variant.code, port := 9 }
     let m0 := s.main.countLanes q.val (r.lanes &&& ~~~(s.main.portAt q.val).laneRet)
     let l := laneSet (r.lanes &&& ~~~(s.main.portAt q.val).laneRet)
     let m1 := m0.updPort q.val (fun k => { k with lanes := l })
     let m2 := if l = 0xFF then m1 else m1.log! { code := 0x5107, cls := .rec_, par := p1 q.val }
     q.val < s.main.variant.ports ∧
     (s.main.portAt q.val).st = .training ∧
     (s.main.portAt q.val).retired = false ∧
     (m0.portAt q.val).retired = false ∧
     l ≠ 0 ∧
     r.part.toNat = m2.variant.code ∧
     m2.roleOk q.val r = false) ∧
    (let s : State := { main := { ready with fab := { port := [(5, { st := .training })] } } }
     let q : Fin 9 := 5
     let r : BringUp := { lanes := 0xFF, part := BitVec.ofNat 8 ready.variant.code, port := BitVec.ofNat 8 (ready.variant.peerPort 5), auth := false }
     let m0 := s.main.countLanes q.val (r.lanes &&& ~~~(s.main.portAt q.val).laneRet)
     let l := laneSet (r.lanes &&& ~~~(s.main.portAt q.val).laneRet)
     let m1 := m0.updPort q.val (fun k => { k with lanes := l })
     let m2 := if l = 0xFF then m1 else m1.log! { code := 0x5107, cls := .rec_, par := p1 q.val }
     q.val < s.main.variant.ports ∧
     (s.main.portAt q.val).st = .training ∧
     (s.main.portAt q.val).retired = false ∧
     (m0.portAt q.val).retired = false ∧
     l ≠ 0 ∧
     r.part.toNat = m2.variant.code ∧
     m2.roleOk q.val r = true ∧
     r.auth = false) ∧
    (let s : State := { main := { ready with fab := { port := [(5, { st := .training })] } } }
     let q : Fin 9 := 5
     let r : BringUp := { lanes := 0xFF, part := BitVec.ofNat 8 ready.variant.code, port := BitVec.ofNat 8 (ready.variant.peerPort 5) }
     let m0 := s.main.countLanes q.val (r.lanes &&& ~~~(s.main.portAt q.val).laneRet)
     let l := laneSet (r.lanes &&& ~~~(s.main.portAt q.val).laneRet)
     let m1 := m0.updPort q.val (fun k => { k with lanes := l })
     let m2 := if l = 0xFF then m1 else m1.log! { code := 0x5107, cls := .rec_, par := p1 q.val }
     q.val < s.main.variant.ports ∧
     (s.main.portAt q.val).st = .training ∧
     (s.main.portAt q.val).retired = false ∧
     (m0.portAt q.val).retired = false ∧
     l ≠ 0 ∧
     r.part.toNat = m2.variant.code ∧
     m2.roleOk q.val r = true ∧
     r.auth = true) ∧
    (let s : State := { main := { ready with fab := { port := [(5, { st := .training })] } } }
     let q : Fin 9 := 5
     let b : Fin 6 := 4
     (s.main.portAt q.val).st = .training ∧
     b.val < 5) := by
  refine ⟨?_, ?_, ?_, ?_, ?_, ?_, ?_, ?_, ?_⟩ <;> decide +kernel

theorem test_wit_LinkEventsComplete :
    (let s : State := { main := { ready with fab := { port := [(8, { st := .up })] } } }
     let q : Fin 9 := 8
     let f : BitVec 2048 := 1
     (s.main.portAt q.val).runs = true ∧
     crc32c (bvBytes f 252) ≠ f.extractLsb' 2016 32) ∧
    (let s : State := { main := { ready with fab := { port := [(8, { st := .up })] } } }
     let q : Fin 9 := 8
     let f : BitVec 2048 := BitVec.ofNat 2048 1 ||| ((crc32c (bvBytes (BitVec.ofNat 2048 1) 252)).setWidth 2048 <<< 2016)
     (s.main.portAt q.val).runs = true ∧
     crc32c (bvBytes f 252) = f.extractLsb' 2016 32 ∧
     f.extractLsb' 0 12 = (s.main.portAt q.val).rxSeq + 1 ∧
     f.getLsbD 47 = false) ∧
    (let s : State := { main := { ready with fab := { port := [(8, { st := .up, replay := [1] })] } } }
     let q : Fin 9 := 8
     (s.main.portAt q.val).runs = true ∧
     (s.main.portAt q.val).replay ≠ []) ∧
    (let s : State := { main := { ready with fab := { port := [(8, { st := .up })] } } }
     let q : Fin 9 := 8
     (s.main.portAt q.val).active = true) ∧
    (let s : State := { main := { ready with fab := { port := [(8, { st := .held })] } } }
     let q : Fin 9 := 8
     (s.main.portAt q.val).active = true) ∧
    (let m : Main := { ready with fab := { port := [(7, { st := .up }), (8, { st := .standby })] } }
     let q : Nat := 7
     let m1 := m.log! { code := 0x5102, cls := .rec_, par := p1 q ++ p1 0 }
     let b := 8
     (m.portAt q).st ≠ .down ∧
     (m1.portAt q).active = true ∧
     m1.standbyOf q = some b) ∧
    (let m : Main := { ready with fab := { port := [(8, { st := .up })] } }
     let q : Nat := 8
     let m1 := m.log! { code := 0x5102, cls := .rec_, par := p1 q ++ p1 0 }
     (m.portAt q).st ≠ .down ∧
     (m1.portAt q).active = true ∧
     m1.standbyOf q = none) ∧
    (let s : State := { main := { ready with fab := { peer := [(0xFFFF, 0, 63, 0, 1)] }, tile := [(0, { slots := [(63, {})] })] } }
     let tag : U16 := 0xFFFF
     let id : BitVec 11 := 0
     let slot : BitVec 6 := 63
     let first : Nat := 0
     let k : Nat := 1
     let r : Req := {}
     s.main.fab.peer.find? (fun e => e.1 = tag) = some (tag, id, slot, first, k) ∧
     (s.main.tileAt id.toNat).slots.find slot.toNat = some r) ∧
    (let s : State := { main := { ready with fab := { port := [(8, { st := .up })] } } }
     let q : Fin 9 := 8
     let hb : BitVec 256 := 2 ^ 37
     let body : List Byte := []
     let tag : BitVec 128 := 0
     let k := s.main.portAt q.val
     (s.main.portAt q.val).runs = true ∧
     ((k.genOf (Hd.of hb).phase).map (linkKey k.key false)).filter (fun key => Config.gcmTag (key.take 32) (linkNonce key k.rxPackets) (bvBytes hb 32) body = tag) = none) ∧
    (let s : State := { main := { ready with fab := { port := [(8, { st := .standby })] } } }
     let q : Fin 9 := 8
     (s.main.portAt q.val).runs = true) := by
  refine ⟨?_, ?_, ?_, ?_, ?_, ?_, ?_, ?_, ?_, ?_⟩ <;> decide +kernel

theorem test_wit_CollectiveCommandsComplete :
    (let s : State := { main := { ready with jobs := [(1, { gather := [4095] })] } }
     let jj : U32 := 1
     let j : Job := { gather := [4095] }
     let l := 4095
     let r := ([] : List Nat)
     s.main.job? jj.toNat = some j ∧
     j.colls.length < 8 ∧
     j.gather = l :: r) ∧
    (let s : State := { main := { ready with jobs := [(1, { redo := [(CollKind.scale, 4095)] })] } }
     let jj : U32 := 1
     let j : Job := { redo := [(CollKind.scale, 4095)] }
     let k := CollKind.scale
     let t := 4095
     let r := ([] : List (CollKind × U32))
     s.main.job? jj.toNat = some j ∧
     j.colls.length < 8 ∧
     j.gather = [] ∧
     j.redo = (k, t) :: r) ∧
    (let s : State := { main := { ready with jobs := [(1, { stepOpen := true, due := true, next := 2 })] } }
     let jj : U32 := 1
     let j : Job := { stepOpen := true, due := true, next := 2 }
     let l := 0
     let r := ([] : List (CollKind × Nat))
     s.main.job? jj.toNat = some j ∧
     j.colls.length < 8 ∧
     j.gather = [] ∧
     j.redo = [] ∧
     j.order.drop j.next = (.verdict, l) :: r ∧
     j.stepOpen = true ∧
     j.due = true ∧
     j.voted = false) ∧
    (let s : State := { main := { ready with jobs := [(1, { stepOpen := true, trained := true })] } }
     let jj : U32 := 1
     let j : Job := { stepOpen := true, trained := true }
     let k := CollKind.scale
     let l := 0
     let r := [(CollKind.calipers, 0), (CollKind.verdict, 0)]
     s.main.job? jj.toNat = some j ∧
     j.colls.length < 8 ∧
     j.gather = [] ∧
     j.redo = [] ∧
     j.order.drop j.next = (k, l) :: r ∧
     j.stepOpen = true ∧
     k ≠ .verdict ∧
     s.main.mayIssue j k l = true) ∧
    (let s : State := { main := { ready with jobs := [(1, { colls := [{ seq := 5, epoch := 2 }] })] } }
     let d : CollData := { job := 1, seq := 5, epoch := 2 }
     let j : Job := { colls := [{ seq := 5, epoch := 2 }] }
     s.main.job? d.job.toNat = some j ∧
     d.tagOk = true ∧
     (s.main.coll? d.job.toNat d.seq d.epoch).isSome = true) ∧
    (let s : State := { main := { ready with jobs := [(1, {})], fab := { epoch := 2, seq := 5 } } }
     let d : CollData := { job := 1, seq := 5, epoch := 1 }
     let j : Job := {}
     s.main.job? d.job.toNat = some j ∧
     d.tagOk = true ∧
     s.main.coll? d.job.toNat d.seq d.epoch = none ∧
     d.epoch < s.main.fab.epoch) ∧
    (let s : State := { main := { ready with jobs := [(1, { issued := [(4, 6)] })], fab := { epoch := 2, seq := 5 } } }
     let d : CollData := { job := 1, seq := 4, epoch := 2, step := 7 }
     let j : Job := { issued := [(4, 6)] }
     s.main.job? d.job.toNat = some j ∧
     d.tagOk = true ∧
     s.main.coll? d.job.toNat d.seq d.epoch = none ∧
     (¬ d.epoch < s.main.fab.epoch) ∧
     d.epoch = s.main.fab.epoch ∧
     d.seq < s.main.fab.seq ∧
     (j.issued.find d.seq.toNat = some 6 ∧ (6 : U32) ≠ d.step)) ∧
    (let s : State := { main := { ready with jobs := [(1, { hold := some (0, 0x4000000) })], fab := { epoch := 2, seq := 5 } } }
     let d : CollData := { job := 1, seq := 5, epoch := 2 }
     let j : Job := { hold := some (0, 0x4000000) }
     s.main.job? d.job.toNat = some j ∧
     d.tagOk = true ∧
     s.main.coll? d.job.toNat d.seq d.epoch = none ∧
     (¬ d.epoch < s.main.fab.epoch) ∧
     (¬ (d.epoch = s.main.fab.epoch ∧ d.seq < s.main.fab.seq)) ∧
     (j.held.map collSize).sum + collSize d ≤ (j.hold.map (·.2)).getD 0) ∧
    (let s : State := { main := { ready with jobs := [(1, {})], fab := { epoch := 2, seq := 5 } } }
     let d : CollData := { job := 1, seq := 5, epoch := 2 }
     let j : Job := {}
     s.main.job? d.job.toNat = some j ∧
     d.tagOk = true ∧
     s.main.coll? d.job.toNat d.seq d.epoch = none ∧
     (¬ d.epoch < s.main.fab.epoch) ∧
     (¬ (d.epoch = s.main.fab.epoch ∧ d.seq < s.main.fab.seq)) ∧
     (¬ (j.held.map collSize).sum + collSize d ≤ (j.hold.map (·.2)).getD 0)) ∧
    (let s : State := { main := { ready with jobs := [(1, { layers := [(0, { kb := 1, nb := 1, st := .landing })] })] } }
     let jj : U32 := 1
     let l : U16 := 0
     let panel : BitVec 20 := 0
     let d : List Byte := List.replicate 4096 0
     let j : Job := { layers := [(0, { kb := 1, nb := 1, st := .landing })] }
     let x : Layer := { kb := 1, nb := 1, st := .landing }
     s.main.job? jj.toNat = some j ∧
     j.layers.find l.toNat = some x ∧
     x.st = .landing ∧
     panel.toNat < x.panels ∧
     s.main.entryOf jj.toNat l.toNat panel.toNat = none ∧
     d.length = 4096) ∧
    (let s : State := { main := { ready with jobs := [(1, { dies := 1 })], mem := holds 0x40 (fld 8 [(0, 32767), (2, 1)]) } }
     let h : Hdr := {}
     let p : Payload := pay [(0, 1), (4, 1), (6, 1), (8, 0x40)]
     let j : Job := { dies := 1 }
     let b : List Byte := fld 4 [(0, 32767), (2, 1)]
     let x := s.main.taken h.src
     let es := (List.range (bvAt p 6 2)).map (fun i => (natAt b (4 * i) 2, natAt b (4 * i + 2) 2))
     s.main.serves 0x0811 h p [(0, 16)] (owned := s.main.ownsJob h.src (bvAt p 0 4)) = true ∧
     x.job? (bvAt p 0 4) = some j ∧
     j.stepOpen = false ∧
     (1 ≤ bvAt p 4 2 ∧ bvAt p 4 2 ≤ 32768 ∧ bvAt p 4 2 = j.ranks ∧ bvAt p 6 2 ≠ 0) ∧
     x.mapped (x.jobPart j) (bvAt p 8 8) (4 * bvAt p 6 2) = true ∧
     (x.daGet (x.jobPart j) (bvAt p 8 8) (4 * bvAt p 6 2)).2.isSome = true ∧
     (es.map (·.2)).sum = bvAt p 4 2 ∧
     (∀ e ∈ es, e.2 ≠ 0 ∧ e.1 < 2 ^ 15)) ∧
    (let s : State := { main := { ready with jobs := [(1, { dies := 1 })], mem := holds 0x40 (fld 64 [(3, 1)]) } }
     let h : Hdr := {}
     let p : Payload := pay [(0, 1), (4, 1), (8, 0x40), (16, 0x200000), (24, 0x4000000)]
     let j : Job := { dies := 1 }
     let b : List Byte := fld 64 [(3, 1)]
     let x := s.main.taken h.src
     let rs := (List.range (bvAt p 4 2)).map (fun i => bytesAt b (64 * i) 64)
     s.main.serves 0x0812 h p [(0, 6), (8, 24)] (owned := s.main.ownsJob h.src (bvAt p 0 4)) = true ∧
     x.job? (bvAt p 0 4) = some j ∧
     j.stepOpen = false ∧
     (bvAt p 16 8 % 0x200000 = 0 ∧ 2 ^ 26 ≤ bvAt p 24 8 ∧ bvAt p 24 8 ≤ 2 ^ 30 ∧ bvAt p 16 8 + bvAt p 24 8 ≤ 2 ^ 41) ∧
     x.mapped (x.jobPart j) (bvAt p 16 8) (bvAt p 24 8) = true ∧
     (x.setJob (bvAt p 0 4) { j with hold := none }).freeRun none (bvAt p 16 8) (bvAt p 24 8) = true ∧
     x.ownsRun h (bvAt p 16 8) (bvAt p 24 8) = true ∧
     x.mapped (x.jobPart j) (bvAt p 8 8) (64 * bvAt p 4 2) = true ∧
     (x.daGet (x.jobPart j) (bvAt p 8 8) (64 * bvAt p 4 2)).2 = some b ∧
     rs.all (planOk j) = true) := by
  refine ⟨?_, ?_, ?_, ?_, ?_, ?_, ?_, ?_, ?_, ?_, ?_, ?_⟩ <;> decide +kernel

theorem test_wit_CollectiveCommandsComplete_more1 :
    (let s : State := { main := ready }
     let h : Hdr := {}
     let p : Payload := 0
     s.main.serves 0x0813 h p [] (reads := true) = true) ∧
    (let s : State := { main := { ready with jobs := [(1, { dies := 1, stepOpen := true, step := 7, aborted := [(7, 3)] })] } }
     let h : Hdr := {}
     let p : Payload := pay [(0, 1), (4, 3), (8, 7)]
     let j : Job := { dies := 1, stepOpen := true, step := 7, aborted := [(7, 3)] }
     let x := s.main.taken h.src
     s.main.serves 0x0814 h p [(0, 5), (8, 4)] (owned := s.main.ownsJob h.src (bvAt p 0 4)) = true ∧
     x.job? (bvAt p 0 4) = some j ∧
     (3 ≤ bvAt p 4 1 ∧ bvAt p 4 1 ≤ 5) ∧
     (j.aborted = [(7, bvAt p 4 1)] ∧ j.stepOpen = true ∧ p.extractLsb' 64 32 = j.step)) ∧
    (let s : State := { main := { ready with jobs := [(1, { dies := 1, decided := some (7, true) })] } }
     let h : Hdr := {}
     let p : Payload := pay [(0, 1), (4, 5), (8, 7)]
     let j : Job := { dies := 1, decided := some (7, true) }
     let x := s.main.taken h.src
     s.main.serves 0x0814 h p [(0, 5), (8, 4)] (owned := s.main.ownsJob h.src (bvAt p 0 4)) = true ∧
     x.job? (bvAt p 0 4) = some j ∧
     (3 ≤ bvAt p 4 1 ∧ bvAt p 4 1 ≤ 5) ∧
     (bvAt p 4 1 = 5 ∧ j.decided = some (7, true) ∧ (7 : U32) = p.extractLsb' 64 32)) ∧
    (let s : State := { main := ready }
     let h : Hdr := {}
     let p : Payload := pay [(0, 15), (1, 31), (8, 0x1F000000000)]
     s.main.serves 0x0820 h p [(0, 2), (8, 8)] (owned := !s.main.partOn || (s.main.owns h.src (bvAt p 1 1 / 8 % 4) && (!((s.main.fab.inmap.get (bvAt p 0 1)).valid) || s.main.owns h.src (s.main.fab.inmap.get (bvAt p 0 1)).part.toNat))) = true ∧
     (bvAt p 0 1 ≤ 15 ∧ bvAt p 1 1 ≤ 31) ∧
     (bvAt p 8 8 = pinBase ∨ (bvAt p 8 8 % 2 ^ 36 = 0 ∧ bvAt p 8 8 < 2 ^ 41))) := by
  refine ⟨?_, ?_, ?_, ?_⟩ <;> decide +kernel

theorem test_wit_CxlAndSlowTierComplete :
    (let mode : LinkMode := .cxl31
     mode ≠ .down) ∧
    (let s : State := { main := { ready with cxl := { b := { mode := .pcie4 } } } }
     let b : Bool := true
     (if b then s.main.cxl.b.mode else s.main.cxl.a.mode) ≠ .down) ∧
    (let s : State := { main := { ready with cxl := { a := { mode := .cxl31 } } } }
     s.main.cxl.a.cxl = true) ∧
    (let s : State := { main := { ready with tile := [(0, { slots := [(63, { target := .slow, lines := 32, served := [0] })] })] } }
     let t : TileRef := ⟨0, 0⟩
     let slot : Fin 64 := 63
     let r : Req := { target := .slow, lines := 32, served := [0] }
     (s.main.tileAt t.id).slots.find slot.val = some r ∧
     r.onSlow = true ∧
     s.main.slowLive (.tile t.id slot.val) = true) ∧
    (let s : State := { main := { ready with tile := [(0, { slots := [(63, {})] })] } }
     let t : TileRef := ⟨0, 0⟩
     let slot : Fin 64 := 63
     let r : Req := {}
     (s.main.tileAt t.id).slots.find slot.val = some r ∧
     (r.onSlow = false ∨ s.main.slowLive (.tile t.id slot.val) = false)) ∧
    (let s : State := { main := { ready with mem := holds 0x40 (fld 16 [(0, 16384), (4, 1), (9, 0xFFFFFFFFFFFFFF)]), cxl := { b := { mode := .cxl11 }, devs := [16384] } } }
     let h : Hdr := {}
     let p : Payload := pay [(0, 1), (8, 0x40)]
     let b : List Byte := fld 16 [(0, 16384), (4, 1), (9, 0xFFFFFFFFFFFFFF)]
     let x := s.main.taken h.src
     let n := bvAt p 0 1
     let rs := (List.range n).map (fun i => bytesAt b (16 * i) 16)
     let map := rs.map slowRange
     s.main.serves 0x0360 h p [(0, 1), (8, 8)] = true ∧
     x.jobs = [] ∧
     (Src.operator h.src = true ∧ x.ownsRun h (bvAt p 8 8) (16 * n) = true) ∧
     (1 ≤ n ∧ n ≤ 8 ∧ x.mapped 4 (bvAt p 8 8) (16 * n) = true) ∧
     x.cxl.b.cxl = true ∧
     (x.daGet 4 (bvAt p 8 8) (16 * n)).2 = some b ∧
     (rs.all slowRangeOk = true ∧ (map.map (·.gib)).sum ≤ 16384) ∧
     (∀ r ∈ map, ∀ d ∈ r.dev, d < x.cxl.devs.length)) ∧
    (let s : State := { main := { ready with cxl := { b := { mode := .cxl31 }, devs := [1, 1] } } }
     let h : Hdr := {}
     let p : Payload := pay [(0, 1)]
     let x := s.main.taken h.src
     let y := if bvAt p 1 1 = 1 then x.enumerate else x
     s.main.serves 0x0361 h p [(0, 2)] = true ∧
     bvAt p 1 1 ≤ 1 ∧
     Src.operator h.src = true ∧
     x.cxl.b.cxl = true ∧
     bvAt p 0 1 < y.cxl.devs.length) ∧
    (let s : State := { main := ready }
     let h : Hdr := {}
     let p : Payload := pay [(0, 3), (8, 0xFFFFF00000000000), (16, 0x100000000000)]
     let x := s.main.taken h.src
     let k := bvAt p 0 1
     let base := bvAt p 8 8
     let size := bvAt p 16 8
     let others := (List.range 4).filter (· != k)
     s.main.serves 0x0362 h p [(0, 1), (8, 16)] = true ∧
     (x.jobs = [] ∧ x.eng = []) ∧
     Src.operator h.src = true ∧
     (k ≤ 3 ∧ base % 4096 = 0 ∧ size % 4096 = 0 ∧ base + size ≤ 2 ^ 64) ∧
     (others.map (fun i => (x.cxl.host.get i).2)).sum + size ≤ 2 ^ 44 ∧
     (∀ i ∈ others, overlap base size (x.cxl.host.get i).1 (x.cxl.host.get i).2 = false)) := by
  refine ⟨?_, ?_, ?_, ?_, ?_, ?_, ?_, ?_⟩ <;> decide +kernel

theorem test_wit_TailstockAndCopyEnginesComplete :
    (let s : State := { main := { ready with jobs := [(1, { dies := 1 })] } }
     let h : Hdr := {}
     let p : Payload := pay [(0, 1), (8, 0x200000)]
     let j : Job := { dies := 1 }
     let x := s.main.taken h.src
     let jid := bvAt p 0 4
     let da := bvAt p 8 8
     let y : Main := { x with hbm := x.hbm.map (fun (z : Nat × Stack) => (z.1, { z.2 with region := z.2.region.del (256 + jid) })) }
     s.main.serves 0x0363 h p [(0, 4), (8, 8)] = true ∧
     x.job? jid = some j ∧
     (x.ownsJob h.src jid = true ∧ x.ownsRun h da (2 ^ 28) = true) ∧
     (da % 0x200000 = 0 ∧ da + 2 ^ 28 ≤ 2 ^ 41 ∧ x.mapped (x.jobPart j) da (2 ^ 28) = true) ∧
     y.freeRun none da (2 ^ 28) = true) ∧
    (let s : State := { main := { ready with jobs := [(1, { dies := 1 })] } }
     let h : Hdr := {}
     let p : Payload := pay [(0, 1)]
     let j : Job := { dies := 1 }
     let x := s.main.taken h.src
     s.main.serves 0x0364 h p [(0, 4)] (reads := true) (owned := s.main.ownsJob h.src (bvAt p 0 4)) = true ∧
     x.job? (bvAt p 0 4) = some j) ∧
    (let s : State := { main := { ready with tail := [{ started := true }, {}, { rec_ := { region := 1 } }] } }
     let i : Nat := 2
     let t : TailRun := { rec_ := { region := 1 } }
     (s.main.tail.filter (·.started)).length < 16 ∧
     s.main.tailMay i = true ∧
     (List.range i).all (fun k => !(s.main.tailMay k)) = true ∧
     s.main.tail[i]? = some t) ∧
    (let s : State := { main := { ready with tail := [{ started := true, job := 1, rec_ := { region := 1023, op := 1 }, written := false }], jobs := [(1, {})], region := [(TailRun.key { started := true, job := 1, rec_ := { region := 1023, op := 1 }, written := false }, {})] } }
     let r : BitVec 12 := BitVec.ofNat 12 (TailRun.key ({ started := true, job := 1, rec_ := { region := 1023, op := 1 }, written := false }))
     let t : TailRun := { started := true, job := 1, rec_ := { region := 1023, op := 1 }, written := false }
     s.main.tailOf r.toNat 1 = some t ∧
     t.written = false ∧
     (s.main.offload t).2 = true) ∧
    (let s : State := { main := { ready with tail := [{ started := true, job := 1, rec_ := { region := 1023, op := 1 }, written := true }], jobs := [(1, {})], region := [(TailRun.key { started := true, job := 1, rec_ := { region := 1023, op := 1 }, written := true }, {})] } }
     let r : BitVec 12 := BitVec.ofNat 12 (TailRun.key ({ started := true, job := 1, rec_ := { region := 1023, op := 1 }, written := true }))
     let t : TailRun := { started := true, job := 1, rec_ := { region := 1023, op := 1 }, written := true }
     s.main.tailOf r.toNat 1 = some t ∧
     t.written = true) ∧
    (let s : State := { main := { ready with tail := [{ started := true, job := 1, rec_ := { region := 1023, op := 2 }, written := false }], jobs := [(1, {})], region := [(TailRun.key { started := true, job := 1, rec_ := { region := 1023, op := 2 }, written := false }, { tornNow := true, st := .refetching })] } }
     let r : BitVec 12 := BitVec.ofNat 12 (TailRun.key ({ started := true, job := 1, rec_ := { region := 1023, op := 2 }, written := false }))
     let t : TailRun := { started := true, job := 1, rec_ := { region := 1023, op := 2 }, written := false }
     let g := s.main.regionAt r.toNat
     s.main.tailOf r.toNat 2 = some t ∧
     (s.main.regionAt r.toNat).tornNow = true ∧
     g.st = .refetching) ∧
    (let s : State := { main := { ready with tail := [{ started := true, job := 1, rec_ := { region := 1023, op := 2 }, written := false }], jobs := [(1, {})], region := [(TailRun.key { started := true, job := 1, rec_ := { region := 1023, op := 2 }, written := false }, { tornNow := true, st := .fetching })] } }
     let r : BitVec 12 := BitVec.ofNat 12 (TailRun.key ({ started := true, job := 1, rec_ := { region := 1023, op := 2 }, written := false }))
     let t : TailRun := { started := true, job := 1, rec_ := { region := 1023, op := 2 }, written := false }
     let g := s.main.regionAt r.toNat
     s.main.tailOf r.toNat 2 = some t ∧
     (s.main.regionAt r.toNat).tornNow = true ∧
     g.st ≠ .refetching) ∧
    (let s : State := { main := { ready with tail := [{ started := true, job := 1, rec_ := { region := 1023, op := 1, len := 4096 }, written := false }], jobs := [(1, {})], region := [(TailRun.key { started := true, job := 1, rec_ := { region := 1023, op := 1, len := 4096 }, written := false }, {})] } }
     let r : BitVec 12 := BitVec.ofNat 12 (TailRun.key ({ started := true, job := 1, rec_ := { region := 1023, op := 1, len := 4096 }, written := false }))
     let t : TailRun := { started := true, job := 1, rec_ := { region := 1023, op := 1, len := 4096 }, written := false }
     s.main.tailOf r.toNat 1 = some t ∧
     t.written = false ∧
     (s.main.offload t).2 = false) ∧
    (let s : State := { main := { ready with tail := [{ started := true, job := 1, rec_ := { region := 1023, op := 2, len := 4096 }, written := false }], jobs := [(1, {})], region := [(TailRun.key { started := true, job := 1, rec_ := { region := 1023, op := 2, len := 4096 }, written := false }, {})] } }
     let r : BitVec 12 := BitVec.ofNat 12 (TailRun.key ({ started := true, job := 1, rec_ := { region := 1023, op := 2, len := 4096 }, written := false }))
     let t : TailRun := { started := true, job := 1, rec_ := { region := 1023, op := 2, len := 4096 }, written := false }
     let g := s.main.regionAt r.toNat
     let m1 := s.main.d2h (if g.st = .refetching then .rdShared else .rdCurr) g.hoff g.len
     s.main.tailOf r.toNat 2 = some t ∧
     g.tornNow = false ∧
     m1.fetchOk t = false) ∧
    (let s : State := { main := { ready with tail := [{ started := true, job := 1, rec_ := { region := 1023, op := 2 }, written := false }], jobs := [(1, {})], region := [(TailRun.key { started := true, job := 1, rec_ := { region := 1023, op := 2 }, written := false }, {})], mem := {}, cxl := { a := { mode := .cxl31 }, host := [(0, 0, 0x100000000)] } } }
     let r : BitVec 12 := BitVec.ofNat 12 (TailRun.key ({ started := true, job := 1, rec_ := { region := 1023, op := 2 }, written := false }))
     let t : TailRun := { started := true, job := 1, rec_ := { region := 1023, op := 2 }, written := false }
     let g := s.main.regionAt r.toNat
     let m1 := s.main.d2h (if g.st = .refetching then .rdShared else .rdCurr) g.hoff g.len
     let j := {}
     let l := ([] : List Byte)
     s.main.tailOf r.toNat 2 = some t ∧
     g.tornNow = false ∧
     m1.fetchOk t = true ∧
     m1.job? t.job.toNat = some j ∧
     m1.fetchBlocks t j = some l) ∧
    (let s : State := { main := { ready with tail := [{ started := true, job := 1, rec_ := { region := 1023, op := 2, len := 4096 }, written := false }], jobs := [(1, {})], region := [(TailRun.key { started := true, job := 1, rec_ := { region := 1023, op := 2, len := 4096 }, written := false }, {})], mem := { hbm := ({} : Mem).poison (65536 * 1023) 16 }, cxl := { a := { mode := .cxl31 }, host := [(0, 0, 0x100000000)] } } }
     let r : BitVec 12 := BitVec.ofNat 12 (TailRun.key ({ started := true, job := 1, rec_ := { region := 1023, op := 2, len := 4096 }, written := false }))
     let t : TailRun := { started := true, job := 1, rec_ := { region := 1023, op := 2, len := 4096 }, written := false }
     let g := s.main.regionAt r.toNat
     let m1 := s.main.d2h (if g.st = .refetching then .rdShared else .rdCurr) g.hoff g.len
     let j := {}
     s.main.tailOf r.toNat 2 = some t ∧
     g.tornNow = false ∧
     m1.fetchOk t = true ∧
     m1.job? t.job.toNat = some j ∧
     m1.fetchBlocks t j = none) ∧
    (let s : State := { main := { ready with eng := [(7, { stSize := 12 })] } }
     let v : U64 := 2
     let m0 : Main := if v.getLsbD 1 then { s.main with ectl := { s.main.ectl with rej := false } } else s.main
     let e := 7
     (List.range 8).find? m0.engBad = some e) := by
  refine ⟨?_, ?_, ?_, ?_, ?_, ?_, ?_, ?_, ?_, ?_, ?_, ?_⟩ <;> decide +kernel

theorem test_wit_TailstockAndCopyEnginesComplete_more1 :
    (let s : State := { main := { ready with eng := [(7, { stSize := 11 })] } }
     let v : U64 := 2
     let m0 : Main := if v.getLsbD 1 then { s.main with ectl := { s.main.ectl with rej := false } } else s.main
     (List.range 8).find? m0.engBad = none) ∧
    (let s : State := { main := { ready with eng := [(7, { inflight := 4 })] } }
     let e : Fin 8 := 7
     let x := s.main.engAt e.val
     let i := x.head.toNat % x.ring
     let q := s.main.engPartOf e.val
     let da := x.desc i
     x.inflight ≠ 0 ∧
     s.main.copyLive e.val i = true ∧
     (s.main.daGet q da 32).2.isSome = true) ∧
    (let s : State := { main := { ready with eng := [(7, { inflight := 0 })] } }
     let e : Fin 8 := 7
     let x := s.main.engAt e.val
     (x.inflight = 0 ∨ s.main.copyLive e.val (x.head.toNat % x.ring) = false)) := by
  refine ⟨?_, ?_, ?_⟩ <;> decide +kernel

theorem test_wit_BeatCommandsComplete :
    (let s : State := { main := ready }
     let d : Fin 4 := 3
     let m1 := s.main.updDp d.val (fun x => { x with point := if x.point < x.target then x.point + 1 else if x.target < x.point then x.point - 1 else x.point })
     (m1.dpAt d.val).paceNext = none) ∧
    (let s : State := { main := { ready with dp := [(3, { paceNext := some 184 })] } }
     let d : Fin 4 := 3
     let m1 := s.main.updDp d.val (fun x => { x with point := if x.point < x.target then x.point + 1 else if x.target < x.point then x.point - 1 else x.point })
     let n := (184 : Byte)
     (m1.dpAt d.val).paceNext = some n) ∧
    (let s : State := { main := ready }
     (s.main.core.get 1).runs = true) ∧
    (let s : State := { main := ready }
     let d : Fin 4 := 3
     let r : Fin 8 := 7
     (s.main.dieAt d.val).parked.getLsbD r.val = false ∧
     s.main.liveTiles d.val (some r.val) ≠ []) ∧
    (let s : State := { main := ready }
     let h : Hdr := {}
     let p : Payload := pay [(0, 15), (2, 6), (3, 0xFF), (8, 1000)]
     let x := s.main.taken h.src
     s.main.serves 0x0401 h p [(0, 1), (2, 8)] (high := (bvAt p 0 1 < 16)) = true ∧
     x.ownsDies h.src (p.extractLsb' 0 4) = true ∧
     (∀ i < 6, bvAt p (2 + i) 1 ≤ 6 ∨ bvAt p (2 + i) 1 = 0xFF) ∧
     bvAt p 8 2 ≤ 1000) ∧
    (let s : State := { main := ready }
     let h : Hdr := {}
     let p : Payload := pay [(0, 2019)]
     let x := s.main.taken h.src
     s.main.serves 0x0403 h p [(0, 3)] (reads := true) (owned := s.main.owns h.src (s.main.variant.diePart (bvAt p 0 2 / 512 % 4))) = true ∧
     (bvAt p 2 1 = 0 ∧ tileIdOk (bvAt p 0 2) = true ∧ (x.tileAt (bvAt p 0 2)).retired = false)) ∧
    (let s : State := { main := ready }
     let h : Hdr := {}
     let p : Payload := pay [(0, 1536), (2, 1)]
     s.main.serves 0x0403 h p [(0, 3)] (reads := true) (owned := s.main.owns h.src (s.main.variant.diePart (bvAt p 0 2 / 512 % 4))) = true ∧
     (bvAt p 2 1 = 1 ∧ bvAt p 0 2 < 2048 ∧ bvAt p 0 2 % 512 = 0)) ∧
    (let s : State := { main := ready }
     let h : Hdr := {}
     let p : Payload := pay [(0, 3)]
     s.main.serves 0x0404 h p [(0, 1)] (reads := true) (owned := s.main.owns h.src (s.main.variant.diePart (bvAt p 0 1 % 4))) = true ∧
     bvAt p 0 1 ≤ 3) ∧
    (let s : State := { main := ready }
     let h : Hdr := {}
     let p : Payload := pay [(0, 3), (8, 0)]
     let x := s.main.taken h.src
     s.main.serves 0x0405 h p [(0, 1), (8, 2)] (high := (bvAt p 8 1 < 2)) = true ∧
     bvAt p 0 1 ≤ 3 ∧
     x.owns h.src (x.variant.diePart (bvAt p 0 1)) = true ∧
     (p.getLsbD 64 = true → 80 ≤ bvAt p 9 1 ∧ bvAt p 9 1 ≤ 184 ∧ x.pacePoint (bvAt p 0 1) (bvAt p 9 1) ≤ x.paceTop (bvAt p 0 1))) ∧
    (let s : State := { main := ready }
     let v : U64 := 4
     let m0 := if v.getLsbD 2 then s.main.updBctl (fun b => { b with rej := false }) else s.main
     v.getLsbD 3 = false ∧
     m0.paceFirst = none) ∧
    (let s : State := { main := { ready with dp := [(3, { stEn := true, stPace := 79 })] } }
     let v : U64 := 4
     let m0 := if v.getLsbD 2 then s.main.updBctl (fun b => { b with rej := false }) else s.main
     let d := 3
     let r := 1
     v.getLsbD 3 = false ∧
     m0.paceFirst = some (d, r)) ∧
    (let v : U64 := 2
     v.getLsbD 0 = false ∧
     v.getLsbD 2 = false) := by
  refine ⟨?_, ?_, ?_, ?_, ?_, ?_, ?_, ?_, ?_, ?_, ?_, ?_⟩ <;> decide +kernel

theorem test_wit_BeatCommandsComplete_more1 :
    let s : State := { main := ready }
    s.main.sup.rails = true := by decide +kernel

theorem test_wit_PowerLoopsComplete :
    (let s : State := { main := ready }
     (s.main.core.get 1).runs = true) ∧
    (let s : State := { main := { ready with pow := { x := .disagree } } }
     (s.main.core.get 1).runs = true ∧
     (s.main.pow.x = .disagree ∨ s.main.pow.xBad = false ∧ s.main.pow.x = .fallback)) ∧
    (let s : State := { main := { ready with pow := { x := .fallback } } }
     (s.main.core.get 1).runs = true ∧
     (s.main.pow.x = .disagree ∨ s.main.pow.xBad = false ∧ s.main.pow.x = .fallback)) ∧
    (let s : State := { main := { ready with pow := { refit := true } } }
     (s.main.core.get 1).runs = true ∧
     s.main.mir.lost = false ∧
     (s.main.pow.refit = true ∨ s.main.pow.x = .fallback)) ∧
    (let s : State := { main := { ready with dp := [(0, { fire := 1 }), (1, { fire := 1 }), (2, { fire := 1 }), (3, { fire := 1 })] } }
     let unpark : Bool := false
     (s.main.core.get 1).runs = true ∧
     (unpark = false → ∀ d < 4, (s.main.dpAt d).fire = 1)) ∧
    (let s : State := { main := ready }
     s.main.boostOn = true) := by
  refine ⟨?_, ?_, ?_, ?_, ?_, ?_⟩ <;> decide +kernel

theorem test_wit_FlywheelAndLimitsComplete :
    (let s : State := { main := { ready with pow := { fly := { en := false } } } }
     (s.main.core.get 1).runs = true ∧
     s.main.pow.fly.en = false) ∧
    (let s : State := { main := ready }
     (s.main.core.get 1).runs = true ∧
     s.main.pow.fly.en = true ∧
     s.main.pow.ramp = .none) ∧
    (let s : State := { main := { ready with core := [(0, { runs := true })] } }
     (s.main.core.get 1).runs = false) ∧
    (let s : State := { main := { ready with core := [(0, { runs := true })] } }
     (s.main.core.get 1).runs = false) ∧
    (let s : State := { main := ready }
     let h : Hdr := {}
     let p : Payload := pay [(0, 100), (2, 1), (4, 50), (6, 1100)]
     let x := s.main.taken h.src
     let cap := bvAt p 0 2
     let dc := fun (d : Nat) => bvAt p (4 + 2 * d) 2
     s.main.serves 0x0402 h p [(0, 3), (4, 8)] (high := decide (bvAt p 2 1 < 2)) = true ∧
     (x.capFits cap = true ∧ ∀ d < 4, dieCapFits (dc d) = true) ∧
     (Src.isSide h.src = true → ∀ d < 4, dc d = 0)) ∧
    (let s : State := { main := ready }
     let h : Hdr := { src := .side 0 }
     let p : Payload := pay [(0, 100)]
     let x := s.main.taken h.src
     let cap := bvAt p 0 2
     let dc := fun (d : Nat) => bvAt p (4 + 2 * d) 2
     s.main.serves 0x0402 h p [(0, 3), (4, 8)] (high := decide (bvAt p 2 1 < 2)) = true ∧
     (x.capFits cap = true ∧ ∀ d < 4, dieCapFits (dc d) = true) ∧
     (Src.isSide h.src = true → ∀ d < 4, dc d = 0)) ∧
    (let s : State := { main := ready }
     let h : Hdr := {}
     let p : Payload := 0
     s.main.serves 0x0406 h p [] (reads := true) = true) ∧
    (let s : State := { main := ready }
     let h : Hdr := {}
     let p : Payload := pay [(8, 5 * 4 + 90 * 1024 + 5 * 2 ^ 17 + 20 * 2 ^ 25 + 20 * 2 ^ 33 + 1000 * 2 ^ 42)]
     let x := s.main.taken h.src
     s.main.serves 0x0410 h p [(8, 8)] (high := decide (bvAt p 14 2 < 16)) = true ∧
     (FlyCfg.of (p.extractLsb' 64 64)).fits = true ∧
     x.scrubbing = false) := by
  refine ⟨?_, ?_, ?_, ?_, ?_, ?_, ?_, ?_⟩ <;> decide +kernel

theorem test_wit_ThermalCommandsComplete :
    (let s : State := { main := ready }
     (s.main.core.get 2).runs = true) ∧
    (let s : State := { main := ready }
     let d : Fin 4 := 3
     let r : Fin 8 := 7
     (s.main.dpAt d.val).parkHot.getLsbD r.val = false ∧
     (s.main.dieAt d.val).tripped = false) ∧
    (let s : State := { main := ready }
     let h : Hdr := {}
     let p : Payload := pay [(0, 3), (1, 2)]
     s.main.serves 0x0407 h p [(0, 2)] (reads := true) (owned := s.main.owns h.src (s.main.variant.diePart (bvAt p 0 1 % 4))) = true ∧
     (bvAt p 0 1 ≤ 3 ∧ bvAt p 1 1 ≤ 2)) := by
  refine ⟨?_, ?_, ?_⟩ <;> decide +kernel

theorem test_wit_MeterEventsComplete :
    (let s : State := { main := ready, meter := { running := true } }
     s.meter.running = true ∧
     s.meter.cover = false) ∧
    (let s : State := {}
     s.meter.running = false) := by
  refine ⟨?_, ?_⟩ <;> decide +kernel

theorem test_wit_MeterReadingsAndMirrorComplete :
    (let s : State := { main := ready, meter := { running := true } }
     let h : Hdr := {}
     let p : Payload := 0
     s.meter.running = true ∧
     s.main.sup.aux = true ∧
     s.main.mir.lost = false ∧
     s.main.serves 0x0420 h p [] (reads := true) = true) ∧
    (let s : State := { main := ready, meter := { running := true } }
     let count : Byte := 9
     s.meter.running = true ∧
     (count = 0 ∨ 8 < count.toNat)) ∧
    (let s : State := { main := ready, meter := { running := true } }
     let count : Byte := 0
     s.meter.running = true ∧
     (count = 0 ∨ 8 < count.toNat)) ∧
    (let s : State := { main := ready, meter := { running := true } }
     let count : Byte := 8
     s.meter.running = true ∧
     (count ≠ 0 ∧ count.toNat ≤ 8)) := by
  refine ⟨?_, ?_, ?_, ?_⟩ <;> decide +kernel

theorem test_wit_RegisterBlocksAndMailboxesComplete :
    (let s : State := { main := ready }
     let h : Hdr := {}
     let p : Payload := 0
     s.main.serves 0x0101 h p [] (reads := true) = true) ∧
    (let s : State := { main := { ready with sup := { aux := true, state := .recovery } } }
     let h : Hdr := {}
     let p : Payload := 0
     s.main.serves 0x0102 h p [(0, 1)] (reads := true) (anyState := true) = true ∧
     bvAt p 0 1 = 0) ∧
    (let s : State := { main := ready }
     let h : Hdr := {}
     let p : Payload := pay [(0, 1)]
     s.main.serves 0x0102 h p [(0, 1)] (reads := true) (anyState := true) = true ∧
     bvAt p 0 1 = 1) ∧
    (let s : State := { main := ready }
     let v : U64 := 0x1F
     let named := (List.range 5).filter v.getLsbD
     (∀ b ∈ named, s.main.blockRejects b = false)) ∧
    (let s : State := { main := { ready with pow := { stFly := { ramp := 101 } } } }
     let v : U64 := 0x18
     let named := (List.range 5).filter v.getLsbD
     (∃ b ∈ named, s.main.blockRejects b = true)) ∧
    (let s : State := { main := ready }
     let k : BitVec 4 := 15
     let v : U64 := 0x1F00
     let m1 := s.main.updBox k.toNat (fun b => { b with done := b.done && !v.getLsbD 2, cie := v.getLsbD 3, cmem := v.getLsbD 4, vec := some (v.extractLsb' 8 6) })
     let b := m1.box.get k.toNat
     b.own = false ∧
     b.bound = false) ∧
    (let s : State := { main := { ready with resps := [{ src := .host 15 }] } }
     let r : Resp := { src := .host 15 }
     let rest : List Resp := ([] : List Resp)
     let next : Main := { s.main with resps := rest, cmds := s.main.cmds + 1 }
     let w := next.poolDone r
     let k := (15 : BitVec 4)
     s.main.resps = r :: rest ∧
     (s.main.core.get 0).runs = true ∧
     w.2.src = .host k) ∧
    (let s : State := { main := { ready with resps := [{ src := .tenant 3 }] } }
     let r : Resp := { src := .tenant 3 }
     let rest : List Resp := ([] : List Resp)
     let next : Main := { s.main with resps := rest, cmds := s.main.cmds + 1 }
     let w := next.poolDone r
     let q := (3 : BitVec 2)
     s.main.resps = r :: rest ∧
     (s.main.core.get 0).runs = true ∧
     w.2.src = .tenant q) ∧
    (let s : State := { main := { ready with resps := [{ src := .side 3 }] } }
     let r : Resp := { src := .side 3 }
     let rest : List Resp := ([] : List Resp)
     let next : Main := { s.main with resps := rest, cmds := s.main.cmds + 1 }
     let w := next.poolDone r
     let k := (3 : BitVec 2)
     s.main.resps = r :: rest ∧
     (s.main.core.get 0).runs = true ∧
     w.2.src = .side k ∧
     (s.main.core.get 3).runs = true) ∧
    (let s : State := { main := { ready with sb := { eid := 8, owner := 9 }, side := [(3, { busy := true })] } }
     let eid : Byte := 9
     let body : List Byte := fld 66 [(0, 1), (1, 3)]
     s.main.sup.aux = true ∧
     (s.main.core.get 3).runs = true ∧
     s.main.sb.eid ≠ 0 ∧
     eid = s.main.sb.owner ∧
     body.length = 66 ∧
     natAt body 0 1 = 1 ∧
     natAt body 1 1 ≤ 3 ∧
     (s.main.side.get (natAt body 1 1)).busy = true) ∧
    (let s : State := { main := { ready with sb := { eid := 8, owner := 9 }, side := [(3, { busy := false })] } }
     let eid : Byte := 9
     let body : List Byte := fld 66 [(0, 1), (1, 3)]
     s.main.sup.aux = true ∧
     (s.main.core.get 3).runs = true ∧
     s.main.sb.eid ≠ 0 ∧
     eid = s.main.sb.owner ∧
     body.length = 66 ∧
     natAt body 0 1 = 1 ∧
     natAt body 1 1 ≤ 3 ∧
     (s.main.side.get (natAt body 1 1)).busy = false) ∧
    (let off : BitVec 22 := 0x10F20
     let size : BitVec 7 := 32
     size.toNat ∈ [4, 8, 16, 32, 64] ∧
     off.toNat % size.toNat = 0 ∧
     inCmd off.toNat = true) := by
  refine ⟨?_, ?_, ?_, ?_, ?_, ?_, ?_, ?_, ?_, ?_, ?_, ?_⟩ <;> decide +kernel

theorem test_wit_RegisterBlocksAndMailboxesComplete_more1 :
    (let off : BitVec 22 := 0x3F03C0
     let size : BitVec 7 := 64
     size.toNat ∈ [4, 8, 16, 32, 64] ∧
     off.toNat % size.toNat = 0 ∧
     inMsix off.toNat = true) ∧
    (let off : BitVec 22 := 0x8
     let size : BitVec 7 := 8
     size.toNat ∈ [4, 8, 16, 32, 64] ∧
     off.toNat % size.toNat = 0 ∧
     inCmd off.toNat = false ∧
     inMsix off.toNat = false ∧
     size.toNat = 8) ∧
    (let off : BitVec 22 := 0xC
     let size : BitVec 7 := 4
     size.toNat ∈ [4, 8, 16, 32, 64] ∧
     off.toNat % size.toNat = 0 ∧
     inCmd off.toNat = false ∧
     inMsix off.toNat = false ∧
     size.toNat = 4) := by
  refine ⟨?_, ?_, ?_⟩ <;> decide +kernel

theorem test_wit_RingLogCommandsComplete :
    (let s : State := { main := { ready with log := { recs := [{}, { bits := 1 }] } } }
     let h : Hdr := {}
     let p : Payload := pay [(0, 1)]
     let r : LogRec := { bits := 1 }
     s.main.serves 0x0701 h p [(0, 4)] (reads := true) = true ∧
     s.main.log.recs[bvAt p 0 4]? = some r) ∧
    (let s : State := { main := ready }
     let h : Hdr := {}
     let p : Payload := 0
     s.main.serves 0x0702 h p [] (reads := true) = true ∧
     s.main.serves 0x0704 h p [] = true) ∧
    (let s : State := { main := ready }
     let h : Hdr := {}
     let p : Payload := pay [(0, 9), (31, 255)]
     s.main.serves 0x0705 h p [(0, 1), (8, 24)] = true ∧
     (bvAt p 0 1 < 10 ∨ bvAt p 0 1 = 10 ∧ bvAt p 10 22 = 0)) ∧
    (let s : State := { main := ready }
     let h : Hdr := {}
     let p : Payload := pay [(0, 10), (8, 0xFFFF)]
     s.main.serves 0x0705 h p [(0, 1), (8, 24)] = true ∧
     (bvAt p 0 1 < 10 ∨ bvAt p 0 1 = 10 ∧ bvAt p 10 22 = 0)) ∧
    (let s : State := { main := { ready with log := { key := some 5, nonce := some 1, stageH := [(0, 0x52), (1, 0x4C), (2, 0x43), (3, 0x47), (4, 1), (5, 0), (24, 1)].filter (fun x => x.2 != 0) } } }
     let h : Hdr := {}
     let p : Payload := 0
     let k : BitVec 456 := 5
     let x := s.main.taken h.src
     let b := x.authBytes (Src.isSide h.src)
     s.main.serves 0x0703 h p [] = true ∧
     x.authFits b 1 = true ∧
     x.authKey b 1 = some k) ∧
    (let s : State := { main := { ready with log := {  nonce := some 1, stageH := [(0, 0x52), (1, 0x4C), (2, 0x43), (3, 0x47), (4, 2), (5, 2), (24, 1)].filter (fun x => x.2 != 0) } } }
     let h : Hdr := {}
     let p : Payload := 0
     let k : BitVec 456 := 0
     let x := s.main.taken h.src
     let b := x.authBytes (Src.isSide h.src)
     s.main.serves 0x0706 h p [] = true ∧
     x.authFits b 2 = true ∧
     x.authKey b 2 = some k) := by
  refine ⟨?_, ?_, ?_, ?_, ?_, ?_⟩ <;> decide +kernel

theorem test_wit_Tcs2CommandsComplete :
    (let s : State := { main := ready }
     let h : Hdr := {}
     let pw : BitVec 384 := 0
     let op : Byte := 0x31
     s.main.serves 0x0101 h (low pw) [] (reads := true) (high := highZero pw) = true ∧
     s.main.takes h.src = true ∧
     op.toNat ∉ tcs2Ops) ∧
    (let s : State := { main := ready }
     let h : Hdr := {}
     let pw : BitVec 384 := 0
     s.main.serves 0x0102 h (low pw) [(0, 1)] (reads := true) (high := highZero pw) (anyState := true) = true ∧
     bvAt (low pw) 0 1 = 0) ∧
    (let s : State := { main := ready }
     let h : Hdr := {}
     let pw : BitVec 384 := (pay [(0, 1), (4, 15), (6, 1), (16, 10)]).setWidth 384
     let x := s.main.taken h.src
     s.main.serves 0x0201 h (low pw) [(0, 5), (6, 22)] (high := highZero pw && openRsv (low pw)) = true ∧
     (low pw).extractLsb' 32 4 ≠ (0 : BitVec 4) ∧
     (bvAt (low pw) 0 4 ≠ 0 ∧ x.job? (bvAt (low pw) 0 4) = none) ∧
     (∀ d ∈ diesOf ((low pw).extractLsb' 32 4), (x.dieAt d).job = 0) ∧
     (1 ≤ bvAt (low pw) 6 2 ∧ bvAt (low pw) 6 2 ≤ 32768) ∧
     (bvAt (low pw) 16 4 = 0 ∨ (10 ≤ bvAt (low pw) 16 4 ∧ bvAt (low pw) 16 4 ≤ 600000)) ∧
     bvAt (low pw) 24 4 ≤ 3600 ∧
     x.ownsDies h.src ((low pw).extractLsb' 32 4) = true ∧
     (x.sup.tlock = true → ∀ d ∈ diesOf ((low pw).extractLsb' 32 4), x.partOn = true ∧ x.sealed (x.variant.diePart d) = true)) ∧
    (let s : State := { main := { ready with jobs := [(1, { dies := 15 })], die := [(3, { shavings := some (0x40000000, 0x8000000) })], mem := holds 0x40 (img 2 1542356894) } }
     let h : Hdr := {}
     let pw : BitVec 384 := (pay [(0, 64), (8, 256), (12, 3), (16, 1)]).setWidth 384
     let j : Job := { dies := 15 }
     let m1 : Main := ((s.main.taken h.src).daGet ((s.main.taken h.src).diePartOf 3) 64 256).1
     let img : List Byte := img 2 1542356894
     let b : Blank := okOr {} (imageChk (m1.stageEnv 3 j 1 0 256 true) img 64)
     let x := s.main.taken h.src
     s.main.serves 0x0210 h (low pw) [(0, 13), (16, 8)] (owned := (bvAt (low pw) 12 1 > 3 || s.main.owns h.src (s.main.variant.diePart (bvAt (low pw) 12 1)))) (high := highZero pw) = true ∧
     bvAt (low pw) 12 1 ≤ 3 ∧
     bvAt (low pw) 0 8 % 64 = 0 ∧
     x.job? (bvAt (low pw) 16 4) = some j ∧
     j.dies.getLsbD (bvAt (low pw) 12 1) = true ∧
     (x.dieAt (bvAt (low pw) 12 1)).shavings ≠ none ∧
     (x.dieAt (bvAt (low pw) 12 1)).staged.length < 4 ∧
     (¬ ((x.sramAt (bvAt (low pw) 12 1)).below = true ∧ (x.sramAt (bvAt (low pw) 12 1)).live < 0x10000000)) ∧
     (64 ≤ bvAt (low pw) 8 4 ∧ bvAt (low pw) 8 4 ≤ 0x4000000 ∧ bvAt (low pw) 8 4 % 64 = 0) ∧
     x.daGet (x.diePartOf (bvAt (low pw) 12 1)) (bvAt (low pw) 0 8) (bvAt (low pw) 8 4) = (m1, some img) ∧
     imageChk (m1.stageEnv (bvAt (low pw) 12 1) j (bvAt (low pw) 16 4) (bvAt (low pw) 20 4) (bvAt (low pw) 8 4) true) img (bvAt (low pw) 0 8) = .ok b) ∧
    (let s : State := { main := ready }
     let h : Hdr := {}
     let pw : BitVec 384 := 3
     let x := s.main.taken h.src
     s.main.serves 0x0211 h (low pw) [(0, 2)] (owned := s.main.ownsDies h.src (pw.extractLsb' 0 4)) (high := highZero pw && forcedRsv (low pw)) = true ∧
     (∀ d ∈ diesOf ((low pw).extractLsb' 0 4), ∀ q ∈ x.groupOf d, ((low pw).extractLsb' 0 4).getLsbD q = true)) ∧
    (let s : State := { main := { ready with jobs := [(1, { dies := 1 })] } }
     let h : Hdr := {}
     let pw : BitVec 384 := 1
     let j : Job := { dies := 1 }
     s.main.serves 0x0202 h (low pw) [(0, 5)] (owned := s.main.ownsJob h.src (bvAt pw 0 4)) (high := highZero pw && bvAt pw 4 1 < 2) = true ∧
     s.main.job? (bvAt (low pw) 0 4) = some j ∧
     j.stepOpen = false) ∧
    (let s : State := { main := { ready with jobs := [(1, { dies := 1, step := 7 })] } }
     let h : Hdr := {}
     let pw : BitVec 384 := (pay [(0, 1), (4, 7)]).setWidth 384
     let j : Job := { dies := 1, step := 7 }
     let x := s.main.taken h.src
     s.main.serves 0x0203 h (low pw) [(0, 8)] (owned := s.main.ownsJob h.src (bvAt pw 0 4)) (high := highZero pw) = true ∧
     x.job? (bvAt (low pw) 0 4) = some j ∧
     j.stepOpen = false ∧
     (j.unrec = false ∧ j.restoring = false) ∧
     (low pw).extractLsb' 32 32 = j.step) ∧
    (let s : State := { main := ready }
     let h : Hdr := {}
     let pw : BitVec 384 := 100
     let x := s.main.taken h.src
     let cap := bvAt (low pw) 0 2
     s.main.serves 0x0402 h (low pw) [(0, 2)] (high := highZero pw) = true ∧
     x.capFits cap = true) ∧
    (let s : State := { main := ready }
     let h : Hdr := {}
     let pw : BitVec 384 := 0
     s.main.serves 0x0406 h (low pw) [] (reads := true) (high := highZero pw) = true) ∧
    (let s : State := { main := { ready with log := { recs := [{}, { bits := 1 }] } } }
     let h : Hdr := {}
     let pw : BitVec 384 := 1
     let r : LogRec := { bits := 1 }
     s.main.serves 0x0701 h (low pw) [(0, 4)] (reads := true) (high := highZero pw) = true ∧
     s.main.log.recs[bvAt (low pw) 0 4]? = some r) := by
  refine ⟨?_, ?_, ?_, ?_, ?_, ?_, ?_, ?_, ?_, ?_⟩ <;> decide +kernel

theorem test_wit_SidebandManagementComplete :
    (let s : State := { main := ready }
     s.main.sideUp = true ∧
     s.main.sup.state ≠ .recovery) ∧
    (let s : State := { main := ready }
     let op : Byte := 1
     let eid : Byte := 0xFE
     s.main.sideUp = true ∧
     op ≤ 1 ∧
     eid ≠ 0 ∧
     eid ≠ 0xFF) ∧
    (let s : State := { main := ready }
     let ty : Byte := 0x7E
     s.main.sideUp = true ∧
     (ty = 0xFF ∨ ty ∈ mctpTypes)) ∧
    (let s : State := { main := ready }
     let ty : Byte := 0xFF
     s.main.sideUp = true ∧
     (ty = 0xFF ∨ ty ∈ mctpTypes)) ∧
    (let s : State := { main := ready }
     let sel : Byte := 0
     s.main.sideUp = true ∧
     sel = 0) ∧
    (let s : State := { main := ready }
     let ty : Byte := 2
     s.main.sideUp = true ∧
     ty.toNat ∈ s.main.pldmTypes) ∧
    (let s : State := { main := ready }
     let enable : Byte := 2
     s.main.sideUp = true ∧
     s.main.sup.state ≠ .recovery ∧
     enable ≤ 2) ∧
    (let s : State := { main := { ready with sb := { events := [1, 2] } } }
     let r : BitVec 256 := 1
     let rest : List (BitVec 256) := [2]
     s.main.sideUp = true ∧
     s.main.sup.state ≠ .recovery ∧
     s.main.sb.events = r :: rest) := by
  refine ⟨?_, ?_, ?_, ?_, ?_, ?_, ?_, ?_⟩ <;> decide +kernel

theorem test_wit_SidebandUpdateComplete :
    (let s : State := { main := ready }
     s.main.sideUp = true) ∧
    (let s : State := { main := ready }
     let comps : U16 := 1
     s.main.sideUp = true ∧
     s.main.fw.st ≠ 1 ∧
     s.main.fw.fd = 0 ∧
     comps = 1) ∧
    (let s : State := { main := { ready with fw := { fd := 1 } } }
     s.main.sideUp = true ∧
     s.main.fw.fd = 1) ∧
    (let s : State := { main := { ready with fw := { fd := 2 } } }
     s.main.sideUp = true ∧
     s.main.fw.fd = 2) ∧
    (let s : State := { main := { ready with fw := { fd := 3 } } }
     s.main.sideUp = true ∧
     s.main.fw.fd = 3) ∧
    (let s : State := { main := { ready with fw := { bankA := { verified := true }, bankB := { verified := true } } } }
     s.main.sideUp = true ∧
     s.main.activateReason = 0) := by
  refine ⟨?_, ?_, ?_, ?_, ?_, ?_⟩ <;> decide +kernel

theorem test_wit_AttestationComplete :
    (let s : State := { main := ready }
     s.main.spdmUp = true) ∧
    (let s : State := { main := { ready with spdm := { version := true } } }
     s.main.spdmUp = true ∧
     s.main.spdm.version = true) ∧
    (let s : State := { main := { ready with spdm := { version := true, caps := true } } }
     let ok : Bool := true
     s.main.spdmUp = true ∧
     (s.main.spdm.version = true ∧ s.main.spdm.caps = true) ∧
     ok = true) ∧
    (let s : State := { main := tenanted }
     s.main.spdmUp = true ∧
     (s.main.spdm.version = true ∧ s.main.spdm.caps = true ∧ s.main.spdm.algs = true)) ∧
    (let s : State := { main := tenanted }
     let index : Byte := 0
     s.main.spdmUp = true ∧
     (s.main.spdm.version = true ∧ s.main.spdm.caps = true ∧ s.main.spdm.algs = true) ∧
     index ≠ 0xFF ∧
     (index = 0 ∨ (s.main.measure index.toNat).isSome = true)) ∧
    (let s : State := { main := tenanted }
     let index : Byte := 16
     s.main.spdmUp = true ∧
     (s.main.spdm.version = true ∧ s.main.spdm.caps = true ∧ s.main.spdm.algs = true) ∧
     index ≠ 0xFF ∧
     (index = 0 ∨ (s.main.measure index.toNat).isSome = true)) := by
  refine ⟨?_, ?_, ?_, ?_, ?_, ?_⟩ <;> decide +kernel

theorem test_wit_SessionsAndClaimsComplete :
    (let s : State := { main := tenanted }
     let sid : U32 := 7
     s.main.spdmUp = true ∧
     (s.main.spdm.version = true ∧ s.main.spdm.caps = true ∧ s.main.spdm.algs = true) ∧
     s.main.sup.state ≠ .recovery ∧
     s.main.spdm.sess.length < 8 ∧
     (s.main.session? sid).any (·.est) = true ∧
     (s.main.session? sid).isSome = true) ∧
    (let s : State := { main := { ready with spdm := { version := true, caps := true, algs := true, sess := [{ id := 7 }] } } }
     let sid : U32 := 7
     let x : Session := { id := 7 }
     s.main.spdmUp = true ∧
     (s.main.spdm.version = true ∧ s.main.spdm.caps = true ∧ s.main.spdm.algs = true) ∧
     s.main.session? sid = some x ∧
     x.est = false) ∧
    (let s : State := { main := { ready with partOn := true, cxl := { a := { mode := .pcie4, ideIo := true } }, spdm := { sess := [{ id := 7, est := true }] } } }
     let sid : U32 := 7
     let x : Session := { id := 7, est := true }
     let part : Byte := 3
     let key : BitVec 256 := 1
     let area : U64 := 0xC000000000
     s.main.session? sid = some x ∧
     (s.main.spdmUp = true ∧ x.est = true) ∧
     (part.toNat ∈ s.main.variant.parts ∧ key ≠ 0) ∧
     s.main.masked part.toNat = false ∧
     s.main.claimable part.toNat x area.toNat = true) ∧
    (let s : State := { main := tenanted }
     let sid : U32 := 7
     let x : Session := { id := 7, est := true, part := some 1 }
     let part : Byte := 1
     s.main.session? sid = some x ∧
     (s.main.spdmUp = true ∧ x.est = true) ∧
     part.toNat ∈ s.main.variant.parts ∧
     s.main.sealed part.toNat = true ∧
     s.main.sealedTo part.toNat sid = true) ∧
    (let s : State := { main := tenanted }
     let sid : U32 := 7
     let x : Session := { id := 7, est := true, part := some 1 }
     let q : BitVec 2 := 1
     s.main.session? sid = some x ∧
     (s.main.spdmUp = true ∧ x.est = true) ∧
     x.part = some q ∧
     s.main.sealedTo q.toNat sid = true) ∧
    (let s : State := { main := { ready with part := [(3, { st := .sealed, idle := 1 })] } }
     let p : Fin 4 := 3
     s.main.sealed p.val = true ∧
     ((s.main.partAt p.val).sess = none ∧ (s.main.partAt p.val).idle ≠ 0)) := by
  refine ⟨?_, ?_, ?_, ?_, ?_, ?_⟩ <;> decide +kernel

theorem test_wit_PartitionCommandsComplete :
    (let s : State := { main := ready }
     let h : Hdr := {}
     let p : Payload := pay [(0, 1)]
     let x := s.main.taken h.src
     s.main.serves 0x0501 h p [(0, 1)] = true ∧
     bvAt p 0 1 ≤ 1 ∧
     (x.jobs = [] ∧ x.maskBits = 0)) ∧
    (let s : State := { main := { ready with partOn := true, cxl := { map := [{ gib := 2 }] }, part := [(0, { size := 0x40000000 })] } }
     let h : Hdr := {}
     let p : Payload := pay [(0, 3), (1, 15), (8, 0x40000000), (16, 0x40000000)]
     let x := s.main.taken h.src
     let q := bvAt p 0 1
     let base := bvAt p 8 8
     let size := bvAt p 16 8
     s.main.serves 0x0502 h p [(0, 2), (8, 16)] (high := decide (bvAt p 1 1 < 16)) = true ∧
     (x.partOn = true ∧ q ∈ x.variant.parts) ∧
     (x.masked q = false ∧ x.partBusy q = false) ∧
     (base % 2 ^ 30 = 0 ∧ size % 2 ^ 30 = 0 ∧ (size = 0 ∨ base + size ≤ x.slowSize)) ∧
     (∀ o ∈ x.variant.parts, o ≠ q → overlap base size (x.partAt o).base (x.partAt o).size = false)) ∧
    (let s : State := { main := ready }
     let h : Hdr := {}
     let p : Payload := pay [(0, 3)]
     let x := s.main.taken h.src
     s.main.serves 0x0503 h p [(0, 1)] (reads := true) (owned := match h.src with | .tenant q => q.toNat = bvAt p 0 1 | _ => true) = true ∧
     bvAt p 0 1 ∈ x.variant.parts) ∧
    (let s : State := { main := tenanted }
     let h : Hdr := { src := .tenant 1, sid := 7 }
     let p : Payload := pay [(0, 1)]
     let x := s.main.taken h.src
     s.main.serves 0x0503 h p [(0, 1)] (reads := true) (owned := match h.src with | .tenant q => q.toNat = bvAt p 0 1 | _ => true) = true ∧
     bvAt p 0 1 ∈ x.variant.parts) ∧
    (let s : State := { main := ready }
     let h : Hdr := {}
     let p : Payload := pay [(0, 3)]
     s.main.serves 0x0504 h p [(0, 1)] = true ∧
     bvAt p 0 1 ∈ s.main.variant.parts) ∧
    (let s : State := { main := { tenanted with cxl := (hosted).cxl, part := [(1, { st := .sealed, sess := some 7, idle := 60, hostMask := 1 })] } }
     let h : Hdr := { src := .tenant 1, sid := 7 }
     let p : Payload := pay [(0, 2 ^ 46 * 0 + hostBase), (8, 0x6000000000), (16, 0x1000), (24, hostBase + 0x10000)]
     let q : BitVec 2 := 1
     let x := s.main.taken h.src
     let len := bvAt p 16 4
     s.main.serves 0x0520 h p [(0, 32)] = true ∧
     h.src = .tenant q ∧
     x.xferOk q.toNat (bvAt p 0 8) (bvAt p 8 8) (bvAt p 24 8) len = true) ∧
    (let s : State := { main := { tenanted with cxl := (hosted).cxl, part := [(1, { st := .sealed, sess := some 7, idle := 60, hostMask := 1 })] } }
     let h : Hdr := { src := .tenant 1, sid := 7 }
     let p : Payload := pay [(0, 0x6000000000), (8, hostBase), (16, 0x1000), (24, hostBase + 0x10000)]
     let q : BitVec 2 := 1
     let x := s.main.taken h.src
     let len := bvAt p 16 4
     s.main.serves 0x0521 h p [(0, 20), (24, 8)] = true ∧
     h.src = .tenant q ∧
     x.xferOk q.toNat (bvAt p 8 8) (bvAt p 0 8) (bvAt p 24 8) len = true) ∧
    (let s : State := { main := hosted }
     let b : Bool := false
     let mem : Bool := true
     let c := if b then s.main.cxl.b else s.main.cxl.a
     c.mode ≠ .down ∧
     (mem = true → c.pcie = false)) ∧
    (let s : State := { main := ready }
     let h : Hdr := {}
     let p : Payload := 0
     s.main.serves 0x0510 h p [] = true) ∧
    (let off : BitVec 20 := 0
     off = 0) ∧
    (let s : State := { main := { ready with clock := true } }
     let off : BitVec 20 := 0xFFFF8
     off ≠ 0 ∧
     s.main.dstate = 2) ∧
    (let s : State := { main := ready }
     let off : BitVec 20 := 0xFFFF8
     off ≠ 0 ∧
     s.main.dstate = 0) := by
  refine ⟨?_, ?_, ?_, ?_, ?_, ?_, ?_, ?_, ?_, ?_, ?_, ?_⟩ <;> decide +kernel

theorem test_wit_FirmwareCommandsComplete :
    (let s : State := { main := { ready with fw := { st := 1 } } }
     s.main.fw.st = 1 ∧
     s.main.sideUp = true) ∧
    (let s : State := { main := { ready with fw := { st := 1, step := 4, comp := 2 } } }
     s.main.fw.st = 1 ∧
     s.main.sideUp = true ∧
     s.main.fw.step = 4 ∧
     s.main.fw.comp < 3) ∧
    (let s : State := { main := ready }
     let h : Hdr := {}
     let p : Payload := 0
     s.main.serves 0x0602 h p [] (reads := true) = true) ∧
    (let s : State := { main := { ready with fw := { bankA := { verified := true }, bankB := { verified := true } } } }
     let h : Hdr := {}
     let p : Payload := 0
     s.main.serves 0x0603 h p [(0, 1)] = true ∧
     s.main.activateReason = 0 ∧
     bvAt p 0 1 = 0) ∧
    (let s : State := { main := { ready with fw := { bankA := { verified := true }, bankB := { verified := true } } } }
     let h : Hdr := {}
     let p : Payload := pay [(0, 1)]
     s.main.serves 0x0603 h p [(0, 1)] = true ∧
     s.main.activateReason = 0 ∧
     bvAt p 0 1 = 1) ∧
    (let s : State := { main := ready }
     let h : Hdr := {}
     let p : Payload := 0
     s.main.serves 0x0605 h p [(0, 1)] (anyState := bvAt p 0 1 = 1) = true ∧
     (bvAt p 0 1 = 1 ∨ bvAt p 0 1 = 0 ∧ s.main.inUse = false)) ∧
    (let s : State := { main := { ready with sup := { aux := true, state := .halted } } }
     let h : Hdr := {}
     let p : Payload := pay [(0, 1)]
     s.main.serves 0x0605 h p [(0, 1)] (anyState := bvAt p 0 1 = 1) = true ∧
     (bvAt p 0 1 = 1 ∨ bvAt p 0 1 = 0 ∧ s.main.inUse = false)) ∧
    (let s : State := { main := { ready with fw := { st := 1 } } }
     let h : Hdr := {}
     let p : Payload := 0
     let x := s.main.taken h.src
     s.main.serves 0x0604 h p [] = true ∧
     (x.fw.st = 1 → x.fw.side = Src.isSide h.src)) ∧
    (let s : State := { main := { ready with fw := { confirmed := some true, active := true } } }
     let h : Hdr := {}
     let p : Payload := 0
     let x := s.main.taken h.src
     s.main.serves 0x0606 h p [] = true ∧
     x.fw.confirmed = some x.fw.active) := by
  refine ⟨?_, ?_, ?_, ?_, ?_, ?_, ?_, ?_, ?_⟩ <;> decide +kernel

theorem test_wit_ProtectionCommandsComplete :
    (let s : State := { main := ready }
     let h : Hdr := {}
     let p : Payload := 0
     let a := bvAt p 1 1
     let b := bvAt p 2 1
     s.main.serves 0x0910 h p [(0, 3)] (reads := true) (owned := s.main.ownsMap h.src p) = true ∧
     bvAt p 0 1 = 0 ∧
     a = 0 ∧
     b = 0) ∧
    (let s : State := { main := ready }
     let h : Hdr := {}
     let p : Payload := pay [(0, 1), (1, 3), (2, 1)]
     let a := bvAt p 1 1
     let b := bvAt p 2 1
     s.main.serves 0x0910 h p [(0, 3)] (reads := true) (owned := s.main.ownsMap h.src p) = true ∧
     bvAt p 0 1 = 1 ∧
     a ≤ 3 ∧
     b ≤ 1) ∧
    (let s : State := { main := ready }
     let h : Hdr := {}
     let p : Payload := pay [(0, 2), (1, 3), (2, 1)]
     let a := bvAt p 1 1
     let b := bvAt p 2 1
     s.main.serves 0x0910 h p [(0, 3)] (reads := true) (owned := s.main.ownsMap h.src p) = true ∧
     bvAt p 0 1 = 2 ∧
     a ≤ 3 ∧
     b ≤ 1) ∧
    (let s : State := { main := ready }
     let h : Hdr := {}
     let p : Payload := pay [(0, 3), (1, 7), (2, 31)]
     let x := s.main.taken h.src
     let a := bvAt p 1 1
     let b := bvAt p 2 1
     s.main.serves 0x0910 h p [(0, 3)] (reads := true) (owned := s.main.ownsMap h.src p) = true ∧
     bvAt p 0 1 = 3 ∧
     a < x.variant.stacks ∧
     b ≤ 31) ∧
    (let s : State := { main := ready }
     let h : Hdr := {}
     let p : Payload := pay [(0, 4), (1, 5)]
     let x := s.main.taken h.src
     let a := bvAt p 1 1
     let b := bvAt p 2 1
     s.main.serves 0x0910 h p [(0, 3)] (reads := true) (owned := s.main.ownsMap h.src p) = true ∧
     bvAt p 0 1 = 4 ∧
     a < x.variant.ports ∧
     b = 0) ∧
    (let s : State := { main := ready }
     let h : Hdr := {}
     let p : Payload := pay [(0, 0x3F)]
     let x := s.main.taken h.src
     let mask := bvAt p 0 2
     s.main.serves 0x0912 h p [(0, 2)] = true ∧
     mask < 2 ^ x.variant.ports) ∧
    (let s : State := { main := ready }
     let h : Hdr := {}
     let p : Payload := pay [(0, 0), (1, 31), (8, 0xE000000008)]
     let t : Bool × Nat := (true, 0xE000000008)
     let x := s.main.taken h.src
     let mode := bvAt p 0 1
     let k := bvAt p 1 1
     let a := bvAt p 8 8
     s.main.serves 0x0932 h p [(0, 2), (8, 18)] (reads := bvAt p 0 1 % 2 = 1 || 3 < bvAt p 0 1) = true ∧
     k ≤ 31 ∧
     x.checkTarget a = some t ∧
     (x.checkDies t).all x.quiet = true ∧
     mode = 0 ∧
     a % 8 = 0) ∧
    (let s : State := { main := ready }
     let h : Hdr := {}
     let p : Payload := pay [(0, 1), (1, 31), (8, 0x10)]
     let t : Bool × Nat := (true, 0x10)
     let x := s.main.taken h.src
     let mode := bvAt p 0 1
     let k := bvAt p 1 1
     let a := bvAt p 8 8
     s.main.serves 0x0932 h p [(0, 2), (8, 18)] (reads := bvAt p 0 1 % 2 = 1 || 3 < bvAt p 0 1) = true ∧
     k ≤ 31 ∧
     x.checkTarget a = some t ∧
     (x.checkDies t).all x.quiet = true ∧
     mode = 1 ∧
     a % 8 = 0) ∧
    (let s : State := { main := ready }
     let h : Hdr := {}
     let p : Payload := pay [(0, 2), (1, 31), (8, 0x800)]
     let t : Bool × Nat := (true, 0x800)
     let x := s.main.taken h.src
     let mode := bvAt p 0 1
     let k := bvAt p 1 1
     let a := bvAt p 8 8
     s.main.serves 0x0932 h p [(0, 2), (8, 18)] (reads := bvAt p 0 1 % 2 = 1 || 3 < bvAt p 0 1) = true ∧
     k ≤ 31 ∧
     x.checkTarget a = some t ∧
     (x.checkDies t).all x.quiet = true ∧
     mode = 2 ∧
     a % 2048 = 0 ∧
     t.1 = true) ∧
    (let s : State := { main := ready }
     let h : Hdr := {}
     let p : Payload := pay [(0, 3), (1, 31), (8, 0)]
     let t : Bool × Nat := (true, 0)
     let x := s.main.taken h.src
     let mode := bvAt p 0 1
     let k := bvAt p 1 1
     let a := bvAt p 8 8
     s.main.serves 0x0932 h p [(0, 2), (8, 18)] (reads := bvAt p 0 1 % 2 = 1 || 3 < bvAt p 0 1) = true ∧
     k ≤ 31 ∧
     x.checkTarget a = some t ∧
     (x.checkDies t).all x.quiet = true ∧
     mode = 3 ∧
     a % 2048 = 0 ∧
     t.1 = true) ∧
    (let s : State := { main := ready }
     let a : BitVec 38 := (0x1FFFFFFFFF : BitVec 38)
     s.main.sup.rails = true ∧
     a.toNat / 2 ^ 34 < s.main.variant.stacks ∧
     (s.main.hbmAt (a.toNat / 2 ^ 34)).offline = false) ∧
    (let s : State := { main := ready }
     s.main.sup.rails = true) := by
  refine ⟨?_, ?_, ?_, ?_, ?_, ?_, ?_, ?_, ?_, ?_, ?_, ?_⟩ <;> decide +kernel

theorem test_wit_ProtectionCommandsComplete_more1 :
    (let s : State := { main := { ready with hbm := [(7, { ch := [(0, { fresh := 1 })] })] } }
     let a : BitVec 38 := 7 * 2 ^ 34
     let k : Nat := 1
     ((s.main.hbmAt (a.toNat / 2 ^ 34)).ch.get (s.main.chan (8 * a.toNat))).fresh = k ∧
     k ≠ 0) ∧
    (let s : State := { main := { ready with sram := [(3, { corrected := 1 })] } }
     let a : BitVec 30 := 3 * 2 ^ 28
     let k : Nat := 1
     (s.main.sramAt (a.toNat / 2 ^ 28)).corrected = k ∧
     k ≠ 0) ∧
    (let s : State := { main := { ready with die := [(3, { corrected := 1 })] } }
     let t : TileRef := ⟨3, 0⟩
     let k : Nat := 1
     (s.main.dieAt t.die.val).corrected = k ∧
     k ≠ 0) := by
  refine ⟨?_, ?_, ?_⟩ <;> decide +kernel

theorem test_wit_SuppliesAndStartUpComplete :
    (let s : State := {}
     s.main.sup.aux = false) ∧
    (let s : State := { main := ready }
     s.main.sup.aux = true) ∧
    (let s : State := { main := ready }
     let r : Fin 12 := 10
     s.main.sup.rails = true ∧
     (r ≠ 0 ∧ r ≠ 11) ∧
     (7 ≤ r.val → (s.main.dieAt (r.val - 7)).tripped = false)) ∧
    (let s : State := { main := ready }
     let r : Fin 12 := 6
     s.main.sup.rails = true ∧
     (r ≠ 0 ∧ r ≠ 11) ∧
     (7 ≤ r.val → (s.main.dieAt (r.val - 7)).tripped = false)) ∧
    (let s : State := { main := { sup := { aux := true, state := .starting, stage := 1 } } }
     s.main.sup.aux = true ∧
     s.main.sup.state ≠ .recovery ∧
     s.main.sup.stage = 1) ∧
    (let s : State := { main := { sup := { aux := true, state := .starting, stage := 2 } } }
     s.main.sup.aux = true ∧
     s.main.sup.state ≠ .recovery ∧
     s.main.sup.stage = 2) ∧
    (let s : State := { main := { sup := { aux := true, state := .starting, stage := 3 } } }
     s.main.sup.aux = true ∧
     s.main.sup.state ≠ .recovery ∧
     s.main.sup.stage = 3) ∧
    (let s : State := { main := { sup := { aux := true, state := .starting, stage := 4 } } }
     s.main.sup.aux = true ∧
     s.main.sup.state ≠ .recovery ∧
     s.main.sup.stage = 4 ∧
     s.main.sup.state = .starting) ∧
    (let s : State := { main := { sup := { aux := true, state := .starting, stage := 5 } } }
     s.main.sup.aux = true ∧
     s.main.sup.state ≠ .recovery ∧
     s.main.sup.stage = 5) ∧
    (let s : State := { main := { sup := { aux := true, state := .starting, stage := 6 } } }
     s.main.sup.aux = true ∧
     s.main.sup.state ≠ .recovery ∧
     s.main.sup.stage = 6) ∧
    (let s : State := { main := { sup := { aux := true, state := .starting, stage := 7 } } }
     s.main.sup.aux = true ∧
     s.main.sup.state ≠ .recovery ∧
     s.main.sup.stage = 7) ∧
    (let s : State := { main := { sup := { aux := true, state := .starting, stage := 8 } } }
     s.main.sup.aux = true ∧
     s.main.sup.state ≠ .recovery ∧
     s.main.sup.stage = 8) := by
  refine ⟨?_, ?_, ?_, ?_, ?_, ?_, ?_, ?_, ?_, ?_, ?_, ?_⟩ <;> decide +kernel

theorem test_wit_SuppliesAndStartUpComplete_more1 :
    (let s : State := { main := { sup := { aux := true, state := .starting, stage := 9 } } }
     s.main.sup.aux = true ∧
     s.main.sup.state ≠ .recovery ∧
     s.main.sup.stage = 9) ∧
    (let s : State := { main := { sup := { aux := true, state := .starting, stage := 9 } } }
     s.main.sup.aux = true ∧
     s.main.sup.state ≠ .recovery ∧
     (1 ≤ s.main.sup.stage.toNat ∧ s.main.sup.stage.toNat ≤ 9) ∧
     (s.main.sup.stage = 4 → s.main.sup.state = .starting)) ∧
    (let s : State := { main := { sup := { aux := true, stage := 1 } } }
     s.main.sup.aux = true ∧
     s.main.sup.state ≠ .recovery ∧
     (1 ≤ s.main.sup.stage.toNat ∧ s.main.sup.stage.toNat ≤ 9) ∧
     (s.main.sup.stage = 4 → s.main.sup.state = .starting)) := by
  refine ⟨?_, ?_, ?_⟩ <;> decide +kernel

theorem test_wit_PortResetsAndCoresComplete :
    (let s : State := { main := { cxl := { perst := false } } }
     s.main.cxl.perst = false) ∧
    (let s : State := { main := ready }
     let c : Fin 4 := 3
     (s.main.core.get c.val).runs = true) ∧
    (let s : State := { main := { sup := { aux := true }, fw := { booted := true } } }
     let c : Fin 4 := 3
     s.main.sup.aux = true ∧
     s.main.fw.booted = true ∧
     (s.main.core.get c.val).runs = false) := by
  refine ⟨?_, ?_, ?_⟩ <;> decide +kernel

theorem test_wit_TurnedAwayCommandsChangeNothing :
    let s : State := { main := ready }
    let h : Hdr := { rsvZero := false }
    let p : Payload := 0
    s.main.takes h.src = true ∧
    (s.main.serves 0x0210 h p [(0, 13), (16, 8)] (owned := s.main.owns h.src (s.main.variant.diePart (bvAt p 12 1))) = false ∧
    s.main.serves 0x0211 h p [(0, 2)] (owned := s.main.ownsDies h.src (p.extractLsb' 0 4)) (high := forcedRsv p) = false ∧
    s.main.serves 0x0212 h p [(0, 1)] (reads := true) (owned := s.main.owns h.src (s.main.variant.diePart (bvAt p 0 1))) = false ∧
    s.main.serves 0x0213 h p [(0, 1)] (owned := s.main.ownsDies h.src (p.extractLsb' 0 4)) (high := (bvAt p 0 1 < 16)) = false ∧
    s.main.serves 0x0214 h p [(0, 1), (8, 16)] (owned := s.main.owns h.src (s.main.variant.diePart (bvAt p 0 1))) = false ∧
    s.main.serves 0x0203 h p [(0, 8)] (owned := s.main.ownsJob h.src (bvAt p 0 4)) = false ∧
    s.main.serves 0x0931 h p [(0, 21), (24, 3)] (reads := true) (high := (bvAt p 26 1 ≤ 2)) = false ∧
    s.main.serves 0x0201 h p [(0, 5), (6, 22)] (high := openRsv p) = false ∧
    s.main.serves 0x0204 h p (if bvAt p 4 1 = 1 then [(0, 5), (8, 4)] else [(0, 5)]) (owned := s.main.ownsJob h.src (bvAt p 0 4)) = false ∧
    s.main.serves 0x0321 h p [(0, 1)] (reads := true) (owned := s.main.owns h.src (s.main.variant.diePart (bvAt p 0 1))) = false ∧
    s.main.serves 0x0302 h p [(0, 2), (8, 16)] = false ∧
    s.main.serves 0x0303 h p [(0, 2)] (reads := true) (owned := s.main.owns h.src (s.main.variant.stackPart (bvAt p 0 1))) = false) ∧
    (s.main.serves 0x0310 h p [(0, 1), (8, 16)] (high := regRsv p) = false ∧
    s.main.serves 0x0340 h p [(0, 32)] (owned := s.main.ownsJob h.src (bvAt p 0 4)) (high := (bvAt p 7 1 < 8)) = false ∧
    s.main.serves 0x0341 h p [(0, 5)] (owned := s.main.ownsJob h.src (bvAt p 0 4)) = false ∧
    s.main.serves 0x0342 h p [(0, 6)] (reads := true) (owned := s.main.ownsJob h.src (bvAt p 0 4)) = false ∧
    s.main.serves 0x0350 h p [(0, 5), (8, 8)] (owned := s.main.ownsJob h.src (bvAt p 0 4)) = false ∧
    s.main.serves 0x0351 h p [(0, 5), (8, 4)] (owned := s.main.ownsJob h.src (bvAt p 0 4)) = false ∧
    s.main.serves 0x0352 h p [(0, 22), (24, 4)] (owned := s.main.ownsJob h.src (bvAt p 0 4)) = false ∧
    s.main.serves 0x0353 h p [(0, 6), (8, 12)] (owned := s.main.ownsJob h.src (bvAt p 0 4)) = false ∧
    s.main.serves 0x0354 h p [(0, 5), (8, 16)] (owned := s.main.ownsJob h.src (bvAt p 0 4)) = false ∧
    s.main.serves 0x0355 h p [(0, 5), (8, 16)] (owned := s.main.ownsJob h.src (bvAt p 0 4)) = false ∧
    s.main.serves 0x0357 h p [(0, 6), (8, 16)] (owned := s.main.ownsJob h.src (bvAt p 0 4)) = false ∧
    s.main.serves 0x0358 h p [(0, 5)] (reads := true) (owned := s.main.ownsJob h.src (bvAt p 0 4)) = false) ∧
    (s.main.serves 0x0230 h p [(0, 28)] (owned := s.main.ownsJob h.src (bvAt p 0 4)) (high := (bvAt p 4 4 < 64)) = false ∧
    s.main.serves 0x0231 h p [(0, 24)] (owned := s.main.ownsJob h.src (bvAt p 0 4)) (high := (bvAt p 10 1 < 4)) = false ∧
    s.main.serves 0x0232 h p [(0, 4), (8, 8)] (owned := s.main.ownsJob h.src (bvAt p 0 4)) = false ∧
    s.main.serves 0x0233 h p [(0, 4), (8, 8)] (owned := s.main.ownsJob h.src (bvAt p 0 4)) = false ∧
    s.main.serves 0x0234 h p [(0, 4)] (reads := true) (owned := s.main.ownsJob h.src (bvAt p 0 4)) = false ∧
    s.main.serves 0x0801 h p [(0, 1)] (reads := true) = false ∧
    s.main.serves 0x0802 h p [(0, 3)] = false ∧
    s.main.serves 0x0803 h p [(0, 3)] = false ∧
    s.main.serves 0x0810 h p [(0, 7), (8, 2), (16, 8)] = false ∧
    s.main.serves 0x0811 h p [(0, 16)] (owned := s.main.ownsJob h.src (bvAt p 0 4)) = false ∧
    s.main.serves 0x0812 h p [(0, 6), (8, 24)] (owned := s.main.ownsJob h.src (bvAt p 0 4)) = false ∧
    s.main.serves 0x0813 h p [] (reads := true) = false) ∧
    (s.main.serves 0x0814 h p [(0, 5), (8, 4)] (owned := s.main.ownsJob h.src (bvAt p 0 4)) = false ∧
    s.main.serves 0x0820 h p [(0, 2), (8, 8)] (owned := !s.main.partOn || (s.main.owns h.src (bvAt p 1 1 / 8 % 4) && (!((s.main.fab.inmap.get (bvAt p 0 1)).valid) || s.main.owns h.src (s.main.fab.inmap.get (bvAt p 0 1)).part.toNat))) = false ∧
    s.main.serves 0x0360 h p [(0, 1), (8, 8)] = false ∧
    s.main.serves 0x0361 h p [(0, 2)] = false ∧
    s.main.serves 0x0362 h p [(0, 1), (8, 16)] = false ∧
    s.main.serves 0x0363 h p [(0, 4), (8, 8)] = false ∧
    s.main.serves 0x0364 h p [(0, 4)] (reads := true) (owned := s.main.ownsJob h.src (bvAt p 0 4)) = false ∧
    s.main.serves 0x0401 h p [(0, 1), (2, 8)] (high := (bvAt p 0 1 < 16)) = false ∧
    s.main.serves 0x0403 h p [(0, 3)] (reads := true) (owned := s.main.owns h.src (s.main.variant.diePart (bvAt p 0 2 / 512 % 4))) = false ∧
    s.main.serves 0x0404 h p [(0, 1)] (reads := true) (owned := s.main.owns h.src (s.main.variant.diePart (bvAt p 0 1 % 4))) = false ∧
    s.main.serves 0x0405 h p [(0, 1), (8, 2)] (high := (bvAt p 8 1 < 2)) = false ∧
    s.main.serves 0x0402 h p [(0, 3), (4, 8)] (high := decide (bvAt p 2 1 < 2)) = false) ∧
    (s.main.serves 0x0406 h p [] (reads := true) = false ∧
    s.main.serves 0x0410 h p [(8, 8)] (high := decide (bvAt p 14 2 < 16)) = false ∧
    s.main.serves 0x0407 h p [(0, 2)] (reads := true) (owned := s.main.owns h.src (s.main.variant.diePart (bvAt p 0 1 % 4))) = false ∧
    s.main.serves 0x0420 h p [] (reads := true) = false ∧
    s.main.serves 0x0101 h p [] (reads := true) = false ∧
    s.main.serves 0x0102 h p [(0, 1)] (reads := true) (anyState := true) = false ∧
    s.main.serves 0x0702 h p [] (reads := true) = false ∧
    s.main.serves 0x0704 h p [] = false ∧
    s.main.serves 0x0705 h p [(0, 1), (8, 24)] = false ∧
    s.main.serves 0x0703 h p [] = false ∧
    s.main.serves 0x0706 h p [] = false ∧
    s.main.serves 0x0501 h p [(0, 1)] = false) ∧
    (s.main.serves 0x0502 h p [(0, 2), (8, 16)] (high := decide (bvAt p 1 1 < 16)) = false ∧
    s.main.serves 0x0503 h p [(0, 1)] (reads := true) (owned := match h.src with | .tenant q => q.toNat = bvAt p 0 1 | _ => true) = false ∧
    s.main.serves 0x0520 h p [(0, 32)] = false ∧
    s.main.serves 0x0521 h p [(0, 20), (24, 8)] = false ∧
    s.main.serves 0x0510 h p [] = false ∧
    s.main.serves 0x0601 h p [(0, 8), (8, 4)] = false ∧
    s.main.serves 0x0602 h p [] (reads := true) = false ∧
    s.main.serves 0x0604 h p [] = false ∧
    s.main.serves 0x0606 h p [] = false ∧
    s.main.serves 0x0912 h p [(0, 2)] = false ∧
    s.main.serves 0x0701 h p [(0, 4)] (reads := true) = false ∧
    s.main.serves 0x0910 h p [(0, 3)] (reads := true) (owned := s.main.ownsMap h.src p) = false) ∧
    (s.main.serves 0x0932 h p [(0, 2), (8, 18)] (reads := bvAt p 0 1 % 2 = 1 || 3 < bvAt p 0 1) = false) := by
  refine ⟨?_, ?_, ?_, ?_, ?_, ?_, ?_⟩ <;> decide +kernel

theorem test_wit_QueriesChangeNothing :
    let s : State := { main := ready }
    let h : Hdr := {}
    let p : BitVec 256 := 0
    (∃ u, exec (.dieStatus h p) s = .next u) ∧
    (∃ u, exec (.generatorProbe h p) s = .next u) ∧
    (∃ u, exec (.stackedSramStatus h p) s = .next u) ∧
    (∃ u, exec (.readStateRegion h p) s = .next u) ∧
    (∃ u, exec (.weightLayerStatus h p) s = .next u) ∧
    (∃ u, exec (.numericsStatus h p) s = .next u) ∧
    (∃ u, exec (.collectiveStatus h p) s = .next u) ∧
    (∃ u, exec (.tailstockStatus h p) s = .next u) ∧
    (∃ u, exec (.readCharacterisedTable h p) s = .next u) ∧
    (∃ u, exec (.readWearLedger h p) s = .next u) ∧
    (∃ u, exec (.powerStatus h p) s = .next u) ∧
    (∃ u, exec (.thermalStatus h p) s = .next u) ∧
    (∃ u, exec (.meterMirrorStatus h p) s = .next u) ∧
    (∃ u, exec (.deviceIdentity h p) s = .next u) ∧
    (∃ u, exec (.deviceStatus h p) s = .next u) ∧
    (∃ u, exec (.ringLogStatus h p) s = .next u) ∧
    (∃ u, exec (.partitionStatus h p) s = .next u) ∧
    (∃ u, exec (.updateStatus h p) s = .next u) ∧
    (∃ u, exec (.readRecord h p) s = .next u) ∧
    (∃ u, exec (.degradationMap h p) s = .next u) ∧
    (∃ u, exec (.status h 0) s = .next u) ∧
    (∃ u, exec (.identify h 0) s = .next u) ∧
    (∃ u, exec (.readPower h 0) s = .next u) ∧
    (∃ u, exec (.tcs2ReadLog h 0) s = .next u) := by
  intro s h p
  and_intros
  all_goals exact ⟨_, rfl⟩

theorem test_wit_StepTakesTheFrontCommand :
    (∃ c rest, ({ main := ready, pending := [.stopRamp, .wearLedgerSave] } : State).pending = c :: rest) ∧
    (({ main := ready } : State).pending = [] ∧ ({ main := ready } : State).main.sup.aux = true) ∧
    (State.reset.pending = [] ∧ State.reset.main.sup.aux = false) := ⟨⟨_, _, rfl⟩, by decide, by decide⟩

theorem test_wit_MainSideNeverReachesTheMeter :
    (∃ t, exec .stopRamp { main := ready } = .next t) ∧
    ∃ t, exec .coverOpened { main := ready, meter := { running := true } } = .next t := ⟨⟨_, rfl⟩, ⟨_, rfl⟩⟩

/-- A running meter that has delivered a watt-hour and a half, with its cover opened and logged. -/
def metering : Meter :=
  { running := true, energy := 1500, part := 3599999, ms := 999, pulses := 15, cover := true, log := [{ code := 5 }] }

theorem test_wit_MeterKept :
    metering.Sound ∧ metering.cover = true ∧
    ∃ t, step { main := ready, meter := metering, pending := [.meterUpdate 1000 0 0 0] } = .next t :=
  ⟨⟨by decide, by decide, by decide, by decide, fun _ => .inl ⟨_, .head _, rfl⟩⟩, rfl, ⟨_, rfl⟩⟩

theorem test_wit_ChannelMapIsOneToOne :
    (let o := 2 ^ 37 - 1; o < 2 ^ 37 ∧ chanOf o = chanOf o ∧ chanAddr o = chanAddr o) ∧
    (let g := 2 ^ 20 - 1; let b := 2 ^ 12 - 1; g < 2 ^ 20 ∧ b < 2 ^ 12 ∧ chanOf ((g * 32 + 31) * 2 ^ 12 + b) < 32) := by decide +kernel

theorem test_wit_CompletionCounters :
    let m := runs { tl with w := [(15, 0xFFFF), (14, 0xFFFE)] }
    let o : Op := { sig := some 15 }
    (m.tileAt 0).w.get (15 : BitVec 4).toNat = 0xFFFF ∧ (m.tileAt 0).w.get (14 : BitVec 4).toNat ≠ 0xFFFF ∧ o.sig = some 15 ∧
    ((m.tileAt 0).apply o).2 = true ∧ (((m.tileAt 0).apply o).1.retireOp o).w.get (15 : BitVec 4).toNat = 0xFFFF := by
  decide +kernel

theorem test_wit_PowerEventsLeaveTheWork : ∃ u, exec .startOffsetExpiry { main := ready } = .next u := ⟨_, rfl⟩

theorem test_wit_StoresWriteExactlyTheirBytes :
    let m : Mem := { cells := [(7, 1), (24, 2)] }
    let l : List Byte := [1, 0, 0, 0, 0, 0, 0, 255]
    Memory.wf m = true ∧ 16 % 8 = 0 ∧ l.length % 8 = 0 ∧ 7 < l.length ∧ (15 < 16 ∨ 16 + l.length ≤ 15) ∧
    (24 < 16 ∨ 16 + l.length ≤ 24) := by decide +kernel

theorem test_wit_RegisterInstructionsFrame :
    let s : State := { main := runs tl }
    let f : Fields := { sa := 0 }
    let l : Fields := { imm := 1 }
    (s.main.tileAt 0).quiet ∧ f.se = 0 ∧ f.wn = 0 ∧ f.qa.getLsbD 5 = false ∧ f.qb.getLsbD 5 = false ∧
    (∀ op ∈ [0x00, 0x06, 0x07, 0x0A, 0x0B, 0x0C], s.main.issues 0 ⟨0, op, f⟩ []) ∧ s.main.issues 0 ⟨0, 0x04, l⟩ [] := by
  decide +kernel

theorem test_wit_RegisterInstructionsFrame_next :
    let s : State := { main := runs tl }
    let t : TileRef := ⟨0, 0⟩
    (∃ u, exec (.nop t 0 {}) s = .next u) ∧ (∃ u, exec (.loop t 0 { imm := 1 }) s = .next u) ∧ (∃ u, exec (.cinv t 0 {}) s = .next u) ∧
    (∃ u, exec (.smovi t 0 {}) s = .next u) ∧ (∃ u, exec (.salu t 0 {}) s = .next u) ∧ (∃ u, exec (.getid t 0 {}) s = .next u) ∧
    ∃ u, exec (.flagrd t 0 {}) s = .next u :=
  ⟨⟨_, rfl⟩, ⟨_, rfl⟩, ⟨_, rfl⟩, ⟨_, rfl⟩, ⟨_, rfl⟩, ⟨_, rfl⟩, ⟨_, rfl⟩⟩

theorem test_wit_LinkEventsComplete_accepted :
    let s : State := { main := { ready with fab := { port := [(8, { st := .up })] } } }
    let q : Fin 9 := 8
    let hb : BitVec 256 := 0
    let body : List Byte := []
    let k := s.main.portAt q.val
    let nonce := fun (key : List Byte) => linkNonce key k.rxPackets
    ∃ (tag : BitVec 128) (key : List Byte), (s.main.portAt q.val).runs = true ∧
      ((k.genOf (Hd.of hb).phase).map (linkKey k.key false)).filter
        (fun key => Config.gcmTag (key.take 32) (nonce key) (bvBytes hb 32) body = tag) = some key := by
  intro s q hb body k nonce
  have hg : k.genOf (Hd.of hb).phase = some 0 := by decide +kernel
  refine ⟨Config.gcmTag ((linkKey k.key false 0).take 32) (nonce (linkKey k.key false 0)) (bvBytes hb 32) body,
    linkKey k.key false 0, by decide +kernel, ?_⟩
  rw [hg]
  simp [Option.filter]

/-! Two witnesses over a page of 4 KiB, built from lemmas over its zeros. -/

theorem read_zeros (m : Mem) (a n : Nat) (hs : m.side = []) (hu : m.undef = [])
    (hc : ∀ e ∈ m.cells, e.1 < a) : m.read a n = List.replicate n 0 := by
  have hg : ∀ (l : List (Nat × Byte)) (c : Nat), (∀ e ∈ l, e.1 < c) → cellGet l c = none := by
    intro l
    induction l with
    | nil => intros; rfl
    | cons e l ih =>
      intro c h
      have h1 := h e (by simp)
      have h2 := ih c (fun e he => h e (by simp [he]))
      simp [cellGet, h2]
      omega
  refine List.eq_replicate_iff.2 ⟨by simp [Mem.read], fun b hb => ?_⟩
  obtain ⟨i, _, rfl⟩ := List.mem_map.1 hb
  have : cellGet m.cells (a + i) = none := hg _ _ (fun e he => by have := hc e he; omega)
  simp [Mem.byte, hs, Table.find, Mem.raw, this, hu, Mem.undefAt]

theorem host_get {m : Main} {p a n o h : Nat} (h1 : m.mapped p a n = true) (h2 : m.rngFor p a = .host o)
    (h3 : m.aServes p = true) (h4 : m.hostPieces o n 5 = [(h, n)]) (h5 : m.mem.host.bad h n = false) :
    m.daGet p a n = (m.d2h .rdCurr o n, some (m.mem.host.read h n)) := by
  simp [Main.daGet, Main.hostBytes, *]

theorem test_wit_CollectiveCommandsComplete_membership :
    let s : State := { main := hosted }
    let h : Hdr := {}
    let p : Payload := pay [(0, 1), (4, 32), (5, 32), (6, 32), (8, 32767), (16, hostBase)]
    let t : List Byte := List.replicate 8192 0
    let x := s.main.taken h.src
    ∃ m1 : Main, s.main.serves 0x0810 h p [(0, 7), (8, 2), (16, 8)] = true ∧ p.extractLsb' 0 32 = x.fab.epoch + 1 ∧
      (∀ i < 3, 1 ≤ bvAt p (4 + i) 1 ∧ bvAt p (4 + i) 1 ≤ 32 ∧ coord (bvAt p 8 2) i < bvAt p (4 + i) 1) ∧
      (x.variant = .oa101 → bvAt p 5 1 = 1 ∧ bvAt p 6 1 = 1) ∧ bvAt p 8 2 < 2 ^ 15 ∧
      (∀ n, x.fab.node = some n → n.toNat = bvAt p 8 2) ∧ x.mapped 4 (bvAt p 16 8) 8192 = true ∧
      x.daGet 4 (bvAt p 16 8) 8192 = (m1, some t) ∧ ∀ n < 32768, memberOf t n ≠ 3 := by
  intro s h p t x
  have hz : x.mem.host.read 0 8192 = t := read_zeros _ _ _ (by decide +kernel) (by decide +kernel) (by decide +kernel)
  have e := host_get (m := x) (p := 4) (a := bvAt p 16 8) (n := 8192) (o := 0) (h := 0)
    (by decide +kernel) (by decide +kernel) (by decide +kernel) (by decide +kernel) (by decide +kernel)
  rw [hz] at e
  have hf : x.fab.node = none := by decide +kernel
  refine ⟨_, by decide +kernel, by decide +kernel, by decide +kernel, by decide +kernel, by decide +kernel,
    by simp [hf], by decide +kernel, e, fun n hn => ?_⟩
  have ht : t.getD (n / 4) 0 = 0 := by
    rw [List.getD_eq_getElem?_getD, List.getElem?_replicate]; split <;> rfl
  rw [memberOf, ht]
  simp

/-- The CRC state after 128 zero bytes. -/
def crcZ (c : U32) : U32 := (List.replicate 128 (0 : Byte)).foldl (fun c b => crcBits 0x82F63B78 8 (c ^^^ b.zeroExtend 32)) c
theorem crcZ_0 : crcZ 4294967295#32 = 4158167844#32 ∧ crcZ 4158167844#32 = 1200442991#32 ∧ crcZ 1200442991#32 = 1158271177#32 ∧ crcZ 1158271177#32 = 3473084991#32 ∧ crcZ 3473084991#32 = 534250289#32 ∧ crcZ 534250289#32 = 3318006521#32 ∧ crcZ 3318006521#32 = 225952960#32 ∧ crcZ 225952960#32 = 290529667#32 := by decide +kernel
theorem crcZ_1 : crcZ 290529667#32 = 2823063697#32 ∧ crcZ 2823063697#32 = 1921003501#32 ∧ crcZ 1921003501#32 = 1799837726#32 ∧ crcZ 1799837726#32 = 175100626#32 ∧ crcZ 175100626#32 = 4225181274#32 ∧ crcZ 4225181274#32 = 1540069788#32 ∧ crcZ 1540069788#32 = 1357258748#32 ∧ crcZ 1357258748#32 = 1534491824#32 := by decide +kernel
theorem crcZ_2 : crcZ 1534491824#32 = 582457874#32 ∧ crcZ 582457874#32 = 332020171#32 ∧ crcZ 332020171#32 = 3827288015#32 ∧ crcZ 3827288015#32 = 1307576961#32 ∧ crcZ 1307576961#32 = 663433124#32 ∧ crcZ 663433124#32 = 609686098#32 ∧ crcZ 609686098#32 = 3628614574#32 ∧ crcZ 3628614574#32 = 3746741852#32 := by decide +kernel
theorem crcZ_3 : crcZ 3746741852#32 = 4052690100#32 ∧ crcZ 4052690100#32 = 176297486#32 ∧ crcZ 176297486#32 = 397096062#32 ∧ crcZ 397096062#32 = 4151263722#32 ∧ crcZ 4151263722#32 = 2176660693#32 ∧ crcZ 2176660693#32 = 338346065#32 ∧ crcZ 338346065#32 = 1420788027#32 ∧ crcZ 1420788027#32 = 1728495222#32 := by decide +kernel
theorem crc_zero_page : crc32c (List.replicate 4096 (0 : Byte)) = 2566472073 := by
  have h : List.replicate 4096 (0 : Byte) = (List.replicate 32 (List.replicate 128 (0 : Byte))).flatten := by
    simp
  rw [crc32c, h, List.foldl_flatten]
  have e : ∀ (n : Nat) (c : U32), (List.replicate n (List.replicate 128 (0 : Byte))).foldl
      (List.foldl (fun c b => crcBits 0x82F63B78 8 (c ^^^ b.zeroExtend 32))) c = Nat.repeat crcZ n c := by
    intro n
    induction n with
    | zero => intros; rfl
    | succ n ih => intro c; rw [List.replicate_succ', List.foldl_append, ih]; rfl
  rw [e]
  simp [Nat.repeat, crcZ_0, crcZ_1, crcZ_2, crcZ_3]

theorem test_wit_NumericsCommandsComplete_load :
    let hd : List Byte := fld 64 [(0, 0x4D554E56), (12, 2566472073)]
    let s : State := { main := { hosted (({} : Mem).write 0 hd) with jobs := [(1, { dies := 1 })] } }
    let h : Hdr := {}
    let p : Payload := pay [(0, 1), (8, hostBase)]
    let j : Job := { dies := 1 }
    let b : List Byte := List.replicate 4096 0
    let x := s.main.taken h.src
    let part := x.diePartOf ((diesOf j.dies).headD 0)
    let n := natAt hd 4 4
    let m1 := x.d2h .rdCurr 0 64
    let m2 := m1.d2h .rdCurr 64 4096
    s.main.serves 0x0233 h p [(0, 4), (8, 8)] (owned := s.main.ownsJob h.src (bvAt p 0 4)) = true ∧
    x.job? (bvAt p 0 4) = some j ∧ j.stepOpen = false ∧ bvAt p 8 8 % 64 = 0 ∧
    x.daGet part (bvAt p 8 8) 64 = (m1, some hd) ∧
    (natAt hd 0 4 = 0x4D554E56 ∧ n ≤ 4096 ∧ zeroAt hd 16 48 = true) ∧
    m1.daGet part (bvAt p 8 8 + 64) (80 * n + 4096) = (m2, some b) ∧
    (crc32c b).toNat = natAt hd 12 4 ∧ ((List.range n).map (fun k => bytesAt b (80 * k) 80)).all recordOk = true := by
  intro hd s h p j b x part n m1 m2
  have hn : n = 0 := by decide +kernel
  have hr : x.mem.host.read 0 64 = hd := by decide +kernel
  have hz : m1.mem.host.read 64 4096 = b :=
    read_zeros _ _ _ (by decide +kernel) (by decide +kernel) (by decide +kernel)
  have e1 := host_get (m := x) (p := part) (a := bvAt p 8 8) (n := 64) (o := 0) (h := 0)
    (by decide +kernel) (by decide +kernel) (by decide +kernel) (by decide +kernel) (by decide +kernel)
  have e2 := host_get (m := m1) (p := part) (a := bvAt p 8 8 + 64) (n := 4096) (o := 64) (h := 64)
    (by decide +kernel) (by decide +kernel) (by decide +kernel) (by decide +kernel) (by decide +kernel)
  rw [hr] at e1
  rw [hz] at e2
  refine ⟨by decide +kernel, by decide +kernel, by decide +kernel, by decide +kernel, e1, by decide +kernel, ?_, ?_, ?_⟩
  · rw [hn]; exact e2
  · rw [crc_zero_page]; decide +kernel
  · rw [hn]; rfl

/-- The first 1,010 bytes of `manifest`. -/
def manBytes : List Byte :=
  fld 64 [(0, 0x4D464E56), (4, 3), (6, 256), (8, 1010), (12, 1), (16, 2), (22, 4), (23, 3)] ++ List.replicate 192 0 ++
  fld 16 [(0, 1), (8, 4096), (12, 1)] ++ List.replicate 144 0 ++ fld 16 [(0, 2), (8, 4096), (12, 1)] ++ List.replicate 144 0 ++
  fld 16 [(0, 3), (8, 4096), (12, 1)] ++ List.replicate 144 0 ++ fld 16 [(0, 4), (8, 4096), (12, 1)] ++ List.replicate 258 0

theorem zeroAt_tail (l : List Byte) (n : Nat) : zeroAt (l ++ List.replicate n 0) l.length n = true := by
  simp [zeroAt, bytesAt, List.getD_eq_getElem?_getD, List.getElem?_append, List.getElem?_replicate]
  intro i hi
  simp [hi]

theorem read_append (m : Mem) (a k n : Nat) : m.read a (k + n) = m.read a k ++ m.read (a + k) n := by
  simp [Mem.read, List.range_add, Nat.add_assoc]

theorem test_wit_FirmwareCommandsComplete_start :
    let s : State := { main := hosted manifest }
    let h : Hdr := {}
    let p : Payload := pay [(0, hostBase), (8, 20480)]
    let b : List Byte := manBytes ++ List.replicate 3086 0
    let x := s.main.taken h.src
    let a := bvAt p 0 8
    let len := bvAt p 8 4
    s.main.serves 0x0601 h p [(0, 8), (8, 4)] = true ∧ x.fw.st ≠ 1 ∧ x.packageRead a 4096 = (x.d2h .rdCurr 0 4096, some b) ∧
    (manifestFits b = true ∧ zeroAt b 1010 3086 = true ∧ len = packageLen b) ∧
    (natAt b 16 4 = 2 ∧ (natAt b 21 1 = 1 → natAt b 24 16 = x.serial.toNat) ∧ x.fw.minsec ≤ natAt b 20 1) ∧
    ∀ i < 4, x.baseFits (manEntry b i) = true := by
  intro s h p b x a len
  have hl : manBytes.length = 1010 := by decide +kernel
  have h1 : x.mem.host.read 0 1010 = manBytes := by decide +kernel
  have h2 : x.mem.host.read (0 + 1010) 3086 = List.replicate 3086 0 :=
    read_zeros _ _ _ (by decide +kernel) (by decide +kernel) (by decide +kernel)
  have hb : x.mem.host.read 0 4096 = b := by
    rw [show (4096 : Nat) = 1010 + 3086 from rfl, read_append, h1, h2]
  have e := host_get (m := x) (p := 4) (a := a) (n := 4096) (o := 0) (h := 0)
    (by decide +kernel) (by decide +kernel) (by decide +kernel) (by decide +kernel) (by decide +kernel)
  rw [hb] at e
  have hr : x.rngFor 4 a = .host 0 := by decide +kernel
  refine ⟨by decide +kernel, by decide +kernel, ?_, ⟨by decide +kernel, ?_, by decide +kernel⟩,
    ⟨by decide +kernel, by decide +kernel, by decide +kernel⟩, by decide +kernel⟩
  · rw [Main.packageRead, hr]; exact e
  · rw [← hl]; exact zeroAt_tail manBytes 3086

end Sys2Proof.Tests
end

section
/-! SUPPORT. What every command and every step keeps: each command changes the main side alone or the meter alone, or is the mirror
frame, so none ends a run and none touches the queue of waiting commands (R12, R391, R405). -/

namespace Sys2Proof.Machine

/-- What a command of the table can do: change the main side alone, change the meter alone, or be the one path between them
(R375, R376, R383). Facts about every command follow from these three cases. -/
theorem exec_cases (c : Instr) (s : State) :
    (∃ m, exec c s = s.nextMain m) ∨ (∃ v, exec c s = s.nextMeter v) ∨
      ∃ seq power volt curr good, c = .mirrorFrame seq power volt curr good := by
  cases c
  case mirrorFrame seq power volt curr good => exact .inr (.inr ⟨seq, power, volt, curr, good, rfl⟩)
  case meterUpdate | verificationPulseEnd | meterStart | meterSupplyLoss | coverOpened | readEnergyRecord | readLog | meterIdentity |
      meterSpdmRequest => exact .inr (.inl ⟨_, rfl⟩)
  all_goals exact .inl ⟨_, rfl⟩

/-- The mirror frame answers a next state where the meter or AUX is down too (R383, R384). -/
theorem execMirrorFrame_keepsPending (seq power volt curr : U32) (good : Bool) (s : State) :
    ∃ t, execMirrorFrame seq power volt curr good s = .next t ∧ t.pending = s.pending := by
  unfold execMirrorFrame
  split
  · exact ⟨s, rfl, rfl⟩
  · exact ⟨_, rfl, rfl⟩

/-- Every command answers a next state, with the same commands waiting. -/
theorem exec_keepsPending (c : Instr) (s : State) : ∃ t, exec c s = .next t ∧ t.pending = s.pending := by
  obtain ⟨m, hm⟩ | ⟨v, hv⟩ | ⟨seq, power, volt, curr, good, rfl⟩ := exec_cases c s
  · exact ⟨{ s with main := m }, hm, rfl⟩
  · exact ⟨{ s with meter := v }, hv, rfl⟩
  · exact execMirrorFrame_keepsPending seq power volt curr good s

theorem step_of_pending_nil {s : State} (h : s.pending = []) : step s = s.nextMain s.main.tick := by
  simp only [step, State.nextMain, h]

theorem step_of_pending_cons {s : State} {c : Instr} {rest : List Instr} (h : s.pending = c :: rest) :
    step s = exec c { s with pending := rest } := by
  simp only [step, h]

/-- Settles O47: on an empty queue the clock alone runs, and otherwise the front command keeps the queue's rest. -/
theorem everyStepCompletes : Obligations.EveryStepCompletes := by
  intro s
  cases hq : s.pending with
  | nil => exact ⟨_, step_of_pending_nil hq, hq⟩
  | cons c rest =>
    rw [step_of_pending_cons hq]
    exact exec_keepsPending c _

end Sys2Proof.Machine
end

section
/-! SUPPORT. BAR0 and its mailboxes: what a commit, a snapshot, a handover, a completion and a register write do
(R12, R390–R400). -/

namespace Sys2Proof.Machine

/-! ### Commits and snapshots: the action rows set bit 0 of the written word -/

theorem Main.intrCtl_commit (m : Main) (v : U64) : m.intrCtl (v ||| 1) = m.vmapCommit := by
  simp [Main.intrCtl]

theorem Main.snapCtl_snapshot (m : Main) (v : U64) : m.snapCtl (v ||| 1) = m.globalSnap := by
  simp [Main.snapCtl]

/-- Where no named block would reject, every one is committed (R395). -/
theorem Main.multiCommit_applied {m : Main} {v : U64}
    (h : ∀ b ∈ (List.range 5).filter v.getLsbD, m.blockRejects b = false) :
    m.multiCommit v = ((List.range 5).filter v.getLsbD).foldl Main.blockCommit m := by
  have hbad : ((List.range 5).filter v.getLsbD).filter m.blockRejects = [] :=
    List.filter_eq_nil_iff.2 fun b hb => by simp [h b hb]
  simp only [Main.multiCommit, hbad, if_true]

/-- Where a named block would reject, the blocks that reject are committed alone, which only records the rejections (R395). -/
theorem Main.multiCommit_rejected {m : Main} {v : U64}
    (h : ∃ b ∈ (List.range 5).filter v.getLsbD, m.blockRejects b = true) :
    m.multiCommit v = (((List.range 5).filter v.getLsbD).filter m.blockRejects).foldl Main.blockCommit m := by
  obtain ⟨b, hb, hr⟩ := h
  have hbad : ((List.range 5).filter v.getLsbD).filter m.blockRejects ≠ [] :=
    List.ne_nil_of_mem (List.mem_filter.2 ⟨hb, hr⟩)
  simp only [Main.multiCommit, hbad, if_false]

/-! ### Handover -/

/-- Host mailbox `k` with the fields of its control register that a write of `v` takes, GO aside (R397). -/
def Main.boxSettings (m : Main) (k : Nat) (v : U64) : Main :=
  m.updBox k (fun b => { b with
    done := b.done && !v.getLsbD 2, cie := v.getLsbD 3, cmem := v.getLsbD 4, vec := some (v.extractLsb' 8 6) })

theorem vecField_or_one (v : U64) : (v ||| 1#64).extractLsb' 8 6 = v.extractLsb' 8 6 := by
  ext i hi
  simp

theorem Main.boxSettings_or_one (m : Main) (k : Nat) (v : U64) : m.boxSettings k (v ||| 1#64) = m.boxSettings k v := by
  simp [Main.boxSettings, vecField_or_one]

/-- A write with GO to a mailbox that software owns and no session has bound (R398, R430). -/
theorem Main.boxCtl_handsOver {m : Main} {k : Nat} {v : U64} (hgo : v.getLsbD 0 = true)
    (hown : ((m.boxSettings k v).box.get k).own = false) (hbound : ((m.boxSettings k v).box.get k).bound = false) :
    m.boxCtl k v = ((m.boxSettings k v).updBox k (fun b => { b with
      own := true, done := false, lCie := b.cie, lCmem := b.cmem, lVec := v.extractLsb' 8 6, lOffs := b.offs })).handOver
        (.host (BitVec.ofNat 4 k)) ((m.boxSettings k v).box.get k).cmd := by
  unfold Main.boxSettings at *
  simp only [Main.boxCtl, hgo, hown, hbound, Bool.not_true, Bool.or_self, Bool.false_eq_true, if_false]

/-- MAILBOX_GO sets GO and writes the other fields as they are given (R398). -/
theorem Main.boxCtl_go {m : Main} {k : Nat} {v : U64}
    (hown : ((m.boxSettings k v).box.get k).own = false) (hbound : ((m.boxSettings k v).box.get k).bound = false) :
    m.boxCtl k (v ||| 1#64) = ((m.boxSettings k v).updBox k (fun b => { b with
      own := true, done := false, lCie := b.cie, lCmem := b.cmem, lVec := v.extractLsb' 8 6, lOffs := b.offs })).handOver
        (.host (BitVec.ofNat 4 k)) ((m.boxSettings k v).box.get k).cmd := by
  rw [← m.boxSettings_or_one] at hown hbound
  rw [Main.boxCtl_handsOver (by simp) hown hbound, m.boxSettings_or_one, vecField_or_one]

/-- A side-band request that a mailbox of the endpoint can take or is busy for: from the endpoint that assigned the ID, of the length,
version and mailbox number that R400 gives. -/
theorem Main.sideRequest_wellFormed {m : Main} {eid : Byte} {body : List Byte} (hup : m.sideUp = true) (hid : m.sb.eid ≠ 0)
    (hfrom : eid = m.sb.owner) (hlen : body.length = 66) (hver : natAt body 0 1 = 1) (hk : natAt body 1 1 ≤ 3) :
    m.sideRequest eid body =
      if (m.side.get (natAt body 1 1)).busy then m.send (.side (BitVec.ofNat 8 (natAt body 1 1)) 0x82 0)
      else { m with side := m.side.upd (natAt body 1 1) (fun b => { b with busy := true }) }.handOver
        (.side (BitVec.ofNat 2 (natAt body 1 1))) (bvOf 512 (body.drop 2)) := by
  have hserved : (!m.sideUp || m.sb.eid = 0 || eid != m.sb.owner) = false := by simpa [hup, hfrom] using hid
  have hform : (body.length != 66 || natAt body 0 1 != 1 || 3 < natAt body 1 1) = false := by simp [hlen, hver, hk]
  simp only [Main.sideRequest, hserved, hform, Bool.false_eq_true, if_false]

theorem Main.sideUp_of_core {m : Main} (haux : m.sup.aux = true) (hrun : (m.core.get 3).runs = true) : m.sideUp = true := by
  simp [Main.sideUp, haux, hrun]

/-! ### Completion -/

section Completion

variable {m : Main} {r : Resp} {rest : List Resp} {visible : Bool}

/-- The state and the oldest response as a completion finds them: the response has left the list, the command is counted, and a
pinned-pool setting has taken the steps it leaves to its completion (R147, R398). -/
def Main.completing (m : Main) (r : Resp) (rest : List Resp) : Main × Resp :=
  ({ m with resps := rest, cmds := m.cmds + 1 } : Main).poolDone r

theorem Main.completeNext_host (hr : m.resps = r :: rest) (hrun : (m.core.get 0).runs = true) {k : BitVec 4}
    (hsrc : (m.completing r rest).2.src = .host k) :
    m.completeNext visible = (m.completing r rest).1.completeHost k.toNat (m.completing r rest).2 visible := by
  unfold Main.completing at *
  simp only [Main.completeNext, hr, hrun, hsrc, Bool.true_or, Bool.not_true, Bool.false_eq_true, if_false]

theorem Main.completeNext_tenant (hr : m.resps = r :: rest) (hrun : (m.core.get 0).runs = true) {q : BitVec 2}
    (hsrc : (m.completing r rest).2.src = .tenant q) :
    m.completeNext visible = (m.completing r rest).1.completeTenant q.toNat (m.completing r rest).2 := by
  unfold Main.completing at *
  simp only [Main.completeNext, hr, hrun, hsrc, Bool.true_or, Bool.not_true, Bool.false_eq_true, if_false]

/-- A side-band mailbox's response needs core 3 too (R387, R400). -/
theorem Main.completeNext_side (hr : m.resps = r :: rest) (hrun : (m.core.get 0).runs = true) (hside : (m.core.get 3).runs = true)
    {k : BitVec 2} (hsrc : (m.completing r rest).2.src = .side k) :
    m.completeNext visible =
      let out := (m.completing r rest).2.bytes ((m.side.get k.toNat).seq + 1) m.us
      Main.send { (m.completing r rest).1 with
        side := m.side.put k.toNat { busy := false, seq := (m.side.get k.toNat).seq + 1, resp := out } }
        (.side (k.setWidth 8) 0x81 out) := by
  unfold Main.completing at *
  simp only [Main.completeNext, hr, hrun, hside, hsrc, Bool.true_or, Bool.not_true, Bool.false_eq_true, if_false]

end Completion

/-! ### Register writes -/

section RegisterWrite

variable {m : Main} {off size : Nat} {v : BitVec 512}

theorem inCmd_eq_false_of_inMsix (h : inMsix off = true) : inCmd off = false := by
  simp only [inMsix, Bool.and_eq_true, decide_eq_true_eq] at h
  simp only [inCmd, Bool.and_eq_false_iff, decide_eq_false_iff_not]
  omega

/-- A naturally aligned write of a size that its place takes reaches a command buffer, the MSI-X table or a register (R12, R391). -/
theorem Main.barWrite_accepted (hs : size ∈ [4, 8, 16, 32, 64]) (ha : off % size = 0)
    (hw : size ≤ 8 ∨ inCmd off = true ∨ inMsix off = true) :
    m.barWrite off size v =
      if inCmd off then
        if (m.box.get ((off - 0x10000) / 0x100)).own || (m.box.get ((off - 0x10000) / 0x100)).bound then m
        else m.updBox ((off - 0x10000) / 0x100) (fun b => { b with cmd := putBytes b.cmd (off % 0x100) size v })
      else if inMsix off then
        m.updIntr (fun i => { i with table := (List.range size).foldl (fun t j => cellPut t (off - 0x3F0000 + j) (bvByte v j)) i.table })
      else m.regSet (off / 8 * 8) (v.setWidth 64 <<< (8 * (off % 8)))
        (if size = 8 then 0xFFFFFFFFFFFFFFFF else 0xFFFFFFFF <<< (8 * (off % 8))) := by
  have hc : (!([4, 8, 16, 32, 64].contains size) || off % size != 0 || (8 < size && !(inCmd off || inMsix off))) = false := by
    rcases hw with hw | hw | hw
    · simp [hs, ha, Nat.not_lt.2 hw]
    · simp [hs, ha, hw]
    · simp [hs, ha, hw]
  simp only [Main.barWrite, hc, Bool.false_eq_true, if_false]

end RegisterWrite

/-- Settles O34: each row is its register block's or mailbox's operation on the main side, which the lemmas above describe. -/
theorem registerBlocksAndMailboxesComplete : Obligations.RegisterBlocksAndMailboxesComplete := by
  refine ⟨?identity, ?status, ?firstLogged, ?interrupt, ?multi, ?snapshot, ?go, ?completion, ?side, ?write⟩
  case identity =>
    intro s h p hserves x
    exact congrArg s.nextMain (Main.command_done hserves rfl)
  case status =>
    intro s h p hserves x hsel
    exact congrArg s.nextMain (Main.command_done hserves (by simp only [Main.devStatus, hsel]; rfl))
  case firstLogged =>
    intro s h p hserves x hsel
    exact congrArg s.nextMain (Main.command_done hserves (by simp only [Main.devStatus, hsel]; rfl))
  case interrupt =>
    intro s v
    exact congrArg s.nextMain (s.main.intrCtl_commit v)
  case multi =>
    intro s v named
    exact ⟨fun h => congrArg s.nextMain (Main.multiCommit_applied h), fun h => congrArg s.nextMain (Main.multiCommit_rejected h)⟩
  case snapshot =>
    intro s v n
    exact congrArg s.nextMain (s.main.snapCtl_snapshot v)
  case go =>
    intro s k v m1 b hown hbound
    exact congrArg s.nextMain (Main.boxCtl_go hown hbound)
  case completion =>
    intro s visible r rest hr hrun next w
    exact ⟨fun k hsrc => congrArg s.nextMain (Main.completeNext_host hr hrun hsrc),
      fun q hsrc => congrArg s.nextMain (Main.completeNext_tenant hr hrun hsrc),
      fun k hsrc hside => congrArg s.nextMain (Main.completeNext_side hr hrun hside hsrc)⟩
  case side =>
    intro s eid body haux hrun hid hfrom hlen hver hk
    have hreq := Main.sideRequest_wellFormed (Main.sideUp_of_core haux hrun) hid hfrom hlen hver hk
    exact ⟨fun hbusy => congrArg s.nextMain (hreq.trans (if_pos hbusy)),
      fun hfree => congrArg s.nextMain (hreq.trans (if_neg (by simp [hfree])))⟩
  case write =>
    intro s off size v hs ha
    refine ⟨fun hcmd => ?_, fun hmsix => ?_, fun hcmd hmsix h8 => ?_, fun hcmd hmsix h4 => ?_⟩
    · exact congrArg s.nextMain ((Main.barWrite_accepted hs ha (.inr (.inl hcmd))).trans (if_pos hcmd))
    · have hcmd : ¬ inCmd off.toNat = true := by simp [inCmd_eq_false_of_inMsix hmsix]
      exact congrArg s.nextMain ((Main.barWrite_accepted hs ha (.inr (.inr hmsix))).trans ((if_neg hcmd).trans (if_pos hmsix)))
    · refine congrArg s.nextMain ((Main.barWrite_accepted hs ha (.inl (by omega))).trans ?_)
      simp only [hcmd, hmsix, h8, Bool.false_eq_true, if_false, if_true]
    · refine congrArg s.nextMain ((Main.barWrite_accepted hs ha (.inl (by omega))).trans ?_)
      simp only [hcmd, hmsix, h4, Bool.false_eq_true, if_false, Nat.reduceEqDiff]

end Sys2Proof.Machine
end

section
/-! SUPPORT. A training step: how it opens, contributes its verdict word, runs out of time and has its verdict applied, and the
re-derivation of a layer (R19, R21, R200, R241, R411). -/

namespace Sys2Proof.Machine

variable {m : Main} {s : State} {jid : Nat} {j : U32} {v : Job}

/-- A step opens on a recoverable job whose last step is closed, under the job's own step number (R411). -/
theorem Main.openStep_opens {p : Payload} (hjob : m.job? (bvAt p 0 4) = some v) (hclosed : v.stepOpen = false)
    (hunrec : v.unrec = false) (hrestoring : v.restoring = false) (hstep : p.extractLsb' 32 32 = v.step) :
    Main.openStep p m = ok (((m.setJob (bvAt p 0 4) (v.opening m.ms)).maskAll (bvAt p 0 4)).jitNote (bvAt p 0 4)) [] := by
  simp only [Main.openStep, hjob, hclosed, hunrec, hrestoring, hstep, bne_self_eq_false, Bool.or_self, Bool.false_eq_true, if_false]

/-- With no condition of R19 open, core 3 notes the layers left out and the module votes (R19, R205, R268). -/
theorem execVerdictContribution_votes (hjob : s.main.job? j.toNat = some v) (hcore : (s.main.core.get 3).runs = true)
    (hopen : v.stepOpen = true) (hvoted : v.voted = false) (hready : s.main.openCond j.toNat v = none) :
    execVerdictContribution j s = s.nextMain ((s.main.notUpdated j.toNat v).vote j.toNat) := by
  simp only [execVerdictContribution, onMain_eq, hjob, hcore, hopen, hvoted, hready, Bool.not_false, Option.isNone_none, Bool.and_self,
    if_true]

/-- The first condition still open is the one that the time-out reports (R21). -/
theorem execStepEndTimeout_reports {c : Nat} (hjob : s.main.job? j.toNat = some v) (hopen : v.stepOpen = true)
    (hvoted : v.voted = false) (hback : v.lastBack ≠ none) (hheld : s.main.openCond j.toNat v = some c) :
    execStepEndTimeout j s = s.nextMain ((s.main.timeUp j.toNat c).finishClose j.toNat) := by
  have hstarted : (!v.stepOpen || v.lastBack.isNone) = false := by simpa [hopen, ← Option.ne_none_iff_isSome] using hback
  simp only [execStepEndTimeout, onMain_eq, hjob, hstarted, hvoted, hheld, Bool.false_eq_true, if_false]

theorem execStepLimitExpiry_reports (hjob : s.main.job? j.toNat = some v) (hopen : v.stepOpen = true) (hvoted : v.voted = false) :
    execStepLimitExpiry j s = s.nextMain (s.main.timeUp j.toNat 4) := by
  simp only [execStepLimitExpiry, onMain_eq, hjob, hopen, hvoted, Bool.not_false, Bool.and_self, if_true]

/-! ### The verdict -/

section Verdict

variable {word : U64} (hjob : m.job? jid = some v) (hopen : v.stepOpen = true) (hvoted : v.voted = true) (htorus : m.inTorus = true)
include hjob hopen hvoted htorus

/-- A commit goes through the numerics commit and lets collectives issue (R241, R258). -/
theorem Main.applyVerdict_commit (hreduced : v.reduced = some (word, true)) :
    m.applyVerdict jid word = ((((m.numericsCommit jid).updJob jid (fun j => j.decide word true)).clearQueues
      jid (some v.step)).pumpColls jid).finishClose jid := by
  simp only [Main.applyVerdict, hjob, hreduced, hopen, hvoted, htorus, bne_self_eq_false, Bool.not_true, Bool.or_self, Bool.false_and,
    Bool.false_eq_true, if_false, if_true]

/-- A discard is logged, and so is the first time that it leaves eager in place unrecoverable (R241, R242). -/
theorem Main.applyVerdict_discard (hreduced : v.reduced = some (word, false)) :
    let discarded := ((m.updJob jid (fun j => j.decide word false)).clearQueues jid (some v.step)).log!
      { code := 0x9301, cls := .rec_, step := v.step, par := p4 jid ++ p8 word.toNat ++ p8 v.word.toNat }
    m.applyVerdict jid word = Main.finishClose (if v.disc = .eagerInPlace ∧ v.unrec = false then
      discarded.log! { code := 0x9304, cls := .rec_, step := v.step, par := p4 jid } else discarded) jid := by
  simp only [Main.applyVerdict, hjob, hreduced, hopen, hvoted, htorus, bne_self_eq_false, Bool.not_true, Bool.or_self, Bool.not_false,
    Bool.true_and, Bool.and_eq_true, decide_eq_true_eq, Bool.not_eq_true', Bool.false_eq_true, if_false]

end Verdict

/-! ### Re-derivation -/

/-- Stacks and numbers of the PRT entries that the module owns of a layer, in the order of its runs (R200). -/
def Main.ownedEntries (m : Main) (jid l : Nat) : List (Nat × Nat) :=
  (((m.runsOf jid).filter (fun r => r.layer = l)).map (fun r => (List.range r.count).map (fun k => (r.stack, r.entry + k)))).flatten

/-- A layer in Restoring is read again once every owned block of it has been re-derived (R200, R241). -/
theorem execRederivationComplete_reads {l : U16} {y : Layer} (hjob : s.main.job? j.toNat = some v)
    (hlayer : v.layers.find l.toNat = some y) (hst : y.st = .restoring) :
    execRederivationComplete j l s = s.nextMain
      (((((s.main.ownedEntries j.toNat l.toNat).foldl (fun m e => m.rederive j.toNat v e) s.main).onceOver j.toNat).updJob j.toNat
        (fun v => v.updLayer l.toNat (fun x => { x with st := .reading }))).log!
          { code := 0x1307, cls := .rec_, par := p4 j.toNat ++ p2 l.toNat }) := by
  simp only [execRederivationComplete, onMain_eq, hjob, hlayer, hst, Option.any_some, decide_true, Bool.not_true, Bool.false_eq_true,
    if_false, Main.ownedEntries]

end Sys2Proof.Machine
end

section
/-! The commands of a training step. -/

namespace Sys2Proof.Machine

/-- Settles O12: each row of a step in the conditions of its clause, by the lemma about the operation it runs; the resolve of a Burnisher's
cache is the operation itself (R241). -/
theorem stepCommandsComplete : Obligations.StepCommandsComplete := by
  refine ⟨?openStep, ?contribution, ?commit, ?discard, ?timeout, ?limit, ?timeUp, ?resolve, ?rederivation, ?probe⟩
  case openStep =>
    intro s h p v hserves x hjob hclosed ⟨hunrec, hrestoring⟩ hstep
    exact congrArg s.nextMain (Main.command_done hserves (Main.openStep_opens hjob hclosed hunrec hrestoring hstep))
  case contribution =>
    intro s j v hjob hcore hopen hvoted hready
    exact execVerdictContribution_votes hjob hcore hopen hvoted hready
  case commit =>
    intro s j word v hjob hopen hvoted hreduced htorus
    exact congrArg s.nextMain (Main.applyVerdict_commit hjob hopen hvoted htorus hreduced)
  case discard =>
    intro s j word v hjob hopen hvoted hreduced htorus m1 m2
    exact congrArg s.nextMain (Main.applyVerdict_discard hjob hopen hvoted htorus hreduced)
  case timeout =>
    intro s j v c hjob hopen hvoted hback hheld
    exact execStepEndTimeout_reports hjob hopen hvoted hback hheld
  case limit =>
    intro s j v hjob hopen hvoted
    exact execStepLimitExpiry_reports hjob hopen hvoted
  case timeUp => exact fun _ _ _ => rfl
  case resolve => exact fun _ _ => rfl
  case rederivation =>
    intro s j l v y hjob hlayer hst es m1
    exact execRederivationComplete_reads hjob hlayer hst
  case probe =>
    intro s h p hserves x
    exact congrArg s.nextMain (Main.command_done hserves rfl)

end Sys2Proof.Machine
end

section
/-! SUPPORT. Collectives: which one a module issues next and what becomes of the data that reaches it (R24, R28, R292–R296). -/

namespace Sys2Proof.Machine

section Issue

variable {m : Main} {jid l : Nat} {j : Job} {r : List (CollKind × Nat)}
variable (hjob : m.job? jid = some j) (hroom : j.colls.length < 8)
include hjob hroom

/-- The all-gathers of the last commit come first (R292). -/
theorem Main.issueNext_allGather {r : List Nat} (hgather : j.gather = l :: r) :
    m.issueNext jid = (m.setJob jid { j with gather := r }).issueColl jid .allGather l (j.step - 1) false := by
  simp only [Main.issueNext, hjob, ge_iff_le, Nat.not_le.2 hroom, if_false, hgather]

/-- Then the reductions to be issued again, void where the module is to contribute discard (R295, R299). -/
theorem Main.issueNext_again {k : CollKind} {t : U32} {r : List (CollKind × U32)} (hgather : j.gather = []) (hredo : j.redo = (k, t) :: r) :
    m.issueNext jid = (m.setJob jid { j with redo := r }).issueColl jid k 0 t (k != .verdict && j.hard) true := by
  simp only [Main.issueNext, hjob, ge_iff_le, Nat.not_le.2 hroom, if_false, hgather, hredo]

/-- The verdict is the last of the order and waits until the module is to contribute (R21, R268). -/
theorem Main.issueNext_verdict (hgather : j.gather = []) (hredo : j.redo = []) (hnext : j.order.drop j.next = (.verdict, l) :: r)
    (hopen : j.stepOpen = true) (hdue : j.due = true) (hvoted : j.voted = false) : m.issueNext jid = m.contribute jid := by
  simp only [Main.issueNext, hjob, ge_iff_le, Nat.not_le.2 hroom, if_false, hgather, hredo, hnext, hopen, hdue, hvoted, Bool.not_true,
    Bool.not_false, Bool.and_self, Bool.false_eq_true, if_true]

/-- Any other collective of the order is issued once its own condition holds (R292). -/
theorem Main.issueNext_ordered {k : CollKind} (hgather : j.gather = []) (hredo : j.redo = [])
    (hnext : j.order.drop j.next = (k, l) :: r) (hopen : j.stepOpen = true) (hk : k ≠ .verdict) (hmay : m.mayIssue j k l = true) :
    m.issueNext jid = (m.issueColl jid k l j.step j.hard).updJob jid (fun x => { x with next := j.next + 1 }) := by
  simp only [Main.issueNext, hjob, ge_iff_le, Nat.not_le.2 hroom, if_false, hgather, hredo, hnext, hopen, hk, hmay, Bool.not_true,
    Bool.false_eq_true, if_true]

end Issue

section Arrival

variable {m : Main} {d : CollData} {j : Job} (hjob : m.job? d.job.toNat = some j) (htag : d.tagOk = true)
include hjob htag

/-- Data of a collective in flight is delivered (R293). -/
theorem Main.collData_inFlight (hcoll : (m.coll? d.job.toNat d.seq d.epoch).isSome = true) :
    m.collData d = m.deliverColl d.job.toNat d := by
  simp only [Main.collData, hjob, htag, hcoll, Bool.not_true, Bool.false_eq_true, if_false, if_true, Main.freeFlits]

variable (hcoll : m.coll? d.job.toNat d.seq d.epoch = none)
include hcoll

/-- Data of an epoch before the module's is dropped and counted (R298). -/
theorem Main.collData_olderEpoch (hepoch : d.epoch < m.fab.epoch) :
    m.collData d = { m with fab := { m.fab with dropped := m.fab.dropped + 1 } } := by
  simp only [Main.collData, hjob, htag, hcoll, hepoch, Bool.not_true, Option.isSome_none, Bool.false_eq_true, if_false, if_true,
    Main.freeFlits]

/-- Late data that carries another step than its collective had is a mismatch (R28). -/
theorem Main.collData_otherStep (hepoch : d.epoch = m.fab.epoch) (hlate : d.seq < m.fab.seq)
    (hstep : ∃ t, j.issued.find d.seq.toNat = some t ∧ t ≠ d.step) : m.collData d = m.stepMismatch d.job.toNat d := by
  obtain ⟨t, ht, hne⟩ := hstep
  have hcurrent : ¬ d.epoch < m.fab.epoch := by simp [hepoch]
  have hbehind : (decide (d.epoch = m.fab.epoch) && decide (d.seq < m.fab.seq)) = true := by simp [hepoch, hlate]
  simp only [Main.collData, hjob, htag, hcoll, hcurrent, hbehind, ht, Bool.not_true, Option.isSome_none, Option.any_some,
    bne_iff_ne.2 hne, Bool.false_eq_true, if_false, if_true, Main.freeFlits]

variable (hcurrent : ¬ d.epoch < m.fab.epoch) (hearly : ¬ (d.epoch = m.fab.epoch ∧ d.seq < m.fab.seq))
include hcurrent hearly

/-- Data for a collective still to be issued moves into the hold area while it has room (R294). -/
theorem Main.collData_held (hfits : (j.held.map collSize).sum + collSize d ≤ (j.hold.map (·.2)).getD 0) :
    m.collData d = m.setJob d.job.toNat { j with held := j.held ++ [d] } := by
  have hlate : (decide (d.epoch = m.fab.epoch) && decide (d.seq < m.fab.seq)) = false := by simpa using hearly
  simp only [Main.collData, hjob, htag, hcoll, hcurrent, hlate, Job.holds, decide_eq_true hfits, Bool.not_true, Option.isSome_none,
    Bool.false_eq_true, if_false, if_true, Main.freeFlits]

/-- Data that the hold area has no room for keeps its input buffer (R277, R294). -/
theorem Main.collData_stuck (hfull : ¬ (j.held.map collSize).sum + collSize d ≤ (j.hold.map (·.2)).getD 0) :
    m.collData d = (m.setJob d.job.toNat { j with stuck := j.stuck ++ [(none, d)] }).logOnce d.job.toNat 0
      { code := 0x5404, cls := .adv, par := p4 d.job.toNat } := by
  have hlate : (decide (d.epoch = m.fab.epoch) && decide (d.seq < m.fab.seq)) = false := by simpa using hearly
  simp only [Main.collData, hjob, htag, hcoll, hcurrent, hlate, Job.holds, decide_eq_false hfull, Bool.not_true, Option.isSome_none,
    Bool.false_eq_true, if_false]

end Arrival

/-- A panel that a layer in Landing lacks lands, and the layer's all-gather ends with the last one (R24, R204). -/
theorem Main.gatherPanel_lands {m : Main} {jid l p : Nat} {d : List Byte} {j : Job} {x : Layer} (hjob : m.job? jid = some j)
    (hlayer : j.layers.find l = some x) (hst : x.st = .landing) (hp : p < x.panels) (hother : m.entryOf jid l p = none)
    (hlen : d.length = 4096) :
    m.gatherPanel jid l p d = ((m.writePanel jid j.single x j.version p d).updJob jid (fun j => j.updLayer l (·.land p))).updJob jid (fun j =>
      if (j.layers.find l).any (fun y => y.st = .reading) then
        { j with colls := j.colls.filter (fun c => !(c.kind = .allGather && c.layer.toNat = l)) }
      else j) := by
  have haccept : (x.st != .landing || decide (p ≥ x.panels) || (m.entryOf jid l p).isSome || d.length != 4096) = false := by
    simpa [hst, hother, hlen] using hp
  simp only [Main.gatherPanel, hjob, hlayer, haccept, Bool.false_eq_true, if_false]

end Sys2Proof.Machine
end

section
/-! SUPPORT. The membership, the rank map, the collective plan, a re-issue and the inbound map, where their checks pass
(R288, R290, R297–R299). -/

namespace Sys2Proof.Machine

variable {m m1 : Main} {h : Hdr} {p : Payload} {j : Job} {t b : List Byte}

/-- The steps of a membership change once its table has been read: aborts, the new membership, the old epochs' data, the ports
(R298, M1 to M4). `m` is the state before the table was read. -/
theorem Main.membership_applied (hepoch : p.extractLsb' 0 32 = m.fab.epoch + 1)
    (htorus : ∀ i < 3, 1 ≤ bvAt p (4 + i) 1 ∧ bvAt p (4 + i) 1 ≤ 32 ∧ coord (bvAt p 8 2) i < bvAt p (4 + i) 1)
    (hring : m.variant = .oa101 → bvAt p 5 1 = 1 ∧ bvAt p 6 1 = 1) (hnode : bvAt p 8 2 < 2 ^ 15)
    (hsame : ∀ n, m.fab.node = some n → n.toNat = bvAt p 8 2) (hmapped : m.mapped 4 (bvAt p 16 8) 8192 = true)
    (hread : m.daGet 4 (bvAt p 16 8) 8192 = (m1, some t)) (htable : ∀ n < 32768, memberOf t n ≠ 3) :
    Main.membership p m = ok (
      let m2 := m1.abortColls (fun n => m.fab.member.get n = 2 && (memberTable t).get n != 2)
      let m3 : Main := { m2 with fab := { m2.fab with
        epoch := p.extractLsb' 0 32, dim := (bvAt p 4 1, bvAt p 5 1, bvAt p 6 1), node := some (BitVec.ofNat 15 (bvAt p 8 2))
        member := memberTable t, seq := 0 } }
      let m4 := m3.jobs.foldl (fun (m : Main) e => m.dropOld e.1 e.2 (p.extractLsb' 0 32)) m3
      m4.holdPorts.log! { code := 0x5401, cls := .rec_ }) [] := by
  have hrange : (List.range 3).all (fun i => 1 ≤ bvAt p (4 + i) 1 && bvAt p (4 + i) 1 ≤ 32 && coord (bvAt p 8 2) i < bvAt p (4 + i) 1) = true := by
    simpa [List.all_eq_true, and_assoc] using htorus
  have hline : (decide (m.variant = .oa101) && (bvAt p 5 1 != 1 || bvAt p 6 1 != 1)) = false := by
    by_cases hv : m.variant = .oa101
    · simp [hv, hring hv]
    · simp [hv]
  have hmine : m.fab.node.any (fun (x : BitVec 15) => x.toNat != bvAt p 8 2) = false := by
    cases hn : m.fab.node with
    | none => rfl
    | some n => simp [hsame n hn]
  have hlegal : (List.range 32768).any (fun n => memberOf t n = 3) = false := by
    rw [List.any_eq_false]
    intro n hn
    simpa using htable n (List.mem_range.1 hn)
  simp only [Main.membership, hepoch, hrange, hline, hmine, hmapped, hread, hlegal, ge_iff_le, Nat.not_le.2 hnode, bne_self_eq_false,
    decide_false, Bool.not_true, Bool.or_self, Bool.false_eq_true, if_false]

/-- A body that sets a job's map or plan runs between steps (R290). -/
theorem Main.between_closed {jid : Nat} (body : Job → Reply) (hjob : m.job? jid = some j) (hclosed : j.stepOpen = false) :
    m.between jid body = body j := by
  simp only [Main.between, hjob, hclosed, Bool.false_eq_true, if_false]

/-- A rank map that covers the job's ranks, each entry with ranks on a node that can exist, is set (R290). -/
theorem Main.rankMap_set (hjob : m.job? (bvAt p 0 4) = some j) (hclosed : j.stepOpen = false)
    (hranks : 1 ≤ bvAt p 4 2 ∧ bvAt p 4 2 ≤ 32768 ∧ bvAt p 4 2 = j.ranks ∧ bvAt p 6 2 ≠ 0)
    (hmapped : m.mapped (m.jobPart j) (bvAt p 8 8) (4 * bvAt p 6 2) = true)
    (hread : m.daGet (m.jobPart j) (bvAt p 8 8) (4 * bvAt p 6 2) = (m1, some b)) :
    let es := (List.range (bvAt p 6 2)).map (fun i => (natAt b (4 * i) 2, natAt b (4 * i + 2) 2))
    (es.map (·.2)).sum = bvAt p 4 2 → (∀ e ∈ es, e.2 ≠ 0 ∧ e.1 < 2 ^ 15) →
    Main.rankMap p m = ok (m1.updJob (bvAt p 0 4) (fun j => { j with map := es })) [] := by
  intro es hsum hentries
  obtain ⟨hlow, hhigh, hjobRanks, hcount⟩ := hranks
  have haccept : (decide (bvAt p 4 2 < 1) || decide (32768 < bvAt p 4 2) || bvAt p 4 2 != j.ranks || decide (bvAt p 6 2 = 0) ||
      !(m.mapped (m.jobPart j) (bvAt p 8 8) (4 * bvAt p 6 2))) = false := by
    simp only [Nat.not_lt.2 hlow, Nat.not_lt.2 hhigh, bne_eq_false_iff_eq.2 hjobRanks, hcount, hmapped, decide_false, Bool.not_true,
      Bool.or_self]
  have hlegal : ((es.map (·.2)).sum != bvAt p 4 2 || es.any (fun e => decide (e.2 = 0) || decide (e.1 ≥ 2 ^ 15))) = false := by
    rw [Bool.or_eq_false_iff, List.any_eq_false]
    exact ⟨by simp [hsum], fun e he => by simpa using hentries e he⟩
  rw [Main.rankMap, Main.between_closed _ hjob hclosed]
  simp only [haccept, hread, Bool.false_eq_true, if_false]
  exact if_neg (Bool.eq_false_iff.1 hlegal)

/-- A plan of well-formed records, with a free and mapped hold area of the requester, is set (R290). -/
theorem Main.collPlan_set (hjob : m.job? (bvAt p 0 4) = some j) (hclosed : j.stepOpen = false)
    (harea : bvAt p 16 8 % 0x200000 = 0 ∧ 2 ^ 26 ≤ bvAt p 24 8 ∧ bvAt p 24 8 ≤ 2 ^ 30 ∧ bvAt p 16 8 + bvAt p 24 8 ≤ 2 ^ 41)
    (hmapped : m.mapped (m.jobPart j) (bvAt p 16 8) (bvAt p 24 8) = true)
    (hfree : (m.setJob (bvAt p 0 4) { j with hold := none }).freeRun none (bvAt p 16 8) (bvAt p 24 8) = true)
    (howned : m.ownsRun h (bvAt p 16 8) (bvAt p 24 8) = true)
    (hrecords : m.mapped (m.jobPart j) (bvAt p 8 8) (64 * bvAt p 4 2) = true)
    (hread : m.daGet (m.jobPart j) (bvAt p 8 8) (64 * bvAt p 4 2) = (m1, some b)) :
    let rs := (List.range (bvAt p 4 2)).map (fun i => bytesAt b (64 * i) 64)
    rs.all (planOk j) = true →
    Main.collPlan h p m = ok (m1.updJob (bvAt p 0 4) (fun j =>
      { j with plan := rs.map planRec, hold := some (BitVec.ofNat 56 (bvAt p 16 8), bvAt p 24 8) })) [] := by
  intro rs hrs
  obtain ⟨halign, hmin, hmax, hend⟩ := harea
  have haccept : (bvAt p 16 8 % 0x200000 != 0 || decide (bvAt p 24 8 < 2 ^ 26) || decide (2 ^ 30 < bvAt p 24 8) ||
      decide (bvAt p 16 8 + bvAt p 24 8 > 2 ^ 41) || !(m.mapped (m.jobPart j) (bvAt p 16 8) (bvAt p 24 8)) ||
      !((m.setJob (bvAt p 0 4) { j with hold := none }).freeRun none (bvAt p 16 8) (bvAt p 24 8)) ||
      !(m.ownsRun h (bvAt p 16 8) (bvAt p 24 8)) || !(m.mapped (m.jobPart j) (bvAt p 8 8) (64 * bvAt p 4 2))) = false := by
    simp only [halign, Nat.not_lt.2 hmin, Nat.not_lt.2 hmax, Nat.not_lt.2 hend, hmapped, hfree, howned, hrecords,
      bne_self_eq_false, decide_false, Bool.not_true, Bool.or_self]
  rw [Main.collPlan, Main.between_closed _ hjob hclosed]
  simp only [haccept, hread, hrs, rs, Bool.not_true, Bool.false_eq_true, if_false]

/-- An aborted reduction of the open step, or the verdict of a decided one, waits for its place again (R22, R269, R299). -/
theorem Main.reissue_waits (hjob : m.job? (bvAt p 0 4) = some j) (hcode : 3 ≤ bvAt p 4 1 ∧ bvAt p 4 1 ≤ 5)
    (hmay : (bvAt p 4 1 = 5 ∧ ∃ d, j.decided = some d ∧ d.1 = p.extractLsb' 64 32) ∨
      ((∃ a ∈ j.aborted, a.2 = bvAt p 4 1) ∧ j.stepOpen = true ∧ p.extractLsb' 64 32 = j.step)) :
    Main.reissue p m = ok ((m.setJob (bvAt p 0 4) { j with
      aborted := j.aborted.filter (fun a => a.2 != bvAt p 4 1)
      redo := j.redo ++ [(if bvAt p 4 1 = 3 then .scale else if bvAt p 4 1 = 4 then .calipers else .verdict, p.extractLsb' 64 32)] }).pumpColls
        (bvAt p 0 4)) [] := by
  have hkept : (!(decide (bvAt p 4 1 = 5) && j.decided.any (fun d => d.1 = p.extractLsb' 64 32)) &&
      (j.aborted.all (fun a => a.2 != bvAt p 4 1) || !j.stepOpen || p.extractLsb' 64 32 != j.step)) = false := by
    rcases hmay with ⟨hverdict, d, hd, hstep⟩ | ⟨⟨a, ha, hcode⟩, hopen, hstep⟩
    · simp [hverdict, hd, hstep]
    · have hsome : j.aborted.all (fun a => a.2 != bvAt p 4 1) = false := List.all_eq_false.2 ⟨a, ha, by simp [hcode]⟩
      simp [hsome, hopen, hstep]
  simp only [Main.reissue, Nat.not_lt.2 hcode.1, Nat.not_lt.2 hcode.2, hjob, hkept, decide_false, Bool.or_self, Bool.false_eq_true, if_false]

/-- An inbound map entry over the pinned pools or over a whole 64 GiB of a peer window is set (R288). -/
theorem Main.setInmap_set (hentry : bvAt p 0 1 ≤ 15 ∧ bvAt p 1 1 ≤ 31)
    (hbase : bvAt p 8 8 = pinBase ∨ (bvAt p 8 8 % 2 ^ 36 = 0 ∧ bvAt p 8 8 < 2 ^ 41)) :
    let entry : InEntry := {
      valid := bvAt p 1 1 % 2 = 1, write := bvAt p 1 1 / 2 % 2 = 1, redg := bvAt p 1 1 / 4 % 2 = 1
      part := BitVec.ofNat 2 (bvAt p 1 1 / 8), base := BitVec.ofNat 56 (bvAt p 8 8) }
    Main.setInmap p m = ok { m with fab := { m.fab with inmap := m.fab.inmap.put (bvAt p 0 1) entry } } [] := by
  have hlegal : (decide (bvAt p 8 8 = pinBase) || (decide (bvAt p 8 8 % 2 ^ 36 = 0) && decide (bvAt p 8 8 < 2 ^ 41))) = true := by
    simpa using hbase
  simp only [Main.setInmap, gt_iff_lt, Nat.not_lt.2 hentry.1, Nat.not_lt.2 hentry.2, hlegal, decide_false, Bool.not_true, Bool.or_self,
    Bool.false_eq_true, if_false]

end Sys2Proof.Machine
end

section
/-! The commands of the collectives. -/

namespace Sys2Proof.Machine

/-- Settles O25: each row, in the conditions of its clause, runs the operation that the lemmas above describe. -/
theorem collectiveCommandsComplete : Obligations.CollectiveCommandsComplete := by
  refine ⟨?issue, ?arrival, ?panel, ?membership, ?rankMap, ?plan, ?status, ?reissue, ?inbound⟩
  case issue =>
    intro s jj j hjob hroom
    refine ⟨fun l r hgather => ?_, fun k t r hgather hredo => ?_, fun l r hgather hredo hnext hopen hdue hvoted => ?_,
      fun k l r hgather hredo hnext hopen hk hmay => ?_⟩
    · exact congrArg s.nextMain (Main.issueNext_allGather hjob hroom hgather)
    · exact congrArg s.nextMain (Main.issueNext_again hjob hroom hgather hredo)
    · exact congrArg s.nextMain (Main.issueNext_verdict hjob hroom hgather hredo hnext hopen hdue hvoted)
    · exact congrArg s.nextMain (Main.issueNext_ordered hjob hroom hgather hredo hnext hopen hk hmay)
  case arrival =>
    intro s d j hjob htag
    refine ⟨fun hcoll => ?_, fun hcoll hepoch => ?_, fun hcoll _ hepoch hlate hstep => ?_, fun hcoll hcurrent hearly hfits => ?_,
      fun hcoll hcurrent hearly hfull => ?_⟩
    · exact congrArg s.nextMain (Main.collData_inFlight hjob htag hcoll)
    · exact congrArg s.nextMain (Main.collData_olderEpoch hjob htag hcoll hepoch)
    · exact congrArg s.nextMain (Main.collData_otherStep hjob htag hcoll hepoch hlate hstep)
    · exact congrArg s.nextMain (Main.collData_held hjob htag hcoll hcurrent hearly hfits)
    · exact congrArg s.nextMain (Main.collData_stuck hjob htag hcoll hcurrent hearly hfull)
  case panel =>
    intro s jj l panel d j x hjob hlayer hst hp hother hlen
    exact congrArg s.nextMain (Main.gatherPanel_lands hjob hlayer hst hp hother hlen)
  case membership =>
    intro s h p m1 t hserves x hepoch htorus hring hnode hsame hmapped hread htable
    exact congrArg s.nextMain
      (Main.command_done hserves (Main.membership_applied hepoch htorus hring hnode hsame hmapped hread htable))
  case rankMap =>
    intro s h p j m1 b hserves x es hjob hclosed hranks hmapped hread hsum hentries
    exact congrArg s.nextMain (Main.command_done hserves (Main.rankMap_set hjob hclosed hranks hmapped hread hsum hentries))
  case plan =>
    intro s h p j m1 b hserves x rs hjob hclosed harea hmapped hfree howned hrecords hread hrs
    exact congrArg s.nextMain
      (Main.command_done hserves (Main.collPlan_set hjob hclosed harea hmapped hfree howned hrecords hread hrs))
  case status =>
    intro s h p hserves x
    exact congrArg s.nextMain (Main.command_done hserves rfl)
  case reissue =>
    intro s h p j hserves x hjob hcode hmay
    exact congrArg s.nextMain (Main.command_done hserves (Main.reissue_waits hjob hcode hmay))
  case inbound =>
    intro s h p hserves x hentry hbase
    exact congrArg s.nextMain (Main.command_done hserves (Main.setInmap_set hentry hbase))

end Sys2Proof.Machine
end

section
/-! SUPPORT. The draw of stochastic rounding: its joined operands are the shifts and masks of R46. -/

namespace Sys2Proof.Machine

/-- Step and tensor, joined, are the operand `a` of R46. -/
theorem step_append_tensor (step tensor : U32) :
    step ++ tensor = (step.setWidth 64 <<< 32) ||| tensor.setWidth 64 :=
  calc step ++ tensor = (step ++ tensor).setWidth 64 := (BitVec.setWidth_eq _).symm
    _ = (step.setWidth 64 <<< 32) ||| tensor.setWidth 64 := BitVec.setWidth_append_eq_shiftLeft_setWidth_or

/-- The mask of R46 keeps the low forty bits of an element's index. -/
theorem setWidth_lowForty (element : U64) : (element.setWidth 40).setWidth 64 = element &&& 0xFFFFFFFFFF := by
  apply BitVec.eq_of_toNat_eq
  have hmask : element.toNat &&& 0xFFFFFFFFFF = element.toNat % 2 ^ 40 := Nat.and_two_pow_sub_one_eq_mod element.toNat 40
  rw [BitVec.toNat_and, BitVec.toNat_setWidth, BitVec.toNat_setWidth]
  exact (Nat.mod_eq_of_lt (by omega)).trans hmask.symm

/-- The low forty bits of the element, the hop and the site, joined, are the operand `b` of R46. -/
theorem element_append_hop_append_site (element : U64) (hop : U16) (site : Byte) :
    element.setWidth 40 ++ hop ++ site =
      ((element &&& 0xFFFFFFFFFF) <<< 24) ||| ((hop.setWidth 64 <<< 8) ||| site.setWidth 64) :=
  calc element.setWidth 40 ++ hop ++ site = (element.setWidth 40 ++ hop ++ site).setWidth 64 := (BitVec.setWidth_eq _).symm
    _ = ((element.setWidth 40).setWidth 64 <<< 24) ||| (hop.setWidth 64 <<< 8) ||| site.setWidth 64 :=
      BitVec.setWidth_append_append_eq_shiftLeft_setWidth_or
    _ = ((element &&& 0xFFFFFFFFFF) <<< 24) ||| ((hop.setWidth 64 <<< 8) ||| site.setWidth 64) := by
      rw [setWidth_lowForty, BitVec.or_assoc]

end Sys2Proof.Machine
end

section
/-! The draw of stochastic rounding. -/

namespace Sys2Proof.Machine

/-- Settles O53: `srMix` is the rule's own five operations, so only the two joined operands have to be compared. -/
theorem stochasticDraw : Obligations.StochasticDraw := by
  intro seed step tensor element hop site mix a b
  have hmix (z : U64) : srMix z = mix z := rfl
  rw [srDraw, srStem, hmix, hmix, step_append_tensor, element_append_hop_append_site]

end Sys2Proof.Machine
end

section
/-! SUPPORT. The issue of an instruction row: which unit takes it, and what each scalar and control row does with it (R58–R69). -/

namespace Sys2Proof.Machine

variable {m : Main} {t : TileRef} {k : Fin 8} {op : Nat} {f : Fields} {rs : List Req}

/-- A scalar or control instruction that issues is carried out in its issue beat (R58, R62). -/
theorem Main.issueRow_scalar (H : m.issues t.id ⟨k.val, op, f⟩ rs) (hu : unitOf op = none) :
    m.issueRow t k op f = ((m.beatOf t.id k.val).issued t.id ⟨k.val, op, f⟩).issueScalar t.id ⟨k.val, op, f⟩
      (((m.beatOf t.id k.val).tileAt t.id).spin k.val).pc.toNat (((m.beatOf t.id k.val).tileAt t.id).spin k.val) := by
  rw [Main.issueRow_issues H]
  simp only [Main.perform, hu]

/-- An instruction of the local-store and queue unit issues to that unit; QPOP with the token at the head of its queue (R58, R69). -/
theorem Main.issueRow_local (H : m.issues t.id ⟨k.val, op, f⟩ rs) (hu : unitOf op = some .local) :
    m.issueRow t k op f = ((m.beatOf t.id k.val).issued t.id ⟨k.val, op, f⟩).issueLocal t.id ⟨k.val, op, f⟩
      (((m.beatOf t.id k.val).tileAt t.id).spin k.val).pc.toNat (((m.beatOf t.id k.val).tileAt t.id).spin k.val)
      (((m.beatOf t.id k.val).tileAt t.id).headData f) := by
  rw [Main.issueRow_issues H]
  simp only [Main.perform, hu]

/-- A memory instruction issues with the requests that it was ready with (R58, R88). -/
theorem Main.issueRow_memory (H : m.issues t.id ⟨k.val, op, f⟩ rs) (hu : unitOf op = some .memory) :
    m.issueRow t k op f = ((m.beatOf t.id k.val).issued t.id ⟨k.val, op, f⟩).issueMem t.id ⟨k.val, op, f⟩
      (((m.beatOf t.id k.val).tileAt t.id).spin k.val).pc.toNat (((m.beatOf t.id k.val).tileAt t.id).spin k.val) rs := by
  rw [Main.issueRow_issues H]
  simp only [Main.perform, hu]

/-- A matrix or vector instruction issues to its engine, after its die has gone back to its phase (R58, R136). -/
theorem Main.issueRow_engine (H : m.issues t.id ⟨k.val, op, f⟩ rs) (hu : unitOf op = some .matrix ∨ unitOf op = some .vector) :
    m.issueRow t k op f = (((m.beatOf t.id k.val).issued t.id ⟨k.val, op, f⟩).phaseBack (t.id / 512)).issueEngine t.id ⟨k.val, op, f⟩
      (((m.beatOf t.id k.val).tileAt t.id).spin k.val).pc.toNat (((m.beatOf t.id k.val).tileAt t.id).spin k.val) := by
  rw [Main.issueRow_issues H]
  rcases hu with hu | hu <;> simp only [Main.perform, hu]

/-! ### Scalar and control rows (R69, R74) -/

/-- A branch inside the program sets the pc (R69). -/
theorem Main.jump_inside {id k pc target : Nat} (h : target < (m.tileAt id).plen) :
    m.jump id k pc target = m.updTile id (fun t => t.updSp k (fun p => { p with pc := BitVec.ofNat 16 target })) :=
  if_pos h

theorem Main.issueScalar_aclose_open {id k pc : Nat} {p : Spindle} (hopen : ((m.tileAt id).grp.get f.ag.toNat).st = .opened)
    (howner : ((m.tileAt id).grp.get f.ag.toNat).owner.toNat = k) :
    m.issueScalar id ⟨k, 0x43, f⟩ pc p = (m.updTile id (fun t => t.close f.ag)).signalled id k pc (sigOf f) := by
  simp only [Main.issueScalar, hopen, howner, decide_true, Bool.and_self, if_true]

theorem Main.issueScalar_br_inside {id k pc : Nat} {p : Spindle} (h : f.imm.toNat < ((m.holdSp id k).tileAt id).plen) :
    m.issueScalar id ⟨k, 0x02, f⟩ pc p =
      ((m.holdSp id k).updTile id (fun t => t.updSp k (fun p => { p with pc := BitVec.ofNat 16 f.imm.toNat }))).signalled
        id k pc (sigOf f) := by
  simp only [Main.issueScalar, Main.jump_inside h]

theorem Main.issueScalar_brc_taken {id k pc : Nat} {p : Spindle} (hcond : brCond f.mod (p.reg f.sa) (p.reg f.sb) = true)
    (h : f.imm.toNat < ((m.holdSp id k).tileAt id).plen) :
    m.issueScalar id ⟨k, 0x03, f⟩ pc p =
      ((m.holdSp id k).updTile id (fun t => t.updSp k (fun p => { p with pc := BitVec.ofNat 16 f.imm.toNat }))).signalled
        id k pc (sigOf f) := by
  simp only [Main.issueScalar, hcond, if_true, Main.jump_inside h]

theorem Main.issueScalar_brc_untaken {id k pc : Nat} {p : Spindle} (hcond : brCond f.mod (p.reg f.sa) (p.reg f.sb) = false) :
    m.issueScalar id ⟨k, 0x03, f⟩ pc p = (m.holdSp id k).signalled id k pc (sigOf f) := by
  simp only [Main.issueScalar, hcond, Bool.false_eq_true, if_false]

/-- The state in which ENDL has counted its loop counter down to `n` and holds the next issue (R69). -/
def Main.countedDown (m : Main) (id k lc : Nat) (n : U16) : Main :=
  (m.updTile id (fun t => t.updSp k (fun p => { p with c := p.c.put lc n }))).holdSp id k

theorem Main.issueScalar_endl_last {id k pc : Nat} {p : Spindle} (hn : p.c.get f.lc.toNat = 1) :
    m.issueScalar id ⟨k, 0x05, f⟩ pc p =
      (m.countedDown id k f.lc.toNat (p.c.get f.lc.toNat - 1)).signalled id k pc (sigOf f) := by
  have h0 : p.c.get f.lc.toNat ≠ 0 := by simp [hn]
  simp only [Main.issueScalar, if_neg h0, if_pos hn, Main.countedDown]

theorem Main.issueScalar_endl_again {id k pc : Nat} {p : Spindle} (h0 : p.c.get f.lc.toNat ≠ 0) (h1 : p.c.get f.lc.toNat ≠ 1)
    (h : f.imm.toNat < ((m.countedDown id k f.lc.toNat (p.c.get f.lc.toNat - 1)).tileAt id).plen) :
    m.issueScalar id ⟨k, 0x05, f⟩ pc p =
      ((m.countedDown id k f.lc.toNat (p.c.get f.lc.toNat - 1)).updTile id (fun t => t.updSp k (fun p =>
        { p with pc := BitVec.ofNat 16 f.imm.toNat }))).signalled id k pc (sigOf f) := by
  rw [← Main.jump_inside (pc := pc) h]
  simp only [Main.issueScalar, if_neg h0, if_neg h1, Main.countedDown]

theorem Main.issueScalar_endl_zero {id k pc : Nat} {p : Spindle} (h0 : p.c.get f.lc.toNat = 0) :
    m.issueScalar id ⟨k, 0x05, f⟩ pc p = m.spFault id k pc 0x1107 := by
  simp only [Main.issueScalar, if_pos h0]

end Sys2Proof.Machine
end

section
/-! The register instructions and branches (R61–R69, R74, R85, R96). -/

namespace Sys2Proof.Machine

/-- Settles O1: each row that issues is the scalar issue of its opcode, which is its row of R69. -/
theorem registerInstructionsComplete : Obligations.RegisterInstructionsComplete := by
  intro s t k f p
  refine ⟨?nop, ?loop, ?smovi, ?salu, ?getid, ?cinv, ?flagrd, ?aclose⟩
  case nop | loop | smovi | salu | getid | cinv | flagrd => exact fun H => congrArg s.nextMain (Main.issueRow_scalar H rfl)
  case aclose =>
    rintro ⟨H, hopen, howner⟩
    exact congrArg s.nextMain ((Main.issueRow_scalar H rfl).trans (Main.issueScalar_aclose_open hopen howner))

/-- Settles O2: a branch holds the next issue and, where it is taken, jumps inside the program. -/
theorem branchesComplete : Obligations.BranchesComplete := by
  intro s t k f p
  refine ⟨?br, ?taken, ?untaken, ?last, ?again, ?zero⟩
  case br =>
    rintro ⟨H, htarget⟩
    exact congrArg s.nextMain ((Main.issueRow_scalar H rfl).trans (Main.issueScalar_br_inside htarget))
  case taken =>
    rintro ⟨H, hcond, htarget⟩
    exact congrArg s.nextMain ((Main.issueRow_scalar H rfl).trans (Main.issueScalar_brc_taken hcond htarget))
  case untaken =>
    rintro ⟨H, hcond⟩
    exact congrArg s.nextMain ((Main.issueRow_scalar H rfl).trans (Main.issueScalar_brc_untaken hcond))
  case last =>
    rintro ⟨H, hn⟩
    exact congrArg s.nextMain ((Main.issueRow_scalar H rfl).trans (Main.issueScalar_endl_last hn))
  case again =>
    rintro ⟨H, h0, h1, htarget⟩
    exact congrArg s.nextMain ((Main.issueRow_scalar H rfl).trans (Main.issueScalar_endl_again h0 h1 htarget))
  case zero =>
    rintro ⟨H, h0⟩
    exact congrArg s.nextMain ((Main.issueRow_scalar H rfl).trans (Main.issueScalar_endl_zero h0))

end Sys2Proof.Machine
end

section
/-! SUPPORT. What a register instruction leaves as it was in its tile. -/

namespace Sys2Proof.Machine

/-- Tile `y` differs from `x`, of what a register instruction may reach, at most in spindle `k`: there the scalar registers that `keeps`
names and the loop counters that `counts` names are the same. -/
structure Tile.RegFrame (x y : Tile) (k : Nat) (keeps : BitVec 5 → Prop) (counts : Nat → Prop) : Prop where
  treg : y.treg = x.treg
  grp : y.grp = x.grp
  store : y.store = x.store
  w : y.w = x.w
  q : y.q = x.q
  ops : y.ops = x.ops
  others : ∀ j, j ≠ k → (y.spin j).s = (x.spin j).s ∧ (y.spin j).c = (x.spin j).c ∧ (y.spin j).pc = (x.spin j).pc
  reg : ∀ r, keeps r → (y.spin k).reg r = (x.spin k).reg r
  count : ∀ j, counts j → (y.spin k).c.get j = (x.spin k).c.get j

variable {x y : Tile} {k : Nat} {keeps : BitVec 5 → Prop} {counts : Nat → Prop}

@[simp] theorem Tile.updSp_spin_same (t : Tile) (k : Nat) (g : Spindle → Spindle) : (t.updSp k g).spin k = g (t.spin k) := by
  simp [Tile.updSp, Tile.spin]

theorem Tile.updSp_spin_other (t : Tile) {k j : Nat} (g : Spindle → Spindle) (h : j ≠ k) : (t.updSp k g).spin j = t.spin j :=
  Table.get_upd_other _ _ h

/-- A frame goes on over an update of spindle `k` that keeps what the frame then names. -/
theorem Tile.RegFrame.updSp {keeps' : BitVec 5 → Prop} {counts' : Nat → Prop} (h : x.RegFrame y k keeps counts) (g : Spindle → Spindle)
    (hreg : ∀ r, keeps' r → keeps r ∧ (g (y.spin k)).reg r = (y.spin k).reg r)
    (hcount : ∀ j, counts' j → counts j ∧ (g (y.spin k)).c.get j = (y.spin k).c.get j) :
    x.RegFrame (y.updSp k g) k keeps' counts' where
  treg := h.treg
  grp := h.grp
  store := h.store
  w := h.w
  q := h.q
  ops := h.ops
  others j hj := by rw [Tile.updSp_spin_other y g hj]; exact h.others j hj
  reg r hr := by rw [Tile.updSp_spin_same, (hreg r hr).2]; exact h.reg r (hreg r hr).1
  count j hj := by rw [Tile.updSp_spin_same, (hcount j hj).2]; exact h.count j (hcount j hj).1

/-- An update of spindle `k` that keeps its registers and loop counters. -/
theorem Tile.RegFrame.updSp_keeping (h : x.RegFrame y k keeps counts) (g : Spindle → Spindle)
    (hs : ∀ p, (g p).s = p.s) (hc : ∀ p, (g p).c = p.c) : x.RegFrame (y.updSp k g) k keeps counts :=
  h.updSp g (fun r hr => ⟨hr, by simp only [Spindle.reg, hs]⟩) (fun j hj => ⟨hj, by rw [hc]⟩)

theorem Tile.RegFrame.putReg (h : x.RegFrame y k (fun _ => True) counts) (r : BitVec 5) (v : U64) :
    x.RegFrame (y.updSp k (fun p => p.setReg r v)) k (fun r' => r' ≠ r) counts :=
  h.updSp _ (fun _ hr => ⟨trivial, Table.get_put_other _ _ (fun e => hr (BitVec.eq_of_toNat_eq e))⟩) (fun _ hj => ⟨hj, rfl⟩)

theorem Tile.RegFrame.putCount (h : x.RegFrame y k keeps (fun _ => True)) (lc : Nat) (v : U16) :
    x.RegFrame (y.updSp k (fun p => { p with c := p.c.put lc v })) k keeps (fun j => j ≠ lc) :=
  h.updSp _ (fun _ hr => ⟨hr, rfl⟩) (fun _ hj => ⟨trivial, Table.get_put_other _ _ hj⟩)

theorem Tile.RegFrame.putCache (h : x.RegFrame y k keeps counts) (c : List (Nat × BitVec 1024)) (l : Table Req) :
    x.RegFrame { y with cache := c, slots := l } k keeps counts :=
  ⟨h.treg, h.grp, h.store, h.w, h.q, h.ops, h.others, h.reg, h.count⟩

theorem Tile.RegFrame.putFlag (h : x.RegFrame y k keeps counts) (i : Nat) (v : FlagSlot) :
    x.RegFrame { y with flag := y.flag.put i v } k keeps counts :=
  ⟨h.treg, h.grp, h.store, h.w, h.q, h.ops, h.others, h.reg, h.count⟩

/-- The common part of an issue reaches no register or loop counter (R60, R61). -/
theorem Tile.regFrame_afterIssue (x : Tile) (k : Nat) : x.RegFrame (x.afterIssue k) k (fun _ => True) (fun _ => True) := by
  have hbeat : x.RegFrame { x with beat := x.beat + 1 } k (fun _ => True) (fun _ => True) :=
    ⟨rfl, rfl, rfl, rfl, rfl, rfl, fun _ _ => ⟨rfl, rfl, rfl⟩, fun _ _ => rfl, fun _ _ => rfl⟩
  refine .updSp_keeping (.updSp_keeping hbeat _ ?_ ?_) _ ?_ ?_ <;> exact fun _ => rfl

end Sys2Proof.Machine
end

section
/-! The frame of the register instructions (R58, R60, R62, R69). -/

namespace Sys2Proof.Machine

/-- Settles O59: the next state of O1 differs in one tile, and there by the issue and the row's own write. -/
theorem registerInstructionsFrame : Obligations.RegisterInstructionsFrame := by
  intro s u t k f hquiet hse hwn hqa hqb x y same
  have hsig : sigOf f = none := by simp [sigOf, hse]
  have frame {m : Main} {T : Tile} {keeps : BitVec 5 → Prop} {counts : Nat → Prop} {pc : Nat} (h : Main.OnlyTile s.main m t.id T)
      (hT : x.RegFrame T k.val keeps counts) (hu : s.nextMain (m.signalled t.id k.val pc (sigOf f)) = .next u) : same keeps counts := by
    have hmain : u = { s with main := m.signalled t.id k.val pc none } := by
      rw [hsig] at hu
      injection hu with hu
      exact hu.symm
    have hone : Main.OnlyTile s.main u.main t.id T := hmain ▸ Main.onlyTile_signalled_none h k.val pc
    have hy : y = T := hone.here
    have hmeter : u.meter = s.meter := by rw [hmain]
    rw [← hy] at hT
    exact ⟨hone.other, hone.mem, hone.jobs, hmeter, hT.treg, hT.grp, hT.store, hT.w, hT.q, hT.ops, hT.others, hT.reg, hT.count⟩
  obtain ⟨nop, loop, smovi, salu, getid, cinv, flagrd, -⟩ := registerInstructionsComplete s t k f
  have issued (op : Nat) : Main.OnlyTile s.main ((s.main.beatOf t.id k.val).issued t.id ⟨k.val, op, f⟩) t.id (x.afterIssue k.val) :=
    Main.issued_quiet hquiet hwn hqa hqb
  have base := x.regFrame_afterIssue k.val
  refine ⟨fun H hu => ?nop, fun H hu => ?loop, fun H hu => ?cinv, fun H hu => ?smovi, fun H hu => ?salu, fun H hu => ?getid,
    fun H hu => ?flagrd⟩
  case nop => exact frame (issued _) base ((nop H).symm.trans hu)
  case loop => exact frame (Main.onlyTile_updTile (issued _) _) (base.putCount _ _) ((loop H).symm.trans hu)
  case cinv => exact frame (Main.onlyTile_updTile (issued _) _) (base.putCache _ _) ((cinv H).symm.trans hu)
  case smovi => exact frame (Main.onlyTile_updTile (issued _) _) (base.putReg _ _) ((smovi H).symm.trans hu)
  case salu => exact frame (Main.onlyTile_updTile (issued _) _) (base.putReg _ _) ((salu H).symm.trans hu)
  case getid => exact frame (Main.onlyTile_updTile (issued _) _) (base.putReg _ _) ((getid H).symm.trans hu)
  case flagrd =>
    exact frame (Main.onlyTile_updTile (Main.onlyTile_updTile (issued _) _) _) ((base.putReg _ _).putFlag _ _)
      ((flagrd H).symm.trans hu)

end Sys2Proof.Machine
end

section
/-! SUPPORT. The issue to the engines and to the local-store and queue unit (R58, R62, R69, R478). -/

namespace Sys2Proof.Machine

/-- No register that an instruction reads holds a parity error, as the check of an issue to the engines finds it (R478). -/
theorem Tile.parity_clear {x : Tile} {rd : List Nat} (h : ¬ ∃ w ∈ x.parity, w / 512 ∈ rd) :
    ¬ x.parity.any (fun w => rd.contains (w / 512)) = true := by
  simpa using h

variable {m : Main} {id k pc : Nat} {f : Fields} {p : Spindle} {tok : BitVec 4096}

/-- An operation of the local-store and queue unit before its row gives it its work (R60, R62). -/
def localOp (k pc op : Nat) (f : Fields) : Op :=
  { sp := BitVec.ofNat 3 k, pc := BitVec.ofNat 16 pc, unit := .local, sig := sigOf f, readT := readsT true op f, writeT := writesT op f }

/-- The address check of a row of the local-store and queue unit; QPOP has none (R69, R100). -/
def Tile.localCheck (t : Tile) (op a : Nat) : Option Nat :=
  match op with
  | 0x20 => t.storeCheck a 4096 64 false
  | 0x21 => t.storeCheck a 4096 64 true
  | 0x24 => t.storeCheck a 8 8 false
  | 0x25 => t.storeCheck a 8 8 true
  | _ => none

/-- A check that fails faults the blank with the check's event (R69, R100). -/
theorem Main.issueLocal_faults {op : Nat} (h : ∃ e, (m.tileAt id).localCheck op (addrOf p f) = some e) :
    m.issueLocal id ⟨k, op, f⟩ pc p tok = m.spFault id k pc (((m.tileAt id).localCheck op (addrOf p f)).getD 0) := by
  obtain ⟨e, he⟩ := h
  rw [he]
  unfold Tile.localCheck at he
  split at he
  case h_5 => cases he
  all_goals simp only [Main.issueLocal, he, Option.getD_some]

theorem Main.issueLocal_ldt (h : (m.tileAt id).storeCheck (addrOf p f) 4096 64 false = none) :
    m.issueLocal id ⟨k, 0x20, f⟩ pc p tok =
      m.updTile id (fun t => t.addOp { localOp k pc 0x20 f with work := .ldt (addrOf p f) f.td }) := by
  simp only [Main.issueLocal, h, localOp]

theorem Main.issueLocal_stt (h : (m.tileAt id).storeCheck (addrOf p f) 4096 64 true = none) :
    m.issueLocal id ⟨k, 0x21, f⟩ pc p tok =
      m.updTile id (fun t => t.addOp { localOp k pc 0x21 f with work := .stt (addrOf p f) ((m.tileAt id).sample f.ta.toNat 4096) }) := by
  simp only [Main.issueLocal, h, localOp]

theorem Main.issueLocal_lds (h : (m.tileAt id).storeCheck (addrOf p f) 8 8 false = none) :
    m.issueLocal id ⟨k, 0x24, f⟩ pc p tok =
      m.updTile id (fun t => t.addOp { localOp k pc 0x24 f with work := .lds (addrOf p f) f.sb, writeS := some f.sb }) := by
  simp only [Main.issueLocal, h, localOp]

theorem Main.issueLocal_sts (h : (m.tileAt id).storeCheck (addrOf p f) 8 8 true = none) :
    m.issueLocal id ⟨k, 0x25, f⟩ pc p tok =
      m.updTile id (fun t => t.addOp { localOp k pc 0x25 f with work := .sts (addrOf p f) (p.reg f.sb) }) := by
  simp only [Main.issueLocal, h, localOp]

end Sys2Proof.Machine
end

section
/-! The operations of the matrix and vector engines. -/

namespace Sys2Proof.Machine

/-- Settles O3: past the parity check every row but the conversions takes the plain operation of its opcode. -/
theorem vectorOperationsComplete : Obligations.VectorOperationsComplete := by
  intro s t k f d p iss nat clean base res
  have row {op : Nat} (hu : unitOf op = some .vector) (hplain : op ∉ [0x40, 0x41, 0x42, 0x6E, 0x6F])
      (H : s.main.issues t.id ⟨k.val, op, f⟩ [] ∧ clean op) : s.main.issueRow t k op f = res op := by
    obtain ⟨Hi, hclean⟩ := H
    simp only [List.mem_cons, List.not_mem_nil, or_false, not_or] at hplain
    obtain ⟨hmma, hamov, haload, hvcvt, hvcvtl⟩ := hplain
    refine (Main.issueRow_engine Hi (.inr hu)).trans ((if_neg (Tile.parity_clear hclean)).trans ?_)
    simp only [hmma, hamov, haload, hvcvt, hvcvtl, if_false, decide_false, Bool.or_self, Bool.false_eq_true]
    rfl
  refine ⟨?vadd, ?vsub, ?vmul, ?vfma, ?vmax, ?vmin, ?vdiv, ?vsqrt, ?vexp, ?vlog, ?vmov, ?vops, ?vrow, ?vred, ?vscale, ?vcmp, ?vsel⟩
  all_goals exact fun H => congrArg s.nextMain (row rfl (by decide) H)

/-- Settles O4: past the parity check each row issues as its opcode says; MMA asks its group first. -/
theorem matrixAndConversionsComplete : Obligations.MatrixAndConversionsComplete := by
  intro s t k f d p iss nat clean base
  refine ⟨?mma, ?mismatch, ?amov, ?aload, ?vcvt, ?vcvtl⟩
  case mma =>
    rintro ⟨H, hclean, hok⟩
    refine congrArg s.nextMain ((Main.issueRow_engine H (.inl rfl)).trans ((if_neg (Tile.parity_clear hclean)).trans ?_))
    have hopens : ¬ (!((((iss 0x40).tileAt t.id).grp.get f.ag.toNat).mmaIssue k.val f).2) = true := by simp [hok]
    exact if_neg hopens
  case mismatch =>
    rintro ⟨H, hclean, hbad⟩
    refine congrArg s.nextMain ((Main.issueRow_engine H (.inl rfl)).trans ((if_neg (Tile.parity_clear hclean)).trans ?_))
    have hrefused : (!((((iss 0x40).tileAt t.id).grp.get f.ag.toNat).mmaIssue k.val f).2) = true := by simp [hbad]
    exact if_pos hrefused
  case amov | aload | vcvt | vcvtl =>
    rintro ⟨H, hclean⟩
    exact congrArg s.nextMain ((Main.issueRow_engine H (.inr rfl)).trans (if_neg (Tile.parity_clear hclean)))

end Sys2Proof.Machine
end

section
/-! The operations of the local-store and queue unit. -/

namespace Sys2Proof.Machine

/-- Settles O5: each row takes its address check, which decides between the operation in flight and the fault. -/
theorem localStoreAndQueueOperationsComplete : Obligations.LocalStoreAndQueueOperationsComplete := by
  intro s t k f p iss x a base res
  refine ⟨?ldt, ?ldtFault, ?stt, ?sttFault, ?lds, ?ldsFault, ?sts, ?stsFault, ?qpop⟩
  case ldt => exact fun ⟨H, hcheck⟩ => congrArg s.nextMain ((Main.issueRow_local H rfl).trans (Main.issueLocal_ldt hcheck))
  case stt => exact fun ⟨H, hcheck⟩ => congrArg s.nextMain ((Main.issueRow_local H rfl).trans (Main.issueLocal_stt hcheck))
  case lds => exact fun ⟨H, hcheck⟩ => congrArg s.nextMain ((Main.issueRow_local H rfl).trans (Main.issueLocal_lds hcheck))
  case sts => exact fun ⟨H, hcheck⟩ => congrArg s.nextMain ((Main.issueRow_local H rfl).trans (Main.issueLocal_sts hcheck))
  case ldtFault | sttFault | ldsFault | stsFault =>
    exact fun ⟨H, hcheck⟩ => congrArg s.nextMain ((Main.issueRow_local H rfl).trans (Main.issueLocal_faults hcheck))
  case qpop => exact fun H => congrArg s.nextMain (Main.issueRow_local H rfl)

end Sys2Proof.Machine
end

section
/-! The memory instructions. -/

namespace Sys2Proof.Machine

/-- Settles O6: an aligned address takes its requests to their slots, any other faults the blank. -/
theorem memoryInstructionsComplete : Obligations.MemoryInstructionsComplete := by
  intro s t k f rs p iss a slots
  refine ⟨?ldg, ?ldgFault, ?stg, ?stgFault, ?redg, ?redgFault⟩
  case ldg | stg | redg =>
    rintro ⟨H, haligned⟩
    have hpass : ¬ (a % 128 != 0) = true := by simp [haligned]
    exact congrArg s.nextMain ((Main.issueRow_memory H rfl).trans (if_neg hpass))
  case ldgFault | stgFault | redgFault =>
    rintro ⟨H, hmisaligned⟩
    have hfail : (a % 128 != 0) = true := by simp [hmisaligned]
    exact congrArg s.nextMain ((Main.issueRow_memory H rfl).trans (if_pos hfail))

end Sys2Proof.Machine
end

section
/-! SUPPORT. What lets a waiting spindle go on (R59, R63, R95, R114, R116). -/

namespace Sys2Proof.Machine

variable {m : Main} {id k : Nat}

theorem Main.settleFence_none (h : ((m.tileAt id).spin k).fence = none) : m.settleFence id k = m := by
  simp only [Main.settleFence, h]

theorem Main.settleSend_none (h : ((m.tileAt id).spin k).sending = none) : m.settleSend id k = m := by
  simp only [Main.settleSend, h]

/-- A held send goes once its die runs, its binding has a credit and its tile may send (R63, R114, R116). -/
theorem Main.settleSend_sends {b : BitVec 6} {data : BitVec 4096} (hheld : ((m.tileAt id).spin k).sending = some (b, data))
    (hrun : (m.dieAt (id / 512)).st = .running) (hcredit : ((m.tileAt id).bind.get b.toNat).credits ≠ 0)
    (hspaced : (m.tileAt id).sendHold ≤ (m.tileAt id).beat) :
    m.settleSend id k = ((m.updTile id (fun t =>
      { t.updSp k (fun p => { p with sending := none, sendSig := none }) with sendHold := t.beat + 4 })).sendToken id b.toNat data).signalNow
        id k (((m.tileAt id).spin k).pc - 1).toNat ((m.tileAt id).spin k).sendSig := by
  simp only [Main.settleSend, hheld, hrun, hspaced, bne_iff_ne.2 hcredit, decide_true, Bool.and_self, if_true]

/-- A halting spindle with no operation in flight, no fence and no held send halts (R59, R63). -/
theorem Main.settleHalt_halts (hst : ((m.tileAt id).spin k).st = .halting) (hfence : ((m.tileAt id).spin k).fence = none)
    (hsend : ((m.tileAt id).spin k).sending = none) (hidle : ∀ o ∈ (m.tileAt id).ops, o.sp.toNat ≠ k) :
    m.settleHalt id k = ((m.updTile id (fun t => t.updSp k (fun p => { p with st := .halted, sendSig := none }))).progress
      (id / 512)).signalNow id k (((m.tileAt id).spin k).pc - 1).toNat ((m.tileAt id).spin k).sendSig := by
  have hops : (m.tileAt id).ops.any (fun o => o.sp.toNat = k) = false := List.any_eq_false.2 fun o ho => by simpa using hidle o ho
  simp only [Main.settleHalt, hst, hfence, hsend, hops, Option.isNone_none, Bool.not_false, decide_true, Bool.and_self, if_true]

end Sys2Proof.Machine
end

section
/-! HALT, FENCE and QSEND. -/

namespace Sys2Proof.Machine

/-- Settles O7: each row issues as its scalar issue, and a wait that is over is its spindle's settling. -/
theorem haltFenceAndSendComplete : Obligations.HaltFenceAndSendComplete := by
  intro s t k f d p iss
  refine ⟨?halt, ?fence, ?qsend, ?halts, ?sends⟩
  case halt | fence | qsend => exact fun H => congrArg s.nextMain (Main.issueRow_scalar H rfl)
  case halts =>
    rintro m q rfl hfence hsend hst hidle
    rw [Main.settleSp, Main.settleFence_none hfence, Main.settleSend_none hsend, Main.settleHalt_halts hst hfence hsend hidle]
  case sends =>
    rintro m q data b rfl hfence hsend hrun hcredit hspaced
    rw [Main.settleFence_none hfence, Main.settleSend_sends hsend hrun hcredit hspaced]

end Sys2Proof.Machine
end

section
/-! SUPPORT. The sequencer's own events (R61–R64, R69, R77, R88, R90–R92, R97). -/

namespace Sys2Proof.Machine

variable {m : Main} {id : Nat} {o : Op}

/-- Where every live spindle fetches an instruction, the sequencer performs the one that it chooses (R61). -/
theorem Main.selectBeat_performs {c : Cand} {rs : List Req} (hruns : m.tileRuns id = true) :
    let b := m.beatStart id
    let live := (List.range 8).filter (fun k => (m.tileAt id).mayIssue k)
    let st := ((live.filterMap (m.tileAt id).fetch).filter (fun c =>
      (b.tileAt id).mayIssue c.k && wordOk (b.native (id / 512)) c.op c.f)).map (fun c => (c, b.ready id c))
    live.find? (fun k => ((m.tileAt id).fetch k).isNone) = none → ((b.noteReady id st).tileAt id).choose st = some (c, rs) →
    m.selectBeat id = (b.noteReady id st).perform id c rs := by
  intro b live st hfetched hchosen
  have hstopped : ¬ (!m.tileRuns id) = true := by simp [hruns]
  simp only [Main.selectBeat, if_neg hstopped, live, hfetched, Main.runBeat, Main.beatRun]
  simp only [b, st, live] at hchosen
  simp only [hchosen, st, b, live]

/-- The oldest operation of a unit completes, and waiting spindles go on (R60–R64). -/
theorem Main.completeUnit_completes {u : UnitK} (h : (m.tileAt id).ops.find? (fun o => o.unit == u) = some o) :
    m.completeUnit id u = (m.complete id o).settle id := by
  simp only [Main.completeUnit, h]

/-- An operation of the local unit that names no counter leaves its work and its place alone behind (R62, R63). -/
theorem Main.complete_local (hok : ((m.tileAt id).apply o).2 = true) (hsig : o.sig = none) (hunit : o.unit = .local) :
    m.complete id o = m.setTile id (((m.tileAt id).apply o).1.retireOp o) := by
  simp only [Main.complete, Main.finishOp, hok, hsig, hunit, Tile.signal, Bool.not_true, Bool.false_eq_true, if_false]

/-- A load's response whose lines have all come, up to the spindles that it lets go on (R69, R88, R93). -/
theorem Main.respond_loaded {slot : Nat} {r0 r : Req} {m0 : Main} (hslot : (m.tileAt id).slots.find slot = some r0)
    (hserved : m.performReq id r0 = (m0, r)) (hgood : r.bad = false) (hall : r.lines ≤ r.served.length) (hload : r.kind = .load) :
    let m1 := m0.updTile id (fun x => { x with slots := x.slots.del slot })
    (m1.tileAt id).ops.find? (fun o => o.id = r.op) = some o →
    let m2 := m1.updTile id (fun x => x.putBytes ((r.got.map (fun e =>
      (bvBytes e.2 128).mapIdx (fun i b => (4096 * r.td.toNat + 128 * (r.first + r.step * e.1) + i, b)))).flatten))
    let m3 := if r.fill then m2.fillCache id r else m2
    m.respond id slot false = (if (m3.tileAt id).slots.any (fun e => e.2.op = r.op) then m3 else m3.complete id o).settle id := by
  intro m1 hop m2 m3
  have hcomplete : ¬ (!r.bad && decide (r.served.length < r.lines)) = true := by simp [Nat.not_lt.2 hall]
  simp only [Main.respond, hslot, hserved, Bool.false_eq_true, if_false, if_neg hcomplete]
  simp only [m1] at hop
  simp only [hop, hgood, hload, Bool.false_eq_true, if_false, if_true]
  rfl

/-- A load's response that reports an error faults the blank with event 0x1104 (R92, R97). -/
theorem Main.respond_busError {slot : Nat} {r : Req} (hslot : (m.tileAt id).slots.find slot = some r) (hload : r.kind = .load)
    (herr : r.err = 0) :
    let m1 := m.updTile id (fun x => { x with slots := x.slots.del slot })
    (m1.tileAt id).ops.find? (fun o => o.id = r.op) = some o →
    let m2 := m1.blankFault (id / 512) 0x1104 (p2 id ++ p1 o.sp.toNat ++ p4 o.pc.toNat ++ p8 r.da.toNat) id o.sp.toNat o.pc.toNat none
    m.respond id slot true = (if (m2.tileAt id).slots.any (fun e => e.2.op = r.op) then m2 else m2.complete id o).settle id := by
  intro m1 hop m2
  simp only [m1] at hop
  simp only [Main.respond, hslot, if_true, Bool.not_true, Bool.false_and, Bool.false_eq_true, if_false, hop, herr, hload]
  rfl

/-- The spindle that has waited longest for slots, at least 512 beats, the lowest on a tie (R90). -/
def Tile.dueSpindle (x : Tile) : Option Nat :=
  ((List.range 8).filter (fun k =>
    (x.spin k).st = .running && (x.spin k).wait.cls = 1 && (x.spin k).since + 512 ≤ x.beat)).foldl
      (fun (b : Option Nat) k =>
        match b with
        | none => some k
        | some j => if (x.spin k).since < (x.spin j).since then some k else b) none

/-- What SLOT_RESERVATION does with the reservation `r` held and the spindle `due` (R90). -/
def Main.reserveFor (m : Main) (id : Nat) (r : Option Resv) (due : Option Nat) : Main :=
  match r, due with
  | none, some k => m.updTile id (fun x => { x with resv := some (x.reserve k) })
  | _, _ => m

theorem execSlotReservation_eq (t : TileRef) (s : State) :
    execSlotReservation t s =
      s.nextMain (s.main.reserveFor t.id (s.main.tileAt t.id).resv (s.main.tileAt t.id).dueSpindle) := rfl

/-- A free reservation goes to the spindle that is due (R90). -/
theorem execSlotReservation_reserves {t : TileRef} {s : State} {k : Nat} (hfree : (s.main.tileAt t.id).resv = none)
    (hdue : (s.main.tileAt t.id).dueSpindle = some k) :
    execSlotReservation t s = s.nextMain (s.main.updTile t.id (fun x => { x with resv := some (x.reserve k) })) := by
  rw [execSlotReservation_eq, hfree, hdue, Main.reserveFor]

end Sys2Proof.Machine
end

section
/-! The sequencer's own events. -/

namespace Sys2Proof.Machine

/-- Settles O8: each event is the operation that the lemmas above describe. -/
theorem sequencerEventsComplete : Obligations.SequencerEventsComplete := by
  refine ⟨?select, ?matrix, ?vector, ?localOp, ?loaded, ?busError, ?reserve, ?idle, ?cycle⟩
  case select =>
    intro s t c rs b live cs st m hruns hfetched hchosen
    exact congrArg s.nextMain (Main.selectBeat_performs hruns hfetched hchosen)
  case matrix => exact fun s t o ho => congrArg s.nextMain (Main.completeUnit_completes ho)
  case vector => exact fun s t loc o ho => congrArg s.nextMain (Main.completeUnit_completes ho)
  case localOp => exact fun m id o hok hsig hunit => Main.complete_local hok hsig hunit
  case loaded =>
    intro s t slot r0 r m0 o hslot hserved hgood hall hload m1 hop m2 m2' m3
    exact congrArg (fun m : Main => s.nextMain (m.forceGo t.die.val)) (Main.respond_loaded hslot hserved hgood hall hload hop)
  case busError =>
    intro s t slot r o hslot hload herr m1 hop m2 m3
    exact congrArg (fun m : Main => s.nextMain (m.forceGo t.die.val)) (Main.respond_busError hslot hload herr hop)
  case reserve =>
    intro s t k x due hfree hlongest
    exact execSlotReservation_reserves hfree hlongest
  case idle =>
    intro s t x act sl best hruns hfirst hact hwaits
    have hgo : ¬ (!s.main.tileRuns t.id || x.idleRaised ||
        !(act != [] && act.all (fun k => (x.spin k).wait.cls = 1 && (x.spin k).since + 16384 ≤ x.beat))) = true := by
      have hall : act.all (fun k => (x.spin k).wait.cls = 1 && (x.spin k).since + 16384 ≤ x.beat) = true :=
        List.all_eq_true.2 fun k hk => by simpa using hwaits k hk
      simp [hruns, hfirst, hall, hact]
    exact congrArg s.nextMain (if_neg hgo)
  case cycle =>
    intro s t k hruns hcycle
    have hgo : ¬ (!s.main.tileRuns t.id) = true := by simp [hruns]
    refine congrArg s.nextMain ((if_neg hgo).trans ?_)
    simp only [hcycle]

end Sys2Proof.Machine
end

section
/-! SUPPORT. Tokens: what becomes of one that lands, when a steering unit fires, what the Chatter window finds and how a spilled queue
fills again (R114–R132). -/

namespace Sys2Proof.Machine

variable {m : Main} {d : Nat}

/-! ### Landing -/

/-- The token in place `i` has left the flight list of its die (R116). -/
def Main.landed (m : Main) (d i : Nat) : Main := m.updDie d (fun v => { v with flight := v.flight.eraseIdx i })

section Landing

variable {i : Nat} {dst : BitVec 11} {dq : Byte} {k : Token}
variable (hflight : (m.dieAt d).flight[i]? = some (dst, dq, k))
variable (hfirst : ∀ e ∈ (m.dieAt d).flight.take i, ¬ (e.2.2.src = k.src ∧ e.2.2.sidx = k.sidx))
include hfirst

/-- No earlier token of the same binding is in flight, as the landing finds it (R116). -/
theorem Main.noEarlierToken : ((m.dieAt d).flight.take i).any (fun e => e.2.2.src = k.src && e.2.2.sidx = k.sidx) = false :=
  List.any_eq_false.2 fun e he => by simpa using hfirst e he

include hflight

/-- A die that runs its section, or has just ended it, takes a token that is not stale (R116, R122). -/
theorem Main.deliver_accepts (hst : (m.dieAt d).st = .running ∨ (m.dieAt d).st = .ending)
    (hfresh : (m.landed d i).stale d dst.toNat k = false) :
    m.deliver d i = (m.landed d i).accept d dst.toNat dq.toNat k := by
  rw [Main.landed] at hfresh
  rcases hst with hst | hst <;>
    simp only [Main.deliver, hflight, Main.noEarlierToken hfirst, hst, hfresh, Main.landed, Bool.false_eq_true, if_false]

/-- A die in a forced rechuck or a fault discards it (R126, R128). -/
theorem Main.deliver_discards (hst : (m.dieAt d).st = .forcing ∨ (m.dieAt d).st = .faulted) :
    m.deliver d i = (m.landed d i).updDie d (fun v => { v with discarded := v.discarded + 1 }) := by
  rcases hst with hst | hst <;>
    simp only [Main.deliver, hflight, Main.noEarlierToken hfirst, hst, Main.landed, Bool.false_eq_true, if_false]

end Landing

/-- A queue with a free place outside spill mode needs no room in the shavings area (R114, R131). -/
theorem Main.accept_room {dst q : Nat} {k : Token} (hspill : ((m.tileAt dst).queue q).spilling = false)
    (hroom : ((m.tileAt dst).queue q).toks.length < queueSize q) :
    m.accept d dst q k = (m.updTile dst (fun t => (t.updQueue q (fun x => x.join (queueSize q) k)).noteSteer t)).progress d := by
  simp only [Main.accept, hspill, ge_iff_le, Nat.not_le.2 hroom, decide_false, Bool.or_self, Bool.false_and, Bool.false_eq_true, if_false]

/-- A place freed in a queue that has one takes the head of the FIFO (R131). -/
theorem Queue.refill_freed {y : Queue} {n : Nat} {k : Token} {l : List Token} (hspill : y.spill = k :: l) (hfreed : y.freed ≠ 0)
    (hroom : y.toks.length < n) : y.refill n =
      { toks := y.toks ++ [k], spill := l, spilling := l != [], freed := if l = [] then 0 else y.freed - 1 } := by
  simp only [Queue.refill, hspill, hroom, bne_iff_ne.2 hfreed, decide_true, Bool.true_or, Bool.and_self, if_true]

/-! ### Steering units -/

section Steering

variable {id u : Nat} {q : BitVec 4} {c k : Token} {l l2 : List Token}
variable (hruns : m.tileRuns id = true) (hqueue : ((m.tileAt id).steer.get u).dq = some q)
variable (hctl : ((m.tileAt id).steer.get u).ctl.toks = c :: l) (hdata : ((m.tileAt id).q.get q.toNat).toks = k :: l2)
include hruns hqueue hctl hdata

/-- A bad control token faults the blank (R119). -/
theorem Main.steer_faults (hbad : (m.tileAt id).badRouting u (routing c.data) = true) :
    m.steer id u = m.blankFault (id / 512) 0x1208 (p1 (id / 512) ++ p2 id ++ p1 u) id 0 0 := by
  simp only [Main.steer, hruns, hqueue, hctl, hdata, hbad, Bool.not_true, Bool.false_eq_true, if_false, if_true]

/-- A good one that drops nothing sends the data token once every output it names has a credit (R118, R119). -/
theorem Main.steer_sends (hgood : (m.tileAt id).badRouting u (routing c.data) = false) (hkeep : (routing c.data).drop = false)
    (hcredit : ∀ o ∈ (routing c.data).outs, ((m.tileAt id).bind.get (0x40 + 4 * u + o)).credits ≠ 0) :
    let left := (((m.tileAt id).steer.get u).left.getD (BitVec.ofNat 8 (routing c.data).count)) - 1
    let sent := ((routing c.data).outs.foldl (fun m o => m.sendToken id (0x40 + 4 * u + o) k.data) m).popQueue id q.toNat
    let counted := sent.updTile id (fun t => { t with steer := t.steer.upd u (fun s =>
      { s with left := if left = 0 then none else some left, since := t.beat }) })
    m.steer id u = (if left = 0 then counted.popQueue id (16 + u) else counted).progress (id / 512) := by
  have hcredits : (routing c.data).outs.any (fun o => ((m.tileAt id).bind.get (0x40 + 4 * u + o)).credits = 0) = false :=
    List.any_eq_false.2 fun o ho => by simpa using hcredit o ho
  simp only [Main.steer, hruns, hqueue, hctl, hdata, hgood, hkeep, hcredits, Bool.not_true, Bool.and_false, Bool.false_eq_true, if_false]

end Steering

/-! ### The Chatter window -/

section Window

variable (hst : (m.dieAt d).st = .running) (hheld : m.windowHeld d = false)
include hst hheld

/-- Progress starts the window again (R130). -/
theorem Main.chatter_restarts (hprogress : (m.dieAt d).progress = true) :
    m.chatter d = m.updDie d (fun v => { v with progress := false }) := by
  simp only [Main.chatter, hst, hheld, hprogress, bne_self_eq_false, Bool.or_self, Bool.false_eq_true, if_false, if_true]

/-- No progress, with no sender that waits for a credit, faults the blank: nothing that the Chuck could spill would help (R130, R132). -/
theorem Main.chatter_faults (hprogress : (m.dieAt d).progress = false)
    (hsenders : ∀ id ∈ m.blankTiles d, (m.tileAt id).waitingSenders = []) (hfull : m.fullQueues d = []) :
    let w := (m.oldestWait d).getD (0, 0, 0)
    m.chatter d = m.blankFault d 0x1202 (p1 d ++ p2 w.1 ++ p1 w.2.1 ++ p1 w.2.2) w.1 w.2.1 ((m.tileAt w.1).spin w.2.1).pc.toNat := by
  have hnone : (m.blankTiles d).any (fun id => (m.tileAt id).waitingSenders != []) = false :=
    List.any_eq_false.2 fun id hid => by simp [hsenders id hid]
  simp only [Main.chatter, hst, hheld, hprogress, hnone, hfull, bne_self_eq_false, Bool.or_self, Bool.not_false, Bool.false_eq_true,
    if_false, if_true]

end Window

end Sys2Proof.Machine
end

section
/-! The events of the tokens. -/

namespace Sys2Proof.Machine

/-- Settles O9: each event is the operation of its clause, in the conditions of the lemma about it. -/
theorem tokenEventsComplete : Obligations.TokenEventsComplete := by
  refine ⟨?arrival, ?joins, ?fires, ?badControl, ?restarts, ?stuck, ?refillRow, ?refill⟩
  case arrival =>
    intro s d i dst dq k v hflight hfirst m _
    exact ⟨fun hst hfresh => congrArg s.nextMain (Main.deliver_accepts hflight hfirst hst hfresh),
      fun hst => congrArg s.nextMain (Main.deliver_discards hflight hfirst hst)⟩
  case joins => exact fun m d dst q k hspill hroom => Main.accept_room hspill hroom
  case fires =>
    intro s t u q c k l l2 x r hruns hqueue hctl hdata hgood hkeep hcredit
    exact congrArg s.nextMain (Main.steer_sends hruns hqueue hctl hdata hgood hkeep hcredit)
  case badControl =>
    intro s t u q c k l l2 x hruns hqueue hctl hdata hbad
    exact congrArg s.nextMain (Main.steer_faults hruns hqueue hctl hdata hbad)
  case restarts =>
    intro s d hst hheld hprogress
    exact congrArg s.nextMain (Main.chatter_restarts hst hheld hprogress)
  case stuck =>
    intro s d hst hheld hprogress hsenders hfull
    exact congrArg s.nextMain (Main.chatter_faults hst hheld hprogress hsenders hfull)
  case refillRow => exact fun _ _ _ => rfl
  case refill => exact fun y n k l hspill hfreed hroom => Queue.refill_freed hspill hfreed hroom

end Sys2Proof.Machine
end

section
/-! SUPPORT. The events of a rechuck, each where its conditions hold: the end of a section, the group barrier, the exchange, the version
gate, the load, a peer's fault, the wait for a collective and the timeout of a forced one (R101, R122–R136, R202, R211, R317). -/

namespace Sys2Proof.Machine

variable {m : Main} {s : State}

/-! ### The end of a section -/

theorem execSectionEnd_ends {d : Fin 4} (hst : (s.main.dieAt d.val).st = .running) (hdone : s.main.sectionDone d.val = true) :
    execSectionEnd d s = s.nextMain (s.main.updDie d.val (fun v => { v with st := .ending, settled := false })) := by
  simp only [execSectionEnd, onMain_eq, hst, hdone, decide_true, Bool.and_self, if_true]

section Barrier

variable {d : Nat} (hbarrier : m.barrier d = true)
variable (hending : ∀ q ∈ m.groupOf d, (((m.groupOf d).foldl Main.landAll m).dieAt q).st = .ending)
include hbarrier hending

/-- A group that is still Ending once its tokens have landed faults where tokens are left over, else is collected and settles
(R122 steps 2 to 5, R125). -/
theorem Main.rechuck_landed :
    let landed := (m.groupOf d).foldl Main.landAll m
    let left := (m.groupOf d).filter (fun q => landed.leftover q != 0)
    m.rechuck d =
      if left != [] then
        left.foldl (fun m q => m.blankFault q 0x1207 (p1 q ++ p2 (m.firstLeft q).1 ++ p1 (m.firstLeft q).2 ++ p4 (m.leftover q)) 0 0 0) landed
      else
        (m.groupOf d).foldl (fun m q =>
          if (m.dieAt q).staged = [] then m.toIdle q else m.updDie q (fun v => { v with settled := true }))
          ((m.groupOf d).foldl Main.collect landed) := by
  have hstill : (m.groupOf d).any (fun q => (((m.groupOf d).foldl Main.landAll m).dieAt q).st != .ending) = false :=
    List.any_eq_false.2 fun q hq => by simp [hending q hq]
  simp only [Main.rechuck, hbarrier, hstill, Bool.not_true, Bool.false_eq_true, if_false]

end Barrier

/-! ### The new peer group -/

/-- Once every die of the head blank's group waits with a head, the group is agreed where the heads are of one section, else loses them
(R122 step 6, R123). -/
theorem execPeerGroupExchange_waiting {d : Fin 4} {b : Blank} {r : List Blank} (hstaged : (s.main.dieAt d.val).staged = b :: r)
    (hagreed : (s.main.dieAt d.val).agreed = false) (hwaits : ∀ q ∈ diesOf b.peers, (s.main.dieAt q).waitsHead = true) :
    execPeerGroupExchange d s = s.nextMain (if (diesOf b.peers).all (fun q => (s.main.dieAt q).staged.head?.any (fun c =>
        c.job = b.job && c.section_ = b.section_ && c.peers = b.peers)) then
      (diesOf b.peers).foldl (fun m q => m.updDie q (fun v => { v with agreed := true })) s.main
    else (diesOf b.peers).foldl (fun m q => m.dropHead 0x11 q) s.main) := by
  have hall : (diesOf b.peers).all (fun q => (s.main.dieAt q).waitsHead) = true := List.all_eq_true.2 hwaits
  simp only [execPeerGroupExchange, onMain_eq, hstaged, hagreed, hall, Bool.not_true, Bool.or_self, Bool.false_eq_true, if_false]

/-! ### The version gate -/

/-- No layer that the head blank trains has issued its reduce-scatter, so none is late (R205). -/
theorem Blank.noLateLayer {b : Blank} {y : Job} (h : ∀ l ∈ b.weightLayers, b.training = true → (y.layers.get l).issued = false) :
    (if b.training then b.weightLayers.filter (fun l => (y.layers.get l).issued) else []) = [] := by
  split
  case isTrue htraining => exact List.filter_eq_nil_iff.2 fun l hl => by simp [h l hl htraining]
  case isFalse => rfl

/-- The gate of an agreed die opens where every named layer is readable and nothing holds its pinned pieces; its tensors join the
numerics table, and a versioned blank becomes a holder (R202–R206, R211, R254, R317). -/
theorem Main.gate_opens {d : Nat} {b : Blank} {r : List Blank} {y : Job} (hstaged : (m.dieAt d).staged = b :: r)
    (hjob : m.job? b.job.toNat = some y) (hagreed : (m.dieAt d).agreed = true) (hgated : (m.dieAt d).gated = false)
    (hsound : y.gateFault b = none) (hroom : (y.watch b).watched.length ≤ 4096) (hopen : y.gateOpen b = true)
    (hlate : ∀ l ∈ b.weightLayers, b.training = true → (y.layers.get l).issued = false)
    (hgrain : m.grainHeld d b = false) (hoffload : m.offloadHeld d b = false) :
    m.gate d = ((m.updJob b.job.toNat (fun j =>
      if b.versioned then { j.watch b with holders := (j.watch b).holders ++ [(d, (j.watch b).version, b.weightLayers)] }
      else j.watch b)).jitNote b.job.toNat).updDie d (fun v => { v with gated := true, tag := y.version }) := by
  simp only [Main.gate, hstaged, hjob, hagreed, hgated, hsound, gt_iff_lt, Nat.not_lt.2 hroom, Blank.noLateLayer hlate, List.foldl_nil,
    hopen, hgrain, hoffload, bne_self_eq_false, Bool.not_true, Bool.or_self, Bool.false_eq_true, if_false]

/-! ### Loading -/

section Load

variable {d : Nat} {b : Blank} {r : List Blank} (hstaged : (m.dieAt d).staged = b :: r)
variable (hready : ∀ q ∈ diesOf b.peers, (m.dieAt q).gated = true ∧ (m.dieAt q).staged ≠ [])
include hstaged hready

/-- A group whose every die has passed its gate loads in the epoch after that of its first die, unless a head blank names another
(R122 steps 7 to 10, R124). -/
theorem Main.load_ready :
    let g := diesOf b.peers
    let epoch := (m.dieAt (g.headD d)).epoch + 1
    let bad := g.filter (fun q => (m.dieAt q).staged.head?.any (fun c => c.epoch.any (· != epoch)))
    let loaded := g.foldl (fun m q => m.loadDie q epoch) m
    m.load d =
      if bad != [] then g.foldl (fun m q => if bad.contains q then m.dropHead 0x0F q else m.toIdle q) (g.foldl Main.unhold m)
      else if g.any (fun q => (loaded.dieAt q).st != .loading) then loaded else g.foldl Main.release loaded := by
  have hall : (diesOf b.peers).all (fun q => (m.dieAt q).gated && (m.dieAt q).staged != []) = true :=
    List.all_eq_true.2 fun q hq => by simp [hready q hq]
  simp only [Main.load, hstaged, hall, Bool.not_true, Bool.false_eq_true, if_false]

end Load

/-! ### Peers and phases -/

theorem execPeerDieFaulted_faults {d : Fin 4} (hpeer : s.main.peerFaulted d.val = true) :
    execPeerDieFaulted d s = s.nextMain
      (if (s.main.dieAt d.val).agreed then s.main.headFault d.val 0x120D [] else s.main.blankFault d.val 0x120D [] 0 0 0) := by
  simp only [execPeerDieFaulted, onMain_eq, hpeer, Bool.not_true, Bool.false_eq_true, if_false]

/-- A training die whose job has a collective open and that has issued no MMA or vector operation for 4,096 beats reports phase 4
(R136). -/
theorem execPhaseCollectiveWait_reports {d : Fin 4} {b : Blank} {j : Job} (hrun : (s.main.dieAt d.val).run = some b)
    (hjob : s.main.dieJob d.val = some j) (hst : (s.main.dieAt d.val).st = .running) (htraining : b.training = true)
    (hcolls : j.colls ≠ []) (hquiet : (s.main.dieAt d.val).lastMma + 4096 ≤ (s.main.dieAt d.val).beats) :
    execPhaseCollectiveWait d s = s.nextMain (s.main.report d.val 4) := by
  have hopen : j.colls.isEmpty = false := List.isEmpty_eq_false_iff.2 hcolls
  simp only [execPhaseCollectiveWait, onMain_eq, hrun, hjob, hst, htraining, hopen, hquiet, decide_true, Bool.not_false, Bool.and_self,
    if_true]

/-! ### Forced rechucks -/

/-- Requests outstanding at the timeout give up their slots, and a forced rechuck goes on (R126 step F2). -/
theorem Main.abandon_outstanding {d : Nat} (hst : (m.dieAt d).st = .forcing) (hsettled : (m.dieAt d).settled = false)
    (hheld : m.outstanding d ≠ 0) :
    let freed := (m.blankTiles d).foldl (fun m id => m.updTile id (fun t =>
      { t with slots := [], dead := t.dead + t.slots.length, ops := t.ops.filter (fun o => o.unit != .memory) })) m
    m.abandon d = ((freed.discardResponses d).log!
      { code := 0x120B, cls := .rec_, die := some d, par := p4 (m.outstanding d) }).forceGo d := by
  simp only [Main.abandon, hst, hsettled, hheld, bne_self_eq_false, decide_false, Bool.or_self, Bool.false_eq_true, if_false]

end Sys2Proof.Machine
end

section
/-! The events of a rechuck. -/

namespace Sys2Proof.Machine

/-- Settles O10: each event in the conditions of its clause; where the operation chooses between two outcomes, the clause says which. -/
theorem rechuckEventsComplete : Obligations.RechuckEventsComplete := by
  refine ⟨?sectionEnd, ?collected, ?leftOver, ?exchange, ?gate, ?released, ?otherEpoch, ?peer, ?collective, ?timeout⟩
  case sectionEnd => exact fun s d hst hdone => execSectionEnd_ends hst hdone
  case collected =>
    intro s d hbarrier g m1 hending hnone
    have hempty : g.filter (fun q => m1.leftover q != 0) = [] := List.filter_eq_nil_iff.2 fun q hq => by simp [hnone q hq]
    exact congrArg s.nextMain ((Main.rechuck_landed hbarrier hending).trans (if_neg fun h => bne_iff_ne.1 h hempty))
  case leftOver =>
    intro s d hbarrier g m1 left hending hleft
    exact congrArg s.nextMain ((Main.rechuck_landed hbarrier hending).trans (if_pos (bne_iff_ne.2 hleft)))
  case exchange =>
    intro s d b r hstaged hagreed hwaits
    have hexchange := execPeerGroupExchange_waiting hstaged hagreed hwaits
    exact ⟨fun hsame => hexchange.trans (congrArg s.nextMain (if_pos (List.all_eq_true.2 hsame))),
      fun ⟨q, hq, hother⟩ => hexchange.trans (congrArg s.nextMain (if_neg fun hall =>
        Bool.false_ne_true (hother.symm.trans (List.all_eq_true.1 hall q hq))))⟩
  case gate =>
    intro s d b r y hstaged hjob hagreed hgated hsound hroom hopen hlate hgrain hoffload
    exact congrArg s.nextMain (Main.gate_opens hstaged hjob hagreed hgated hsound hroom hopen hlate hgrain hoffload)
  case released =>
    intro s d b r hstaged g epoch m1 hready hepoch hloading
    have hnone : g.filter (fun q => (s.main.dieAt q).staged.head?.any (fun c => c.epoch.any (· != epoch))) = [] :=
      List.filter_eq_nil_iff.2 fun q hq => by simp [hepoch q hq]
    have hloaded : g.any (fun q => (m1.dieAt q).st != .loading) = false :=
      List.any_eq_false.2 fun q hq => by simp [hloading q hq]
    exact congrArg s.nextMain ((Main.load_ready hstaged hready).trans
      ((if_neg fun h => bne_iff_ne.1 h hnone).trans (if_neg (Bool.eq_false_iff.1 hloaded))))
  case otherEpoch =>
    intro s d b r hstaged g epoch bad hready hbad
    exact congrArg s.nextMain ((Main.load_ready hstaged hready).trans (if_pos (bne_iff_ne.2 hbad)))
  case peer => exact fun s d hpeer => execPeerDieFaulted_faults hpeer
  case collective =>
    intro s d b j hrun hjob hst htraining hcolls hquiet
    exact execPhaseCollectiveWait_reports hrun hjob hst htraining hcolls hquiet
  case timeout =>
    intro s d hst hsettled hheld
    exact congrArg s.nextMain (Main.abandon_outstanding hst hsettled hheld)

end Sys2Proof.Machine
end

section
/-! SUPPORT. The Chuck's mailbox commands, where their checks pass (R108–R111, R126, R127, R133). -/

namespace Sys2Proof.Machine

variable {m : Main} {p : Payload}

/-- An image that passes every check joins the staging queue; it is checked as the read of it leaves the module (R109, R111). -/
theorem Main.stage_joins {j : Job} {m1 : Main} {img : List Byte} {b : Blank} {tcs2 : Bool}
    (hdie : bvAt p 12 1 ≤ 3) (halign : bvAt p 0 8 % 64 = 0) (hjob : m.job? (bvAt p 16 4) = some j)
    (hholds : j.dies.getLsbD (bvAt p 12 1) = true) (harea : (m.dieAt (bvAt p 12 1)).shavings ≠ none)
    (hroom : (m.dieAt (bvAt p 12 1)).staged.length < 4)
    (hlive : ¬ ((m.sramAt (bvAt p 12 1)).below = true ∧ (m.sramAt (bvAt p 12 1)).live < 0x10000000))
    (hlen : 64 ≤ bvAt p 8 4 ∧ bvAt p 8 4 ≤ 0x4000000 ∧ bvAt p 8 4 % 64 = 0)
    (hread : m.daGet (m.diePartOf (bvAt p 12 1)) (bvAt p 0 8) (bvAt p 8 4) = (m1, some img))
    (hpasses : imageChk (m1.stageEnv (bvAt p 12 1) j (bvAt p 16 4) (bvAt p 20 4) (bvAt p 8 4) tcs2) img (bvAt p 0 8) = .ok b) :
    m.stage p tcs2 = ok (m1.updDie (bvAt p 12 1) (fun v => { v with staged := v.staged ++ [b] }))
      [(0, 1, (m.dieAt (bvAt p 12 1)).staged.length), (1, 1, 0), (4, 4, 0)] := by
  obtain ⟨hmin, hmax, hwhole⟩ := hlen
  have hset : (m.dieAt (bvAt p 12 1)).shavings.isNone = false :=
    Option.isNone_eq_false_iff.2 (Option.ne_none_iff_isSome.1 harea)
  have hpool : ((m.sramAt (bvAt p 12 1)).below && decide ((m.sramAt (bvAt p 12 1)).live < 0x10000000)) = false :=
    Bool.eq_false_iff.2 fun h => hlive ((Bool.and_eq_true_iff.1 h).imp_right of_decide_eq_true)
  simp only [Main.stage, gt_iff_lt, ge_iff_le, Nat.not_lt.2 hdie, halign, hjob, hholds, hset, Nat.not_le.2 hroom, hpool, Nat.not_lt.2 hmin,
    Nat.not_lt.2 hmax, hwhole, hread, hpasses, stageReply, bne_self_eq_false, decide_false, Bool.not_true, Bool.or_self,
    Bool.false_eq_true, if_false, if_true, ok]

/-- A mask that holds the whole peer group of each of its dies splits none (R126). -/
theorem Main.forceMask_whole {mask : BitVec 4} {goIdle : Bool}
    (hwhole : ∀ d ∈ diesOf mask, ∀ q ∈ m.groupOf d, mask.getLsbD q = true) :
    m.forceMask mask goIdle = some ((diesOf mask).foldl (fun m d => m.force goIdle d) m) :=
  if_pos (List.all_eq_true.2 fun d hd => List.all_eq_true.2 (hwhole d hd))

theorem Main.forcedBody_forces (hwhole : ∀ d ∈ diesOf (p.extractLsb' 0 4), ∀ q ∈ m.groupOf d, (p.extractLsb' 0 4).getLsbD q = true) :
    Main.forcedBody p m = ok ((diesOf (p.extractLsb' 0 4)).foldl (fun m d => m.force (p.getLsbD 8) d) m) [] := by
  simp only [Main.forcedBody, Main.forceMask_whole hwhole]

/-- A shavings area of whole 2 MiB, 128 MiB to 4 GiB large, in mapped and free memory of a stack is set (R108, R133). -/
theorem Main.shavingsBody_sets (hdie : bvAt p 0 1 ≤ 3) (hbase : bvAt p 8 8 % 0x200000 = 0) (hwhole : bvAt p 16 8 % 0x200000 = 0)
    (hsize : 0x8000000 ≤ bvAt p 16 8 ∧ bvAt p 16 8 ≤ 0x100000000) (hstack : bvAt p 8 8 < 2 ^ 41)
    (hmapped : m.mapped (m.diePartOf (bvAt p 0 1)) (bvAt p 8 8) (bvAt p 16 8) = true)
    (hfree : m.freeRun (some (bvAt p 0 1)) (bvAt p 8 8) (bvAt p 16 8) = true) :
    Main.shavingsBody p m =
      ok (m.updDie (bvAt p 0 1) (fun v => { v with shavings := some (BitVec.ofNat 56 (bvAt p 8 8), bvAt p 16 8) })) [] := by
  simp only [Main.shavingsBody, gt_iff_lt, ge_iff_le, Nat.not_lt.2 hdie, hbase, hwhole, Nat.not_lt.2 hsize.1, Nat.not_lt.2 hsize.2,
    Nat.not_le.2 hstack, hmapped, hfree, bne_self_eq_false, decide_false, Bool.not_true, Bool.or_self, Bool.false_eq_true, if_false]

end Sys2Proof.Machine
end

section
/-! The Chuck's mailbox commands. -/

namespace Sys2Proof.Machine

/-- Settles O11: a served command is done with what its body answers, and each body applies in the conditions of its clause; the
status asks for a die that exists alone (R121), and a withdrawal has no condition of its own (R108). -/
theorem chuckCommandsComplete : Obligations.ChuckCommandsComplete := by
  refine ⟨?stage, ?forced, ?status, ?withdraw, ?shavings⟩
  case stage =>
    intro s h p j m1 img b hserves x hdie halign hjob hholds harea hroom hlive hlen hread hpasses
    exact congrArg s.nextMain
      (Main.command_done hserves (Main.stage_joins hdie halign hjob hholds harea hroom hlive hlen hread hpasses))
  case forced =>
    intro s h p hserves x hwhole
    exact congrArg s.nextMain (Main.command_done hserves (Main.forcedBody_forces hwhole))
  case status =>
    intro s h p hserves x hdie
    exact congrArg s.nextMain (Main.command_done hserves (if_neg (Nat.not_lt.2 hdie)))
  case withdraw =>
    intro s h p hserves x
    exact congrArg s.nextMain (Main.command_done hserves rfl)
  case shavings =>
    intro s h p hserves x hdie hbase hwhole hsize hstack hmapped hfree
    exact congrArg s.nextMain (Main.command_done hserves (Main.shavingsBody_sets hdie hbase hwhole hsize hstack hmapped hfree))

end Sys2Proof.Machine
end

section
/-! SUPPORT. The pinned pool, its status, and requests that arrive at a home slice (R145–R147, R151, R157, R180). -/

namespace Sys2Proof.Machine

variable {m : Main}

/-! ### The pinned pool -/

/-- A compute stack in pass-through with its slices emptied and both pinned layers resized (R147 steps 2 to 4). -/
def Main.resizePool (m : Main) (n p1 p2 : Nat) : Main :=
  (((((m.updSram n (fun y => { y with pass := true })).emptySlices n).resizeLayer (n * 2 ^ 31) (m.sramAt n).p1 p1).resizeLayer
    (n * 2 ^ 31 + 2 ^ 30) (m.sramAt n).p2 p2).updSram n (fun y => { y with p1 := p1, p2 := p2, below := false }))

/-- A die that runs no section and whose staged blanks keep the pinned memory that they count on does not hold a setting back (R145). -/
theorem poolChange_not_busy {die : Die} {x : Sram} {p1 p2 : Nat} (hst : die.st = .idle ∨ die.st = .faulted)
    (hstaged : die.staged = [] ∨ (x.p1 ≤ p1 ∧ x.p2 ≤ p2)) :
    ((die.st != .idle && die.st != .faulted) || (die.staged != [] && (decide (p1 < x.p1) || decide (p2 < x.p2)))) = false := by
  have hruns : (die.st != .idle && die.st != .faulted) = false := by
    rcases hst with hst | hst <;> simp [hst]
  have hshrinks : (die.staged != [] && (decide (p1 < x.p1) || decide (p2 < x.p2))) = false := by
    rcases hstaged with hnone | ⟨h1, h2⟩
    · simp [hnone]
    · simp [Nat.not_lt.2 h1, Nat.not_lt.2 h2]
  rw [hruns, hshrinks, Bool.or_self]

/-- A setting of an owner that keeps the floor of the live pool, on a die that it may change, is applied (R145–R147). -/
theorem Main.pinnedPool_sets {h : Hdr} {p : Payload} (hstack : bvAt p 0 1 ≤ 3)
    (howns : m.owns h.src (m.variant.diePart (bvAt p 0 1)) = true)
    (hwhole : bvAt p 8 8 % 65536 = 0 ∧ bvAt p 16 8 % 65536 = 0) (hsize : bvAt p 8 8 ≤ 2 ^ 30 ∧ bvAt p 16 8 ≤ 2 ^ 30)
    (hfloor : poolFloor ≤ (m.sramAt (bvAt p 0 1)).liveFor (bvAt p 8 8) (bvAt p 16 8))
    (hst : (m.dieAt (bvAt p 0 1)).st = .idle ∨ (m.dieAt (bvAt p 0 1)).st = .faulted)
    (hstaged : (m.dieAt (bvAt p 0 1)).staged = [] ∨
      ((m.sramAt (bvAt p 0 1)).p1 ≤ bvAt p 8 8 ∧ (m.sramAt (bvAt p 0 1)).p2 ≤ bvAt p 16 8)) :
    let set := m.resizePool (bvAt p 0 1) (bvAt p 8 8) (bvAt p 16 8)
    m.pinnedPool h p = ok (set.drainStack (bvAt p 0 1))
      [(0, 1, 0), (8, 8, (set.sramAt (bvAt p 0 1)).live),
        (16, 8, largest (fun a => (m.sramAt (bvAt p 0 1)).liveFor a (bvAt p 16 8) ≥ poolFloor)),
        (24, 8, largest (fun a => (m.sramAt (bvAt p 0 1)).liveFor (bvAt p 8 8) a ≥ poolFloor))] := by
  obtain ⟨hwhole1, hwhole2⟩ := hwhole
  obtain ⟨hsize1, hsize2⟩ := hsize
  simp only [Main.pinnedPool, gt_iff_lt, Nat.not_lt.2 hstack, howns, hwhole1, hwhole2, Nat.not_lt.2 hsize1, Nat.not_lt.2 hsize2,
    Nat.not_lt.2 hfloor, poolChange_not_busy hst hstaged, bne_self_eq_false, decide_false, Bool.not_true, Bool.or_self,
    Bool.false_eq_true, if_false, Main.resizePool, ok]

/-- The last setting of a stack to complete ends its pass-through (R147 steps 5 and 6). -/
theorem Main.poolDone_last {r : Resp} {n : Nat} (hr : r.stack = some n) (hlast : ∀ x ∈ m.resps, x.stack ≠ some n) :
    let ended := (m.updSram n (fun y => { y with pass := false })).drainStack n
    m.poolDone r = (ended.log! { code := 0x3301, cls := .rec_, die := some n, par := p1 n },
      { r with rec_ := if r.rec_ = 0xFFFFFFFF then ended.log.next else r.rec_ }) := by
  have hnone : m.resps.any (fun x => x.stack = some n) = false := List.any_eq_false.2 fun x hx => by simp [hlast x hx]
  simp only [Main.poolDone, hr, hnone, Bool.false_eq_true, if_false]

/-! ### Arrival at a home slice -/

section Port

variable {da : DA} {q : Fin 10} {n o : Nat} {kind : ReqKind} {d : BitVec 1024} {words : BitVec 16}
variable (hrng : m.rng da.toNat = .hbm n o)
include hrng

/-- A port's read, and any access of it outside every state region, goes to the home slice (R151, R180). -/
theorem Main.sliceArrive_port (hallowed : kind = .load ∨ m.inRegion (da.toNat / 128 * 128) 128 = false) :
    m.sliceArrive (.port q) da kind d words =
      m.arrive { src := .port q, kind := kind, line := da.toNat / 128, data := d, words := words } := by
  have hpasses : (kind != .load && m.inRegion (da.toNat / 128 * 128) 128) = false := by
    rcases hallowed with h | h <;> simp [h]
  simp only [Main.sliceArrive, hrng, hpasses, Bool.false_eq_true, if_false]

/-- A port's write or reduction into a state region ends with an error status (R180). -/
theorem Main.sliceArrive_port_region (hkind : kind ≠ .load) (hin : m.inRegion (da.toNat / 128 * 128) 128 = true) :
    m.sliceArrive (.port q) da kind d words = m.answer (.port q) da.toNat 0 true := by
  have hrefused : (kind != .load && m.inRegion (da.toNat / 128 * 128) 128) = true := by simp [hkind, hin]
  simp only [Main.sliceArrive, hrng, hrefused, if_true]

end Port

/-- A slice command is its request's arrival, after which the columns of the stack that have failed thrice retire (R484). -/
theorem nextMain_retireDue_congr {s : State} {n : Nat} {a b : Main} (h : a = b) :
    s.nextMain (a.retireDue n) = s.nextMain (b.retireDue n) := by rw [h]

/-- A line of a tile's request arrives with the data of its slot (R151). -/
theorem Main.sliceArrive_tile {da : DA} {t : TileRef} {slot : Fin 64} {kind : ReqKind} {r : Req} {i : Nat} {d : BitVec 1024}
    {words : BitVec 16} (hreq : m.reqFor t slot da.toNat kind = some (r, i)) :
    m.sliceArrive (.tile t slot) da kind d words =
      m.arrive { src := .tile t slot, kind := kind, line := da.toNat / 128, data := r.got.get i, words := 0xFFFF } := by
  simp only [Main.sliceArrive, hreq]

end Sys2Proof.Machine
end

section
/-! The pinned pool and the arrivals at a home slice. -/

namespace Sys2Proof.Machine

/-- Settles O14: a served setting and a served status are done with what their bodies answer, and each slice command is the arrival of
its request. -/
theorem poolsAndSliceArrivalsComplete : Obligations.PoolsAndSliceArrivalsComplete := by
  refine ⟨?setting, ?completion, ?status, ?portRead, ?tileRead, ?portWrite, ?regionWrite, ?tileWrite, ?portRedg, ?regionRedg, ?tileRedg⟩
  case setting =>
    intro s h p hserves x n y m1 m2 m3 hstack howns hwhole hsize hfloor hst hstaged
    exact congrArg (fun a => s.nextMain { a with resps := markPool n s.main.resps.length a.resps })
      (Main.command_done hserves (Main.pinnedPool_sets hstack howns hwhole hsize hfloor hst hstaged))
  case completion => exact fun m r n hr hlast => Main.poolDone_last hr hlast
  case status =>
    intro s h p hserves x y hstack
    exact congrArg s.nextMain (Main.command_done hserves (if_neg (Nat.not_lt.2 hstack)))
  case portRead =>
    intro s da q n o hrng
    exact nextMain_retireDue_congr (Main.sliceArrive_port hrng (.inl rfl))
  case tileRead =>
    intro s da t slot r i hreq
    exact nextMain_retireDue_congr (Main.sliceArrive_tile hreq)
  case portWrite =>
    intro s da d words q n o hrng hout
    exact nextMain_retireDue_congr (Main.sliceArrive_port hrng (.inr hout))
  case regionWrite =>
    intro s da d words q n o hrng hin
    exact nextMain_retireDue_congr (Main.sliceArrive_port_region hrng (by simp) hin)
  case tileWrite =>
    intro s da d words t slot r i hreq
    exact nextMain_retireDue_congr (Main.sliceArrive_tile hreq)
  case portRedg =>
    intro s da fp32 d q n o hrng hout
    exact nextMain_retireDue_congr (Main.sliceArrive_port hrng (.inr hout))
  case regionRedg =>
    intro s da fp32 d q n o hrng hin
    exact nextMain_retireDue_congr (Main.sliceArrive_port_region hrng (by simp) hin)
  case tileRedg =>
    intro s da fp32 d t slot r i hreq
    exact nextMain_retireDue_congr (Main.sliceArrive_tile hreq)

end Sys2Proof.Machine
end

section
/-! SUPPORT. The events of a home slice: fills that return, accesses of base-die engines and the ageing of the input buffer
(R152–R154, R160, R182). -/

namespace Sys2Proof.Machine

variable {m : Main}

/-! ### Fills -/

section Fill

variable {a : Nat} {l : Line} (hline : m.line? a = some l) (hmay : m.mayAccess (a / 2 ^ 37) l.part = true)
include hline hmay

/-- A fill that its regulator and its stack let on is served now (R182, R188). -/
theorem Main.mayFill_line : m.mayFill a = true := by
  simp only [Main.mayFill, hline, Option.any_some, hmay]

/-- A fill installs its line where the slice still has the way and keeps lines, and answers whoever waited for it (R147, R151, R152). -/
theorem Main.fillReturn_answers (hst : l.st = .fillPending) :
    let h := m.home a
    let f := (m.finaliseRecord l.part a).memLine l.part a
    let kept := if (!(f.1.sramAt h.1).pass && l.way < (f.1.sramAt h.1).ways) = true then
      f.1.install a { l with st := .clean, data := f.2.1, poison := f.2.2, att := [] } else f.1.setLine a none
    m.fillReturn a = (l.att.foldl (fun m src => m.answer src a f.2.1 (f.2.2 != 0)) kept).drainBuf h.1 h.2 := by
  simp only [Main.fillReturn, Main.mayFill_line hline hmay, Main.fillNow, hline, hst, bne_self_eq_false, Bool.false_eq_true, if_false,
    if_true]

/-- A reduction fill joins the base die's record or the memory value to the line's accumulators (R160). -/
theorem Main.reductionFill_joins (hst : l.st = .redPending) :
    let h := m.home a
    let f := m.seedLine l.part a l
    m.reductionFill a = (f.1.setLine a (some { f.2 with st := .reduction })).drainBuf h.1 h.2 := by
  simp only [Main.reductionFill, Main.mayFill_line hline hmay, Main.seedNow, hline, hst, bne_self_eq_false, Bool.false_eq_true, if_false,
    if_true]

end Fill

/-! ### Base-die engines -/

/-- An engine whose owner's regulator lets it reads its line, or writes the one that it has (R154, R182). -/
theorem execBaseDieAccess_admitted {s : State} {da : DA} {n o : Nat} (j : U32) (w : Option (BitVec 1024))
    (hrng : s.main.rng (da.toNat / 128 * 128) = .hbm n o)
    (hmay : s.main.mayAccess n (s.main.ownPart (da.toNat / 128 * 128)) = true) :
    execBaseDieAccess j da w s = s.nextMain (w.elim (s.main.baseRead (da.toNat / 128 * 128) 128).1
      (fun d => s.main.baseWrite j.toNat (da.toNat / 128 * 128) (bvBytes d 128))) := by
  simp only [execBaseDieAccess, onMain_eq, hrng, hmay, Bool.not_true, Bool.false_eq_true, if_false]
  cases w <;> rfl

/-! ### Ageing -/

/-- Ageing marks the oldest request that is not aged, and that one alone (R153). -/
theorem mark_oldest {l r : List Waiting} {w : Waiting} (haged : ∀ v ∈ l, v.aged = true) (hw : w.aged = false) :
    execInputBufferAging.mark (l ++ w :: r) = l ++ { w with aged := true } :: r := by
  induction l with
  | nil => simp only [List.nil_append, execInputBufferAging.mark, hw, Bool.false_eq_true, if_false]
  | cons v l ih =>
    obtain ⟨hv, hrest⟩ := List.forall_mem_cons.1 haged
    simp only [List.cons_append, execInputBufferAging.mark, hv, if_true, ih hrest]

end Sys2Proof.Machine
end

section
/-! The events of a home slice. -/

namespace Sys2Proof.Machine

/-- Settles O15: a fill that may be served returns, an admitted engine accesses its line, ageing marks the oldest request, and the
thrashing row is the end of its window as the clause states it. -/
theorem sliceEventsComplete : Obligations.SliceEventsComplete := by
  refine ⟨?fill, ?reductionFill, ?baseDie, ?ageing, ?thrashing⟩
  case fill =>
    intro s da l hline hst hmay h f m1
    exact congrArg s.nextMain (Main.fillReturn_answers hline hmay hst)
  case reductionFill =>
    intro s da l hline hst hmay h f
    exact congrArg s.nextMain (Main.reductionFill_joins hline hmay hst)
  case baseDie =>
    intro s j da n o hrng a hmay
    exact ⟨execBaseDieAccess_admitted j none hrng hmay, fun d => execBaseDieAccess_admitted j (some d) hrng hmay⟩
  case ageing => exact fun s j i l r w _ haged hw => ⟨rfl, mark_oldest haged hw⟩
  case thrashing => exact fun _ _ _ => rfl

end Sys2Proof.Machine
end

section
/-! SUPPORT. The dowels: a beat's check, the margin check and sparing (R141, R142, R164, R165). -/

namespace Sys2Proof.Machine

variable {s : State} {g : DowelRef}

/-! ### Beats -/

section Beat

variable {d : BitVec 1024} {crc : U16}

/-- A direction under sparing and a retired column carry no beat (R164, R165). -/
theorem execDowelBeatReceive_stopped
    (hstopped : (s.main.dowel g).sparing = true ∨ (s.main.sramAt g.stack.val).retired.contains g.col.val = true) :
    execDowelBeatReceive g d crc s = s.nextMain s.main := by
  simp only [execDowelBeatReceive, onMain_eq, Bool.or_eq_true, hstopped, if_true]

variable (hcarries : (s.main.dowel g).sparing = false) (hlive : (s.main.sramAt g.stack.val).retired.contains g.col.val = false)
include hcarries hlive

/-- A sound beat is delivered (R142). -/
theorem execDowelBeatReceive_delivered (hok : beatOk g.upper d crc = true) :
    execDowelBeatReceive g d crc s =
      s.nextMain (s.main.updDowel g (fun x => { x with tries := 0, delivered := x.delivered + 1 })) := by
  simp only [execDowelBeatReceive, onMain_eq, hcarries, hlive, hok, Bool.or_self, Bool.false_eq_true, if_false, if_true]

variable (hbad : beatOk g.upper d crc = false)
include hbad

/-- A beat that fails its check is replayed up to three times in a row (R142, R164). -/
theorem execDowelBeatReceive_replayed (htries : (s.main.dowel g).tries < 3) :
    execDowelBeatReceive g d crc s = s.nextMain ((s.main.updDowel g (fun x => { x with tries := x.tries + 1 })).replay g) := by
  simp only [execDowelBeatReceive, onMain_eq, hcarries, hlive, hbad, ge_iff_le, Nat.not_le.2 htries, Bool.or_self, Bool.false_eq_true,
    if_false]

/-- The fourth failure in a row starts sparing (R164). -/
theorem execDowelBeatReceive_failed (htries : 3 ≤ (s.main.dowel g).tries) :
    execDowelBeatReceive g d crc s = s.nextMain (s.main.updDowel g (fun x => { x with tries := 0, sparing := true })) := by
  simp only [execDowelBeatReceive, onMain_eq, hcarries, hlive, hbad, ge_iff_le, htries, Bool.or_self, Bool.false_eq_true, if_false, if_true]

end Beat

/-! ### The margin check -/

theorem execDowelMarginCheck_starts {below : List (Fin 538)} (hbelow : below ≠ [])
    (hlive : (s.main.sramAt g.stack.val).retired.contains g.col.val = false) :
    execDowelMarginCheck g below s = s.nextMain (s.main.updDowel g (fun x => { x with sparing := true })) := by
  simp only [execDowelMarginCheck, onMain_eq, hbelow, hlive, decide_false, Bool.or_self, Bool.false_eq_true, if_false]

theorem execDowelMarginCheck_passes {below : List (Fin 538)}
    (hpasses : below = [] ∨ (s.main.sramAt g.stack.val).retired.contains g.col.val = true) :
    execDowelMarginCheck g below s = s.nextMain s.main := by
  simp only [execDowelMarginCheck, onMain_eq, Bool.or_eq_true, decide_eq_true_eq, hpasses, if_true]

/-! ### Sparing -/

section Spare

variable {m : Main} {f : List Nat}

/-- The direction no longer spares, and its retries start again. -/
def Main.endSparing (m : Main) (g : DowelRef) : Main := m.updDowel g (fun x => { x with sparing := false, tries := 0 })

/-- No failed dowel lies in link half `h` of a group. -/
def halfWhole (upper : Bool) (f : List Nat) (h : Nat) : Bool :=
  f.all (fun i => !(h * (if upper then 128 else 256) ≤ i && i < (h + 1) * (if upper then 128 else 256)))

theorem Main.spare_idle (hidle : (m.dowel g).sparing = false) : m.spare g f = m := by
  simp only [Main.spare, hidle, Bool.not_false, if_true]

variable (hsparing : (m.dowel g).sparing = true)
include hsparing

/-- With too few free spares the column retires, with a link half that still serves or without (R165). -/
theorem Main.spare_retires (hfew : ((m.dowel g).needs g.upper f).length > ((m.dowel g).free g.upper f).length) :
    m.spare g f = (m.endSparing g).retireColumn g.stack.val g.col.val (halfWhole g.upper f 0 || halfWhole g.upper f 1) := by
  simp only [Main.spare, hsparing, hfew, Bool.not_true, Bool.false_eq_true, if_false, if_true, Main.endSparing, halfWhole]

/-- Each failed dowel that carries traffic gets a free spare, what waited goes on, and each spare is logged (R164). -/
theorem Main.spare_maps (hfit : ((m.dowel g).needs g.upper f).length ≤ ((m.dowel g).free g.upper f).length) :
    let x := m.dowel g
    let free := x.free g.upper f
    let new := (x.needs g.upper f).zip free
    m.spare g f = new.zipIdx.foldl (fun m e => m.log!
      { code := 0x3101, cls := .rec_, die := some g.stack.val,
        par := p1 g.stack.val ++ p2 g.col.val ++ p1 ((if g.upper then 2 else 0) + (if g.up then 1 else 0)) ++
          p2 e.1.1 ++ p2 e.1.2 ++ p4 (free.length - (e.2 + 1)) })
      (((m.endSparing g).updDowel g (fun y => { y with map := x.map.filter (fun e => !(f.contains e.2)) ++
        (f.filter (fun i => spareBase g.upper ≤ i)).map (fun i => (i, i)) ++ new })).drainStack g.stack.val) := by
  simp only [Main.spare, hsparing, gt_iff_lt, Nat.not_lt.2 hfit, Bool.not_true, Bool.false_eq_true, if_false, Main.endSparing]

end Spare

end Sys2Proof.Machine
end

section
/-! The events of the dowels. -/

namespace Sys2Proof.Machine

/-- Settles O16: each row in the conditions of its clause; a replay counts as the clause spells it out. -/
theorem dowelEventsComplete : Obligations.DowelEventsComplete := by
  refine ⟨?delivered, ?replayed, ?failed, ?stopped, ?marginStarts, ?marginPasses, ?sparing, ?idle⟩
  case delivered => exact fun s g d crc hcarries hlive hok => execDowelBeatReceive_delivered hcarries hlive hok
  case replayed => exact fun s g d crc hcarries hlive hbad htries => execDowelBeatReceive_replayed hcarries hlive hbad htries
  case failed => exact fun s g d crc hcarries hlive hbad htries => execDowelBeatReceive_failed hcarries hlive hbad htries
  case stopped => exact fun s g d crc hstopped => execDowelBeatReceive_stopped hstopped
  case marginStarts => exact fun s g below hbelow hlive => execDowelMarginCheck_starts hbelow hlive
  case marginPasses => exact fun s g below hpasses => execDowelMarginCheck_passes hpasses
  case sparing =>
    intro s g failed hsparing f x free m1 half whole
    exact ⟨fun hfew => congrArg s.nextMain (Main.spare_retires hsparing hfew),
      fun hfit => congrArg s.nextMain (Main.spare_maps hsparing hfit)⟩
  case idle => exact fun s g failed hidle => congrArg s.nextMain (Main.spare_idle hidle)

end Sys2Proof.Machine
end

section
/-! SUPPORT. The channel interleave: a channel is five bits of the offset joined with a mask of the bits above them (R172). -/

namespace Sys2Proof.Machine

/-- What the upper part of a granule index adds to the channel (R172). -/
def chanMask (h : Nat) : Nat := (h ^^^ h / 2 ^ 5 ^^^ h / 2 ^ 10 ^^^ h / 2 ^ 15) % 2 ^ 5

theorem chanMask_lt (h : Nat) : chanMask h < 2 ^ 5 := Nat.mod_lt _ (by decide)

/-- Below 2^37 the granule index is the offset's upper part whole (R172). -/
theorem chanOf_eq {o : Nat} (ho : o < 2 ^ 37) :
    chanOf o = (o / 2 ^ 12 ^^^ o / 2 ^ 17 ^^^ o / 2 ^ 22 ^^^ o / 2 ^ 27 ^^^ o / 2 ^ 32) % 32 := by
  have hgranule : o / 4096 % 2 ^ 25 = o / 2 ^ 12 := Nat.mod_eq_of_lt (by omega)
  simp only [chanOf, hgranule, Nat.div_div_eq_div_mul, ← pow_add, Nat.reduceAdd]

/-- The channel is the low five bits of the granule index under the mask of its upper part (R172). -/
theorem chanOf_mask {o : Nat} (ho : o < 2 ^ 37) : chanOf o = o / 2 ^ 12 % 2 ^ 5 ^^^ chanMask (o / 2 ^ 17) := by
  rw [chanOf_eq ho, chanMask, ← Nat.xor_mod_two_pow]
  simp only [Nat.div_div_eq_div_mul, Nat.xor_assoc, Nat.reducePow]

/-- The channel of the granule with low bits `i` under the upper part `g` (R172). -/
theorem chanOf_granule {g i b : Nat} (hg : g < 2 ^ 20) (hi : i < 32) (hb : b < 2 ^ 12) :
    chanOf ((g * 32 + i) * 2 ^ 12 + b) = i ^^^ chanMask g := by
  have hlow : ((g * 32 + i) * 2 ^ 12 + b) / 2 ^ 12 % 2 ^ 5 = i := by omega
  have hhigh : ((g * 32 + i) * 2 ^ 12 + b) / 2 ^ 17 = g := by omega
  rw [chanOf_mask (by omega), hlow, hhigh]

/-- A channel address holds the upper part of the granule index and the place within the granule (R172). -/
theorem chanAddr_inj {o o' : Nat} (h : chanAddr o = chanAddr o') : o / 2 ^ 17 = o' / 2 ^ 17 ∧ o % 2 ^ 12 = o' % 2 ^ 12 := by
  simp only [chanAddr] at h
  omega

/-- Channel and channel address together give the offset back (R172). -/
theorem chan_inj {o o' : Nat} (ho : o < 2 ^ 37) (ho' : o' < 2 ^ 37) (hch : chanOf o = chanOf o') (hc : chanAddr o = chanAddr o') :
    o = o' := by
  obtain ⟨hhigh, hbyte⟩ := chanAddr_inj hc
  rw [chanOf_mask ho, chanOf_mask ho', hhigh] at hch
  have hlow : o / 2 ^ 12 % 2 ^ 5 = o' / 2 ^ 12 % 2 ^ 5 := Nat.xor_left_injective hch
  omega

end Sys2Proof.Machine
end

section
/-! The channel interleave. -/

namespace Sys2Proof.Machine

/-- Settles O52: under a fixed upper part the channel is the low five bits exclusive-or a constant, which is its own inverse. -/
theorem channelMapIsOneToOne : Obligations.ChannelMapIsOneToOne := by
  refine ⟨?formula, ?onto, ?oneToOne⟩
  case formula => exact fun o ho => ⟨chanOf_eq ho, rfl⟩
  case onto =>
    intro g b hg hb ch hch
    have hi : ch ^^^ chanMask g < 32 := Nat.xor_lt_two_pow (n := 5) hch (chanMask_lt g)
    refine ⟨ch ^^^ chanMask g, hi, ?_, fun j hj hsame => ?_⟩
    · rw [chanOf_granule hg hi hb, Nat.xor_xor_cancel_right]
    · rw [← hsame, chanOf_granule hg hj hb, Nat.xor_xor_cancel_right]
  case oneToOne => exact fun o o' ho ho' hch hc => chan_inj ho ho' hch hc

end Sys2Proof.Machine
end

section
/-! SUPPORT. Delivered bytes: what a write of whole words leaves to be delivered (R168, R475, R478). -/

namespace Sys2Proof.Machine

variable {m : Mem} {a : Nat}

/-- What a word delivers depends on its side entry and its stored bytes alone (R475). -/
theorem Mem.byte_congr {m m' : Mem} {b : Nat} (hside : m.side.find (b / 8) = m'.side.find (b / 8))
    (hraw : ∀ c, c / 8 = b / 8 → m.raw c = m'.raw c) : m.byte b = m'.byte b := by
  have hword : m.rawWord (b / 8) = m'.rawWord (b / 8) :=
    congrArg (bvOf 64) (List.map_congr_left fun i hi => hraw _ (by have := List.mem_range.1 hi; omega))
  simp only [Mem.byte, Mem.decode, hside, hword, hraw b rfl]

/-- A written byte is delivered: its word has no side entry any more (R478). -/
theorem Mem.byte_write_same {l : List Byte} (hwf : Memory.wf m = true) {i : Nat} (hi : i < l.length) :
    (m.write a l).byte (a + i) = l.getD i 0 := by
  have hwritten : l ≠ [] ∧ a / 8 ≤ (a + i) / 8 ∧ (a + i) / 8 ≤ (a + l.length - 1) / 8 :=
    ⟨List.ne_nil_of_length_pos (by omega), by omega, by omega⟩
  simp only [Mem.byte, Mem.side_write, if_pos hwritten, Mem.raw_write_same l hwf hi]

/-- Outside a run of whole words no word is touched, so that every byte is delivered as before (R475). -/
theorem Mem.byte_write_other {l : List Byte} (hwf : Memory.wf m = true) (ha : a % 8 = 0) (hl : l.length % 8 = 0) {b : Nat}
    (hb : b < a ∨ a + l.length ≤ b) : (m.write a l).byte b = m.byte b := by
  refine Mem.byte_congr ?_ fun c hc => Mem.raw_write_other l hwf (by omega)
  have houtside : ¬ (l ≠ [] ∧ a / 8 ≤ b / 8 ∧ b / 8 ≤ (a + l.length - 1) / 8) := by
    rintro ⟨hne, hfrom, hto⟩
    have := List.length_pos_of_ne_nil hne
    omega
  rw [Mem.side_write, if_neg houtside]

end Sys2Proof.Machine
end

section
/-! Byte stores. -/

namespace Sys2Proof.Machine

/-- Settles O58: a run of whole words replaces the words that it meets, data and check bits, and meets no other. -/
theorem storesWriteExactlyTheirBytes : Obligations.StoresWriteExactlyTheirBytes := fun _ a l hwf ha hl =>
  ⟨Mem.write_wf a l hwf, fun _ hi => Mem.byte_write_same hwf hi, fun _ hb => Mem.byte_write_other hwf ha hl hb⟩

end Sys2Proof.Machine
end

section
/-! SUPPORT. State regions and bandwidth regulators, where their checks pass (R177–R185). -/

namespace Sys2Proof.Machine

variable {m : Main} {h : Hdr} {p : Payload}

/-! ### State regions -/

theorem Main.inCarry_closed (hjobs : m.jobs = []) (a n : Nat) : m.inCarry a n = false := by
  simp only [Main.inCarry, hjobs, List.any_nil]

/-- Region `k` of stack `n` is set, with all that this entails: its bytes are undefined, a PRT's assigned runs are dropped, and the
setting is logged (R177–R179). -/
def Main.withRegion (m : Main) (n k off size : Nat) : Main :=
  let m1 := (m.updHbm n (fun y => { y with region := y.region.put k (off, size) })).forgetRun (n * 2 ^ 37 + off) size
  let m2 : Main := if k = 1 then
    { m1 with assigned := m1.assigned.map (fun e => (e.1, { e.2 with runs := e.2.runs.filter (fun r => r.stack != n) })) }
    else m1
  m2.log! { code := 0x2101, cls := .rec_, stack := some n }

/-- A region that meets the rules is set, and the PRT total answered (R177, R178). -/
theorem Main.setRegion_sets
    (hplace : bvAt p 0 1 < m.variant.stacks ∧ 1 ≤ bvAt p 1 1 ∧ bvAt p 1 1 ≤ 5)
    (howns : m.owns h.src (m.variant.stackPart (bvAt p 0 1)) = true) (hjobs : m.jobs = [])
    (hrun : bvAt p 16 8 ≠ 0 ∧ bvAt p 8 8 % 0x200000 = 0 ∧ bvAt p 16 8 % 0x200000 = 0)
    (hfits : bvAt p 8 8 + bvAt p 16 8 ≤ m.visible (bvAt p 0 1))
    (hregions : ∀ r ∈ (m.hbmAt (bvAt p 0 1)).region.del (bvAt p 1 1), overlap (bvAt p 8 8) (bvAt p 16 8) r.2.1 r.2.2 = false)
    (hshavings : ∀ d < 4, ∀ b z, (m.dieAt d).shavings = some (b, z) →
      overlap (bvAt p 0 1 * 2 ^ 37 + bvAt p 8 8) (bvAt p 16 8) b.toNat z = false)
    (hprt : bvAt p 1 1 = 1 →
      ((m.hbm.del (bvAt p 0 1)).map (fun e => ((e.2.region.find 1).map (·.2)).getD 0)).sum + bvAt p 16 8 ≤ 0x20000000) :
    let m' := m.withRegion (bvAt p 0 1) (bvAt p 1 1) (bvAt p 8 8) (bvAt p 16 8)
    Main.setRegion h p m = ok m' [(8, 8, m'.prtBytes)] := by
  obtain ⟨hstack, hk1, hk5⟩ := hplace
  obtain ⟨hsize, hoff, hwhole⟩ := hrun
  have hk0 : bvAt p 1 1 ≠ 0 := by omega
  have hapart : (((m.hbmAt (bvAt p 0 1)).region.del (bvAt p 1 1)).any
      (fun r => overlap (bvAt p 8 8) (bvAt p 16 8) r.2.1 r.2.2)) = false :=
    List.any_eq_false.2 fun r hr => Bool.eq_false_iff.1 (hregions r hr)
  have hsmall : (decide (bvAt p 1 1 = 1) && decide (((m.hbm.del (bvAt p 0 1)).map
      (fun e => ((e.2.region.find 1).map (·.2)).getD 0)).sum + bvAt p 16 8 > 0x20000000)) = false := by
    simp only [Bool.and_eq_false_iff, decide_eq_false_iff_not, Nat.not_lt, gt_iff_lt]
    exact or_iff_not_imp_left.2 fun hk => hprt (not_not.1 hk)
  simp only [Main.setRegion, ge_iff_le, gt_iff_lt, Nat.not_le.2 hstack, hk0, Nat.not_lt.2 hk5, howns, Main.inCarry_closed hjobs, hjobs,
    hsize, hoff, hwhole, Nat.not_lt.2 hfits, hapart, hsmall, bne_self_eq_false, decide_false, Bool.not_true, Bool.and_false,
    Bool.or_self, Bool.false_or, Bool.false_and, Bool.false_eq_true, if_false]
  refine if_neg fun hmeets => (bne_iff_ne (α := Nat)).1 hmeets (if_neg (Bool.eq_false_iff.1 (List.any_eq_false.2 fun d hd => ?_)))
  split
  · exact Bool.eq_false_iff.1 (hshavings d (List.mem_range.1 hd) _ _ ‹_›)
  · exact Bool.false_ne_true

/-- A region of a stack that exists is read as it is set, or as 0 (R178). -/
theorem Main.readRegion_reads (hplace : bvAt p 0 1 < m.variant.stacks ∧ 1 ≤ bvAt p 1 1 ∧ bvAt p 1 1 ≤ 5) :
    let r := ((m.hbmAt (bvAt p 0 1)).region.find (bvAt p 1 1)).getD (0, 0)
    Main.readRegion p m = ok m [(0, 8, r.1), (8, 8, r.2)] := by
  obtain ⟨hstack, hk1, hk5⟩ := hplace
  have hk0 : bvAt p 1 1 ≠ 0 := by omega
  simp only [Main.readRegion, ge_iff_le, gt_iff_lt, Nat.not_le.2 hstack, hk0, Nat.not_lt.2 hk5, decide_false, Bool.or_self,
    Bool.false_eq_true, if_false]

/-! ### Regulators -/

/-- A control write whose first act is to clear REJ where bit 2 is set (R183). -/
def Main.rejCleared (m : Main) (v : U64) : Main := if v.getLsbD 2 then { m with rctl := { m.rctl with rej := false } } else m

theorem Main.regCtl_commit {v : U64} (hsnap : v.getLsbD 3 = false) : m.regCtl (v ||| 1) = (m.rejCleared v).regCommit := by
  simp only [Main.regCtl, Main.rejCleared, BitVec.getLsbD_or, BitVec.reduceGetLsb, hsnap, Bool.or_false, Bool.or_true, Bool.false_eq_true,
    if_false, if_true]

theorem Main.regCtl_snapshot {v : U64} (hcommit : v.getLsbD 0 = false) (hrej : v.getLsbD 2 = false) :
    m.regCtl (v ||| 8) = m.regSnap := by
  simp only [Main.regCtl, BitVec.getLsbD_or, BitVec.reduceGetLsb, hcommit, hrej, Bool.or_self, Bool.or_true, Bool.false_eq_true, if_false,
    if_true]

theorem Main.regCommit_applies (hgood : m.regBad = none) : m.regCommit = m.regApply := by
  simp only [Main.regCommit, hgood]

theorem Main.regCommit_rejects {n : Nat} (hbad : m.regBad = some n) :
    m.regCommit = { m with rctl := { m.rctl with rej := true, who := BitVec.ofNat 4 n } } := by
  simp only [Main.regCommit, hbad]

/-- The operator sets the four regulators of a stack that it owns, within the rules (R184, R185). -/
theorem Main.setRegs_sets (hstack : bvAt p 0 1 < m.variant.stacks)
    (hmay : Src.operator h.src = true ∧ m.owns h.src (m.variant.stackPart (bvAt p 0 1)) = true)
    (hrules : m.regOk (fun i => RegCfg.of (BitVec.ofNat 32 (bvAt p (8 + 4 * i) 4))) = true) :
    Main.setRegs h p m = ok (m.updHbm (bvAt p 0 1) (fun y => { y with
      reg := (List.range 4).foldl (fun t i => t.upd i (fun r => r.apply (RegCfg.of (BitVec.ofNat 32 (bvAt p (8 + 4 * i) 4))))) y.reg })) [] := by
  simp only [Main.setRegs, ge_iff_le, Nat.not_le.2 hstack, hmay, hrules, Bool.not_true, Bool.or_self, Bool.false_eq_true, if_false]

end Sys2Proof.Machine
end

section
/-! State regions and regulators. -/

namespace Sys2Proof.Machine

/-- Settles O17: a served command is done with what its body answers, a control write does the acts of its bits, and the window is the
clause's own refill. -/
theorem regionAndRegulatorCommandsComplete : Obligations.RegionAndRegulatorCommandsComplete := by
  refine ⟨?set, ?read, ?commit, ?snapshot, ?regulators, ?window⟩
  case set =>
    intro s h p hserves x n k off size m1 m2 m3 hplace howns hjobs hrun hfits hregions hshavings hprt
    exact congrArg s.nextMain (Main.command_done hserves
      (Main.setRegion_sets hplace howns hjobs hrun hfits hregions hshavings hprt))
  case read =>
    intro s h p hserves x hplace
    exact congrArg s.nextMain (Main.command_done hserves (Main.readRegion_reads hplace))
  case commit =>
    intro s v m1
    exact ⟨fun hgood hsnap => congrArg s.nextMain ((Main.regCtl_commit hsnap).trans (Main.regCommit_applies hgood)),
      fun n hbad hsnap => congrArg s.nextMain ((Main.regCtl_commit hsnap).trans (Main.regCommit_rejects hbad))⟩
  case snapshot => exact fun s v hcommit hrej => congrArg s.nextMain (Main.regCtl_snapshot hcommit hrej)
  case regulators =>
    intro s h p hserves x cfg hstack hmay hrules
    exact congrArg s.nextMain (Main.command_done hserves (Main.setRegs_sets hstack hmay hrules))
  case window => exact fun _ _ _ => rfl

end Sys2Proof.Machine
end

section
/-! SUPPORT. Memory-stack temperature: the sample of a stack that exists and the thermal steps (R186–R189). -/

namespace Sys2Proof.Machine

variable {s : State}

theorem execMemoryStackTempSample_present {n : Fin 10} (diode : Int) (readout : Option Int) (hstack : n.val < s.main.variant.stacks) :
    execMemoryStackTempSample n diode readout s = s.nextMain (s.main.tempSample n.val diode readout) := by
  simp only [execMemoryStackTempSample, onMain_eq, hstack, if_true]

/-- In stage 3 each die that the stack homes goes one step down: its ceiling, or at P0 or under fixed pace its firing beats (R188, R189). -/
theorem execMemoryThermalStepDown_hot {n : Fin 10} (hhot : (s.main.hbmAt n.val).stages.getLsbD 2 = true) :
    execMemoryThermalStepDown n s = s.nextMain ((s.main.variant.homes n.val).foldl (fun m d => m.updDp d (fun x =>
      let top := if x.ceilMem < x.point then x.ceilMem else x.point
      if !(m.fixedPace d) && top != 0 then { x with ceilMem := top - 1 }
      else { x with fireMem := if x.fireMem > 1 then x.fireMem - 1 else x.fireMem })) s.main) := by
  simp only [execMemoryThermalStepDown, onMain_eq, hhot, Bool.not_true, Bool.false_eq_true, if_false]

/-- With no homed stack in stage 3 a die goes one step up, its firing beats first (R189). -/
theorem execMemoryThermalStepUp_cool {d : Fin 4} (hcool : s.main.homeStage d.val 2 = false) :
    execMemoryThermalStepUp d s = s.nextMain (s.main.updDp d.val (fun x =>
      if x.fireMem < 16 then { x with fireMem := x.fireMem + 1 }
      else { x with ceilMem := if x.ceilMem < 6 then x.ceilMem + 1 else x.ceilMem })) := by
  simp only [execMemoryThermalStepUp, onMain_eq, hcool, Bool.false_eq_true, if_false]

end Sys2Proof.Machine
end

section
/-! The temperature of the memory stacks. -/

namespace Sys2Proof.Machine

/-- Settles O18: the sample of a stack of the variant is the clause's own chain of updates, and each thermal step acts in the stage of
its clause. -/
theorem memoryTemperatureEventsComplete : Obligations.MemoryTemperatureEventsComplete := by
  refine ⟨?sample, ?stepDown, ?stepUp⟩
  case sample =>
    intro s n diode readout hstack y r st far differ report m1 m2 m3 m4
    exact execMemoryStackTempSample_present diode readout hstack
  case stepDown => exact fun s n hhot => execMemoryThermalStepDown_hot hhot
  case stepUp => exact fun s d hcool => execMemoryThermalStepUp_cool hcool

end Sys2Proof.Machine
end

section
/-! SUPPORT. The commands of the weight layers, where their checks pass (R194–R199, R212, R214). -/

namespace Sys2Proof.Machine

variable {m : Main} {h : Hdr} {p : Payload} {j : Job}

theorem fillRefused_ok (fields : Main → List (Nat × Nat × Nat)) (m : Main) (l : List (Nat × Nat × Nat)) :
    fillRefused fields (ok m l) = ok m l := rfl

/-- The layer record that SET_WEIGHT_LAYER describes (R197). -/
def layerOf (p : Payload) : Layer :=
  { stack := bvAt p 6 1, a := bvAt p 8 8, kb := bvAt p 16 2, nb := bvAt p 18 2, tw := p.extractLsb' 160 32, axisK := p.getLsbD 56,
    rowMask := p.getLsbD 57, blockMask := p.getLsbD 58, mask := p.extractLsb' 192 56 }

section SetLayer

variable (hjob : m.job? (bvAt p 0 4) = some j) (hnum : bvAt p 4 2 ≤ 4095) (hidle : m.jobRuns j = false)
include hjob hnum hidle

/-- Zero block counts remove the layer (R197). -/
theorem Main.setLayer_removes
    (howns : bvAt p 6 1 < m.variant.stacks → m.owns h.src (m.variant.stackPart (bvAt p 6 1)) = true)
    (hzero : bvAt p 16 2 = 0 ∧ bvAt p 18 2 = 0) :
    Main.setLayer h p m = ok (m.updJob (bvAt p 0 4) (fun j => { j with layers := j.layers.del (bvAt p 4 2) }))
      [(16, 2, (j.layers.del (bvAt p 4 2)).length)] := by
  have hmay : (decide (bvAt p 6 1 < m.variant.stacks) && !(m.owns h.src (m.variant.stackPart (bvAt p 6 1)))) = false := by
    simpa using howns
  simp only [Main.setLayer, hjob, gt_iff_lt, Nat.not_lt.2 hnum, hmay, hidle, hzero, decide_true, Bool.and_self, Bool.false_eq_true,
    if_false, if_true]

/-- A record within its bounds, whose copies fit into the region and meet no other layer's, is set (R194, R198, R214). -/
theorem Main.setLayer_sets (hstack : bvAt p 6 1 < m.variant.stacks)
    (howns : m.owns h.src (m.variant.stackPart (bvAt p 6 1)) = true)
    (hblocks : 1 ≤ bvAt p 16 2 ∧ 1 ≤ bvAt p 18 2 ∧ bvAt p 16 2 ≤ 4096 ∧ bvAt p 18 2 ≤ 4096 ∧
      bvAt p 16 2 * bvAt p 18 2 * 4096 ≤ 2 ^ 32)
    (hroom : (j.layers.find (bvAt p 4 2)).isNone = true → j.layers.length < 4096)
    (htw : twOk (layerOf p).tw.toNat = true) (haligned : (layerOf p).a % 4096 = 0)
    (hmasks : (layerOf p).blockBytes + (layerOf p).rowBytes = 0 ∨ (bvAt p 24 8 % 64 = 0 ∧ bvAt p 24 8 < 2 ^ 41 ∧
      m.mapped (m.stackPartOf (bvAt p 6 1)) (bvAt p 24 8) ((layerOf p).blockBytes + (layerOf p).rowBytes) = true ∧
      m.inRegion (bvAt p 24 8) ((layerOf p).blockBytes + (layerOf p).rowBytes) = false))
    (hfits : (layerOf p).a + 2 * (layerOf p).size ≤ (if j.single then (((m.hbmAt (bvAt p 6 1)).region.find 4).getD (0, 0)).2
      else (((m.hbmAt (bvAt p 6 1)).region.find 4).getD (0, 0)).2 / 2))
    (hapart : ∀ e ∈ m.jobs, ∀ z ∈ e.2.layers, ¬ (e.1 = bvAt p 0 4 ∧ z.1 = bvAt p 4 2) →
      m.recordsMeet j.single (layerOf p) e.2.single z.2 = false) :
    Main.setLayer h p m = ok (m.updJob (bvAt p 0 4) (fun j => { j with layers := j.layers.put (bvAt p 4 2) (layerOf p) }))
      [(8, 8, 2 * (layerOf p).size), (16, 2, (j.layers.put (bvAt p 4 2) (layerOf p)).length)] := by
  obtain ⟨hkb, hnb, hkbMax, hnbMax, helements⟩ := hblocks
  have hkb0 : bvAt p 16 2 ≠ 0 := by omega
  have hnb0 : bvAt p 18 2 ≠ 0 := by omega
  have hfull : ((j.layers.find (bvAt p 4 2)).isNone && decide (j.layers.length ≥ 4096)) = false := by simpa using hroom
  have hplaced : ((layerOf p).a % 4096 != 0 || ((layerOf p).blockBytes + (layerOf p).rowBytes != 0 &&
      (bvAt p 24 8 % 64 != 0 || decide (bvAt p 24 8 ≥ 2 ^ 41) ||
        !(m.mapped (m.stackPartOf (bvAt p 6 1)) (bvAt p 24 8) ((layerOf p).blockBytes + (layerOf p).rowBytes)) ||
        m.inRegion (bvAt p 24 8) ((layerOf p).blockBytes + (layerOf p).rowBytes)))) = false := by
    rcases hmasks with hnone | ⟨halign, hlow, hmapped, hclear⟩
    · simp only [haligned, hnone, bne_self_eq_false, Bool.false_and, Bool.or_self]
    · simp only [haligned, halign, ge_iff_le, Nat.not_le.2 hlow, hmapped, hclear, bne_self_eq_false, decide_false, Bool.not_true,
        Bool.or_self, Bool.and_false]
  have hmeets : (m.jobs.any (fun e => e.2.layers.any (fun y => !(decide (e.1 = bvAt p 0 4) && decide (y.1 = bvAt p 4 2)) &&
      m.recordsMeet j.single (layerOf p) e.2.single y.2))) = false := by
    simpa only [List.any_eq_false, List.any_eq_true, Bool.and_eq_true, Bool.not_eq_true', Bool.and_eq_false_imp, decide_eq_true_eq,
      decide_eq_false_iff_not, not_exists, not_and, Bool.not_eq_true] using hapart
  unfold layerOf at *
  simp only [Main.setLayer, hjob, gt_iff_lt, ge_iff_le, Nat.not_lt.2 hnum, hstack, howns, hidle, hkb0, hnb0, Nat.not_lt.2 hkbMax,
    Nat.not_lt.2 hnbMax, Nat.not_lt.2 helements, hfull, htw, hplaced, Nat.not_le.2 hstack, Nat.not_lt.2 hfits, hmeets, decide_true,
    decide_false, Bool.not_true, Bool.and_false, Bool.or_self, Bool.false_eq_true, if_false]

end SetLayer

/-- The version mode is set while the job has no layer and none of its dies runs (R197, R198). -/
theorem Main.setVersionMode_sets (hjob : m.job? (bvAt p 0 4) = some j) (hmode : bvAt p 4 1 ≤ 1) (hidle : m.jobRuns j = false)
    (hnone : j.layers = []) : Main.setVersionMode p m = ok (m.setJob (bvAt p 0 4) { j with single := p.getLsbD 32 }) [] := by
  simp only [Main.setVersionMode, hjob, gt_iff_lt, Nat.not_lt.2 hmode, hidle, hnone, bne_self_eq_false, Bool.or_self,
    Bool.false_eq_true, if_false]

/-- The status of a registered layer (R197). -/
theorem Main.layerStatus_reads {y : Layer} (hjob : m.job? (bvAt p 0 4) = some j) (hlayer : j.layers.find (bvAt p 4 2) = some y) :
    Main.layerStatus p m = ok m [(0, 1, y.st.num), (1, 1, j.version.toNat), (2, 2, j.holdersOf (bvAt p 4 2) false),
      (4, 2, j.holdersOf (bvAt p 4 2) true), (8, 4, y.landed.length), (12, 4, y.panels), (16, 4, y.lastCommit.toNat)] := by
  simp only [Main.layerStatus, hjob, hlayer]

end Sys2Proof.Machine
end

section
/-! The commands of the weight layers. -/

namespace Sys2Proof.Machine

/-- Settles O19: a served command is done with what its body answers, and the body answers as the clause says where its checks
pass. -/
theorem weightLayerCommandsComplete : Obligations.WeightLayerCommandsComplete := by
  refine ⟨?set, ?remove, ?mode, ?status⟩
  case set =>
    intro s h p j hserves x jid l n y hjob hplace howns hidle hblocks hroom htw hmasks hfits hapart
    exact congrArg s.nextMain (Main.command_done hserves ((congrArg _ (Main.setLayer_sets hjob hplace.1 hidle hplace.2 howns hblocks hroom
      htw hmasks.1 hmasks.2 hfits hapart)).trans (fillRefused_ok _ _ _)))
  case remove =>
    intro s h p j hserves x hjob hnum howns hidle hzero
    exact congrArg s.nextMain (Main.command_done hserves
      ((congrArg _ (Main.setLayer_removes hjob hnum hidle howns hzero)).trans (fillRefused_ok _ _ _)))
  case mode =>
    intro s h p j hserves x hjob hmode hidle hnone
    exact congrArg s.nextMain (Main.command_done hserves (Main.setVersionMode_sets hjob hmode hidle hnone))
  case status =>
    intro s h p j y hserves x hjob hlayer
    exact congrArg s.nextMain (Main.command_done hserves (Main.layerStatus_reads hjob hlayer))

end Sys2Proof.Machine
end

section
/-! SUPPORT. The events of a Burnisher: the landing of a reduced block, its application, and the end of a slow-tier fetch
(R229, R231–R236, R239, R240). -/

namespace Sys2Proof.Machine

variable {m : Main} {jid : Nat} {j : Job} {x : Layer} {n i : Nat} {e : Prt}

/-! ### Landing -/

/-- The entry of a block whose gradient the store takes in this step: exponent, pending, its non-finite mark, step (R218, R229). -/
def Prt.landed (e : Prt) (ex : Int) (nf : Bool) (step : U32) : Prt :=
  (((e.set 8 8 ((ex + 256).toNat)).set 5 1 1).set 7 1 nf.toNat).set 32 32 step.toNat

/-- The guards that a landing gradient trips: not finite, and too large (R266 bits 0 and 3). -/
def Main.guardLanding (m : Main) (jid : Nat) (j : Job) (ex : Int) (nf : Bool) : Main :=
  let m1 := if nf then m.guard jid 0 else m
  if ex + 14 ≥ j.gG then m1.guard jid 3 else m1

/-- A block of an Updating layer of the open step, for a loaded entry that holds no gradient of the step, enters the pending store,
joins the wait and, off the stack, the fetch queue (R229, R239, R240). -/
theorem Main.land_pending {l p : Nat} {gs : List U32} {m1 : Main} (hjob : m.job? jid = some j) (hlayer : j.layers.find l = some x)
    (hopen : j.stepOpen = true) (hst : x.st = .updating) (hp : p < x.panels) (hdata : gs ≠ [])
    (hentry : m.entryOf jid l p = some (n, i)) (hprt : m.getPrt jid n i = (m1, some e)) (hloaded : e.loaded = true)
    (hfree : ¬ (e.pend = true ∧ e.wstep = j.step.toNat)) :
    let d := pendEncode j.seed j.step l x p gs
    let f := e.landed d.1 d.2.2 j.step
    m.land jid l p gs = (((((m1.engWrite n jid (m1.pendDa n i) d.2.1).putPrt jid n i f).guardLanding jid j d.1 d.2.2).updBurn n
      (fun b => { b with wait := b.wait ++ [i], toFetch := if f.place = 0 then b.toFetch else b.toFetch ++ [i] })).issueFetch n) := by
  have hnew : (e.pend && decide (e.wstep = j.step.toNat)) = false := by simpa using hfree
  have hin : ¬ p ≥ x.panels := Nat.not_le.2 hp
  simp only [Main.land, hjob, hlayer, hin, hopen, hst, hdata, hentry, hprt, hloaded, hnew, bne_self_eq_false,
    Bool.not_true, Bool.or_self, Bool.false_eq_true, if_false]
  rfl

/-! ### Applying -/

/-- What the update of a block computes from its live slots and its pending gradient, under its profile (R231–R233). -/
def blockResult (j : Job) (x : Layer) (e : Prt) (w mom b : List Byte) : BlockUpd :=
  let q := Prof.of ((j.profOpen.find e.prof).getD [])
  blockUpdate (UpdEnv.of q j.countOpen.toNat ((j.clipOf x q).getD 0)) j.gD (j.disc = .eagerInPlace) (x.trained e.panel) e.gexp b
    (f32s w 0 4096) mom

/-- Trained gradients of a block that eager in place replaces by +0 (R231). -/
def replacedCount (j : Job) (x : Layer) (e : Prt) (b : List Byte) : Nat :=
  if decide (j.disc = .eagerInPlace) then
    ((List.range 4096).filter (fun t => x.trained e.panel t && !finite32 (gdec e.gexp b t))).length
  else 0

/-- A ready block whose version is free and whose elders all wait is updated from what its three reads answer (R204, R231–R236, R239). -/
theorem Main.applyBlock_applies {m1 m2 m3 m4 m5 : Main} {w mom b : List Byte} (hjob : m.job? jid = some j)
    (hprt : m.getPrt jid n i = (m1, some e)) (hready : m1.blockReady jid n i e = true) (hlayer : j.layers.find e.layer = some x)
    (hversion : j.versionFree e.layer = true) (hfirst : m1.firstReady n i = (m2, true))
    (hmaster : m2.engRead n (m2.masterDa j.disc.rec_ n i e e.live) 0x4000 = (m3, some w))
    (hmoments : m3.engRead n (m3.momentDa j.disc.rec_ n i e e.live) 0x4000 = (m4, some mom))
    (hpending : m4.engRead n (m4.pendDa n i) 0x2000 = (m5, some b)) :
    m.applyBlock jid n i = (m5.countReplaced jid n (replacedCount j x e b)).writeBlock jid n i j x e (blockResult j x e w mom b) := by
  simp only [Main.applyBlock, hprt, hjob, hready, hlayer, hversion, hfirst, hmaster, hmoments, hpending, Bool.not_true,
    Bool.false_eq_true, if_false, replacedCount, blockResult]

/-- A block that is applied may free its Burnisher's queue for the panels held back (R239). -/
theorem execBlockApply_assigned {s : State} {n : Fin 10} {ii : BitVec 24} (hassigned : s.main.entryJob n.val ii.toNat = some jid) :
    execBlockApply n ii s = s.nextMain ((s.main.applyBlock jid n.val ii.toNat).landWaiting) := by
  simp only [execBlockApply, onMain_eq, hassigned]

/-! ### Fetches -/

section Fetch

variable (hassigned : m.entryJob n i = some jid) (hout : ∃ f ∈ (m.burnAt n).fetch, f.1 = i) (hfresh : i ∉ (m.burnAt n).stale)
include hassigned hout hfresh

/-- An outstanding fetch of the step in hand ends with its data, or with an error that fails its block (R240). -/
theorem Main.fetchReturn_outstanding (bad : Bool) :
    m.fetchReturn n i bad =
      if bad || !(m.bServes (m.stackPartOf n)) || m.fetchPoison jid n i then (m.endFetch jid n i).blockFails jid n i 0x2202
      else (m.endFetch jid n i).updBurn n (fun b => { b with fetched := if b.wait.contains i then b.fetched ++ [i] else b.fetched }) := by
  have hany : (m.burnAt n).fetch.any (fun f => decide (f.1 = i)) = true := by simpa using hout
  have hstale : (m.burnAt n).stale.contains i = false := by simpa using hfresh
  simp only [Main.fetchReturn, hassigned, hany, hstale, Bool.not_true, Bool.false_eq_true, if_false]

theorem Main.fetchReturn_fetched (hserves : m.bServes (m.stackPartOf n) = true) (hclean : m.fetchPoison jid n i = false) :
    m.fetchReturn n i false = (m.endFetch jid n i).updBurn n
      (fun b => { b with fetched := if b.wait.contains i then b.fetched ++ [i] else b.fetched }) := by
  simp only [Main.fetchReturn_outstanding hassigned hout hfresh, hserves, hclean, Bool.not_true, Bool.or_self, Bool.false_eq_true,
    if_false]

theorem Main.fetchReturn_fails : m.fetchReturn n i true = (m.endFetch jid n i).blockFails jid n i 0x2202 := by
  simp only [Main.fetchReturn_outstanding hassigned hout hfresh, Bool.true_or, if_true]

end Fetch

/-- A fetch returns only where port B carries it (R312). -/
theorem execSlowTierFetchReturn_carried {s : State} {n : Fin 10} {ii : BitVec 24} (bad : Bool)
    (hlive : s.main.slowLive (.burn n.val ii.toNat) = true) :
    execSlowTierFetchReturn n ii bad s = s.nextMain ((s.main.fetchReturn n.val ii.toNat bad).slowAdmit) := by
  simp only [execSlowTierFetchReturn, onMain_eq, hlive, if_true]

end Sys2Proof.Machine
end

section
/-! The events of a Burnisher. -/

namespace Sys2Proof.Machine

/-- Settles O21: a block lands and applies as the reads of the hypotheses answer, and a fetch ends by its three outcomes. -/
theorem burnisherEventsComplete : Obligations.BurnisherEventsComplete := by
  refine ⟨?land, ?apply, ?fetch⟩
  case land =>
    intro s jj l panel gs j x n i m1 e hjob hlayer hopen hst hp hdata hentry hprt hloaded hfree d f m2 m3 m4
    have hland := Main.land_pending hjob hlayer hopen hst hp hdata hentry hprt hloaded hfree
    exact congrArg s.nextMain hland
  case apply =>
    intro s n ii jid j x m1 m2 m3 m4 m5 e w mom b i r hassigned hjob hprt hready hlayer hversion hfirst hmaster hmoments hpending q zero u k
    exact (execBlockApply_assigned hassigned).trans (congrArg (fun m : Main => s.nextMain m.landWaiting)
      (Main.applyBlock_applies hjob hprt hready hlayer hversion hfirst hmaster hmoments hpending))
  case fetch =>
    intro s n ii jid i hassigned hout hfresh
    have hfails := congrArg (fun m : Main => s.nextMain m.slowAdmit) (Main.fetchReturn_fails hassigned hout hfresh)
    refine ⟨fun hlive hserves hclean => ?_, fun hlive => (execSlowTierFetchReturn_carried true hlive).trans hfails, hfails⟩
    exact (execSlowTierFetchReturn_carried false hlive).trans (congrArg (fun m : Main => s.nextMain m.slowAdmit)
      (Main.fetchReturn_fetched hassigned hout hfresh hserves hclean))

end Sys2Proof.Machine
end

section
/-! SUPPORT. The commands that place, move, load, save and audit parameter state, where their checks pass (R217–R228, R237, R244). -/

namespace Sys2Proof.Machine

/-- The discipline and the count of a SET_UPDATE_DISCIPLINE, in the job and in the map (R237). -/
def Main.withDiscipline (m : Main) (p : Payload) (j : Job) : Main :=
  let m1 := m.setJob (bvAt p 0 4) { j with disc := Discipline.of (bvAt p 4 1), count := p.extractLsb' 64 32 }
  { m1 with assigned := m1.assigned.upd (bvAt p 0 4) (fun a => { a with disc := Discipline.of (bvAt p 4 1) }) }

/-- The entries and the run of an ASSIGN_BLOCKS that places its blocks (R217, R218, R220, R226). -/
def Main.withBlocks (m : Main) (p : Payload) (j : Job) : Main :=
  let place := bvAt p 7 1 % 4
  let m1 := (List.range (bvAt p 12 4)).foldl (fun m k => m.putPrt (bvAt p 0 4) (bvAt p 6 1) (bvAt p 16 4 + k)
    (Prt.assign place (bvAt p 7 1 / 4) (bvAt p 4 2) (bvAt p 8 4 + k) (bvAt p 20 2)
      (if place = 0 then 0 else bvAt p 24 4 + k * (recBytes j.disc.rec_ place / 0x4000)))) m
  if bvAt p 12 4 = 0 then m1 else
    { m1 with assigned := m1.assigned.upd (bvAt p 0 4) (fun a => { disc := j.disc, runs := a.runs ++
      [{ layer := bvAt p 4 2, panel := bvAt p 8 4, count := bvAt p 12 4, stack := bvAt p 6 1, entry := bvAt p 16 4 }] }) }

/-- The map of R220 without the entries that an ASSIGN_BLOCKS unassigns. -/
def Main.runsWithout (m : Main) (p : Payload) : Table Assigned :=
  m.assigned.upd (bvAt p 0 4) (fun a => { a with runs := (a.runs.map (cutPanels (bvAt p 6 1) (bvAt p 16 4) (bvAt p 12 4))).flatten })

/-- The entries of an ASSIGN_BLOCKS that unassigns them, cleared and out of the map (R220, R226). -/
def Main.withoutBlocks (m : Main) (p : Payload) : Main :=
  { (List.range (bvAt p 12 4)).foldl (fun m k => m.putPrt (bvAt p 0 4) (bvAt p 6 1) (bvAt p 16 4 + k) 0) m with
    assigned := m.runsWithout p }

section Place

variable {m m1 m2 : Main} {h : Hdr} {p : Payload} {j : Job} (hjob : m.job? (bvAt p 0 4) = some j)
include hjob

section Closed

variable (hclosed : j.stepOpen = false)
include hclosed

/-! ### Profile and discipline -/

/-- A valid profile that can be read is set; one that clips by the global norm needs step-end application (R222–R225). -/
theorem Main.setProfile_sets {part : Nat} {r : List Byte}
    (hpart : m.diePartOf ((diesOf j.dies).headD 0) = part) (hslot : bvAt p 4 1 ≤ 63) (halign : bvAt p 8 8 % 64 = 0)
    (hreach : (∃ a b, m.rngFor part (bvAt p 8 8) = .hbm a b) ∨ ∃ a, m.rngFor part (bvAt p 8 8) = .host a)
    (hmapped : m.mapped part (bvAt p 8 8) 512 = true) (hread : m.daGet part (bvAt p 8 8) 512 = (m1, some r))
    (hvalid : profOk r = true) (hclip : natAt r 2 1 = 3 → j.disc = .stepEnd) :
    Main.setProfile p m =
      ok ((m1.updJob (bvAt p 0 4) (fun j => { j with prof := j.prof.put (bvAt p 4 1) r })).onceOver (bvAt p 0 4)) [] := by
  refine Main.placing_ok hjob (.inl hclosed) ?_
  have hfits : (decide (natAt r 2 1 = 3) && j.disc != .stepEnd) = false := by simpa using hclip
  rcases hreach with ⟨a, b, hrng⟩ | ⟨a, hrng⟩ <;>
    simp only [hpart, gt_iff_lt, Nat.not_lt.2 hslot, halign, hrng, hmapped, hread, hvalid, hfits, bne_self_eq_false, Bool.not_true,
      Bool.or_self, Bool.false_eq_true, if_false]

/-- The discipline changes only while the job owns no block, and fits its guards and its profiles (R225, R237). -/
theorem Main.setDiscipline_sets (hnum : bvAt p 4 1 ≤ 2)
    (hchange : Discipline.of (bvAt p 4 1) = j.disc ∨ m.ownedBlocks (bvAt p 0 4) = 0)
    (hguard : Discipline.of (bvAt p 4 1) = .eagerInPlace → j.guard = 0)
    (hclip : Discipline.of (bvAt p 4 1) ≠ .stepEnd → ∀ r ∈ j.prof, natAt r.2 2 1 ≠ 3) :
    Main.setDiscipline p m = ok ((m.withDiscipline p j).onceOver (bvAt p 0 4)) [] := by
  have hfree : (Discipline.of (bvAt p 4 1) != j.disc && m.ownedBlocks (bvAt p 0 4) != 0) = false := by
    simpa only [Bool.and_eq_false_iff, bne_eq_false_iff_eq] using hchange
  have hfits : ((decide (Discipline.of (bvAt p 4 1) = .eagerInPlace) && j.guard != 0) ||
      (Discipline.of (bvAt p 4 1) != .stepEnd && j.prof.any (fun r => decide (natAt r.2 2 1 = 3)))) = false := by
    simpa using And.intro hguard hclip
  unfold Main.setDiscipline
  rw [if_neg (Nat.not_lt.2 hnum)]
  refine Main.placing_ok hjob (.inl hclosed) ?_
  simp only [hfree, hfits, Main.withDiscipline, Bool.false_eq_true, if_false]

/-! ### Assignment -/

/-- Blocks on free entries, of panels that no entry owns, are assigned (R217, R219, R220, R224–R226). -/
theorem Main.assign_assigns {y : Layer}
    (hplace : m.ownsStack h (bvAt p 6 1) = true ∧ m.entriesIn (bvAt p 6 1) (bvAt p 16 4) (bvAt p 12 4) = true ∧ bvAt p 7 1 % 4 < 3)
    (hlayer : j.layers.find (bvAt p 4 2) = some y) (hpanels : bvAt p 8 4 + bvAt p 12 4 ≤ y.panels) (hrank : bvAt p 20 2 < j.ranks)
    (hset : j.prof.find (bvAt p 7 1 / 4) ≠ none)
    (hsame : ∀ q ∈ m.runsOf (bvAt p 0 4), q.layer = bvAt p 4 2 →
      Prt.prof (bvOf 256 (m.mem.hbm.read (m.prtDa q.stack q.entry) 32)) = bvAt p 7 1 / 4)
    (hfree : ∀ k < bvAt p 12 4, m.entryJob (bvAt p 6 1) (bvAt p 16 4 + k) = none ∧
      m.entryOf (bvAt p 0 4) (bvAt p 4 2) (bvAt p 8 4 + k) = none)
    (hroom : m.stridesIn j.disc.rec_ (bvAt p 6 1) (bvAt p 16 4 + bvAt p 12 4) (bvAt p 7 1 % 4) = true ∧ runCount m.assigned < 65536)
    (hslow : m.slowFree j.disc.rec_ (bvAt p 7 1 % 4) (bvAt p 6 1) (bvAt p 16 4) (bvAt p 12 4) (bvAt p 24 4) = true) :
    Main.assign h p m = ok ((m.withBlocks p j).onceOver (bvAt p 0 4)) [(4, 4, (m.withBlocks p j).validIn (bvAt p 6 1))] := by
  obtain ⟨howns, hentries, hnum⟩ := hplace
  have hprof : ((j.prof.find (bvAt p 7 1 / 4)).isNone || (m.runsOf (bvAt p 0 4)).any (fun q => decide (q.layer = bvAt p 4 2) &&
      Prt.prof (bvOf 256 (m.mem.hbm.read (m.prtDa q.stack q.entry) 32)) != bvAt p 7 1 / 4)) = false := by
    simpa [Option.isSome_iff_ne_none] using And.intro hset hsame
  have hunowned : (List.range (bvAt p 12 4)).any (fun k => (m.entryJob (bvAt p 6 1) (bvAt p 16 4 + k)).isSome ||
      (m.entryOf (bvAt p 0 4) (bvAt p 4 2) (bvAt p 8 4 + k)).isSome) = false := by
    simpa using hfree
  refine Main.placing_ok hjob (.inl hclosed) ?_
  simp only [howns, hentries, hnum.ne, hlayer, gt_iff_lt, ge_iff_le, Nat.not_lt.2 hpanels, Nat.not_le.2 hrank, hprof, hunowned, hroom,
    Nat.not_le.2 hroom.2, hslow, Main.withBlocks, decide_false, Bool.not_true, Bool.or_self, Bool.false_eq_true, if_false]

/-- Entries of the job are unassigned while the map can hold what is left of the runs (R220, R225, R226). -/
theorem Main.assign_unassigns
    (hplace : m.ownsStack h (bvAt p 6 1) = true ∧ m.entriesIn (bvAt p 6 1) (bvAt p 16 4) (bvAt p 12 4) = true ∧ bvAt p 7 1 % 4 = 3)
    (hassigned : m.assignedAll (bvAt p 0 4) (bvAt p 6 1) (bvAt p 16 4) (bvAt p 12 4) = true)
    (hroom : runCount (m.runsWithout p) ≤ 65536) :
    Main.assign h p m = ok ((m.withoutBlocks p).onceOver (bvAt p 0 4)) [(4, 4, (m.withoutBlocks p).validIn (bvAt p 6 1))] := by
  obtain ⟨howns, hentries, hnum⟩ := hplace
  unfold Main.runsWithout at hroom
  refine Main.placing_ok hjob (.inl hclosed) ?_
  simp only [howns, hentries, hnum, hassigned, gt_iff_lt, Nat.not_lt.2 hroom, Main.withoutBlocks, Main.runsWithout, Bool.not_true,
    Bool.false_eq_true, if_false, if_true]

/-! ### Working weights -/

/-- Weights of a layer in Landing are loaded into the panels that no entry owns (R225, R228). -/
theorem Main.loadWeights_loads {y : Layer} {b : List Byte} (hlayer : j.layers.find (bvAt p 4 2) = some y)
    (howns : m.ownsStack h y.stack = true) (hlanding : bvAt p 8 4 + bvAt p 12 4 ≤ y.panels ∧ y.st = .landing)
    (hread : m.daGet (m.stackPartOf y.stack) (bvAt p 16 8) (4096 * bvAt p 12 4) = (m1, some b)) :
    let ks := (List.range (bvAt p 12 4)).filter (fun k => (m1.entryOf (bvAt p 0 4) (bvAt p 4 2) (bvAt p 8 4 + k)).isNone)
    Main.loadWeights h p m = ok ((ks.foldl (fun m k => (m.writePanel (bvAt p 0 4) j.single y j.version (bvAt p 8 4 + k)
      ((b.drop (4096 * k)).take 4096)).updJob (bvAt p 0 4) (fun j => j.updLayer (bvAt p 4 2) (·.land (bvAt p 8 4 + k)))) m1).onceOver
        (bvAt p 0 4)) [(4, 4, ks.length)] := by
  obtain ⟨hpanels, hst⟩ := hlanding
  refine Main.placing_ok hjob (.inl hclosed) ?_
  simp only [hlayer, howns, gt_iff_lt, Nat.not_lt.2 hpanels, hst, hread, bne_self_eq_false, decide_false, Bool.not_true, Bool.or_self,
    Bool.false_eq_true, if_false]

end Closed

/-! ### Status -/

/-- The status of the Burnisher of a stack that the requester owns, with a step open or not (R224, R225). -/
theorem Main.burnStatus_reads (hstack : bvAt p 4 1 < m.variant.stacks) (howns : m.ownsStack h (bvAt p 4 1) = true) :
    let k := m.pendCount (bvAt p 0 4) (bvAt p 4 1)
    Main.burnStatus h p m = ok (k.1.onceOver (bvAt p 0 4)) [(1, 1, j.disc.num), (4, 4, j.count.toNat), (8, 4, j.lastStep.toNat),
      (12, 1, j.lastVerdict.toNat), (16, 4, if j.stepOpen then j.appliedIn.get (bvAt p 4 1) else 0), (20, 4, k.2),
      (24, 2, (k.1.burnAt (bvAt p 4 1)).fetch.length), (26, 2, (k.1.burnAt (bvAt p 4 1)).waitVer.length),
      (28, 4, ((k.1.entriesOf (bvAt p 0 4)).filter (fun e => e.1 = bvAt p 4 1)).length)] := by
  refine Main.placing_ok hjob (.inr rfl) ?_
  simp only [ge_iff_le, Nat.not_le.2 hstack, howns, Bool.not_true, Bool.false_eq_true, if_false]

/-! ### State of assigned blocks -/

/-- A body behind the checks of a command that names assigned entries of a job (R225). -/
theorem Main.placing_onEntries_ok {m' : Main} {anyTime : Bool} {n i c : Nat} {body : Job → Reply} {l : List (Nat × Nat × Nat)}
    (htime : j.stepOpen = false ∨ anyTime = true)
    (hentries : m.ownsStack h n = true ∧ m.entriesIn n i c = true ∧ m.assignedAll (bvAt p 0 4) n i c = true) (hb : body j = ok m' l) :
    m.placing (bvAt p 0 4) anyTime (fun j => m.onEntries h (bvAt p 0 4) n i c (body j)) = ok (m'.onceOver (bvAt p 0 4)) l :=
  Main.placing_ok hjob htime ((Main.onEntries_pass _ hentries.1 hentries.2.1 hentries.2.2).trans hb)

section Entries

variable {bs : List (Nat × Prt × List Byte × List Byte)}
  (hentries : m.ownsStack h (bvAt p 4 1) = true ∧ m.entriesIn (bvAt p 4 1) (bvAt p 8 4) (bvAt p 12 4) = true ∧
    m.assignedAll (bvAt p 0 4) (bvAt p 4 1) (bvAt p 8 4) (bvAt p 12 4) = true)
include hentries

/-- State moves to its new placement, leaving the old one, with event 0x2205 (R225, R226, R228). -/
theorem Main.moveState_moves (hclosed : j.stepOpen = false) (hplace : bvAt p 5 1 ≤ 2)
    (hroom : m.stridesIn j.disc.rec_ (bvAt p 4 1) (bvAt p 8 4 + bvAt p 12 4) (bvAt p 5 1) = true)
    (hslow : m.slowFree j.disc.rec_ (bvAt p 5 1) (bvAt p 4 1) (bvAt p 8 4) (bvAt p 12 4) (bvAt p 16 4) = true)
    (hslots : m.slotsAll (bvAt p 0 4) j.disc.rec_ (bvAt p 4 1) ((List.range (bvAt p 12 4)).map (bvAt p 8 4 + ·)) = (m1, some bs)) :
    Main.moveState h p m = ok (((bs.foldl (fun m b => m.moveBlock (bvAt p 0 4) j.disc.rec_ (bvAt p 4 1) (bvAt p 5 1) (bvAt p 16 4)
        (bvAt p 8 4) b) (bs.foldl (fun m b => m.leaveOld j.disc.rec_ (bvAt p 4 1) (bvAt p 5 1) (bvAt p 16 4) (bvAt p 8 4) b) m1)).log!
      { code := 0x2205, cls := .rec_, stack := some (bvAt p 4 1), par := p4 (bvAt p 0 4) ++ p4 (bvAt p 12 4) }).onceOver (bvAt p 0 4))
      [(4, 4, bvAt p 12 4)] := by
  refine Main.placing_onEntries_ok hjob (.inl hclosed) hentries ?_
  simp only [gt_iff_lt, Nat.not_lt.2 hplace, hroom, hslow, hslots, Bool.not_true, Bool.false_eq_true, if_false]

/-- Images of blocks of registered layers load, with event 0x2206 (R225, R227). -/
theorem Main.loadState_loads {b : List Byte} (hclosed : j.stepOpen = false)
    (hlayers : m.layersKnown j (bvAt p 4 1) (bvAt p 8 4) (bvAt p 12 4) = true)
    (hread : m.daGet (m.stackPartOf (bvAt p 4 1)) (bvAt p 16 8) (0x8000 * bvAt p 12 4) = (m1, some b)) :
    Main.loadState h p m = ok ((((List.range (bvAt p 12 4)).foldl (fun m k => m.loadBlock (bvAt p 0 4) (bvAt p 4 1) (bvAt p 8 4 + k) j
        ((b.drop (0x8000 * k)).take 0x8000)) m1).log!
      { code := 0x2206, cls := .rec_, stack := some (bvAt p 4 1), par := p4 (bvAt p 0 4) ++ p4 (bvAt p 12 4) }).onceOver (bvAt p 0 4))
      [(4, 4, bvAt p 12 4)] := by
  refine Main.placing_onEntries_ok hjob (.inl hclosed) hentries ?_
  simp only [hlayers, hread, Bool.not_true, Bool.false_eq_true, if_false]

/-- Images of blocks save where the destination takes them; under SGD and Lion their v part is 0 (R225, R227). -/
theorem Main.saveState_saves (hclosed : j.stepOpen = false)
    (hmapped : m.mapped (m.stackPartOf (bvAt p 4 1)) (bvAt p 16 8) (0x8000 * bvAt p 12 4) = true)
    (hslots : m.slotsAll (bvAt p 0 4) j.disc.rec_ (bvAt p 4 1) ((List.range (bvAt p 12 4)).map (bvAt p 8 4 + ·)) = (m1, some bs))
    (hwrite : m1.basePut (bvAt p 0 4) (m1.stackPartOf (bvAt p 4 1)) (bvAt p 16 8) ((bs.map (fun b => b.2.2.1 ++ b.2.2.2.take 0x2000 ++
      (if natAt ((j.prof.find b.2.1.prof).getD []) 0 1 = 0 then b.2.2.2.drop 0x2000 else List.replicate 0x2000 0))).flatten) =
        (m2, true)) :
    Main.saveState h p m = ok (m2.onceOver (bvAt p 0 4)) [(4, 4, bvAt p 12 4)] := by
  refine Main.placing_onEntries_ok hjob (.inl hclosed) hentries ?_
  simp only [hmapped, hslots, hwrite, Bool.not_true, Bool.false_eq_true, if_false]

/-- An audit that finds no mismatch answers its blocks (R244). -/
theorem Main.audit_agrees {a k : Nat}
    (haudit : m.auditAll (bvAt p 0 4) (bvAt p 4 1) j ((List.range (bvAt p 12 4)).map (bvAt p 8 4 + ·)) = (m1, a, k, none)) :
    Main.audit h p m = ok (m1.onceOver (bvAt p 0 4)) [(4, 4, a)] := by
  refine Main.placing_onEntries_ok hjob (.inr rfl) hentries ?_
  simp only [haudit]

/-- An audit that finds mismatches answers their number and the first of them, and logs it as event 0x2203 (R244). -/
theorem Main.audit_differs {a k e t o : Nat}
    (haudit : m.auditAll (bvAt p 0 4) (bvAt p 4 1) j ((List.range (bvAt p 12 4)).map (bvAt p 8 4 + ·)) = (m1, a, k, some (e, t, o))) :
    Main.audit h p m = ok ((m1.log!
      { code := 0x2203, cls := .flt, stack := some (bvAt p 4 1), step := m1.jobStep (bvAt p 0 4),
        par := p4 (bvAt p 0 4) ++ p4 k ++ p4 e ++ p2 t ++ p1 o }).onceOver (bvAt p 0 4))
      [(4, 4, a), (8, 4, k), (12, 4, e), (16, 2, t), (18, 1, o)] := by
  refine Main.placing_onEntries_ok hjob (.inr rfl) hentries ?_
  simp only [haudit]

end Entries

end Place

end Sys2Proof.Machine
end

section
/-! The commands that place, move, load, save and audit parameter state. -/

namespace Sys2Proof.Machine

/-- Settles O20: a served command is done with what its body answers, and the body answers as the clause says where its checks
pass. -/
theorem statePlacementCommandsComplete : Obligations.StatePlacementCommandsComplete := by
  refine ⟨?profile, ?discipline, ?assign, ?unassign, ?move, ?load, ?save, ?audit, ?weights, ?status⟩
  case profile =>
    intro s h p j m1 r hserves x part hjob hclosed hslot halign hreach hmapped hread hvalid hclip
    exact congrArg s.nextMain (Main.command_done hserves
      (Main.setProfile_sets hjob hclosed rfl hslot halign hreach hmapped hread hvalid hclip))
  case discipline =>
    intro s h p j hserves x hjob hclosed hnum hchange hguard hclip
    exact congrArg s.nextMain (Main.command_done hserves (Main.setDiscipline_sets hjob hclosed hnum hchange hguard hclip))
  case assign =>
    intro s h p j y hserves x jid l n place prof p0 c i rank stoff r m1 m2 hjob hclosed hplace hlayer hpanels hrank hset hsame hfree hroom
      hslow
    exact congrArg s.nextMain (Main.command_done hserves ((congrArg _ (Main.assign_assigns hjob hclosed hplace hlayer hpanels hrank hset
      hsame hfree hroom hslow)).trans (fillRefused_ok _ _ _)))
  case unassign =>
    intro s h p j hserves x n c i t m1 m2 hjob hclosed hplace hassigned hroom
    exact congrArg s.nextMain (Main.command_done hserves
      ((congrArg _ (Main.assign_unassigns hjob hclosed hplace hassigned hroom)).trans (fillRefused_ok _ _ _)))
  case move =>
    intro s h p j m1 bs hserves x n i c hjob hclosed hentries hplace hroom hslow hslots
    exact congrArg s.nextMain (Main.command_done hserves (Main.moveState_moves hjob hentries hclosed hplace hroom hslow hslots))
  case load =>
    intro s h p j m1 b hserves x n i c hjob hclosed hentries hlayers hread
    exact congrArg s.nextMain (Main.command_done hserves (Main.loadState_loads hjob hentries hclosed hlayers hread))
  case save =>
    intro s h p j m1 m2 bs hserves x n i c hjob hclosed hentries hmapped hslots hwrite
    exact congrArg s.nextMain (Main.command_done hserves (Main.saveState_saves hjob hentries hclosed hmapped hslots hwrite))
  case audit =>
    intro s h p j m1 a k hserves x n i c hjob hentries
    exact ⟨fun haudit => congrArg s.nextMain (Main.command_done hserves (Main.audit_agrees hjob hentries haudit)),
      fun _ _ _ haudit => congrArg s.nextMain (Main.command_done hserves (Main.audit_differs hjob hentries haudit))⟩
  case weights =>
    intro s h p j y m1 b hserves x l p0 c ks hjob hclosed hlayer howns hlanding hread
    exact congrArg s.nextMain (Main.command_done hserves (Main.loadWeights_loads hjob hclosed hlayer howns hlanding hread))
  case status =>
    intro s h p j hserves x k hjob hstack howns
    exact congrArg s.nextMain (Main.command_done hserves (Main.burnStatus_reads hjob hstack howns))

end Sys2Proof.Machine
end

section
/-! SUPPORT. The job commands, where their checks pass (R17, R258, R319, R409, R410, R412, R414, R445). -/

namespace Sys2Proof.Machine

variable {m : Main} {h : Hdr} {p : Payload} {j : Job}

/-- The job record that a TCS 3 JOB_OPEN sets (R17, R258, R266, R409). -/
def Main.jobOf (m : Main) (h : Hdr) (p : Payload) : Job :=
  { dies := p.extractLsb' 32 4, ranks := bvAt p 6 2, seed := p.extractLsb' 64 64
    timeout := if bvAt p 16 4 = 0 then 10000 else bvAt p 16 4
    limit := if bvAt p 24 4 = 0 then 600 else bvAt p 24 4
    step := p.extractLsb' 160 32, vane := false
    tenant := match h.src with
      | .tenant q => some q
      | _ => none
    disc := (m.assigned.get (bvAt p 0 4)).disc
    guard := if (m.assigned.get (bvAt p 0 4)).disc = .eagerInPlace then 0 else 0x3f
    key := some (match h.src with
      | .tenant q => (m.partAt q.toNat).opens.toNat
      | _ => m.draws) }

/-- A tenant's open counts among the opens of its partition, which stamp the keys of its jobs (R319, R445; log 7). -/
def Main.countOpen (m : Main) (h : Hdr) : Main :=
  match h.src with
  | .tenant q => m.updPart q.toNat (fun x => { x with opens := x.opens + 1 })
  | _ => m

/-- The dies of a mask join a job, with no shavings area and with their region tables cleared (R319, R409). -/
def Main.giveDies (m : Main) (jid : Nat) (ds : List Nat) : Main :=
  ds.foldl (fun m d => m.updDie d (fun v => { v with job := BitVec.ofNat 32 jid, storeJob := 0, shavings := none }))
    { m with region := m.region.filter (fun r => !ds.contains (r.1 / 1024)) }

/-- A free job ID on free dies of its requester, with its values in range, opens (R409). -/
theorem Main.openJob_opens (hmask : p.extractLsb' 32 4 ≠ (0 : BitVec 4)) (hid : bvAt p 0 4 ≠ 0 ∧ m.job? (bvAt p 0 4) = none)
    (hfree : ∀ d ∈ diesOf (p.extractLsb' 32 4), (m.dieAt d).job = 0) (hranks : 1 ≤ bvAt p 6 2 ∧ bvAt p 6 2 ≤ 32768)
    (htimeout : bvAt p 16 4 = 0 ∨ (10 ≤ bvAt p 16 4 ∧ bvAt p 16 4 ≤ 600000)) (hlimit : bvAt p 24 4 ≤ 3600)
    (howns : m.ownsDies h.src (p.extractLsb' 32 4) = true)
    (hlock : m.sup.tlock = true → ∀ d ∈ diesOf (p.extractLsb' 32 4), m.partOn = true ∧ m.sealed (m.variant.diePart d) = true) :
    Main.openJob h p false m =
      ok ((((m.setJob (bvAt p 0 4) (m.jobOf h p)).draw).countOpen h).giveDies (bvAt p 0 4) (diesOf (p.extractLsb' 32 4))) [] := by
  have hdies : (diesOf (p.extractLsb' 32 4)).any (fun d => (m.dieAt d).job != 0) = false := by simpa using hfree
  have htimes : ((bvAt p 16 4 != 0 && (decide (bvAt p 16 4 < 10) || decide (600000 < bvAt p 16 4))) ||
      decide (3600 < bvAt p 24 4)) = false := by
    rcases htimeout with hzero | ⟨hmin, hmax⟩
    · simp only [hzero, Nat.not_lt.2 hlimit, bne_self_eq_false, Bool.false_and, decide_false, Bool.or_self]
    · simp only [Nat.not_lt.2 hmin, Nat.not_lt.2 hmax, Nat.not_lt.2 hlimit, decide_false, Bool.or_self, Bool.and_false]
  have hlocked : (m.sup.tlock && (diesOf (p.extractLsb' 32 4)).any (fun d => !m.partOn || !(m.sealed (m.variant.diePart d)))) = false := by
    simpa using hlock
  simp only [Main.openJob, hmask, hid, hdies, Nat.one_le_iff_ne_zero.1 hranks.1, Nat.not_lt.2 hranks.2, htimes, howns, hlocked,
    Option.isSome_none, decide_false, Bool.not_true, Bool.or_self, Bool.false_eq_true, if_false]
  rfl

/-- A close takes the job out at once where no step is open (R410). -/
theorem Main.closeBody_closes (hjob : m.job? (bvAt p 0 4) = some j) (hclosed : j.stepOpen = false) :
    Main.closeBody p m = ok (m.closeJob (bvAt p 0 4)) [] := by
  simp only [Main.closeBody, hjob, hclosed, Bool.not_false, if_true]

/-- A forced close of an open step trips bit 8 and notes that the close waits for the verdict (R410). -/
theorem Main.closeBody_forces (hjob : m.job? (bvAt p 0 4) = some j) (hopen : j.stepOpen = true) (hforced : p.getLsbD 32 = true) :
    Main.closeBody p m = ok { m.guard (bvAt p 0 4) 8 with closing := m.closing.put (bvAt p 0 4) {} } [] := by
  simp only [Main.closeBody, hjob, hopen, hforced, Bool.not_true, Bool.false_eq_true, if_false]

/-- A served close is done with what its body answers, and then puts its response aside where it waits for a verdict (R410). -/
theorem execJobClose_done {s : State} {m' : Main}
    (hserves : s.main.serves 0x0202 h p [(0, 5)] (owned := s.main.ownsJob h.src (bvAt p 0 4)) (high := (bvAt p 4 1 < 2)) = true)
    (hbody : Main.closeBody p (s.main.taken h.src) = ok m' []) :
    exec (.jobClose h p) s = s.nextMain ((s.main.done 0x0202 h m' []).deferClose (bvAt p 0 4)) :=
  congrArg (fun m : Main => s.nextMain (m.deferClose (bvAt p 0 4))) (Main.command_done hserves hbody)

section Restore

variable (hjob : m.job? (bvAt p 0 4) = some j) (hclosed : j.stepOpen = false)
include hjob hclosed

/-- A restore begins between steps while no layer is Updating or Restoring (R412). -/
theorem Main.restore_begins (hmode : bvAt p 4 1 = 0) (hquiet : ∀ l ∈ j.layers, l.2.st ≠ .updating ∧ l.2.st ≠ .restoring) :
    Main.restore p m = ok (m.restoreBegin (bvAt p 0 4)) [] := by
  have hidle : j.layers.any (fun l => decide (l.2.st = .updating) || decide (l.2.st = .restoring)) = false := by simpa using hquiet
  simp only [Main.restore, hjob, hmode, hclosed, hidle, gt_iff_lt, Nat.not_lt_zero, Bool.false_eq_true, if_false, if_true]

/-- A restore ends once every entry is loaded and every layer reads again (R412). -/
theorem Main.restore_ends (hmode : bvAt p 4 1 = 1) (hrestoring : j.restoring = true) (hloaded : m.allLoaded (bvAt p 0 4) = true)
    (hreading : ∀ l ∈ j.layers, l.2.st = .reading) :
    Main.restore p m = ok ((m.setJob (bvAt p 0 4) { j with restoring := false, unrec := false, step := p.extractLsb' 64 32 }).log!
      { code := 0x9305, cls := .rec_, step := p.extractLsb' 64 32, par := p4 (bvAt p 0 4) }) [] := by
  have hlanded : j.layers.any (fun l => l.2.st != .reading) = false := by simpa using hreading
  simp only [Main.restore, hjob, hmode, hclosed, hrestoring, hloaded, hlanded, gt_iff_lt, Nat.lt_irrefl, Nat.one_ne_zero, Bool.not_true,
    Bool.or_self, Bool.false_eq_true, if_false]

end Restore

end Sys2Proof.Machine
end

section
/-! The job commands. -/

namespace Sys2Proof.Machine

/-- Settles O13: a served command is done with what its body answers, and the body answers as the clause says where its checks
pass; a close then puts its response aside where it waits for the verdict. -/
theorem jobCommandsComplete : Obligations.JobCommandsComplete := by
  refine ⟨?opens, ?close, ?restoreBegins, ?restoreEnds⟩
  case opens =>
    intro s h p hserves x hmask hid hfree hranks htimeout hlimit howns hlock
    exact congrArg s.nextMain (Main.command_done hserves
      (Main.openJob_opens hmask hid hfree hranks htimeout hlimit howns hlock))
  case close =>
    intro s h p j hserves x hjob
    exact ⟨fun hclosed => execJobClose_done hserves (Main.closeBody_closes hjob hclosed),
      fun hopen hforced => execJobClose_done hserves (Main.closeBody_forces hjob hopen hforced)⟩
  case restoreBegins =>
    intro s h p j hserves x hjob hclosed hmode hquiet
    exact congrArg s.nextMain (Main.command_done hserves (Main.restore_begins hjob hclosed hmode hquiet))
  case restoreEnds =>
    intro s h p j hserves x hjob hclosed hmode hrestoring hloaded hreading
    exact congrArg s.nextMain (Main.command_done hserves
      (Main.restore_ends hjob hclosed hmode hrestoring hloaded hreading))

end Sys2Proof.Machine
end

section
/-! SUPPORT. The numerics commands, where their checks pass (R246, R250–R254, R260, R261). -/

namespace Sys2Proof.Machine

variable {m m1 m2 : Main} {h : Hdr} {p : Payload} {j : Job} (hjob : m.job? (bvAt p 0 4) = some j)
include hjob

/-- The status of a job's numerics, with a step open or not (R252, R253). -/
theorem Main.numericsStatus_reads :
    Main.numericsStatus p m = ok m [(4, 2, j.watched.length), (6, 2, j.jitCount),
      (8, 2, (j.layers.filter (fun l => l.2.grade != 0)).length), (12, 8, j.lastWord.toNat), (20, 4, j.lastStep.toNat)] :=
  Main.numerics_pass hjob (.inr rfl)

section Closed

variable (hclosed : j.stepOpen = false)
include hclosed

/-- Guards, thresholds and carry area of a job are set; a carry area lies in owned, mapped and free memory and holds the carry of every
layer (R250–R253). -/
theorem Main.setJobNumerics_sets {n : Nat} (hn : 2 * bvAt p 16 8 * (m.localRanks j).2 = n)
    (hguard : p.extractLsb' 32 6 = (0 : BitVec 6) ∨ j.disc ≠ .eagerInPlace)
    (hvalues : bvAt p 25 1 ≤ 64 ∧ bvAt p 27 1 ≤ 32 ∧ bvAt p 16 8 % 0x200000 = 0)
    (hcarry : bvAt p 16 8 ≠ 0 → m.ownsRun h (bvAt p 8 8) n = true ∧ bvAt p 8 8 % 0x200000 = 0 ∧ bvAt p 8 8 + n ≤ 2 ^ 41 ∧
      m.mapped (m.diePartOf ((diesOf j.dies).headD 0)) (bvAt p 8 8) n = true ∧
      (m.setJob (bvAt p 0 4) { j with carry := none }).freeRun none (bvAt p 8 8) n = true ∧
      ∀ l ∈ j.layers, l.2.carry + l.2.carryBytes ≤ bvAt p 16 8) :
    Main.setJobNumerics h p m = ok (m.setJob (bvAt p 0 4) { j with
      guard := p.extractLsb' 32 6, carry := if bvAt p 16 8 = 0 then none else some (BitVec.ofNat 56 (bvAt p 8 8), bvAt p 16 8)
      gG := (p.extractLsb' 192 8).toInt, gA := bvAt p 25 1, gD := (p.extractLsb' 208 8).toInt, gS := bvAt p 27 1 }) [] := by
  obtain ⟨hgA, hgS, hwhole⟩ := hvalues
  have hfits : (p.extractLsb' 32 6 != (0 : BitVec 6) && decide (j.disc = .eagerInPlace)) = false := by
    simpa only [Bool.and_eq_false_iff, bne_eq_false_iff_eq, decide_eq_false_iff_not] using hguard
  refine (Main.numerics_pass hjob (.inl hclosed)).trans ?_
  by_cases hnone : bvAt p 16 8 = 0
  · simp only [hfits, gt_iff_lt, Nat.not_lt.2 hgA, Nat.not_lt.2 hgS, hnone, bne_self_eq_false, decide_false, Bool.false_and,
      Bool.or_self, Bool.false_eq_true, if_false]
  · obtain ⟨howns, halign, hstack, hmapped, hfree, hlayers⟩ := hcarry hnone
    have hroom : j.layers.any (fun l => decide (bvAt p 16 8 < l.2.carry + l.2.carryBytes)) = false := by simpa using hlayers
    simp only [hn, hfits, gt_iff_lt, Nat.not_lt.2 hgA, Nat.not_lt.2 hgS, hwhole, howns, halign, Nat.not_lt.2 hstack, hmapped, hfree,
      hroom, bne_self_eq_false, decide_false, Bool.not_true, Bool.and_false, Bool.or_self, Bool.false_eq_true, if_false]

/-- Settings in range, with a threshold above 0 and a carry inside the job's carry area, are set for a registered layer (R246, R252,
R253). -/
theorem Main.setLayerNumerics_sets {y : Layer} (hlayer : j.layers.find (bvAt p 4 2) = some y)
    (hvalues : bvAt p 6 1 ≤ 1 ∧ bvAt p 7 1 ≤ 7 ∧ 1 ≤ bvAt p 8 1 ∧ bvAt p 8 1 ≤ 3 ∧ bvAt p 9 1 < bvAt p 8 1 ∧ bvAt p 11 1 ≤ 16)
    (htheta : isNan32 (p.extractLsb' 96 32) = false ∧ flt 0 (p.extractLsb' 96 32) = true) (halign : bvAt p 16 8 % 64 = 0)
    (hcarry : ∀ a, j.carry = some a → bvAt p 16 8 + y.carryBytes ≤ a.2) :
    Main.setLayerNumerics p m = ok (m.updJob (bvAt p 0 4) (fun j => j.updLayer (bvAt p 4 2) (fun y => { y with
      cls := bvByte p 6, margin := bvByte p 7, grades := bvByte p 8, ceil := bvByte p 9, promote := p.getLsbD 80
      sample := p.getLsbD 81, kexp := bvByte p 11, theta := p.extractLsb' 96 32, carry := bvAt p 16 8 }))) [] := by
  obtain ⟨hcls, hmargin, hgradesMin, hgradesMax, hceil, hkexp⟩ := hvalues
  have hroom : j.carry.any (fun a => decide (bvAt p 16 8 + y.carryBytes > a.2)) = false := by
    cases hc : j.carry with
    | none => rfl
    | some a => exact decide_eq_false (Nat.not_lt.2 (hcarry a hc))
  refine (Main.numerics_pass hjob (.inl hclosed)).trans ?_
  simp only [hlayer, gt_iff_lt, ge_iff_le, Nat.not_lt.2 hcls, Nat.not_lt.2 hmargin, Nat.not_lt.2 hgradesMin, Nat.not_lt.2 hgradesMax,
    Nat.not_le.2 hceil, Nat.not_lt.2 hkexp, htheta, halign, hroom, bne_self_eq_false, decide_false, Bool.not_true, Bool.or_self,
    Bool.false_eq_true, if_false]

section Image

variable (halign : bvAt p 8 8 % 64 = 0)
include halign

/-- The state image is written where its destination takes it (R261). -/
theorem Main.saveNumerics_saves (hwrite : m.daPut (m.diePartOf ((diesOf j.dies).headD 0)) (bvAt p 8 8) j.numImage = (m1, true)) :
    Main.saveNumerics p m = ok m1 [(4, 4, j.numImage.length)] := by
  refine (Main.numerics_pass hjob (.inl hclosed)).trans ?_
  simp only [halign, hwrite, bne_self_eq_false, Bool.false_eq_true, if_false]

/-- An image whose header, check value and records are valid is loaded, with event 0x9103 (R261). -/
theorem Main.loadNumerics_loads {part n : Nat} {hd b : List Byte} (hpart : m.diePartOf ((diesOf j.dies).headD 0) = part)
    (hn : natAt hd 4 4 = n) (hhead : m.daGet part (bvAt p 8 8) 64 = (m1, some hd))
    (hvalid : natAt hd 0 4 = 0x4D554E56 ∧ n ≤ 4096 ∧ zeroAt hd 16 48 = true)
    (hbody : m1.daGet part (bvAt p 8 8 + 64) (80 * n + 4096) = (m2, some b))
    (hsound : (crc32c b).toNat = natAt hd 12 4 ∧ ((List.range n).map (fun k => bytesAt b (80 * k) 80)).all recordOk = true) :
    Main.loadNumerics p m = ok ((m2.setJob (bvAt p 0 4) { j with
        watched := ((List.range n).map (fun k => bytesAt b (80 * k) 80)).map j.loadRecord
        layers := j.layers.map (fun l => (l.1, { l.2 with grade := b.getD (80 * n + l.1) 0 })) }).log!
      { code := 0x9103, cls := .rec_, par := p4 (bvAt p 0 4) }) [(4, 4, n)] := by
  obtain ⟨hmagic, hcount, hzero⟩ := hvalid
  obtain ⟨hcrc, hrecords⟩ := hsound
  refine (Main.numerics_pass hjob (.inl hclosed)).trans ?_
  simp only [hpart, halign, hhead, hn, hmagic, gt_iff_lt, Nat.not_lt.2 hcount, hzero, hbody, hcrc, hrecords, bne_self_eq_false,
    decide_false, Bool.not_true, Bool.or_self, Bool.false_eq_true, if_false]

end Image

end Closed

end Sys2Proof.Machine
end

section
/-! The numerics commands. -/

namespace Sys2Proof.Machine

/-- Settles O22: a served command is done with what its body answers, and the body answers as the clause says where its checks
pass. -/
theorem numericsCommandsComplete : Obligations.NumericsCommandsComplete := by
  refine ⟨?job, ?layer, ?save, ?load, ?status⟩
  case job =>
    intro s h p j hserves x da sz n hjob hclosed hguard hvalues hcarry
    exact congrArg s.nextMain (Main.command_done hserves (Main.setJobNumerics_sets hjob hclosed rfl hguard hvalues hcarry))
  case layer =>
    intro s h p j y hserves x hjob hclosed hlayer hvalues htheta halign hcarry
    exact congrArg s.nextMain (Main.command_done hserves
      (Main.setLayerNumerics_sets hjob hclosed hlayer hvalues htheta halign hcarry))
  case save =>
    intro s h p j m1 hserves x hjob hclosed halign hwrite
    exact congrArg s.nextMain (Main.command_done hserves (Main.saveNumerics_saves hjob hclosed halign hwrite))
  case load =>
    intro s h p j m1 m2 hd b hserves x part n hjob hclosed halign hhead hvalid hbody hsound
    exact congrArg s.nextMain (Main.command_done hserves
      (Main.loadNumerics_loads hjob hclosed halign rfl rfl hhead hvalid hbody hsound))
  case status =>
    intro s h p j hserves x hjob
    exact congrArg s.nextMain (Main.command_done hserves (Main.numericsStatus_reads hjob))

end Sys2Proof.Machine
end

section
/-! SUPPORT. Port control, weights and bring-up, where their checks pass (R274, R277, R278, R287, R300, R302, R484). -/

namespace Sys2Proof.Machine

variable {m : Main} {p : Payload}

/-- The port of a status exists; its FEC counts are drawn as it is read (R302; log 81). -/
theorem Main.portStatus_reads (hport : bvAt p 0 1 < m.variant.ports) :
    let y := m.draw.updPort (bvAt p 0 1) (fun k => { k with
      nCorr := (Config.random m.draws).extractLsb' 0 32, nUncorr := (Config.random m.draws).extractLsb' 32 32 })
    let k := y.portAt (bvAt p 0 1)
    Main.portStatus p m = ok y [(0, 1, k.st.num), (1, 1, lanesUp k.lanes), (2, 2, k.node.toNat), (4, 1, k.nport.toNat),
      (8, 4, (recent y.us 1000000 k.replays).length), (12, 4, k.nCorr.toNat), (16, 4, k.nUncorr.toNat)] := by
  simp only [Main.portStatus, ge_iff_le, Nat.not_le.2 hport, if_false]

/-- Port control with a known action over ports that exist takes them down or brings them up (R302). -/
theorem Main.portControl_acts (hact : bvAt p 2 1 ≤ 1) (hmask : (p.extractLsb' 0 16).toNat < 2 ^ m.variant.ports) :
    Main.portControl p m = ok (((List.range m.variant.ports).filter (p.extractLsb' 0 16).getLsbD).foldl
      (fun m i => if bvAt p 2 1 = 0 then m.portDown i 0 false else m.portUp i) m) [] := by
  simp only [Main.portControl, gt_iff_lt, ge_iff_le, Nat.not_lt.2 hact, Nat.not_le.2 hmask, decide_false, Bool.or_self,
    Bool.false_eq_true, if_false]

/-- Weights from 1 to 15 are set (R287). -/
theorem Main.arbWeights_sets (hweight : ∀ i < 3, 1 ≤ bvAt p i 1 ∧ bvAt p i 1 ≤ 15) :
    Main.arbWeights p m = ok { m with fab := { m.fab with
      weight := (BitVec.ofNat 4 (bvAt p 0 1), BitVec.ofNat 4 (bvAt p 1 1), BitVec.ofNat 4 (bvAt p 2 1)) } } [] := by
  have hrange : (List.range 3).any (fun i => bvAt p i 1 < 1 || 15 < bvAt p i 1) = false := by
    rw [List.any_eq_false]
    intro i hi
    obtain ⟨hlow, hhigh⟩ := hweight i (List.mem_range.1 hi)
    simp [Nat.not_lt.2 hlow, Nat.not_lt.2 hhigh]
  simp only [Main.arbWeights, hrange, Bool.false_eq_true, if_false]

/-! ### Bring-up -/

/-- The lanes that train in step B1: those of the row that are not retired (R274, R484). -/
def Main.trainedLanes (m : Main) (p : Nat) (r : BringUp) : Byte := r.lanes &&& ~~~(m.portAt p).laneRet

/-- A port after step B1 found lanes to run on: `l` is all of them or one half, a half with event 0x5107 (R274). -/
def Main.runsOn (m : Main) (p : Nat) (l : Byte) : Main :=
  if l = 0xFF then m.updPort p (fun k => { k with lanes := l })
  else (m.updPort p (fun k => { k with lanes := l })).log! { code := 0x5107, cls := .rec_, par := p1 p }

section BringUp

variable {p : Nat} {r : BringUp}
variable (hport : p < m.variant.ports) (hst : (m.portAt p).st = .training) (hkept : (m.portAt p).retired = false)
include hport hst hkept

/-- Step B1 counts the failing lanes; with the port then retired, or no whole half left, the port is down in that step (R274, R484). -/
theorem Main.bringUp_noLanes
    (hnone : ((m.countLanes p (m.trainedLanes p r)).portAt p).retired = true ∨ laneSet (m.trainedLanes p r) = 0) :
    m.bringUp p r = (m.countLanes p (m.trainedLanes p r)).portDown p 1 := by
  have hdown : (((m.countLanes p (m.trainedLanes p r)).portAt p).retired || decide (laneSet (m.trainedLanes p r) = 0)) = true := by
    simpa using hnone
  unfold Main.trainedLanes at *
  simp only [Main.bringUp, ge_iff_le, Nat.not_le.2 hport, hst, hkept, hdown, bne_self_eq_false, decide_false, Bool.or_self,
    Bool.false_eq_true, if_false, if_true]

variable {m2 : Main} (hleft : ((m.countLanes p (m.trainedLanes p r)).portAt p).retired = false)
variable (hlanes : laneSet (m.trainedLanes p r) ≠ 0)
variable (hm2 : (m.countLanes p (m.trainedLanes p r)).runsOn p (laneSet (m.trainedLanes p r)) = m2)
include hleft hlanes hm2

/-- With lanes to run on, steps B2 to B5 decide: the peer's part, its role, its authentication, then fresh link state (R272, R278, R300). -/
theorem Main.bringUp_lanes :
    m.bringUp p r =
      if r.part.toNat != m2.variant.code then m2.portStays p 0x5103
      else if !(m2.roleOk p r) then m2.portStays p 0x5104
      else if !r.auth then m2.portStays p 0x7502
      else (m2.draw.updPort p (fun k => k.fresh r (m2.draws + 1))).portReady p := by
  subst hm2
  unfold Main.trainedLanes at *
  unfold Main.runsOn
  simp only [Main.bringUp, ge_iff_le, Nat.not_le.2 hport, hst, hkept, hleft, hlanes, bne_self_eq_false, decide_false, Bool.or_self,
    Bool.false_eq_true, if_false]

/-- A neighbour of another part (R4). -/
theorem Main.bringUp_otherPart (hpart : r.part.toNat ≠ m2.variant.code) : m.bringUp p r = m2.portStays p 0x5103 := by
  rw [Main.bringUp_lanes hport hst hkept hleft hlanes hm2, if_pos (bne_iff_ne.2 hpart)]

variable (hpart : r.part.toNat = m2.variant.code)
include hpart

/-- A module or port other than the role names (R272). -/
theorem Main.bringUp_otherRole (hrole : m2.roleOk p r = false) : m.bringUp p r = m2.portStays p 0x5104 := by
  simp only [Main.bringUp_lanes hport hst hkept hleft hlanes hm2, hpart, hrole, bne_self_eq_false, Bool.not_false, Bool.false_eq_true,
    if_false, if_true]

variable (hrole : m2.roleOk p r = true)
include hrole

/-- A peer whose chain does not verify (R300). -/
theorem Main.bringUp_notAuthentic (hauth : r.auth = false) : m.bringUp p r = m2.portStays p 0x7502 := by
  simp only [Main.bringUp_lanes hport hst hkept hleft hlanes hm2, hpart, hrole, hauth, bne_self_eq_false, Bool.not_false, Bool.not_true,
    Bool.false_eq_true, if_false, if_true]

/-- A peer that passes every step: the link starts anew and the port is up (R276–R278, R300). -/
theorem Main.bringUp_starts (hauth : r.auth = true) :
    m.bringUp p r = (m2.draw.updPort p (fun k => k.fresh r (m2.draws + 1))).portReady p := by
  simp only [Main.bringUp_lanes hport hst hkept hleft hlanes hm2, hpart, hrole, hauth, bne_self_eq_false, Bool.not_true,
    Bool.false_eq_true, if_false]

end BringUp

end Sys2Proof.Machine
end

section
/-! The port commands and a port's bring-up. -/

namespace Sys2Proof.Machine

/-- Settles O23: a served command is done with what its body answers, and a bring-up ends in the step that decides it. -/
theorem portCommandsComplete : Obligations.PortCommandsComplete := by
  refine ⟨?status, ?control, ?weights, ?bringUp, ?timeout⟩
  case status =>
    intro s h p hserves x y k hport
    exact congrArg s.nextMain (Main.command_done hserves (Main.portStatus_reads hport))
  case control =>
    intro s h p hserves x hact hmask
    exact congrArg s.nextMain (Main.command_done hserves (Main.portControl_acts hact hmask))
  case weights =>
    intro s h p hserves x hweight
    exact congrArg s.nextMain (Main.command_done hserves (Main.arbWeights_sets hweight))
  case bringUp =>
    intro s q r m0 l m1 m2 hport hst hkept
    refine ⟨fun hnone => ?_, fun hleft hlanes => ⟨fun hpart => ?_, fun hpart hrole => ?_, fun hpart hrole hauth => ?_,
      fun hpart hrole hauth => ?_⟩⟩
    · exact congrArg s.nextMain (Main.bringUp_noLanes hport hst hkept hnone)
    · exact congrArg s.nextMain (Main.bringUp_otherPart hport hst hkept hleft hlanes rfl hpart)
    · exact congrArg s.nextMain (Main.bringUp_otherRole hport hst hkept hleft hlanes rfl hpart hrole)
    · exact congrArg s.nextMain (Main.bringUp_notAuthentic hport hst hkept hleft hlanes rfl hpart hrole hauth)
    · exact congrArg s.nextMain (Main.bringUp_starts hport hst hkept hleft hlanes rfl hpart hrole hauth)
  case timeout =>
    intro s q b hst hb
    exact congrArg s.nextMain (if_pos (by simp [hst, hb]))

end Sys2Proof.Machine
end

section
/-! SUPPORT. What happens on a running link: flits, packets, peer responses, and a link that goes down (R275–R277, R279, R280, R284, R285,
R289, R300). -/

namespace Sys2Proof.Machine

variable {m : Main} {p : Nat}

/-! ### Flits -/

/-- A flit whose CRC fails is dropped, and a replay is asked for (R276). -/
theorem Main.flit_corrupted {f : BitVec 2048} (hruns : (m.portAt p).runs = true)
    (hcrc : crc32c (bvBytes f 252) ≠ f.extractLsb' 2016 32) :
    m.flit p f = (m.updPort p (fun k => { k with dropping := true, nak := true })).owe p (m.portAt p) := by
  simp only [Main.flit, hruns, bne_iff_ne.2 hcrc, Bool.not_true, Bool.false_eq_true, if_false, if_true]

/-- The port has taken the acknowledgement of the flit next in sequence, its number and its credits (R275–R277). -/
def Main.takeNext (m : Main) (p : Nat) (f : BitVec 2048) : Main :=
  (m.updPort p (fun k => k.takeAck (f.extractLsb' 12 12))).updPort p (fun k =>
    { k with rxSeq := f.extractLsb' 0 12, dropping := false,
             credit := k.credit.put (f.extractLsb' 37 3).toNat
               (min 512 (k.credit.get (f.extractLsb' 37 3).toNat + (f.extractLsb' 40 7).toNat)) })

/-- The body that a flit carries, if any, enters its channel (R275, R280). -/
def Main.takeBody (m : Main) (p : Nat) (f : BitVec 2048) : Main :=
  if f.getLsbD 27 = true then
    m.bodyIn p (f.extractLsb' 24 3).toNat (bytesAt (bvBytes f 252) 6 246)
      (if f.getLsbD 28 then some (f.extractLsb' 29 8).toNat else none)
  else m

/-- A good flit next in sequence, without a NAK, is taken; then waiting packets and what is owed go out (R275–R277). -/
theorem Main.flit_next {f : BitVec 2048} (hruns : (m.portAt p).runs = true)
    (hcrc : crc32c (bvBytes f 252) = f.extractLsb' 2016 32) (hnext : f.extractLsb' 0 12 = (m.portAt p).rxSeq + 1)
    (hnak : f.getLsbD 47 = false) :
    m.flit p f = ((((m.takeNext p f).takeBody p f).pump p).owe p (m.portAt p)) := by
  have hgood : (crc32c (bvBytes f 252) != f.extractLsb' 2016 32) = false := bne_eq_false_iff_eq.2 hcrc
  have hseq : (f.extractLsb' 0 12 != (m.portAt p).rxSeq + 1) = false := bne_eq_false_iff_eq.2 hnext
  simp only [Main.flit, Main.takeNext, Main.takeBody, hruns, hgood, hseq, hnak, Bool.not_true, Bool.and_false, Bool.false_and,
    Bool.false_eq_true, if_false]

/-! ### A link that goes down -/

section Down

variable {step : Nat} {m1 : Main} (hst : (m.portAt p).st ≠ .down)
variable (hm1 : m.log! { code := 0x5102, cls := .rec_, par := p1 p ++ p1 step } = m1)
include hst hm1

/-- The standby of an active link that fails takes over its packets (R279). -/
theorem Main.portDown_takesOver {q : Nat} (hactive : (m1.portAt p).active = true) (hstandby : m1.standbyOf p = some q) :
    m.portDown p step = m1.takeOver p q := by
  subst hm1
  simp only [Main.portDown, Main.loseLink, hst, hactive, hstandby, Bool.and_self, Option.filter_some, if_false, if_true]

/-- Without a standby the packets that wait take another route (R285). -/
theorem Main.portDown_reroutes (hstandby : m1.standbyOf p = none) :
    m.portDown p step = (m1.updPort p Port.dead).reroute (m1.portAt p).wait := by
  subst hm1
  simp only [Main.portDown, Main.loseLink, hst, hstandby, Option.filter_none, if_false]

end Down

/-! ### Peer responses -/

/-- The request tag is free again (R281, R289). -/
def Main.closeTag (m : Main) (tag : U16) : Main :=
  { m with fab := { m.fab with peer := m.fab.peer.filter (fun e => e.1 != tag) } }

@[simp] theorem Main.closeTag_tileAt (tag : U16) (id : Nat) : (m.closeTag tag).tileAt id = m.tileAt id := rfl

/-- A response reaches the slot of its request, and ends it there with its last line or an error (R88, R289). -/
theorem Main.peerAnswer_reaches {tag : U16} {status : Nat} {body : List Byte} {id : BitVec 11} {slot : BitVec 6} {first k : Nat} {r : Req}
    (hpeer : m.fab.peer.find? (fun e => e.1 = tag) = some (tag, id, slot, first, k))
    (hslot : (m.tileAt id.toNat).slots.find slot.toNat = some r) :
    let r2 := r.peerGot status first k body
    let m2 := (m.closeTag tag).updTile id.toNat (fun t => { t with slots := t.slots.put slot.toNat r2 })
    m.peerAnswer tag status body =
      if (r2.bad || r2.served.length ≥ r2.lines) = true then (m2.respond id.toNat slot.toNat false).forceGo (id.toNat / 512) else m2 := by
  have hheld : ((m.closeTag tag).tileAt id.toNat).slots.find slot.toNat = some r := by rwa [Main.closeTag_tileAt]
  unfold Main.closeTag at *
  simp only [Main.peerAnswer, hpeer, hheld]

/-! ### Packets -/

section Packets

variable {hb : BitVec 256} {body : List Byte} {tag : BitVec 128} {flits : Nat}

/-- The key of a packet's phase, where the packet's tag holds under it (R300, R301). -/
def Port.packetKey (k : Port) (hb : BitVec 256) (body : List Byte) (tag : BitVec 128) : Option (List Byte) :=
  ((k.genOf (Hd.of hb).phase).map (linkKey k.key false)).filter
    (fun key => Config.gcmTag (key.take 32) (linkNonce key k.rxPackets) (bvBytes hb 32) body = tag)

variable (hruns : (m.portAt p).runs = true)
include hruns

/-- A packet whose tag holds is counted, decrypted, and consumed by its node or passed on (R280, R284). -/
theorem Main.packetIn_tagHolds {key : List Byte} (hkey : (m.portAt p).packetKey hb body tag = some key) :
    let m1 := m.updPort p (fun k => { k with rxPackets := k.rxPackets + 1 })
    let plain := gcmXor (key.take 32) (linkNonce key (m.portAt p).rxPackets) body
    m.packetIn p hb body tag flits =
      if m1.fab.node.any (fun (n : BitVec 15) => n.toNat = (Hd.of hb).dst)
      then m1.consume (Hd.of hb) plain (some (p, (Hd.of hb).vc, flits)) else m1.forward (Hd.of hb) plain (some p) flits := by
  unfold Port.packetKey at hkey
  simp only [Main.packetIn, hruns, hkey, Bool.not_true, Bool.false_eq_true, if_false]

/-- A packet whose tag fails gives its input buffer back and counts against the link (R301). -/
theorem Main.packetIn_tagFails (hkey : (m.portAt p).packetKey hb body tag = none) :
    m.packetIn p hb body tag flits = (m.freeFlits (some (p, (Hd.of hb).vc, flits))).tagFails p := by
  unfold Port.packetKey at hkey
  simp only [Main.packetIn, hruns, hkey, Bool.not_true, Bool.false_eq_true, if_false]

end Packets

end Sys2Proof.Machine
end

section
/-! The events of a running link. -/

namespace Sys2Proof.Machine

/-- Settles O24: each event, in the conditions of its clause, runs the operation that the lemmas above describe. -/
theorem linkEventsComplete : Obligations.LinkEventsComplete := by
  refine ⟨?corrupted, ?next, ?replay, ?failure, ?down, ?response, ?packet, ?badTag, ?rekey, ?oldKey⟩
  case corrupted =>
    intro s q f hruns hcrc
    exact congrArg s.nextMain (Main.flit_corrupted hruns hcrc)
  case next =>
    intro s q f hruns hcrc hnext hnak m1 m2
    exact congrArg s.nextMain (Main.flit_next hruns hcrc hnext hnak)
  case replay =>
    intro s q hruns hreplay
    exact congrArg s.nextMain (if_pos (by simp [hruns, hreplay]))
  case failure =>
    intro s q hactive
    exact congrArg s.nextMain (if_pos hactive)
  case down =>
    intro m q hst m1 hactive
    exact ⟨fun b hstandby => Main.portDown_takesOver hst rfl hactive hstandby, fun hstandby => Main.portDown_reroutes hst rfl hstandby⟩
  case response =>
    intro s tag status body id slot first k r hpeer hslot m1 r2 m2
    exact congrArg s.nextMain (Main.peerAnswer_reaches hpeer hslot)
  case packet =>
    intro s q hb body tag key hruns k nonce hkey m1 plain
    exact congrArg s.nextMain (Main.packetIn_tagHolds hruns hkey)
  case badTag =>
    intro s q hb body tag hruns k hkey
    exact congrArg s.nextMain (Main.packetIn_tagFails hruns hkey)
  case rekey =>
    intro s q hruns
    exact congrArg s.nextMain (if_pos hruns)
  case oldKey =>
    intro s q
    rfl

end Sys2Proof.Machine
end

section
/-! SUPPORT. The two sides of the block: a command of the main side leaves the meter as it is, and a command of the meter keeps the meter
sound and only adds to it (R372–R376, R381–R383). -/

namespace Sys2Proof.Machine

theorem meter_of_nextMain {s t : State} {m : Main} (h : s.nextMain m = .next t) : t.meter = s.meter := by
  cases h; rfl

theorem main_of_nextMeter {s t : State} {v : Meter} (h : s.nextMeter v = .next t) : t.main = s.main := by
  cases h; rfl

/-- The mirror frame moves in the meter only the reading that the next gain counts from (R383). -/
theorem execMirrorFrame_meter {seq power volt curr : U32} {good : Bool} {s t : State}
    (h : execMirrorFrame seq power volt curr good s = .next t) : t.meter = { s.meter with framed := t.meter.framed } := by
  unfold execMirrorFrame at h
  split at h
  · cases h; rfl
  · cases h; rfl

/-! ### What a meter command adds -/

theorem Meter.Grows.refl {t : Meter} (h : t.Sound) : t.Grows t := Meter.grows_same h rfl rfl rfl rfl rfl h.ms

/-- One operation after another: the second starts from the sound meter that the first leaves. -/
theorem Meter.Grows.andThen {a b c : Meter} (h : a.Grows b) (k : b.Sound → b.Grows c) : a.Grows c := h.trans (k h.sound)

theorem Meter.Grows.ite {t a b : Meter} {c : Prop} [Decidable c] (ha : t.Grows a) (hb : t.Grows b) : t.Grows (if c then a else b) := by
  split
  · exact ha
  · exact hb

/-- An answer leaves register, log and clock as they are. -/
theorem Meter.grows_answer {t : Meter} (h : t.Sound) (o : MOut) : t.Grows (t.answer o) :=
  Meter.grows_same h rfl rfl rfl rfl rfl h.ms

theorem onMeter_grows {f : Meter → Meter} {s t : State} (h : onMeter f s = .next t) (hf : s.meter.Grows (f s.meter)) :
    s.meter.Grows t.meter := by
  cases h; exact hf

section Commands

variable {s t : State} (hs : s.meter.Sound)
include hs

theorem execMeterUpdate_grows {uj : Nat} {power volt curr : U32} (h : execMeterUpdate uj power volt curr s = .next t) :
    s.meter.Grows t.meter := by
  refine onMeter_grows h (.ite (.refl hs) ?_)
  have counted : s.meter.Grows (s.meter.register uj).clock := (Meter.grows_register hs uj).andThen Meter.grows_clock
  have taken : s.meter.Grows { (s.meter.register uj).clock with power := power, volt := volt, curr := curr } :=
    counted.andThen fun k => Meter.grows_same k rfl rfl rfl rfl rfl k.ms
  exact taken.andThen fun k => Meter.grows_range k volt curr

theorem execVerificationPulseEnd_grows (h : execVerificationPulseEnd s = .next t) : s.meter.Grows t.meter :=
  onMeter_grows h (Meter.grows_same hs rfl rfl rfl rfl rfl hs.ms)

theorem execMeterStart_grows {broken selfTest : Bool} (h : execMeterStart broken selfTest s = .next t) : s.meter.Grows t.meter := by
  refine onMeter_grows h (.ite (.refl hs) ?_)
  have started : s.meter.Grows { s.meter with
      running := true, pcyc := s.meter.pcyc + 1, ms := 0, voltFor := 0, currFor := 0, fTest := selfTest } :=
    Meter.grows_same hs rfl rfl rfl rfl rfl (by decide : 0 < 1000)
  have entered := started.andThen fun k => Meter.grows_enter k 1
  exact (entered.andThen fun k => .ite (Meter.grows_broken k) (.refl k)).andThen fun k => Meter.grows_enterIf k selfTest 6

theorem execMeterSupplyLoss_grows (h : execMeterSupplyLoss s = .next t) : s.meter.Grows t.meter := by
  refine onMeter_grows h (.ite ?_ (.refl hs))
  have stopped : s.meter.Grows { s.meter with running := false, fSupply := true, pulse := false } :=
    Meter.grows_same hs rfl rfl rfl rfl rfl hs.ms
  exact stopped.andThen fun k => Meter.grows_enter k 2

theorem execCoverOpened_grows (h : execCoverOpened s = .next t) : s.meter.Grows t.meter :=
  onMeter_grows h (.ite (Meter.grows_broken hs) (.refl hs))

theorem execReadEnergyRecord_grows {nonce : BitVec 256} (h : execReadEnergyRecord nonce s = .next t) : s.meter.Grows t.meter :=
  onMeter_grows h (.ite (.refl hs) (Meter.grows_same hs rfl rfl rfl rfl rfl hs.ms))

theorem execReadLog_grows {nonce : BitVec 256} {first : U16} {count : Byte} (h : execReadLog nonce first count s = .next t) :
    s.meter.Grows t.meter :=
  onMeter_grows h (.ite (.refl hs) (.ite (Meter.grows_answer hs _) (Meter.grows_answer hs _)))

theorem execMeterIdentity_grows {nonce : BitVec 256} (h : execMeterIdentity nonce s = .next t) : s.meter.Grows t.meter :=
  onMeter_grows h (.ite (.refl hs) (Meter.grows_answer hs _))

theorem execMeterSpdmRequest_grows {code : Byte} {body : List Byte} (h : execMeterSpdmRequest code body s = .next t) :
    s.meter.Grows t.meter :=
  onMeter_grows h (.ite (Meter.grows_answer hs _) (.refl hs))

theorem execMirrorFrame_grows {seq power volt curr : U32} {good : Bool} (h : execMirrorFrame seq power volt curr good s = .next t) :
    s.meter.Grows t.meter := by
  rw [execMirrorFrame_meter h]
  exact Meter.grows_same hs rfl rfl rfl rfl rfl hs.ms

omit hs in
theorem grows_of_nextMain {m : Main} (hs : s.meter.Sound) (h : s.nextMain m = .next t) : s.meter.Grows t.meter := by
  rw [meter_of_nextMain h]
  exact .refl hs

/-- No command of the table does more to the meter than to add. -/
theorem exec_grows {c : Instr} (h : exec c s = .next t) : s.meter.Grows t.meter := by
  cases c
  case meterUpdate => exact execMeterUpdate_grows hs h
  case verificationPulseEnd => exact execVerificationPulseEnd_grows hs h
  case meterStart => exact execMeterStart_grows hs h
  case meterSupplyLoss => exact execMeterSupplyLoss_grows hs h
  case coverOpened => exact execCoverOpened_grows hs h
  case readEnergyRecord => exact execReadEnergyRecord_grows hs h
  case readLog => exact execReadLog_grows hs h
  case meterIdentity nonce => exact execMeterIdentity_grows (nonce := nonce) hs h
  case meterSpdmRequest => exact execMeterSpdmRequest_grows hs h
  case mirrorFrame => exact execMirrorFrame_grows hs h
  all_goals exact grows_of_nextMain hs h

/-- A step adds to the meter too: on an empty queue only the AUX clock runs. -/
theorem step_grows (h : step s = .next t) : s.meter.Grows t.meter := by
  cases hq : s.pending with
  | nil => exact grows_of_nextMain hs ((step_of_pending_nil hq).symm.trans h)
  | cons c rest => exact exec_grows (s := { s with pending := rest }) hs ((step_of_pending_cons hq).symm.trans h)

end Commands

end Sys2Proof.Machine
end

section
/-! The meter in every step. -/

namespace Sys2Proof.Machine

/-- Settles O48: of all commands the meter's own nine alone run on the meter, and the mirror frame alone on both sides. -/
theorem mainSideNeverReachesTheMeter : Obligations.MainSideNeverReachesTheMeter := by
  intro c s t h
  cases c
  case mirrorFrame => exact execMirrorFrame_meter h
  case meterUpdate | verificationPulseEnd | meterStart | meterSupplyLoss | coverOpened | readEnergyRecord | readLog | meterIdentity |
      meterSpdmRequest => exact main_of_nextMeter h
  all_goals exact meter_of_nextMain h

/-- Settles O49: nothing is counted, logged or opened before the first start. -/
theorem meterSoundAtReset : Obligations.MeterSoundAtReset :=
  ⟨by decide, by decide, by decide, by decide, fun hcover => absurd hcover (by decide)⟩

/-- Settles O50: a step adds to the meter, and what was added to is sound. -/
theorem meterSoundKept : Obligations.MeterSoundKept := fun _ _ hs h => (step_grows hs h).sound

/-- Settles O51: a step adds to the meter, and adding keeps register, cover and log. -/
theorem meterOnlyAdds : Obligations.MeterOnlyAdds := fun _ _ hs h =>
  have grown := step_grows hs h
  ⟨grown.energy, grown.cover, grown.log⟩

end Sys2Proof.Machine
end

section
/-! SUPPORT. What the events of power, pace and temperature leave as it was: each of them is made of updates of the power state, of
ring-log records and of parking (R335, R351–R357, R364–R367). -/

namespace Sys2Proof.Machine

/-! ### Points -/

theorem Main.sameWork_pointMove (m : Main) (d : Nat) : m.SameWork (m.pointMove d) := by
  unfold Main.pointMove
  dsimp only
  split
  · exact (Main.sameWork_updDp m d _).trans (.opt (Main.sameWork_updDp _ _ _))
  · exact Main.sameWork_updDp m d _

theorem Main.sameWork_selection (m : Main) (proj : List (List Nat)) : m.SameWork (m.selection proj) := by
  unfold Main.selection
  dsimp only
  refine (Main.sameWork_elecRise m proj).trans (.ite (.refl _) ?_)
  exact .foldl _ (fun m d => (Main.sameWork_capStep m proj d).trans (Main.sameWork_selectDie _ d)) _ _

/-! ### The estimate -/

theorem Main.sameWork_crossCheck (m : Main) (meas mean : Nat) : m.SameWork (m.crossCheck meas mean) := by
  unfold Main.crossCheck
  dsimp only
  exact (Main.sameWork_updPow m _).trans (.opt (Main.sameWork_enterX _ _ _))

theorem Main.sameWork_fallbackTimer (m : Main) : m.SameWork m.fallbackTimer := by
  unfold Main.fallbackTimer
  split
  · exact Main.sameWork_enterX _ _ _
  · exact Main.sameWork_enterX _ _ _
  · exact Main.sameWork_enterX _ _ _
  · exact .refl m

theorem Main.sameWork_refitDone (m : Main) (l : List Nat) : m.SameWork (m.refitDone l) := by
  unfold Main.refitDone
  exact .ite (.refl m) ((Main.sameWork_updPow m _).trans (Main.sameWork_log _ _))

/-! ### Limits and parking -/

theorem Main.sameWork_parkTick (m : Main) (unpark : Bool) : m.SameWork (m.parkTick unpark) := by
  unfold Main.parkTick
  refine .ite ?_ (.ite (.refl m) ?_)
  · split
    · exact Main.sameWork_parkOne _ _ _
    · exact .refl m
  · split
    · exact (Main.sameWork_parkOne m _ true).trans (.opt (Main.sameWork_log _ _))
    · exact .refl m

theorem Main.sameWork_updDps (m : Main) (f : DiePow → DiePow) : m.SameWork ((List.range 4).foldl (fun m d => m.updDp d f) m) :=
  .foldl _ (fun m d => Main.sameWork_updDp m d f) _ m

theorem Main.sameWork_ceilingStep (m : Main) (d : Nat) : m.SameWork (m.ceilingStep d) := by
  unfold Main.ceilingStep
  dsimp only
  refine .ite (.ite (Main.sameWork_updDp _ _ _) ?_) (.opt (Main.sameWork_updDp _ _ _))
  exact (Main.sameWork_updDp m d _).trans (Main.sameWork_log _ _)

/-! ### Events of the whole state -/

section Events

variable {s u : State}

theorem execElectricalLimitTimer_sameWork {proj : List Nat} (h : execElectricalLimitTimer proj s = .next u) :
    s.main.SameWork u.main ∧ u.meter = s.meter ∧ u.pending = s.pending := by
  refine sameWork_of _ (fun m => ?_) h
  exact ((Main.sameWork_updDps m _).trans (Main.sameWork_updPow _ _)).trans (Main.sameWork_log _ _)

theorem execBoostWindowExhausted_sameWork {proj : List Nat} (h : execBoostWindowExhausted proj s = .next u) :
    s.main.SameWork u.main ∧ u.meter = s.meter ∧ u.pending = s.pending := by
  refine sameWork_of _ (fun m => ?_) h
  exact .ite (.refl m) (((Main.sameWork_updDps m _).trans (Main.sameWork_updPow _ _)).trans (Main.sameWork_log _ _))

theorem execPointMove_sameWork {d : Fin 4} (h : execPointMove d s = .next u) :
    s.main.SameWork u.main ∧ u.meter = s.meter ∧ u.pending = s.pending := by
  refine sameWork_of _ (fun m => ?_) h
  exact Main.sameWork_pointMove m _

theorem execRegionPark_sameWork {d : Fin 4} {r : Fin 8} (h : execRegionParkedAtCriticalTemperature d r s = .next u) :
    s.main.SameWork u.main ∧ u.meter = s.meter ∧ u.pending = s.pending := by
  refine sameWork_of _ (fun m => ?_) h
  exact .ite (.refl m) (((Main.sameWork_updDp m _ _).trans (Main.sameWork_reparked _ _)).trans (Main.sameWork_log _ _))

end Events

end Sys2Proof.Machine
end

section
/-! The power, pace and thermal events. -/

namespace Sys2Proof.Machine

/-- Settles O57: each named event is one of the operations that leave the work as it is, and of the other commands nothing is said. -/
theorem powerEventsLeaveTheWork : Obligations.PowerEventsLeaveTheWork := by
  intro c s u h
  cases c
  case fastPowerLoop => exact sameWork_of _ (sameWork_byCore 1 _ (Main.sameWork_fastLoop _)) h
  case telemetryCrossCheck => exact sameWork_of _ (sameWork_byCore 1 _ fun m => Main.sameWork_crossCheck m _ _) h
  case estimateFallbackTimer => exact sameWork_of _ (sameWork_byCore 1 _ Main.sameWork_fallbackTimer) h
  case activityRefitComplete => exact sameWork_of _ (sameWork_byCore 1 _ fun m => Main.sameWork_refitDone m _) h
  case pointSelection => exact sameWork_of _ (sameWork_byCore 1 _ fun m => Main.sameWork_selection m _) h
  case regionParkTick => exact sameWork_of _ (sameWork_byCore 1 _ fun m => Main.sameWork_parkTick m _) h
  case electricalLimitTimer => exact execElectricalLimitTimer_sameWork h
  case boostWindowExhausted => exact execBoostWindowExhausted_sameWork h
  case flywheelPeriod => exact sameWork_of _ (sameWork_byCore 1 _ (Main.sameWork_flywheel _ _ _)) h
  case startOffsetExpiry => exact sameWork_of _ (sameWork_byCore 1 _ fun m => .opt (Main.sameWork_updPow m _)) h
  case stopRamp => exact sameWork_of _ (sameWork_byCore 1 _ fun m => .opt (Main.sameWork_stopRamp m)) h
  case pointMove => exact execPointMove_sameWork h
  case pacedPointLower => exact sameWork_of _ (sameWork_byCore 1 _ fun m => Main.sameWork_updDp m _ _) h
  case thermalLoop => exact sameWork_of _ (sameWork_byCore 2 _ fun m => Main.sameWork_thermal m _ _ _) h
  case heatTokenPlan => exact sameWork_of _ (sameWork_byCore 2 _ fun m => Main.sameWork_heatPlan m _ _) h
  case dieThermalCeilingStep => exact sameWork_of _ (sameWork_byCore 2 _ fun m => Main.sameWork_ceilingStep m _) h
  case regionParkedAtCriticalTemperature => exact execRegionPark_sameWork h
  all_goals exact trivial

end Sys2Proof.Machine
end

section
/-! SUPPORT. The step and the first power-up (R392, R465, R500; log 3). -/

namespace Sys2Proof.Machine

theorem Main.tick_powered {m : Main} (haux : m.sup.aux = true) :
    m.tick = { m with us := m.us + 1, opsec := if (m.us + 1) % 1000000 = 0 then m.opsec + 1 else m.opsec } := by
  simp only [Main.tick, haux, Bool.not_true, Bool.false_eq_true, if_false]

theorem Main.tick_unpowered {m : Main} (haux : m.sup.aux = false) : m.tick = m := by
  simp only [Main.tick, haux, Bool.not_false, if_true]

/-- Settles O46: the front command runs on the rest of the queue, and on an empty queue the AUX clock ticks. -/
theorem stepTakesTheFrontCommand : Obligations.StepTakesTheFrontCommand := by
  refine fun s => ⟨fun c rest hq => step_of_pending_cons hq, fun hq haux => ?_, fun hq haux => ?_⟩
  · rw [step_of_pending_nil hq, Main.tick_powered haux]
  · rw [step_of_pending_nil hq, Main.tick_unpowered haux]
    rfl

/-- Settles O60: the initial state is the empty one, and AUX up clears and starts what is already clear. -/
theorem coldResetOfTheFirstPowerUp : Obligations.ColdResetOfTheFirstPowerUp := by
  refine ⟨rfl, rfl, rfl, rfl, rfl, fun p => ?_, fun recov tlock sbaddr => ⟨_, rfl, ?_⟩⟩
  · rfl
  · refine ⟨rfl, rfl, rfl, rfl, rfl, rfl, rfl, rfl, rfl, rfl, rfl, rfl, fun c => ?_, rfl⟩
    rfl

end Sys2Proof.Machine
end

section
/-! SUPPORT. Mailbox commands that change nothing but the queue and the responses: one that a check turns away, and one that only reads
(R398, R403, R406). -/

namespace Sys2Proof.Machine

/-- A command that is taken and not served, as a next state. -/
theorem nextMain_turnedAway {s : State} {op : Nat} {h : Hdr} {p : Payload} {fields : List (Nat × Nat)} {body : Main → Reply}
    {reads owned high anyState : Bool} (htaken : s.main.takes h.src = true)
    (hunserved : s.main.serves op h p fields reads owned high anyState = false) :
    ∃ st, 0 < st ∧ st < 10 ∧ st ≠ 3 ∧
      s.nextMain (s.main.command op h p fields body reads owned false high anyState) = s.nextMain (s.main.turnedAway op h st) := by
  obtain ⟨st, hpos, hlt, hne, haway⟩ := Main.command_away (tcs2 := false) htaken hunserved
  exact ⟨st, hpos, hlt, hne, congrArg s.nextMain (haway body)⟩

/-! ### Bodies that only read -/

theorem ok_keeps (m : Main) (l : List (Nat × Nat × Nat)) : (ok m l).1 = m := rfl
theorem reject_keeps (m : Main) (status : Nat) : (reject m status).1 = m := rfl
theorem refuse_keeps (m : Main) (reason : Nat) : (refuse m reason).1 = m := rfl

theorem ite_keeps {m : Main} {c : Prop} [Decidable c] {a b : Reply} (ha : a.1 = m) (hb : b.1 = m) : (if c then a else b).1 = m := by
  split
  · exact ha
  · exact hb

section Bodies

variable (p : Payload) (m : Main)

theorem Main.dieStatusBody_keeps : (Main.dieStatusBody p m).1 = m := ite_keeps (reject_keeps m 2) (ok_keeps m _)

theorem Main.sramStatus_keeps : (Main.sramStatus p m).1 = m := ite_keeps (reject_keeps m 2) (ok_keeps m _)

theorem Main.readRegion_keeps : (Main.readRegion p m).1 = m := ite_keeps (reject_keeps m 2) (ok_keeps m _)

theorem Main.layerStatus_keeps : (Main.layerStatus p m).1 = m := by
  unfold Main.layerStatus
  split
  · exact reject_keeps m 2
  · split
    · exact reject_keeps m 2
    · exact ok_keeps m _

theorem Main.numericsStatus_keeps : (Main.numericsStatus p m).1 = m := by
  unfold Main.numericsStatus Main.numerics
  split
  · exact refuse_keeps m 1
  · exact ite_keeps (refuse_keeps m 2) (ok_keeps m _)

theorem Main.tailStatus_keeps : (Main.tailStatus p m).1 = m := by
  unfold Main.tailStatus
  dsimp only
  split
  · exact refuse_keeps m 1
  · exact ok_keeps m _

theorem Main.readChar_keeps : (Main.readChar p m).1 = m :=
  ite_keeps (refuse_keeps m 2) (ite_keeps (ite_keeps (refuse_keeps m 1) (ok_keeps m _)) (ite_keeps (refuse_keeps m 1) (ok_keeps m _)))

theorem Main.readWear_keeps : (Main.readWear p m).1 = m := ite_keeps (reject_keeps m 2) (ok_keeps m _)

theorem Main.thermalStatus_keeps : (Main.thermalStatus p m).1 = m := ite_keeps (reject_keeps m 2) (ok_keeps m _)

theorem Main.devStatus_keeps : (Main.devStatus p m).1 = m := by
  unfold Main.devStatus
  split
  · exact ok_keeps m _
  · exact ok_keeps m _
  · exact reject_keeps m 2

theorem Main.partStatus_keeps : (Main.partStatus p m).1 = m := ite_keeps (reject_keeps m 2) (ok_keeps m _)

theorem Main.readRecord_keeps : (Main.readRecord p m).1 = m := by
  unfold Main.readRecord
  split
  · rfl
  · exact reject_keeps m 2

theorem Main.degradation_keeps : (Main.degradation p m).1 = m := by
  unfold Main.degradation
  dsimp only
  split
  · exact ite_keeps (reject_keeps m 2) (ok_keeps m _)
  · exact ite_keeps (reject_keeps m 2) rfl
  · exact ite_keeps (reject_keeps m 2) rfl
  · exact ite_keeps (reject_keeps m 2) (ok_keeps m _)
  · exact ite_keeps (reject_keeps m 2) (ok_keeps m _)
  · exact reject_keeps m 2

end Bodies

end Sys2Proof.Machine
end

section
/-! The mailbox commands that change nothing else. -/

namespace Sys2Proof.Machine

/-- Settles O55: every listed row is its command at the checks, and a command that they turn away is answered and gone. -/
theorem turnedAwayCommandsChangeNothing : Obligations.TurnedAwayCommandsChangeNothing := by
  intro s
  and_intros
  all_goals exact fun h p htaken hunserved => nextMain_turnedAway htaken hunserved

/-- Settles O56: every listed row is a command whose body answers the state it reads. -/
theorem queriesChangeNothing : Obligations.QueriesChangeNothing := by
  intro s u h
  refine ⟨fun p => ?tcs3, fun p => ?tcs2⟩
  case tcs3 =>
    exact ⟨
      nextMain_same (Main.command_pure (Main.dieStatusBody_keeps p)),
      nextMain_same (Main.command_pure fun m => ok_keeps m _),
      nextMain_same (Main.command_pure (Main.sramStatus_keeps p)),
      nextMain_same (Main.command_pure (Main.readRegion_keeps p)),
      nextMain_same (Main.command_pure (Main.layerStatus_keeps p)),
      nextMain_same (Main.command_pure (Main.numericsStatus_keeps p)),
      nextMain_same (Main.command_pure fun m => ok_keeps m _),
      nextMain_same (Main.command_pure (Main.tailStatus_keeps p)),
      nextMain_same (Main.command_pure (Main.readChar_keeps p)),
      nextMain_same (Main.command_pure (Main.readWear_keeps p)),
      nextMain_same (Main.command_pure fun m => ok_keeps m _),
      nextMain_same (Main.command_pure (Main.thermalStatus_keeps p)),
      nextMain_same (Main.command_pure fun m => ok_keeps m _),
      nextMain_same (Main.command_pure fun m => ok_keeps m _),
      nextMain_same (Main.command_pure (Main.devStatus_keeps p)),
      nextMain_same (Main.command_pure fun m => ok_keeps m _),
      nextMain_same (Main.command_pure (Main.partStatus_keeps p)),
      nextMain_same (Main.command_pure fun m => ok_keeps m _),
      nextMain_same (Main.command_pure (Main.readRecord_keeps p)),
      nextMain_same (Main.command_pure (Main.degradation_keeps p))⟩
  case tcs2 =>
    exact ⟨
      nextMain_same (Main.command_pure (Main.devStatus_keeps (low p))),
      nextMain_same (Main.command_pure fun m => ok_keeps m _),
      nextMain_same (Main.command_pure fun m => ok_keeps m _),
      nextMain_same (Main.command_pure (Main.readRecord_keeps (low p)))⟩

end Sys2Proof.Machine
end

section
/-! SUPPORT. The meter's events, its readings, and the mirror on the main side, where their conditions hold (R372–R386). -/

namespace Sys2Proof.Machine

/-! ### The meter's events -/

section Running

variable {t : Meter}

/-- A millisecond carries over into the seconds at 1,000 (R374). -/
theorem Meter.clock_eq (t : Meter) :
    t.clock = { t with ms := if t.ms + 1 = 1000 then 0 else t.ms + 1, secs := if t.ms + 1 = 1000 then t.secs + 1 else t.secs } := by
  unfold Meter.clock
  split <;> rfl

theorem Meter.enterIf_decide (t : Meter) (c : Prop) [Decidable c] (code : U16) :
    t.enterIf (decide c) code = if c then t.enter code else t := by
  simp only [Meter.enterIf, decide_eq_true_eq]

end Running

section Events

variable {s : State}

theorem execMeterUpdate_running (hrun : s.meter.running = true) (uj : Nat) (power volt curr : U32) :
    execMeterUpdate uj power volt curr s =
      s.nextMeter (({ (s.meter.register uj).clock with power := power, volt := volt, curr := curr } : Meter).range volt curr) := by
  simp only [execMeterUpdate, onMeter, hrun, Bool.not_true, Bool.false_eq_true, if_false, State.nextMeter]

theorem execMeterStart_starts (hstopped : s.meter.running = false) (broken selfTest : Bool) :
    execMeterStart broken selfTest s =
      let u := { s.meter with
        running := true, pcyc := s.meter.pcyc + 1, ms := 0, voltFor := 0, currFor := 0, fTest := selfTest }.enter 1
      s.nextMeter ((if broken then u.broken else u).enterIf selfTest 6) := by
  simp only [execMeterStart, onMeter, hstopped, Bool.false_eq_true, if_false, State.nextMeter]

/-- A start with a broken wire enters the break unless it stands in the log already (R376). -/
theorem Meter.broken_onStart (u : Meter) (broken : Bool) :
    (if broken then u.broken else u) = if broken = true ∧ u.cover = false then { u with cover := true }.enter 5 else u := by
  unfold Meter.broken
  cases broken <;> cases u.cover <;> rfl

theorem execMeterSupplyLoss_stops (hrun : s.meter.running = true) :
    execMeterSupplyLoss s = s.nextMeter ({ s.meter with running := false, fSupply := true, pulse := false }.enter 2) :=
  congrArg s.nextMeter (if_pos hrun)

theorem execCoverOpened_enters (hrun : s.meter.running = true) (hclosed : s.meter.cover = false) :
    execCoverOpened s = s.nextMeter ({ s.meter with cover := true }.enter 5) :=
  congrArg s.nextMeter ((if_pos hrun).trans (if_neg (by simp [hclosed])))

/-! ### The meter's answers -/

variable (hrun : s.meter.running = true)
include hrun

theorem execReadEnergyRecord_answers (nonce : BitVec 256) :
    execReadEnergyRecord nonce s =
      let u : Meter := { s.meter with seq := s.meter.seq + 1 }
      s.nextMeter ({ u with fVolt := false, fCurr := false, fSupply := false }.answer (.vendor (p1 0 ++ u.record nonce) true)) :=
  congrArg s.nextMeter (if_neg (by simp [hrun]))

theorem execReadLog_outOfRange (nonce : BitVec 256) (first : U16) {count : Byte} (hcount : count = 0 ∨ 8 < count.toNat) :
    execReadLog nonce first count s = s.nextMeter (s.meter.answer (.vendor (p1 1) false)) := by
  have hzero : count.toNat = 0 ∨ 8 < count.toNat := hcount.imp_left fun h => by simp [h]
  exact congrArg s.nextMeter ((if_neg (by simp [hrun])).trans (if_pos (by simpa using hzero)))

theorem execReadLog_answers (nonce : BitVec 256) (first : U16) {count : Byte} (hcount : count ≠ 0 ∧ count.toNat ≤ 8) :
    execReadLog nonce first count s = s.nextMeter (s.meter.answer (.vendor (p1 0 ++ toBytes 3 0 ++ bvBytes Config.meterSerial 16 ++
      bvBytes nonce 32 ++ ((s.meter.log.drop first.toNat).take count.toNat).flatMap MLog.bytes) true)) := by
  have hzero : ¬ (count.toNat = 0 ∨ 8 < count.toNat) := by
    rintro (h | h)
    · exact hcount.1 (BitVec.eq_of_toNat_eq h)
    · omega
  exact congrArg s.nextMeter ((if_neg (by simp [hrun])).trans (if_neg (by simpa using hzero)))

theorem execMeterIdentity_answers (nonce : BitVec 256) :
    execMeterIdentity nonce s = s.nextMeter (s.meter.answer (.vendor (p1 0 ++ bvBytes Config.meterSerial 16 ++
      bvBytes Config.meterName 16 ++ p4 Config.meterVersion.toNat ++ bytesAt Config.meterHash 0 64) false)) :=
  congrArg s.nextMeter (if_neg (by simp [hrun]))

theorem execMeterSpdmRequest_answers (code : Byte) (body : List Byte) :
    execMeterSpdmRequest code body s = s.nextMeter (s.meter.answer (Meter.spdm code body)) :=
  congrArg s.nextMeter (if_pos hrun)

/-! ### The mirror -/

/-- A frame of a running meter reaches a powered main side (R383). -/
theorem execMirrorFrame_arrives (haux : s.main.sup.aux = true) (seq power volt curr : U32) (good : Bool) :
    execMirrorFrame seq power volt curr good s =
      let m := if good then
          s.main.mirrorTake s.meter.energy (s.meter.energy.toNat - s.meter.framed.toNat) s.meter.flags seq power volt curr
        else s.main.updMir (fun r => { r with dropped := r.dropped + 1 })
      .next { s with main := m.mirrorAdvise, meter := { s.meter with framed := s.meter.energy } } :=
  if_neg (by simp [hrun, haux])

end Events

theorem Main.mirrorLost_logs {m : Main} (hheld : m.mir.lost = false) (haux : m.sup.aux = true) :
    m.mirrorLost =
      ((m.updMir (fun r => { r with lost := true })).updPow (fun w => { w with refit := false })).log! { code := 0xA001, cls := .rec_ } :=
  if_neg (by simp [hheld, haux])

end Sys2Proof.Machine
end

section
/-! The meter's events, its readings and the mirror. -/

namespace Sys2Proof.Machine

/-- Settles O32: each event of a meter in the state of its clause; the register, clock and range checks of an update are written out. -/
theorem meterEventsComplete : Obligations.MeterEventsComplete := by
  refine ⟨?update, fun s => rfl, ?start, ?loss⟩
  case update =>
    intro s uj power volt curr hrun n e k u v c w y
    refine (execMeterUpdate_running hrun uj power volt curr).trans (congrArg s.nextMeter ?_)
    rw [Meter.clock_eq]
    refine (Meter.enterIf_decide _ _ _).trans ?_
    simp only [Meter.enterIf_decide]
    rfl
  case start =>
    intro s broken selfTest hstopped u v
    refine (execMeterStart_starts hstopped broken selfTest).trans (congrArg s.nextMeter ?_)
    rw [Meter.broken_onStart]
    rfl
  case loss =>
    exact fun s hrun => ⟨execMeterSupplyLoss_stops hrun, execCoverOpened_enters hrun⟩

/-- Settles O33: a running meter answers, a frame reaches the mirror, and a loss and a status are the main side's own. -/
theorem meterReadingsAndMirrorComplete : Obligations.MeterReadingsAndMirrorComplete := by
  refine ⟨?answers, ?frame, ?lost, ?status⟩
  case answers =>
    intro s nonce hrun
    exact ⟨execReadEnergyRecord_answers hrun nonce,
      fun first count => ⟨execReadLog_outOfRange hrun nonce first, execReadLog_answers hrun nonce first⟩,
      execMeterIdentity_answers hrun nonce, execMeterSpdmRequest_answers hrun⟩
  case frame =>
    intro s seq power volt curr hrun haux fresh m1 m2 m3 w
    exact ⟨execMirrorFrame_arrives hrun haux seq power volt curr true, execMirrorFrame_arrives hrun haux seq power volt curr false⟩
  case lost =>
    exact fun s hheld haux => congrArg s.nextMain (Main.mirrorLost_logs hheld haux)
  case status =>
    intro s h p hserves x
    exact congrArg s.nextMain (Main.command_done hserves rfl)

end Sys2Proof.Machine
end

section
/-! SUPPORT. Operating points, paces, tables and the wear ledger, where their checks pass (R331–R347). -/

namespace Sys2Proof.Machine

variable {m : Main}

/-- While its core runs, what a core does is done (R387). -/
theorem byCore_runs {c : Nat} {f : Main → Main} (hrun : (m.core.get c).runs = true) : byCore c f m = f m := if_pos hrun

/-! ### Moves of a point -/

/-- One move of a die's point to its target (R331). -/
def Main.stepPoint (m : Main) (d : Nat) : Main :=
  m.updDp d (fun x => { x with
    point := if x.point < x.target then x.point + 1 else if x.target < x.point then x.point - 1 else x.point })

theorem Main.pointMove_steps {d : Nat} (hnext : ((m.stepPoint d).dpAt d).paceNext = none) : m.pointMove d = m.stepPoint d := by
  unfold Main.stepPoint at *
  simp only [Main.pointMove, hnext]

/-- A pace raise that waited goes ahead once the point is there (R344). -/
theorem Main.pointMove_raises {d : Nat} {n : Byte} (hnext : ((m.stepPoint d).dpAt d).paceNext = some n) :
    m.pointMove d = if (m.stepPoint d).pacePoint d n.toNat ≤ ((m.stepPoint d).dpAt d).point.toNat
      then (m.stepPoint d).updDp d (fun x => { x with paceF := n, paceNext := none }) else m.stepPoint d := by
  unfold Main.stepPoint at *
  simp only [Main.pointMove, hnext]

/-! ### The beat monitor -/

theorem Main.monitorCheck_measures {d r rate : Nat} (hparked : (m.dieAt d).parked.getLsbD r = false)
    (hlive : m.liveTiles d (some r) ≠ []) :
    let x := m.dpAt d
    let floor := rateAt (minTable (m.liveTiles d (some r)) x.point.toNat) (x.regionTemp r)
    let hour := m.sec / 3600 + 1
    let m1 := m.updDp d (fun x => { x with monitor := x.monitor.put r rate, hour4505 := x.hour4505.put r hour })
    m.monitorCheck d r rate =
      if floor * 95 ≤ (rate : Int) * 100 * 1000000000 then m
      else if x.hour4505.get r = hour then m1
      else m1.log! { code := 0x4505, cls := .adv, die := some d, par := p1 d ++ p1 r } := by
  simp only [Main.monitorCheck, hparked, hlive, decide_false, Bool.false_or, decide_eq_true_eq]

/-! ### The commands -/

section Commands

variable {h : Hdr} {p : Payload}

theorem Main.setPref_sets (howns : m.ownsDies h.src (p.extractLsb' 0 4) = true)
    (hpoints : ∀ i < 6, bvAt p (2 + i) 1 ≤ 6 ∨ bvAt p (2 + i) 1 = 0xFF) (hdwell : bvAt p 8 2 ≤ 1000) :
    Main.setPref h p m = ok ((diesOf (p.extractLsb' 0 4)).foldl (fun (m : Main) d => m.updDp d (fun y => { y with
      pref := (List.range 6).foldl (fun t i => if bvAt p (2 + i) 1 = 0xFF then t else t.put i (BitVec.ofNat 3 (bvAt p (2 + i) 1))) y.pref
      dwell := if bvAt p 8 2 = 0 then y.dwell else bvAt p 8 2 })) m) [] := by
  have hrange : (List.range 6).any (fun i => 6 < bvAt p (2 + i) 1 && bvAt p (2 + i) 1 != 0xFF) = false := by
    rw [List.any_eq_false]
    intro i hi
    rcases hpoints i (List.mem_range.1 hi) with hpt | hpt
    · simp [Nat.not_lt.2 hpt]
    · simp [hpt]
  simp only [Main.setPref, howns, hrange, Nat.not_lt.2 hdwell, decide_false, Bool.not_true, Bool.or_self, Bool.false_eq_true, if_false]

/-- A table is answered as its seven rates and its seven coefficients (R333). -/
def tableFields (f : Nat → Nat × Nat) : List (Nat × Nat × Nat) :=
  (List.range 7).map (fun k => (2 + 2 * k, 2, (f k).1)) ++ (List.range 7).map (fun k => (16 + 2 * k, 2, (f k).2))

theorem Main.readChar_tile (hsel : bvAt p 2 1 = 0) (hid : tileIdOk (bvAt p 0 2) = true)
    (hkept : (m.tileAt (bvAt p 0 2)).retired = false) : Main.readChar p m = ok m (tableFields (minTable [bvAt p 0 2])) := by
  simp only [Main.readChar, tableFields, hsel, hid, hkept, Bool.not_true, Bool.or_self, Bool.false_eq_true, gt_iff_lt, Nat.not_lt_zero,
    if_true, if_false]

theorem Main.readChar_die (hsel : bvAt p 2 1 = 1) (hid : bvAt p 0 2 < 2048) (hwhole : bvAt p 0 2 % 512 = 0) :
    Main.readChar p m = ok m (tableFields (minTable (m.liveTiles (bvAt p 0 2 / 512)))) := by
  simp only [Main.readChar, tableFields, hsel, hwhole, ge_iff_le, Nat.not_le.2 hid, gt_iff_lt, Nat.lt_irrefl, Nat.one_ne_zero,
    decide_false, bne_self_eq_false, Bool.or_self, Bool.false_eq_true, if_false]

theorem Main.readWear_reads (hdie : bvAt p 0 1 ≤ 3) :
    let x := m.dpAt (bvAt p 0 1)
    Main.readWear p m = ok m [(0, 4, x.opMs / 1000), (4, 4, x.boostMs / 1000), (8, 4, ((x.balance / 1000) % 2 ^ 32).toNat),
      (12, 1, x.wcap.toNat)] := if_neg (Nat.not_lt.2 hdie)

theorem Main.paceBad_none {d pace : Nat} {en : Bool}
    (hpace : en = true → 80 ≤ pace ∧ pace ≤ 184 ∧ m.pacePoint d pace ≤ m.paceTop d) :
    m.paceBad d en pace = 0 := by
  cases en with
  | false => rfl
  | true =>
    obtain ⟨hlow, hhigh, hpoint⟩ := hpace rfl
    simp [Main.paceBad, Nat.not_lt.2 hlow, Nat.not_lt.2 hhigh, Nat.not_lt.2 hpoint]

theorem Main.setPace_sets (hdie : bvAt p 0 1 ≤ 3) (howns : m.owns h.src (m.variant.diePart (bvAt p 0 1)) = true)
    (hpace : p.getLsbD 64 = true → 80 ≤ bvAt p 9 1 ∧ bvAt p 9 1 ≤ 184 ∧
      m.pacePoint (bvAt p 0 1) (bvAt p 9 1) ≤ m.paceTop (bvAt p 0 1)) :
    Main.setPace h p m = ok (m.paceApply (bvAt p 0 1) (p.getLsbD 64) (BitVec.ofNat 8 (bvAt p 9 1))) [] := by
  simp only [Main.setPace, gt_iff_lt, Nat.not_lt.2 hdie, howns, Main.paceBad_none hpace, Bool.not_true, bne_self_eq_false,
    Bool.false_eq_true, if_false]

end Commands

/-! ### The control register -/

/-- REJ of the beat and pace block is cleared where 1 is written (R346). -/
def Main.paceRejCleared (m : Main) (v : U64) : Main := if v.getLsbD 2 then m.updBctl (fun b => { b with rej := false }) else m

theorem Main.beatCtl_commit {v : U64} (hsnap : v.getLsbD 3 = false) : m.beatCtl (v ||| 1) = (m.paceRejCleared v).paceCommit := by
  simp [Main.beatCtl, Main.paceRejCleared, hsnap, -BitVec.getLsbD_eq_getElem]

theorem Main.beatCtl_snapshot {v : U64} (hcommit : v.getLsbD 0 = false) (hrej : v.getLsbD 2 = false) :
    m.beatCtl (v ||| 8) = m.beatSnap := by
  simp [Main.beatCtl, hcommit, hrej, -BitVec.getLsbD_eq_getElem]

theorem Main.paceCommit_applies (hgood : m.paceFirst = none) :
    m.paceCommit = (List.range 4).foldl (fun m d => m.paceApply d (m.dpAt d).stEn (m.dpAt d).stPace)
      (m.updBctl (fun b => { b with rej := false, gen := b.gen + 1 })) := by
  simp only [Main.paceCommit, hgood]

theorem Main.paceCommit_rejects {d r : Nat} (hbad : m.paceFirst = some (d, r)) :
    m.paceCommit = (m.updBctl (fun b => { b with rej := true, who := BitVec.ofNat 4 d, rsn := BitVec.ofNat 8 r })).log!
      { code := 0x4502, cls := .rec_, die := some d, par := p1 d ++ p1 r } := by
  simp only [Main.paceCommit, hbad]

/-! ### The wear ledger -/

/-- One millisecond of a ledger caps the die at a spent balance and uncaps it at 60 s (R338, R339). -/
theorem Main.wearTick_eq (m : Main) (d : Nat) (boost : Bool) :
    let m1 := m.updDp d (fun x => { x with opMs := x.opMs + 1, boostMs := if boost then x.boostMs + 1 else x.boostMs })
    let x := m1.dpAt d
    m.wearTick d boost = if x.wcap = false ∧ x.balance ≤ 0 then
        (m1.updDp d (fun x => { x with wcap := true })).log! { code := 0x4601, cls := .rec_, die := some d, par := p1 d }
      else if x.wcap = true ∧ 60000 ≤ x.balance then
        (m1.updDp d (fun x => { x with wcap := false })).log! { code := 0x4602, cls := .rec_, die := some d, par := p1 d }
      else m1 := by
  simp only [Main.wearTick, Bool.and_eq_true, Bool.not_eq_true', decide_eq_true_eq]

end Sys2Proof.Machine
end

section
/-! Operating points, paces and the wear ledger. -/

namespace Sys2Proof.Machine

/-- Settles O28: each row, in the conditions of its clause, runs the operation that the lemmas above describe. -/
theorem beatCommandsComplete : Obligations.BeatCommandsComplete := by
  refine ⟨?move, ?core, ?monitor, ?pref, ?tile, ?die, ?ledger, ?pace, ?commit, ?snapshot, ?tick, Main.wearTick_eq, fun s => rfl⟩
  case move =>
    intro s d m1
    exact ⟨fun hnext => congrArg s.nextMain (Main.pointMove_steps hnext),
      fun n hnext => congrArg s.nextMain (Main.pointMove_raises hnext)⟩
  case core =>
    exact fun s d hrun => ⟨congrArg s.nextMain (byCore_runs hrun), congrArg s.nextMain (byCore_runs hrun)⟩
  case monitor =>
    intro s d r rate x floor hour m1 hparked hlive
    exact congrArg s.nextMain (Main.monitorCheck_measures hparked hlive)
  case pref =>
    intro s h p hserves x howns hpoints hdwell
    exact congrArg s.nextMain (Main.command_done hserves (Main.setPref_sets howns hpoints hdwell))
  case tile =>
    intro s h p hserves x hid
    obtain ⟨hsel, hid, hkept⟩ := hid
    exact congrArg s.nextMain (Main.command_done hserves (Main.readChar_tile hsel hid hkept))
  case die =>
    intro s h p hserves x hid
    obtain ⟨hsel, hid, hwhole⟩ := hid
    exact congrArg s.nextMain (Main.command_done hserves (Main.readChar_die hsel hid hwhole))
  case ledger =>
    intro s h p hserves x hdie
    exact congrArg s.nextMain (Main.command_done hserves (Main.readWear_reads hdie))
  case pace =>
    intro s h p hserves x hdie howns hpace
    exact congrArg s.nextMain (Main.command_done hserves (Main.setPace_sets hdie howns hpace))
  case commit =>
    intro s v hsnap m0
    exact ⟨fun hgood => congrArg s.nextMain ((Main.beatCtl_commit hsnap).trans (Main.paceCommit_applies hgood)),
      fun d r hbad => congrArg s.nextMain ((Main.beatCtl_commit hsnap).trans (Main.paceCommit_rejects hbad))⟩
  case snapshot =>
    exact fun s v hcommit hrej => congrArg s.nextMain (Main.beatCtl_snapshot hcommit hrej)
  case tick =>
    exact fun s boost hrails => congrArg s.nextMain (if_pos hrails)

end Sys2Proof.Machine
end

section
/-! SUPPORT. The power loops, where the conditions of each hold (R349–R359). -/

namespace Sys2Proof.Machine

variable {m : Main}

/-! ### The fallback timer -/

/-- The timer ends a disagreement, for the fallback or for agreement, and a fallback without further disagreement (R355). -/
theorem Main.fallbackTimer_ends (hends : m.pow.x = .disagree ∨ m.pow.xBad = false ∧ m.pow.x = .fallback) :
    m.fallbackTimer = if m.pow.xBad then m.enterX .fallback 0x4103
      else if m.pow.x = .fallback then m.enterX .agree 0x4104 else m.enterX .agree 0 := by
  obtain hx | ⟨hbad, hx⟩ := hends
  · cases hbad : m.pow.xBad <;> simp [Main.fallbackTimer, hx, hbad]
  · simp [Main.fallbackTimer, hx, hbad]

/-! ### Refit and selection -/

/-- The fitted weights of a refit, within their bounds (R355). -/
def Power.refitted (w : Power) (l : List Nat) : Table Nat :=
  (List.range 14).foldl (fun (t : Table Nat) i =>
    match l[i]? with
    | some v => t.put (i + 1) (refitWeight (Config.fusedWeight (i + 1)) (w.rowWeight (i + 1)) v)
    | none => t) w.weight

theorem Main.refitDone_ends {l : List Nat} (hheld : m.mir.lost = false) (hrefit : m.pow.refit = true ∨ m.pow.x = .fallback) :
    m.refitDone l = (m.updPow (fun w => { w with refit := false, weight := w.refitted l })).log! { code := 0x4102, cls := .rec_ } := by
  have hends : ¬ ((m.mir.lost || !(m.pow.refit || decide (m.pow.x = .fallback))) = true) := by
    rcases hrefit with h | h <;> simp [hheld, h]
  exact if_neg hends

/-- Points are selected while core 2 runs (R335, R387). -/
theorem Main.selection_eq (m : Main) (proj : List (List Nat)) :
    m.selection proj = if ((m.elecRise proj).core.get 2).runs = true
      then (List.range 4).foldl (fun m d => (m.capStep proj d).selectDie d) (m.elecRise proj) else m.elecRise proj := by
  cases hrun : ((m.elecRise proj).core.get 2).runs <;> simp [Main.selection, hrun]

/-! ### Parking -/

/-- A tick parks or unparks the next region of the order whose state is the other one (R352, R357). -/
theorem Main.parkTick_next {unpark : Bool} (hfire : unpark = false → ∀ d < 4, (m.dpAt d).fire = 1) :
    m.parkTick unpark =
      match (if unpark then parkOrder.reverse else parkOrder).find? (fun e => (m.dpAt e.1).parkCap.getLsbD e.2 == unpark) with
      | none => m
      | some e =>
        let m1 := m.parkOne e (!unpark)
        if unpark = false ∧ m1.capParked = 32 then m1.log! { code := 0x4203, cls := .rec_, par := p2 m1.floorDraw } else m1 := by
  cases unpark with
  | true =>
    simp only [Main.parkTick, if_true, beq_true, Bool.not_true, Bool.true_eq_false, false_and, if_false]
    split <;> split <;> simp_all
  | false =>
    have hall : (List.range 4).all (fun d => decide ((m.dpAt d).fire = 1)) = true := by
      rw [List.all_eq_true]
      exact fun d hd => decide_eq_true (hfire rfl d (List.mem_range.1 hd))
    simp only [Main.parkTick, hall, beq_false, Bool.not_true, Bool.not_false, Bool.false_eq_true, if_false, true_and]
    split <;> split <;> simp_all

end Sys2Proof.Machine
end

section
/-! The power loops. -/

namespace Sys2Proof.Machine

/-- Settles O29: each row, on a state where core 1 runs, is its operation, which the lemmas above describe. -/
theorem powerLoopsComplete : Obligations.PowerLoopsComplete := by
  refine ⟨?fast, ?crossCheck, ?timer, ?refit, ?selection, ?park, ?limits⟩
  case fast =>
    exact fun s a hrun => congrArg s.nextMain (byCore_runs hrun)
  case crossCheck =>
    exact fun s meas mean hrun => congrArg s.nextMain (byCore_runs hrun)
  case timer =>
    exact fun s hrun hends => congrArg s.nextMain ((byCore_runs hrun).trans (Main.fallbackTimer_ends hends))
  case refit =>
    intro s w hrun hheld hrefit t m1
    exact congrArg s.nextMain ((byCore_runs hrun).trans (Main.refitDone_ends hheld hrefit))
  case selection =>
    intro s proj hrun m1
    exact congrArg s.nextMain ((byCore_runs hrun).trans (s.main.selection_eq proj))
  case park =>
    intro s unpark hrun hfire hit
    exact congrArg s.nextMain ((byCore_runs hrun).trans (Main.parkTick_next hfire))
  case limits =>
    exact fun s proj => ⟨rfl, fun hboost => congrArg s.nextMain (if_neg (by simp [hboost]))⟩

end Sys2Proof.Machine
end

section
/-! SUPPORT. The Flywheel, the power block's control register and the power commands, where their conditions hold (R356–R370). -/

namespace Sys2Proof.Machine

variable {m : Main}

/-- While its core is stopped, what a core does goes undone (R387). -/
theorem byCore_stopped {c : Nat} {f : Main → Main} (hstopped : (m.core.get c).runs = false) : byCore c f m = m :=
  if_neg (by simp [hstopped])

/-! ### The Flywheel -/

theorem Main.flywheel_off (a1 aw : Nat) (full : Bool) (hoff : m.pow.fly.en = false) :
    m.flywheel a1 aw full = (List.range 4).foldl (fun m d => m.updDp d (fun x => { x with ballast := 0, floor := 0 }))
      (m.updPow (fun w => { w with dlow := 0, dhigh := 0, ramp := .none, lowFor := 0 })) :=
  if_pos (by simp [hoff])

/-- The bounds, the count and the report of a period with the Flywheel on, before ballast and floor points move (R366, R367). -/
def Main.flyCounted (m : Main) (a1 aw : Nat) : Main :=
  let b := m.bounds a1 aw
  let draw := m.pow.capping m.pow.est
  let low := if draw < b.1 then m.pow.lowFor + 100 else 0
  let report : Bool := 10000 ≤ low && m.pow.sec4403 != m.sec + 1
  let ends : Bool := (m.pow.ramp = .start && 100000 * m.pow.fly.start.toNat ≤ m.pow.rampFor) ||
    (m.pow.ramp = .stop && 100000 * m.pow.fly.stop.toNat ≤ m.pow.rampFor)
  let m1 := m.updPow (fun w => { w with dlow := b.1, dhigh := b.2, ramp := if ends then .none else w.ramp, lowFor := low,
                                        sec4403 := if report then m.sec + 1 else w.sec4403 })
  let m2 := if report then m1.log! { code := 0x4403, cls := .adv } else m1
  if m2.pow.fly.bal then m2 else (List.range 4).foldl (fun m d => m.updDp d (fun x => { x with ballast := 0 })) m2

/-- What a period then moves: ballast up, floor points up, or ballast and then floor points down (R366). -/
theorem Main.flywheel_on (a1 aw : Nat) (full : Bool) (hon : m.pow.fly.en = true) :
    let b := m.bounds a1 aw
    let draw := m.pow.capping m.pow.est
    let m3 := m.flyCounted a1 aw
    m.flywheel a1 aw full =
      if (decide (draw < b.1) && m3.pow.fly.bal && decide (draw < m3.capNow) && m3.ballastDies != [] && !full) = true then
        m3.ballastDies.foldl (fun m d => m.updDp d (fun x => { x with ballast := x.ballast + 1 })) m3
      else if draw < b.1 ∧ full = true then
        ((List.range 4).filter (fun d => (m3.dieAt d).phase = 5 || (m3.dieAt d).phase = 4)).foldl
          (fun m d => m.updDp d (fun x => { x with floor := if x.floor < 3 then x.floor + 1 else x.floor })) m3
      else if b.1 < draw then
        if (List.range 4).any (fun d => (m3.dpAt d).ballast != 0) then
          (List.range 4).foldl (fun m d => m.updDp d (fun x => { x with ballast := if x.ballast = 0 then 0 else x.ballast - 1 })) m3
        else (List.range 4).foldl (fun m d => m.updDp d (fun x => { x with floor := if x.floor = 0 then 0 else x.floor - 1 })) m3
      else m3 := by
  refine (if_neg (by simp [hon])).trans ?_
  unfold Main.flyCounted
  obtain ⟨lo, hi⟩ := m.bounds a1 aw
  have hcount : (if decide (m.pow.capping m.pow.est < lo) = true then m.pow.lowFor + 100 else 0) =
      if m.pow.capping m.pow.est < lo then m.pow.lowFor + 100 else 0 := by simp only [decide_eq_true_eq]
  dsimp only
  rw [hcount]
  exact if_congr Iff.rfl rfl (if_congr (by simp) rfl rfl)

theorem Main.bounds_outsideRamp (a1 aw : Nat) (hramp : m.pow.ramp = .none) :
    let r := 10000 * m.pow.fly.ramp.toNat
    m.bounds a1 aw = (max (a1 - r) (m.pow.fly.floor.toNat * aw / 100), a1 + r) := by
  simp only [Main.bounds, hramp]

/-- The stop ramp begins where the Flywheel is on and no stop ramp runs (R367). -/
theorem Main.stopRamp_idle (m : Main) :
    (if m.allIdle && m.jobs != [] then m.stopRamp else m) =
      if m.allIdle = true ∧ m.jobs ≠ [] ∧ m.pow.fly.en = true ∧ m.pow.ramp ≠ .stop then
        (m.updPow (fun w => { w with ramp := .stop, rampDraw := w.capping w.est, rampFor := 0 })).log! { code := 0x4402, cls := .rec_ }
      else m := by
  by_cases hidle : m.allIdle = true ∧ m.jobs ≠ []
  · have hstart : (m.allIdle && m.jobs != []) = true := by simpa using hidle
    rw [if_pos hstart]
    by_cases hramp : m.pow.fly.en = true ∧ m.pow.ramp ≠ .stop
    · rw [if_pos ⟨hidle.1, hidle.2, hramp⟩]
      exact if_neg (by simp [hramp])
    · rw [if_neg fun hall => hramp hall.2.2]
      exact if_pos (by simpa [Decidable.imp_iff_not_or] using hramp)
  · rw [if_neg (by simpa using hidle), if_neg fun hall => hidle ⟨hall.1, hall.2.1⟩]

/-! ### The control register -/

/-- REJ of the power block is cleared where 1 is written (R368). -/
def Main.powRejCleared (m : Main) (v : U64) : Main :=
  if v.getLsbD 2 then m.updPow (fun w => { w with ctl := { w.ctl with rej := false } }) else m

theorem Main.powCommit_eq (m : Main) :
    m.powCommit = if m.powBad ≠ 0 then m.updPow (fun w => { w with ctl := { w.ctl with rej := true, rsn := BitVec.ofNat 8 m.powBad } })
      else (List.range 4).foldl (fun m d => m.updDp d (fun x => { x with cap := x.stCap }))
        (m.updPow (fun w => { w with
          fly := w.stFly, host := w.stHost, board := w.stBoard, ctl := { w.ctl with rej := false, gen := w.ctl.gen + 1 } })) :=
  if_congr bne_iff_ne rfl rfl

theorem Main.powCtl_commit (m : Main) (v : U64) :
    m.powCtl (v ||| 1) = if v.getLsbD 3 then (m.powRejCleared v).powCommit.powSnap else (m.powRejCleared v).powCommit := by
  simp only [Main.powCtl, Main.powRejCleared, BitVec.getLsbD_or, BitVec.reduceGetLsb, Bool.or_false, Bool.or_true, if_true]

theorem Main.powCtl_snapshot (m : Main) (v : U64) :
    m.powCtl (v ||| 8) = (if v.getLsbD 0 then (m.powRejCleared v).powCommit else m.powRejCleared v).powSnap := by
  simp only [Main.powCtl, Main.powRejCleared, BitVec.getLsbD_or, BitVec.reduceGetLsb, Bool.or_false, Bool.or_true, if_true]

/-! ### The commands -/

/-- The limits of one master in force and staged: the board's from the side-band, else the host's with its die caps (R356, R370). -/
def Main.withLimits (m : Main) (h : Hdr) (cap : Nat) (boost : Bool) (dc : Nat → Nat) : Main :=
  let c : CapCfg := { cap := some (BitVec.ofNat 12 cap), boost := boost }
  let b := m.updPow (fun w => { w with stBoard := c, board := c })
  if Src.isSide h.src then (if (m.capOf m.pow.board != cap || m.pow.board.boost != boost) = true then b.setCause 6 else b)
  else (List.range 4).foldl
    (fun (m : Main) d => m.updDp d (fun z => { z with stCap := BitVec.ofNat 12 (dc d), cap := BitVec.ofNat 12 (dc d) }))
    (m.updPow (fun w => { w with stHost := c, host := c }))

/-- Limits in range are set; the side-band gives no die caps (R356, R358, R370). -/
theorem Main.setLimits_sets {h : Hdr} {p : Payload} (hcap : m.capFits (bvAt p 0 2) = true)
    (hdies : ∀ d < 4, dieCapFits (bvAt p (4 + 2 * d) 2) = true)
    (hside : Src.isSide h.src = true → ∀ d < 4, bvAt p (4 + 2 * d) 2 = 0) :
    Main.setLimits h p m =
      (m.withLimits h (bvAt p 0 2) (p.getLsbD 16) (fun d => bvAt p (4 + 2 * d) 2)).capReply (bvAt p 0 2) := by
  have hfits : (!(m.capFits (bvAt p 0 2)) || (List.range 4).any (fun d => !(dieCapFits (bvAt p (4 + 2 * d) 2)))) = false := by
    simpa [hcap] using hdies
  have hnone : (Src.isSide h.src && (List.range 4).any (fun d => bvAt p (4 + 2 * d) 2 != 0)) = false := by
    cases hs : Src.isSide h.src with
    | false => rfl
    | true => simpa using hside hs
  unfold Main.withLimits
  cases hs : Src.isSide h.src with
  | false => simp only [Main.setLimits, hfits, hs, Bool.false_and, Bool.false_eq_true, if_false]
  | true =>
    rw [hs] at hnone
    simp only [Main.setLimits, hfits, hs, hnone, Bool.false_eq_true, if_false, if_true]

theorem Main.setFly_sets {p : Payload} (hfits : (FlyCfg.of (p.extractLsb' 64 64)).fits = true) (hquiet : m.scrubbing = false) :
    Main.setFly p m =
      ok (m.updPow (fun w => { w with stFly := FlyCfg.of (p.extractLsb' 64 64), fly := FlyCfg.of (p.extractLsb' 64 64) })) [] := by
  simp only [Main.setFly, hfits, hquiet, Bool.not_true, Bool.false_eq_true, if_false]

end Sys2Proof.Machine
end

section
/-! The Flywheel, the power block and the power commands. -/

namespace Sys2Proof.Machine

/-- Settles O30: each row, in the conditions of its clause, runs the operation that the lemmas above describe. -/
theorem flywheelAndLimitsComplete : Obligations.FlywheelAndLimitsComplete := by
  refine ⟨?off, ?on, ?bounds, ?offset, ?stopRamp, ?stopped, ?control, ?limits, ?status, ?flywheel⟩
  case off =>
    exact fun s a1 aw full hrun hoff => congrArg s.nextMain ((byCore_runs hrun).trans (Main.flywheel_off a1 aw full hoff))
  case on =>
    exact fun s a1 aw full hrun hon => congrArg s.nextMain ((byCore_runs hrun).trans (Main.flywheel_on a1 aw full hon))
  case bounds =>
    exact fun s a1 aw hramp => Main.bounds_outsideRamp a1 aw hramp
  case offset =>
    exact fun s hrun => congrArg s.nextMain ((byCore_runs hrun).trans (if_congr (by simp) rfl rfl))
  case stopRamp =>
    exact fun s hrun => congrArg s.nextMain ((byCore_runs hrun).trans s.main.stopRamp_idle)
  case stopped =>
    exact fun s hstopped => ⟨fun a1 aw full => congrArg s.nextMain (byCore_stopped hstopped),
      congrArg s.nextMain (byCore_stopped hstopped), congrArg s.nextMain (byCore_stopped hstopped)⟩
  case control =>
    intro s v m0 m1 m2 snap
    have hm1 : (s.main.powRejCleared v).powCommit = m1 := Main.powCommit_eq _
    refine ⟨congrArg s.nextMain ((s.main.powCtl_commit v).trans ?_), congrArg s.nextMain ((s.main.powCtl_snapshot v).trans ?_)⟩
    · rw [hm1]
      rfl
    · rw [hm1]
      rfl
  case limits =>
    intro s h p hserves x cap dc c b y hrange hside
    obtain ⟨hcap, hdies⟩ := hrange
    refine congrArg s.nextMain (Main.command_done hserves ?_)
    rw [Main.setLimits_sets hcap hdies hside]
    exact fillRefused_ok _ _ _
  case status =>
    intro s h p hserves x
    exact congrArg s.nextMain (Main.command_done hserves rfl)
  case flywheel =>
    intro s h p hserves x hfits hquiet
    exact congrArg s.nextMain (Main.command_done hserves (Main.setFly_sets hfits hquiet))

end Sys2Proof.Machine
end

section
/-! SUPPORT. The thermal loops of a die and the thermal status, where their conditions hold (R360–R364, R370). -/

namespace Sys2Proof.Machine

variable {m : Main}

/-- The two directions of a ceiling step (R343, R364). -/
theorem Main.ceilingStep_eq (m : Main) (d : Nat) :
    let x := m.dpAt d
    m.ceilingStep d = if x.throttled = 0 then
        if x.cool then m.updDp d (fun x => { x with
          ceilTherm := if x.ceilTherm < 6 then x.ceilTherm + 1 else x.ceilTherm
          fireTherm := if x.fireTherm < 16 then x.fireTherm + 1 else x.fireTherm })
        else m
      else if x.ceilTherm = 0 then
        m.updDp d (fun x => { x with fireTherm := if x.fireTherm > 1 && x.paceF != 0 then x.fireTherm - 1 else x.fireTherm })
      else (m.updDp d (fun x => { x with
          ceilTherm := x.ceilTherm - 1
          fireTherm := if x.fireTherm > 1 && x.paceF != 0 then x.fireTherm - 1 else x.fireTherm })).log!
        { code := 0x4305, cls := .rec_, die := some d, par := p1 d } := by
  dsimp only
  by_cases hthrottled : (m.dpAt d).throttled = 0
  · rw [if_pos hthrottled]
    exact if_neg (by simp [hthrottled])
  · rw [if_neg hthrottled]
    exact if_pos (bne_iff_ne.2 hthrottled)

theorem Main.thermTrip_trips {d : Nat} (hon : (m.dieAt d).tripped = false) :
    let m1 := (m.log! { code := 0x4307, cls := .flt, die := some d, par := p1 d }).send .thermtrip
    let m2 := ((((m1.tripRun d).drain d).unhold d).dropTails d).forceGone d
    m.thermTrip d = ((m2.updDie d (fun v => { v with tripped := true, staged := [] })).toIdle d).setState .halted :=
  if_neg (by simp [hon])

theorem Main.thermalStatus_reads {p : Payload} (hdie : bvAt p 0 1 ≤ 3) (hsel : bvAt p 1 1 ≤ 2) :
    let y := m.dpAt (bvAt p 0 1)
    let t := if bvAt p 1 1 = 0 then y.reading else if bvAt p 1 1 = 1 then y.model else y.govern
    let trust := ((List.range 24).map (fun n => (if y.diodeRet.getLsbD n then 2 else if y.distrust.getLsbD n then 1 else 0) * 4 ^ n)).sum
    Main.thermalStatus p m = ok m ((List.range 24).map (fun n => (n, 1, degrees (t.get n))) ++ [(24, 6, trust)]) :=
  if_neg (by simp [Nat.not_lt.2 hdie, Nat.not_lt.2 hsel])

end Sys2Proof.Machine
end

section
/-! The thermal loops and the thermal status. -/

namespace Sys2Proof.Machine

/-- Settles O31: loop and plan are their operations where core 2 runs; the rest act in the conditions of their clauses. -/
theorem thermalCommandsComplete : Obligations.ThermalCommandsComplete := by
  refine ⟨?loop, ?plan, ?ceiling, ?park, ?trip, ?status⟩
  case loop =>
    exact fun s d read act hrun => congrArg s.nextMain (byCore_runs hrun)
  case plan =>
    exact fun s d busy hrun => congrArg s.nextMain (byCore_runs hrun)
  case ceiling =>
    exact fun s d hrun => congrArg s.nextMain ((byCore_runs hrun).trans (s.main.ceilingStep_eq d.val))
  case park =>
    exact fun s d r hopen => congrArg s.nextMain (if_neg (by simpa using hopen))
  case trip =>
    exact fun s d hon => congrArg s.nextMain (Main.thermTrip_trips hon)
  case status =>
    intro s h p hserves x y t trust hrange
    obtain ⟨hdie, hsel⟩ := hrange
    exact congrArg s.nextMain (Main.command_done hserves (Main.thermalStatus_reads hdie hsel))

end Sys2Proof.Machine
end

section
/-! SUPPORT. CXL links, snoops, the transactions of port B, the slow-tier map and the host ranges, where their conditions hold
(R306–R313, R327). -/

namespace Sys2Proof.Machine

variable {m : Main}

/-! ### Links -/

theorem Main.linkUp_trains {b x16 : Bool} {mode : LinkMode} (hmode : mode ≠ .down) :
    let par := p1 b.toNat ++ p1 (modeNum mode) ++ p1 (if x16 then 16 else 8)
    let m0 : Main := { m with cxl := m.cxl.upd b (fun c => { c with mode := mode, width := BitVec.ofNat 8 (if x16 then 16 else 8) }) }
    let m1 : Main := if b = false ∧ m0.cxl.a.pcie = true then
      { m0 with region := m0.region.map (fun (r : Nat × Region) => (r.1, r.2.unleased)) } else m0
    let m2 := m1.log! { code := 0x6001, cls := .rec_, par := par }
    m.linkUp b mode x16 = if mode = .cxl31 ∧ x16 = true then m2 else m2.log! { code := 0x6002, cls := .adv, par := par } := by
  simp only [Main.linkUp, hmode, if_false, Bool.and_eq_true, Bool.not_eq_true', decide_eq_true_eq]

theorem Main.linkDown_fails {b : Bool} (hup : (if b then m.cxl.b.mode else m.cxl.a.mode) ≠ .down) :
    let m0 := (m.ideLost b false).ideLost b true
    let m1 := (if b then m0 else (m0.tail.filter (·.started)).foldl Main.tailError m0).cutCopies b
    let m2 : Main := { m1 with cxl := m1.cxl.upd b (fun c => { c with mode := .down, width := 0 }) }
    let m3 := (m2.log! { code := 0x6003, cls := .rec_, par := p1 b.toNat }).failPort b
    m.linkDown b = if b then
      ((List.range m3.variant.stacks).foldl (fun m n => (m.burnAt n).fetch.foldl (fun m f => m.fetchReturn n f.1 true) m) m3).slowAdmit
      else m3 := by
  refine (if_neg hup).trans ?_
  cases b <;> rfl

theorem Main.snoop_answers {op : SnoopOp} {hpa : Nat} (hcxl : m.cxl.a.cxl = true) :
    let offs := m.hostOffs (hpa / 64 * 64)
    let held := m.region.any (fun e =>
      e.2.st != .free && e.2.st != .writing && e.2.st != .stored && offs.any (fun o => overlap o 64 e.2.hoff e.2.len))
    m.snoop op hpa = if op = .inv then (offs.foldl (fun m o => m.tearRange o 64) m).send (.snoop (if held then 2 else 0))
      else m.send (.snoop (if held then 1 else 0)) :=
  if_neg (by simp [hcxl])

/-! ### Transactions on port B -/

section Transactions

variable {id slot : Nat} {r : Req} (hslot : (m.tileAt id).slots.find slot = some r)
include hslot

/-- A transaction that port B carries meets its end, and the next waiting one is taken on (R312). -/
theorem Main.slowEnd_carried (hslow : r.onSlow = true) (hlive : m.slowLive (.tile id slot) = true) (poison fails : Bool) :
    m.slowEnd id slot poison fails =
      ((m.slowReq id r poison fails).1.updTile id (fun t =>
        { t with slots := t.slots.put slot (m.slowReq id r poison fails).2 })).slowAdmit := by
  simp only [Main.slowEnd, hslot, hslow, hlive, Bool.not_true, Bool.or_self, Bool.false_eq_true, if_false]

omit hslot in
theorem Main.slowReq_timesOut (poison : Bool) : m.slowReq id r poison true = (m, r.portError) := by
  simp only [Main.slowReq, Bool.true_or, if_true]

theorem Main.slowEnd_timesOut (hslow : r.onSlow = true) (hlive : m.slowLive (.tile id slot) = true) (poison : Bool) :
    m.slowEnd id slot poison true = (m.updTile id (fun t => { t with slots := t.slots.put slot r.portError })).slowAdmit := by
  rw [Main.slowEnd_carried hslot hslow hlive, Main.slowReq_timesOut]

theorem Main.slowEnd_notCarried (hnot : r.onSlow = false ∨ m.slowLive (.tile id slot) = false) (poison fails : Bool) :
    m.slowEnd id slot poison fails = m := by
  have hskip : (!r.onSlow || !(m.slowLive (.tile id slot))) = true := by simpa using hnot
  simp only [Main.slowEnd, hslot, hskip, if_true]

end Transactions

/-! ### The map, the devices and the host ranges -/

section Commands

variable {h : Hdr} {p : Payload}

/-- The map in force after a table of ranges: under another map what the slow tier holds is undefined (R311; log 89). -/
def Main.withSlowMap (m : Main) (map : List SlowRange) : Main :=
  if map = m.cxl.map then m
  else { m with
    cxl := { m.cxl with map := map }
    mem := { m.mem with slow := m.mem.slow.forget 0 (2 ^ 44) m.mem.stamp, stamp := m.mem.stamp + 1 } }

/-- A map of an operator with no job open, whose table can be read and names legal ranges on listed devices, is set (R311, R327). -/
theorem Main.setSlowMap_sets {m1 : Main} {b : List Byte} {n : Nat} {rs : List (List Byte)} (hn : bvAt p 0 1 = n)
    (hrs : (List.range n).map (fun i => bytesAt b (16 * i) 16) = rs) (hjobs : m.jobs = []) (hop : Src.operator h.src = true)
    (howns : m.ownsRun h (bvAt p 8 8) (16 * n) = true) (hlow : 1 ≤ n) (hhigh : n ≤ 8)
    (hmapped : m.mapped 4 (bvAt p 8 8) (16 * n) = true)
    (hport : m.cxl.b.cxl = true) (hread : m.daGet 4 (bvAt p 8 8) (16 * n) = (m1, some b)) (hlegal : rs.all slowRangeOk = true)
    (hsize : ((rs.map slowRange).map (·.gib)).sum ≤ 16384) (hdevs : ∀ r ∈ rs.map slowRange, ∀ d ∈ r.dev, d < m.cxl.devs.length) :
    Main.setSlowMap h p m =
      ok ((m1.withSlowMap (rs.map slowRange)).log! { code := 0x6101, cls := .rec_, par := p1 1 })
        [(8, 8, (m1.withSlowMap (rs.map slowRange)).slowSize)] := by
  have hlisted : (rs.map slowRange).any (fun r => r.dev.any (fun d => decide (m.cxl.devs.length ≤ d))) = false :=
    List.any_eq_false.2 fun r hr => by simpa using hdevs r hr
  unfold Main.withSlowMap
  simp only [Main.setSlowMap, hn, hrs, hjobs, hop, howns, Nat.one_le_iff_ne_zero.1 hlow, Nat.not_lt.2 hhigh, hmapped, hport, hread, hlegal,
    gt_iff_lt, Nat.not_lt.2 hsize, hlisted, bne_self_eq_false, Bool.not_true, decide_false, Bool.or_self, Bool.false_eq_true, if_false]

theorem Main.slowDevice_answers (hsel : bvAt p 1 1 ≤ 1) (hop : Src.operator h.src = true) (hport : m.cxl.b.cxl = true) :
    let y := if bvAt p 1 1 = 1 then m.enumerate else m
    bvAt p 0 1 < y.cxl.devs.length →
    Main.slowDevice h p m = ok y [(4, 4, y.cxl.devs.getD (bvAt p 0 1) 0), (1, 1, y.cxl.devs.length), (2, 1, modeNum y.cxl.b.mode),
      (3, 1, y.cxl.b.width.toNat), (8, 2, y.slowOutstanding)] := by
  intro y hdev
  have hlisted : ¬ y.cxl.devs.length ≤ bvAt p 0 1 := Nat.not_le.2 hdev
  simp only [y] at hlisted
  simp only [Main.slowDevice, gt_iff_lt, Nat.not_lt.2 hsel, hop, hport, hlisted, Bool.not_true, Bool.false_eq_true, if_false, y]

/-- A host range that overlaps no other is set where no job is open and no copy engine runs (R310, R327). -/
theorem Main.setHostRange_sets (hjobs : m.jobs = []) (hengs : ∀ e ∈ m.eng, e.2.en = false) (hop : Src.operator h.src = true)
    (hk : bvAt p 0 1 ≤ 3) (hbase : bvAt p 8 8 % 4096 = 0) (hsize : bvAt p 16 8 % 4096 = 0) (hend : bvAt p 8 8 + bvAt p 16 8 ≤ 2 ^ 64)
    (htotal : (((List.range 4).filter (· != bvAt p 0 1)).map (fun i => (m.cxl.host.get i).2)).sum + bvAt p 16 8 ≤ 2 ^ 44)
    (hfree : ∀ i ∈ (List.range 4).filter (· != bvAt p 0 1),
      overlap (bvAt p 8 8) (bvAt p 16 8) (m.cxl.host.get i).1 (m.cxl.host.get i).2 = false) :
    let m1 : Main := { m with cxl := { m.cxl with
      host := if bvAt p 16 8 = 0 then m.cxl.host.del (bvAt p 0 1) else m.cxl.host.put (bvAt p 0 1) (bvAt p 8 8, bvAt p 16 8) } }
    Main.setHostRange h p m = ok m1 [(8, 8, m1.hostSize)] := by
  have hstopped : m.eng.any (fun e => e.2.en) = false := by simpa using hengs
  have halone : ((List.range 4).filter (· != bvAt p 0 1)).any (fun i =>
      overlap (bvAt p 8 8) (bvAt p 16 8) (m.cxl.host.get i).1 (m.cxl.host.get i).2) = false :=
    List.any_eq_false.2 fun i hi => by simp [hfree i hi]
  simp only [Main.setHostRange, hjobs, hstopped, hop, gt_iff_lt, Nat.not_lt.2 hk, hbase, hsize, Nat.not_lt.2 hend, Nat.not_lt.2 htotal,
    halone, bne_self_eq_false, Bool.not_true, decide_false, Bool.or_self, Bool.false_eq_true, if_false]

end Commands

end Sys2Proof.Machine
end

section
/-! The CXL links and the slow tier. -/

namespace Sys2Proof.Machine

/-- Settles O26: each row, in the conditions of its clause, runs the operation that the lemmas above describe. -/
theorem cxlAndSlowTierComplete : Obligations.CxlAndSlowTierComplete := by
  refine ⟨?up, ?down, ?snoop, ?carried, ?notCarried, ?map, ?device, ?range⟩
  case up =>
    exact fun s b mode x16 hmode => congrArg s.nextMain (Main.linkUp_trains hmode)
  case down =>
    exact fun s b hup => congrArg s.nextMain (Main.linkDown_fails hup)
  case snoop =>
    exact fun s op hpa hcxl => congrArg s.nextMain (Main.snoop_answers hcxl)
  case carried =>
    intro s t slot r hslot hslow hlive
    exact ⟨fun poison => congrArg s.nextMain (Main.slowEnd_carried hslot hslow hlive poison false),
      congrArg s.nextMain (Main.slowEnd_timesOut hslot hslow hlive false)⟩
  case notCarried =>
    exact fun s t slot r poison hslot hnot => ⟨congrArg s.nextMain (Main.slowEnd_notCarried hslot hnot poison false),
      congrArg s.nextMain (Main.slowEnd_notCarried hslot hnot false true)⟩
  case map =>
    intro s h p m1 b hserves x n rs map m2 hjobs hmine hplace hport hread hlegal hdevs
    obtain ⟨hop, howns⟩ := hmine
    obtain ⟨hlow, hhigh, hmapped⟩ := hplace
    obtain ⟨hranges, hsize⟩ := hlegal
    refine congrArg s.nextMain (Main.command_done hserves ?_)
    rw [Main.setSlowMap_sets rfl rfl hjobs hop howns hlow hhigh hmapped hport hread hranges hsize hdevs]
    exact fillRefused_ok _ _ _
  case device =>
    intro s h p hserves x y hsel hop hport hdev
    exact congrArg s.nextMain (Main.command_done hserves (Main.slowDevice_answers hsel hop hport hdev))
  case range =>
    intro s h p hserves x k base size others m1 hquiet hop hform htotal hfree
    obtain ⟨hjobs, hengs⟩ := hquiet
    obtain ⟨hk, hbase, hsize, hend⟩ := hform
    refine congrArg s.nextMain (Main.command_done hserves ?_)
    rw [Main.setHostRange_sets hjobs hengs hop hk hbase hsize hend htotal hfree]
    exact fillRefused_ok _ _ _

end Sys2Proof.Machine
end

section
/-! SUPPORT. The Tailstock's area, records and fetches and the copy engines, where their conditions hold (R315–R327). -/

namespace Sys2Proof.Machine

variable {m : Main}

/-! ### The area and the status -/

section Commands

variable {h : Hdr} {p : Payload} {j : Job} (hjob : m.job? (bvAt p 0 4) = some j)
include hjob

/-- The memory stacks without the Tailstock area of a job (R319). -/
def Main.withoutArea (m : Main) (jid : Nat) : Main :=
  { m with hbm := m.hbm.map (fun (z : Nat × Stack) => (z.1, { z.2 with region := z.2.region.del (256 + jid) })) }

/-- An area in owned, mapped and free memory is set (R319, R327). -/
theorem Main.setTailArea_sets (howns : m.ownsJob h.src (bvAt p 0 4) = true) (hrun : m.ownsRun h (bvAt p 8 8) (2 ^ 28) = true)
    (halign : bvAt p 8 8 % 0x200000 = 0) (hend : bvAt p 8 8 + 2 ^ 28 ≤ 2 ^ 41)
    (hmapped : m.mapped (m.jobPart j) (bvAt p 8 8) (2 ^ 28) = true)
    (hfree : (m.withoutArea (bvAt p 0 4)).freeRun none (bvAt p 8 8) (2 ^ 28) = true) :
    Main.setTailArea h p m = ok ((((m.withoutArea (bvAt p 0 4)).updHbm (bvAt p 8 8 / 2 ^ 37) (fun z =>
        { z with region := z.region.put (256 + bvAt p 0 4) (bvAt p 8 8 % 2 ^ 37, 2 ^ 28) })).forgetRun (bvAt p 8 8) (2 ^ 28)).updJob
      (bvAt p 0 4) (fun j => { j with area := some (BitVec.ofNat 56 (bvAt p 8 8)) })) [] := by
  unfold Main.withoutArea at *
  simp only [Main.setTailArea, hjob, howns, hrun, halign, gt_iff_lt, Nat.not_lt.2 hend, hmapped, hfree, bne_self_eq_false, Bool.not_true,
    decide_false, Bool.or_self, Bool.false_eq_true, if_false]

theorem Main.tailStatus_reads :
    Main.tailStatus p m = ok m
      [(2, 2, (m.region.filter (fun e => (diesOf j.dies).contains (e.1 / 1024) && decide (e.2.st = .leased))).length),
       (4, 2, (m.region.filter (fun e => (diesOf j.dies).contains (e.1 / 1024) && decide (e.2.st = .torn))).length),
       (6, 2, (m.tail.filter (fun t => decide (t.job.toNat = bvAt p 0 4) && t.started)).length),
       (8, 4, j.refetches.toNat), (12, 4, j.tears.toNat), (16, 4, j.dropped.toNat)] := by
  simp only [Main.tailStatus, hjob]

end Commands

/-! ### Records -/

/-- The first record that may start does so while fewer than sixteen run (R315). -/
theorem Main.tailStart_begins {i : Nat} {t : TailRun} (hroom : (m.tail.filter (·.started)).length < 16) (hmay : m.tailMay i = true)
    (hfirst : ∀ k < i, m.tailMay k = false) (hrec : m.tail[i]? = some t) :
    m.tailStart i = ({ m with tail := m.tail.mapIdx (fun k (t : TailRun) =>
      if k = i then { t with started := true } else t) } : Main).tailBegin { t with started := true } := by
  have hnone : (List.range i).any m.tailMay = false := List.any_eq_false.2 fun k hk => by simp [hfirst k (List.mem_range.1 hk)]
  simp only [Main.tailStart, ge_iff_le, Nat.not_le.2 hroom, hmay, hnone, List.getElem?_mapIdx, hrec, Option.map_some, decide_false,
    Bool.not_true, Bool.or_self, Bool.false_eq_true, if_false, if_true]

section Offload

variable {r : Nat} {t : TailRun} (hrec : m.tailOf r 1 = some t)
include hrec

theorem Main.offloadWritten_fails (hopen : t.written = false) (hwrite : m.offload t = ((m.offload t).1, false)) :
    m.offloadWritten r = (m.offload t).1.tailError t := by
  rw [Main.offloadWritten, hrec]
  dsimp only
  rw [hopen, hwrite]
  rfl

theorem Main.offloadWritten_stores (hopen : t.written = false) (hwrite : m.offload t = ((m.offload t).1, true)) :
    let m1 := (m.offload t).1
    m.offloadWritten r = if m1.cxl.a.pcie then (m1.updRegion r (fun x => { x with st := .stored })).tailDone t true
      else Main.d2h { m1 with tail := m1.tail.map (fun (x : TailRun) =>
        if x.started && x.key = r then { x with written := true } else x) } .rdShared t.rec_.hoff t.rec_.len := by
  rw [Main.offloadWritten, hrec]
  dsimp only
  rw [hopen, hwrite]
  rfl

theorem Main.leaseDone_leases (hwritten : t.written = true) :
    m.leaseDone r = (m.updRegion r (fun x => { x with st := .leased })).tailDone t true := by
  simp only [Main.leaseDone, hrec, hwritten, if_true]

end Offload

section Fetch

variable {r : Nat} {t : TailRun} (hrec : m.tailOf r 2 = some t)
include hrec

section Whole

variable (hwhole : (m.regionAt r).tornNow = false) {m1 : Main}
variable (hm1 : m.d2h (if (m.regionAt r).st = .refetching then .rdShared else .rdCurr) (m.regionAt r).hoff (m.regionAt r).len = m1)
include hwhole hm1

theorem Main.fetchDone_refused (hbad : m1.fetchOk t = false) : m.fetchDone r = m1.tailError t := by
  subst hm1
  simp only [Main.fetchDone, hrec, hwhole, hbad, Bool.and_false, Bool.not_false, Bool.false_eq_true, if_false, if_true]

variable (hgood : m1.fetchOk t = true) {j : Job} (hjob : m1.job? t.job.toNat = some j)
include hgood hjob

theorem Main.fetchDone_writes {l : List Byte} (hblocks : m1.fetchBlocks t j = some l) :
    let done : RegionSt := if m1.cxl.a.pcie then .stored else .leased
    let m2 := (m1.daPut (m1.diePartOf t.die) t.rec_.da.toNat l).1.updRegion r (fun x => { x with st := done })
    m.fetchDone r = (if t.rec_.release then m2.freeRegion r else m2).tailDone t true := by
  subst hm1
  simp only [Main.fetchDone, hrec, hwhole, hgood, hjob, hblocks, Option.bind_some, Bool.and_false, Bool.not_true, Bool.false_eq_true,
    if_false]

theorem Main.fetchDone_faults (hblocks : m1.fetchBlocks t j = none) :
    let done : RegionSt := if m1.cxl.a.pcie then .stored else .leased
    m.fetchDone r = ((m1.updRegion r (fun x => { x with st := done })).tailDone t false).tailFault t 0x6202 := by
  subst hm1
  simp only [Main.fetchDone, hrec, hwhole, hgood, hjob, hblocks, Option.bind_some, Bool.and_false, Bool.not_true, Bool.false_eq_true,
    if_false]

end Whole

variable (htorn : (m.regionAt r).tornNow = true)
include htorn

/-- A second tear (R321). -/
theorem Main.fetchDone_tornAgain (hagain : (m.regionAt r).st = .refetching) :
    m.fetchDone r = (((m.d2h .rdShared (m.regionAt r).hoff (m.regionAt r).len).updRegion r (fun x =>
      { x with st := .torn, tornNow := false })).tailDone t false).tailFault t 0x6201 := by
  simp only [Main.fetchDone, hrec, hagain, htorn, decide_true, Bool.and_self, if_true]

/-- A first tear is fetched again (R321). -/
theorem Main.fetchDone_refetches (hfirst : (m.regionAt r).st ≠ .refetching) :
    let m1 := ((m.d2h .rdCurr (m.regionAt r).hoff (m.regionAt r).len).updRegion r (fun x =>
      { x with st := .refetching, tornNow := false })).updJob t.job.toNat (fun j => { j with refetches := j.refetches + 1 })
    m.fetchDone r = m1.logOnce t.job.toNat 0
      { code := 0x6203, cls := .adv, par := p4 t.job.toNat ++ p4 (((m1.job? t.job.toNat).map (·.refetches.toNat)).getD 0) } := by
  simp only [Main.fetchDone, hrec, hfirst, htorn, decide_false, Bool.false_and, Bool.false_eq_true, if_false, if_true]

end Fetch

/-! ### Copy engines -/

/-- REJ of the copy-engine block is cleared where 1 is written (R325). -/
def Main.copyRejCleared (m : Main) (v : U64) : Main := if v.getLsbD 1 then { m with ectl := { m.ectl with rej := false } } else m

theorem Main.copyCtl_commit (m : Main) (v : U64) : m.copyCtl (v ||| 1) = (m.copyRejCleared v).copyCommit := by
  simp only [Main.copyCtl, Main.copyRejCleared, BitVec.getLsbD_or, BitVec.reduceGetLsb, Bool.or_false, Bool.or_true, if_true]

theorem Main.copyCommit_rejects {e : Nat} (hbad : (List.range 8).find? m.engBad = some e) :
    m.copyCommit = { m with ectl := { m.ectl with rej := true, who := BitVec.ofNat 4 e } } := by
  simp only [Main.copyCommit, hbad]

theorem Main.copyCommit_applies (hgood : (List.range 8).find? m.engBad = none) :
    let m1 := (List.range 8).foldl (fun m e => m.updEng e Engine.commit) m
    m.copyCommit = (List.range 8).foldl (fun m e => m.copyPump e 4)
      { m1 with ectl := { m1.ectl with rej := false, gen := m1.ectl.gen + 1 } } := by
  simp only [Main.copyCommit, hgood]

/-- The oldest descriptor in flight, once port B carries it where it must, is carried out and ends (R312, R326). -/
theorem Main.copyDone_ends {e : Nat} {how : CopyEnd} {m1 m2 : Main} {d : List Byte} {st done : Nat} (hflight : (m.engAt e).inflight ≠ 0)
    (hlive : m.copyLive e ((m.engAt e).head.toNat % (m.engAt e).ring) = true)
    (hread : m.daGet (m.engPartOf e) ((m.engAt e).desc ((m.engAt e).head.toNat % (m.engAt e).ring)) 32 = (m1, some d))
    (hrun : m1.copyRun e d (if how = .timedOut ∨ (m.engAt e).head.toNat % (m.engAt e).ring ∈ (m.engAt e).cut then some 5
      else if how = .poison then some 3 else none) = (m2, st, done)) :
    let x := m.engAt e
    let i := x.head.toNat % x.ring
    let m3 := ((m2.daPut (m.engPartOf e) (x.desc i + 24) (p1 st)).1.daPut (m.engPartOf e) (x.desc i + 28) (p4 done)).1
    let m4 := m3.updEng e (fun x => { x with
      head := BitVec.ofNat 16 ((x.head.toNat + 1) % x.ring), inflight := x.inflight - 1, cut := x.cut.filter (· != i)
      last := BitVec.ofNat 8 st, halt := x.halt || st != 1 })
    let m5 := if st ≠ 1 ∨ natAt d 20 2 % 2 = 1 then m4.send (.msix x.vec) else m4
    let m6 := if st ≠ 1 then m5.log! { code := 0x6301, cls := .flt, par := p1 e } else m5
    m.copyDone e how = m6.copyPump e 4 := by
  simp only [Main.copyDone, hflight, hlive, hread, hrun, List.contains_iff_mem, Bool.or_eq_true, decide_eq_true_eq, bne_iff_ne,
    Bool.not_true, decide_false, Bool.or_self, Bool.false_eq_true, if_false]

theorem Main.copyDone_waits {e : Nat} {how : CopyEnd}
    (hnone : (m.engAt e).inflight = 0 ∨ m.copyLive e ((m.engAt e).head.toNat % (m.engAt e).ring) = false) : m.copyDone e how = m :=
  if_pos (by simpa using hnone)

end Sys2Proof.Machine
end

section
/-! The Tailstock and the copy engines. -/

namespace Sys2Proof.Machine

/-- Settles O27: each row, in the conditions of its clause, runs the operation that the lemmas above describe. -/
theorem tailstockAndCopyEnginesComplete : Obligations.TailstockAndCopyEnginesComplete := by
  refine ⟨?area, ?status, ?start, ?offload, ?fetch, ?torn, ?commit, fun s e v => rfl, ?descriptor, ?waiting⟩
  case area =>
    intro s h p j hserves x jid da y hjob hmine hplace hfree
    obtain ⟨howns, hrun⟩ := hmine
    obtain ⟨halign, hend, hmapped⟩ := hplace
    exact congrArg s.nextMain (Main.command_done hserves (Main.setTailArea_sets hjob howns hrun halign hend hmapped hfree))
  case status =>
    intro s h p j hserves x hjob
    exact congrArg s.nextMain (Main.command_done hserves (Main.tailStatus_reads hjob))
  case start =>
    exact fun s i t hroom hmay hfirst hrec => congrArg s.nextMain (Main.tailStart_begins hroom hmay hfirst hrec)
  case offload =>
    intro s r t hrec
    exact ⟨fun hopen hwrite => congrArg s.nextMain (Main.offloadWritten_fails hrec hopen hwrite),
      fun hopen hwrite => congrArg s.nextMain (Main.offloadWritten_stores hrec hopen hwrite),
      fun hwritten => congrArg s.nextMain (Main.leaseDone_leases hrec hwritten)⟩
  case fetch =>
    intro s r t hrec g m1 done
    exact ⟨fun hwhole hbad => congrArg s.nextMain (Main.fetchDone_refused hrec hwhole rfl hbad),
      fun j l hwhole hgood hjob hblocks => congrArg s.nextMain (Main.fetchDone_writes hrec hwhole rfl hgood hjob hblocks),
      fun j hwhole hgood hjob hblocks => congrArg s.nextMain (Main.fetchDone_faults hrec hwhole rfl hgood hjob hblocks)⟩
  case torn =>
    intro s r t hrec htorn g
    exact ⟨fun hagain => congrArg s.nextMain (Main.fetchDone_tornAgain hrec htorn hagain),
      fun hfirst => congrArg s.nextMain (Main.fetchDone_refetches hrec htorn hfirst)⟩
  case commit =>
    intro s v m0
    exact ⟨fun e hbad => congrArg s.nextMain ((s.main.copyCtl_commit v).trans (Main.copyCommit_rejects hbad)),
      fun hgood => congrArg s.nextMain ((s.main.copyCtl_commit v).trans (Main.copyCommit_applies hgood))⟩
  case descriptor =>
    intro s e how m1 m2 d st done x i q da fail hflight hlive hread hrun
    exact congrArg s.nextMain (Main.copyDone_ends hflight hlive hread hrun)
  case waiting =>
    exact fun s e how hnone => congrArg s.nextMain (Main.copyDone_waits hnone)

end Sys2Proof.Machine
end

section
/-! SUPPORT. The ring log's commands and authorisations, where their conditions hold (R468–R471). -/

namespace Sys2Proof.Machine

variable {m : Main} {h : Hdr} {p : Payload}

theorem Main.readRecord_reads {r : LogRec} (hrec : m.log.recs[bvAt p 0 4]? = some r) : Main.readRecord p m = (m, 0, r.bits) := by
  simp only [Main.readRecord, hrec]

/-- Chunks 0 to 10 hold the object; those bytes of the last that lie beyond it are 0 (R470). -/
theorem Main.stageAuth_stages (hchunk : bvAt p 0 1 < 10 ∨ bvAt p 0 1 = 10 ∧ bvAt p 10 22 = 0) :
    Main.stageAuth h p m = ok (m.setStaged (Src.isSide h.src) ((List.range 24).foldl
      (fun b i => cellPut b (24 * bvAt p 0 1 + i) (bvByte p (8 + i))) (m.staged (Src.isSide h.src)))) [] := by
  refine if_neg ?_
  rcases hchunk with hlt | ⟨hlast, hzero⟩
  · simp [Nat.not_lt.2 hlt.le, hlt.ne]
  · simp [hlast, hzero]

section Authorised

variable {side : Bool} {o : Nat} {k : BitVec 456} {act : List Byte → Main → Main}
  (hfits : m.authFits (m.authBytes side) o = true) (hkey : m.authKey (m.authBytes side) o = some k)
include hfits hkey

/-- A fitting object of a permitted signer goes on where its signature verifies, and fails with status 9 otherwise (R470). -/
theorem Main.authCheck_permitted : m.authCheck (m.authBytes side) o =
    if Config.edVerify k ((m.authBytes side).take 128) (bvOf 912 (bytesAt (m.authBytes side) 128 114)) = true then 0 else 9 := by
  simp only [Main.authCheck, hfits, hkey, Bool.not_true, Bool.false_eq_true, if_false]

/-- Either way the object and the nonce are used up (R470). -/
theorem Main.authorised_permitted : Main.authorised side o act m =
    if Config.edVerify k ((m.authBytes side).take 128) (bvOf 912 (bytesAt (m.authBytes side) 128 114)) = true
    then ok (act (m.authBytes side) (m.authUse side)) [] else reject (m.authUse side) 9 := by
  simp only [Main.authorised, Main.authCheck_permitted hfits hkey]
  split <;> rfl

end Authorised

/-- A served command whose body answers in one of two ways replies in that way (R402, R403). -/
theorem Main.command_answers {op : Nat} {fields : List (Nat × Nat)} {reads owned high anyState : Bool} {body : Main → Reply}
    {c : Prop} [Decidable c] {r r' : Reply} (hserves : m.serves op h p fields reads owned high anyState = true)
    (hbody : body (m.taken h.src) = if c then r else r') :
    m.command op h p fields body reads owned false high anyState =
      if c then (m.taken h.src).reply op h r else (m.taken h.src).reply op h r' := by
  rw [Main.command_serves _ _ hserves, hbody]
  exact apply_ite (fun x => (m.taken h.src).reply op h x) c r r'

end Sys2Proof.Machine
end

section
/-! The ring log's commands. -/

namespace Sys2Proof.Machine

/-- Settles O35: a read and the two authorised commands reply with what their body answers, the others are done with it, and the rows of
the flash and of the nonce run unconditionally. -/
theorem ringLogCommandsComplete : Obligations.RingLogCommandsComplete := by
  refine ⟨?read, ?status, ?nonce, ?stage, ?clear, ?setKey, ?rows⟩
  case read =>
    intro s h p r hserves hrec
    exact congrArg s.nextMain ((Main.command_serves _ _ hserves).trans
      (congrArg (fun x => (s.main.taken h.src).reply 0x0701 h x) (Main.readRecord_reads hrec)))
  case status =>
    intro s h p hserves x
    exact congrArg s.nextMain (Main.command_done hserves rfl)
  case nonce =>
    intro s h p hserves x n
    exact congrArg s.nextMain (Main.command_done hserves rfl)
  case stage =>
    intro s h p hserves x hchunk
    exact congrArg s.nextMain (Main.command_done hserves (Main.stageAuth_stages hchunk))
  case clear =>
    intro s h p k hserves x b hfits hkey y
    exact congrArg s.nextMain (Main.command_answers hserves (Main.authorised_permitted hfits hkey))
  case setKey =>
    intro s h p k hserves x b hfits hkey y
    exact congrArg s.nextMain (Main.command_answers hserves (Main.authorised_permitted hfits hkey))
  case rows =>
    exact fun s => ⟨rfl, rfl, rfl⟩

end Sys2Proof.Machine
end

section
/-! SUPPORT. Where the TCS 2 form of a command differs from its TCS 3 form: a Vane job, a cap without boost or die caps, and an opcode
outside the table (R414). -/

namespace Sys2Proof.Machine

variable {m : Main} {h : Hdr} {p : Payload}

/-- A job that would open under TCS 3 opens as a Vane job under TCS 2 (R414). -/
theorem Main.openJob_vane (hopens : (Main.openJob h p false m).2.1 = 0) :
    Main.openJob h p true m = ok ((((m.setJob (bvAt p 0 4) { m.jobOf h p with vane := true }).draw).countOpen h).giveDies (bvAt p 0 4)
      (diesOf (p.extractLsb' 32 4))) [] := by
  simp only [Main.openJob] at hopens
  split at hopens
  · cases hopens
  · rename_i hmask
    split at hopens
    · cases hopens
    · rename_i hid
      split at hopens
      · cases hopens
      · rename_i hfree
        split at hopens
        · cases hopens
        · rename_i hranks
          split at hopens
          · cases hopens
          · rename_i htimes
            split at hopens
            · cases hopens
            · rename_i howns
              unfold Main.openJob
              rw [if_neg hmask, if_neg hid, if_neg hfree, if_neg hranks, if_neg htimes, if_neg howns]
              rfl

/-! ### The payload of a power cap -/

/-- The TCS 3 payload of a TCS 2 cap: its cap, boost allowed and no die caps (R414). -/
def capPayload (p : Payload) : Payload := (p &&& 0xFFFF) ||| 0x10000

/-- Its bits: those of the cap, and the boost bit. -/
theorem capPayload_bit (p : Payload) (i : Nat) : (capPayload p).getLsbD i = (decide (i < 16) && p.getLsbD i || decide (i = 16)) := by
  by_cases hi : i < 256
  · have hcap : (0xFFFF : BitVec 256).getLsbD i = decide (i < 16) := by
      exact (BitVec.getLsbD_ofNat _ _ _).trans (by rw [decide_eq_true hi, Bool.true_and]; exact Nat.testBit_two_pow_sub_one 16 i)
    have hboost : (0x10000 : BitVec 256).getLsbD i = decide (16 = i) := by
      exact (BitVec.getLsbD_ofNat _ _ _).trans (by rw [decide_eq_true hi, Bool.true_and]; exact Nat.testBit_two_pow (n := 16))
    rw [capPayload, BitVec.getLsbD_or, BitVec.getLsbD_and, hcap, hboost, Bool.and_comm, decide_eq_decide.2 eq_comm]
  · have hge : 256 ≤ i := Nat.not_lt.1 hi
    simp [BitVec.getLsbD_of_ge _ _ hge]; omega

theorem capPayload_cap (p : Payload) : bvAt (capPayload p) 0 2 = bvAt p 0 2 := by
  refine congrArg BitVec.toNat (BitVec.eq_of_getLsbD_eq fun i hi => ?_)
  have hlt : i < 16 := hi
  simp [capPayload_bit, hlt, hlt.ne]

theorem capPayload_dieCap (p : Payload) (d : Nat) : bvAt (capPayload p) (4 + 2 * d) 2 = 0 := by
  refine (congrArg BitVec.toNat (BitVec.eq_of_getLsbD_eq fun i hi => ?_)).trans BitVec.toNat_zero
  have hhigh : ¬ 8 * (4 + 2 * d) + i < 16 ∧ 8 * (4 + 2 * d) + i ≠ 16 := by omega
  simp [BitVec.getLsbD_extractLsb', capPayload_bit, hhigh]

/-- A TCS 2 cap in range is set with boost allowed and no die caps (R414). -/
theorem Main.setLimits_capPayload (hcap : m.capFits (bvAt p 0 2) = true) :
    Main.setLimits h (capPayload p) m = (m.withLimits h (bvAt p 0 2) true (fun _ => 0)).capReply (bvAt p 0 2) := by
  have hsets := Main.setLimits_sets (m := m) (h := h) (p := capPayload p) (by rwa [capPayload_cap])
    (fun d _ => by rw [capPayload_dieCap]; rfl) (fun _ d _ => capPayload_dieCap p d)
  rw [hsets]
  simp only [capPayload_cap, capPayload_dieCap, capPayload_bit]
  rfl

end Sys2Proof.Machine
end

section
/-! The TCS 2 commands. -/

namespace Sys2Proof.Machine

/-- Settles O36: each TCS 2 row runs the body of its TCS 3 command on the low 32 bytes, so the lemmas about those bodies carry over. -/
theorem tcs2CommandsComplete : Obligations.Tcs2CommandsComplete := by
  refine ⟨?identity, ?status, ?openJob, ?image, ?resetDie, ?closeJob, ?step, ?cap, ?power, ?record, ?unknown⟩
  case identity =>
    intro s h pw hserves x
    exact congrArg s.nextMain (Main.command_done hserves rfl)
  case status =>
    intro s h pw hserves x hsel
    exact congrArg s.nextMain (Main.command_done hserves (by simp only [Main.devStatus, hsel]; rfl))
  case openJob =>
    intro s h pw hserves x hmask hid hfree hranks htimeout hlimit howns hlock
    have hopens : (Main.openJob h (low pw) false (s.main.taken h.src)).2.1 = 0 :=
      congrArg (fun r => r.2.1) (Main.openJob_opens hmask hid hfree hranks htimeout hlimit howns hlock)
    exact congrArg s.nextMain (Main.command_done hserves (Main.openJob_vane hopens))
  case image =>
    intro s h pw j m1 img b hserves x hdie halign hjob hholds harea hroom hlive hlen hread hpasses
    exact congrArg s.nextMain (Main.command_done hserves
      (Main.stage_joins hdie halign hjob hholds harea hroom hlive hlen hread hpasses))
  case resetDie =>
    intro s h pw hserves x hwhole
    exact congrArg s.nextMain (Main.command_done hserves (Main.forcedBody_forces hwhole))
  case closeJob =>
    intro s h pw j hserves hjob hclosed
    exact congrArg (fun m : Main => s.nextMain (m.deferClose (bvAt pw 0 4)))
      (Main.command_done hserves (Main.closeBody_closes hjob hclosed))
  case step =>
    intro s h pw j hserves x hjob hclosed hsound hstep
    exact congrArg s.nextMain (Main.command_done hserves (Main.openStep_opens hjob hclosed hsound.1 hsound.2 hstep))
  case cap =>
    intro s h pw hserves x cap c b y hcap
    refine congrArg s.nextMain (Main.command_done hserves ?_)
    exact (congrArg (fillRefused Main.capFields) (Main.setLimits_capPayload hcap)).trans (fillRefused_ok _ _ _)
  case power =>
    intro s h pw hserves x
    exact congrArg s.nextMain (Main.command_done hserves rfl)
  case record =>
    intro s h pw r hserves hrec
    exact congrArg s.nextMain ((Main.command_serves _ _ hserves).trans
      (congrArg (fun x => (s.main.taken h.src).reply 0x0701 h x true) (Main.readRecord_reads hrec)))
  case unknown =>
    intro s h op pw htakes hop r
    exact congrArg s.nextMain (if_neg (by simp [htakes, hop]))

end Sys2Proof.Machine
end

section
/-! SUPPORT. What the SPDM responder does once it runs, has negotiated, or holds an established session (R423, R432). -/

namespace Sys2Proof.Machine

variable {m : Main} {sid : U32} {x : Session} (hup : m.spdmUp = true)
include hup

theorem Main.spdmDo_up (f : Main → Main) : m.spdmDo f = f m := if_pos hup

/-- A request after the negotiation is carried out (R423). -/
theorem Main.spdmReady_negotiated (f : Main → Main)
    (hneg : m.spdm.version = true ∧ m.spdm.caps = true ∧ m.spdm.algs = true) : m.spdmReady f = f m := by
  obtain ⟨hversion, hcaps, halgs⟩ := hneg
  exact (m.spdmDo_up hup _).trans (if_pos (by rw [hversion, hcaps, halgs]; rfl))

/-- A request inside an established session is carried out (R423). -/
theorem Main.inSession_established (f : Main → Main) (hest : (m.session? sid).any (·.est) = true) : m.inSession sid f = f m :=
  (m.spdmDo_up hup _).trans (if_pos hest)

/-- A tenant request inside an established session is carried out (R432). -/
theorem Main.tenantDo_established (f : Session → Main → Main) (hsess : m.session? sid = some x) (hest : x.est = true) :
    m.tenantDo sid f = f x m := by
  simp only [Main.tenantDo, hsess, hup, hest, Bool.and_self, if_true]

end Sys2Proof.Machine
end

section
/-! Attestation. -/

namespace Sys2Proof.Machine

/-- Settles O39: while the responder runs each request is carried out, after the negotiation steps that it needs; the clauses then
follow the request's own conditions. -/
theorem attestationComplete : Obligations.AttestationComplete := by
  refine ⟨?version, ?caps, ?algs, ?digests, ?certificate, ?challenge, ?allBlocks, ?oneBlock⟩
  case version =>
    exact fun s hup => congrArg s.nextMain (s.main.spdmDo_up hup _)
  case caps =>
    exact fun s caps hup hversion => congrArg s.nextMain ((s.main.spdmDo_up hup _).trans (if_neg (by simp [hversion])))
  case algs =>
    intro s ok hup hneg hok
    exact congrArg s.nextMain ((s.main.spdmDo_up hup _).trans ((if_neg (by simp [hneg])).trans (if_neg (by simp [hok]))))
  case digests =>
    exact fun s hup hneg => congrArg s.nextMain (s.main.spdmReady_negotiated hup _ hneg)
  case certificate =>
    intro s off len hup hneg part
    exact congrArg s.nextMain ((s.main.spdmReady_negotiated hup _ hneg).trans (if_congr (by simp) rfl rfl))
  case challenge =>
    exact fun s nonce hup hneg => congrArg s.nextMain ((s.main.spdmReady_negotiated hup _ hneg).trans (if_neg (by decide)))
  case allBlocks =>
    intro s sign nonce hup hneg all tail
    exact congrArg s.nextMain ((s.main.spdmReady_negotiated hup _ hneg).trans ((if_neg (by decide)).trans (if_pos rfl)))
  case oneBlock =>
    intro s index sign nonce hup hneg hff hblock all tail
    refine congrArg s.nextMain ((s.main.spdmReady_negotiated hup _ hneg).trans ?_)
    by_cases hzero : index = 0
    · exact (if_pos hzero).trans (if_pos hzero).symm
    · have hsome : (s.main.measure index.toNat).isNone ≠ true := by
        simpa [Option.isSome_iff_ne_none] using hblock.resolve_left hzero
      exact (if_neg hzero).trans ((if_neg hff).trans ((if_neg hsome).trans (if_neg hzero).symm))

end Sys2Proof.Machine
end

section
/-! SUPPORT. A claim and an attach whose conditions hold (R433, R435). -/

namespace Sys2Proof.Machine

variable {m : Main} {x : Session} {q : Nat}

/-- Steps S1 to S5 of a claim, before its response (R433). -/
def Main.claimed (m : Main) (x : Session) (q : Nat) (idle : U32) (pub : BitVec 456) (key : BitVec 256) (area : Nat) : Main :=
  let m1 := (m.partClear q).scrub q
  let m2 := m1.updPart q (fun y => { y with
    st := .sealed, claims := y.claims + 1, pub := pub, key := some key, sess := some x.id, idle := idle, area := BitVec.ofNat 56 area })
  let m3 := m2.updHbm (area / 2 ^ 37) (fun y => { y with region := y.region.put 6 (area % 2 ^ 37, (m2.partAt q).sealBytes) })
  let m4 := m3.updSession x.id (fun y => { y with part := some (BitVec.ofNat 2 q) })
  { m4 with
    fab := { m4.fab with tenCtr := m4.fab.tenCtr.put q 0 }
    box := (m4.partBoxes q).foldl (fun t k => t.upd k (fun b => { b with bound := true, part := BitVec.ofNat 2 q })) m4.box }

/-- An unmasked partition whose preconditions hold is claimed, and the response names the number of its claims (R433). -/
theorem Main.claim_applies {idle : U32} {pub : BitVec 456} {key : BitVec 256} {area : Nat} (hpart : q ∈ m.variant.parts)
    (hkey : key ≠ 0) (hmask : m.masked q = false) (hclaim : m.claimable q x area = true) :
    m.claim x q idle pub key area = ((m.claimed x q idle pub key area).log! { code := 0x7101, cls := .rec_, par := p1 q }).tell 0
      (p4 ((m.claimed x q idle pub key area).partAt q).claims.toNat) := by
  exact (if_neg (by simpa [hpart] using hkey)).trans ((if_neg (by simp [hmask])).trans (if_neg (by simp [hclaim])))

/-- A sealed partition goes to the session whose tenant signed for it (R435). -/
theorem Main.attach_answers {sig : BitVec 912} (hpart : q ∈ m.variant.parts) (hsealed : m.sealed q = true) :
    m.attach x q sig =
      if Config.edVerify (m.partAt q).pub (Config.th2 x.id) sig = true then
        (((m.updSpdm (fun z => { z with sess := z.sess.map (fun y =>
          if y.id = x.id then { y with part := some (BitVec.ofNat 2 q) }
          else if y.part = some (BitVec.ofNat 2 q) then { y with part := none } else y) })).updPart q
            (fun y => { y with sess := some x.id })).log! { code := 0x7103, cls := .rec_, par := p1 q }).tell 0
      else m.tell 4 := by
  refine (if_neg (by simp [hpart])).trans ((if_neg (by simp [hsealed])).trans ?_)
  cases hsig : Config.edVerify (m.partAt q).pub (Config.th2 x.id) sig
  · exact (if_pos rfl).trans (if_neg Bool.false_ne_true).symm
  · exact (if_neg Bool.false_ne_true).trans (if_pos rfl).symm

end Sys2Proof.Machine
end

section
/-! Sessions and claims. -/

namespace Sys2Proof.Machine

/-- Settles O40: each request is carried out once the responder runs and the session stands, and then follows its own conditions. -/
theorem sessionsAndClaimsComplete : Obligations.SessionsAndClaimsComplete := by
  refine ⟨?keyExchange, ?finish, ?heartbeat, ?keyUpdate, ?endSession, ?timeout, ?claim, ?attach, ?release, ?tenant, ?inactivity⟩
  case keyExchange =>
    intro s doe ex hup hneg hstate hroom x
    exact congrArg s.nextMain ((s.main.spdmReady_negotiated hup _ hneg).trans ((if_neg hstate).trans (if_neg (Nat.not_le.2 hroom))))
  case finish =>
    intro s sid mac x hup hneg hsess hest
    refine congrArg s.nextMain ((s.main.spdmReady_negotiated hup _ hneg).trans ?_)
    simp only [hsess, hest, Bool.false_eq_true, if_false]
    rfl
  case heartbeat =>
    exact fun s sid hup hest => congrArg s.nextMain (s.main.inSession_established hup _ hest)
  case keyUpdate =>
    exact fun s sid hup hest => congrArg s.nextMain (s.main.inSession_established hup _ hest)
  case endSession =>
    exact fun s sid hup hest => congrArg s.nextMain (s.main.inSession_established hup _ hest)
  case timeout =>
    exact fun s sid hsess => congrArg s.nextMain (if_pos hsess)
  case claim =>
    intro s sid x part idle pub key area hsess hup hpart hmask hclaim q m1 m2 m3 m4 m5
    exact congrArg s.nextMain ((s.main.tenantDo_established hup.1 _ hsess hup.2).trans
      (Main.claim_applies hpart.1 hpart.2 hmask hclaim))
  case attach =>
    intro s sid x part sig hsess hup hpart hsealed q m1
    exact congrArg s.nextMain ((s.main.tenantDo_established hup.1 _ hsess hup.2).trans (Main.attach_answers hpart hsealed))
  case release =>
    intro s sid x part hsess hup hpart hsealed
    exact congrArg s.nextMain ((s.main.tenantDo_established hup.1 _ hsess hup.2).trans
      ((if_neg (by simp [hpart])).trans (if_neg (by simp [hsealed]))))
  case tenant =>
    intro s sid x cmd q hsess hup hpart hsealed
    refine congrArg s.nextMain ((s.main.tenantDo_established hup.1 _ hsess hup.2).trans ?_)
    simp only [hpart, hsealed, if_true]
  case inactivity =>
    exact fun s p hsealed hidle => congrArg s.nextMain (if_pos (by simpa [hsealed, hidle.1] using hidle.2))

end Sys2Proof.Machine
end

section
/-! SUPPORT. The partition commands, where their checks pass (R425–R444). -/

namespace Sys2Proof.Machine

variable {m : Main} {h : Hdr} {p : Payload}

/-- With no job open and no partition masked the mode is set (R425). -/
theorem Main.setPartitioning_sets (hmode : bvAt p 0 1 ≤ 1) (hjobs : m.jobs = []) (hmask : m.maskBits = 0) :
    Main.setPartitioning p m = ok { m with partOn := bvAt p 0 1 = 1 } [] := by
  simp only [Main.setPartitioning, Nat.not_lt.2 hmode, hjobs, hmask, bne_self_eq_false, Bool.or_self, Bool.false_eq_true, if_false]

/-- An idle, unmasked partition takes a share of whole GiB that overlaps no other (R428). -/
theorem Main.setResources_sets (hon : m.partOn = true) (hpart : bvAt p 0 1 ∈ m.variant.parts) (hmask : m.masked (bvAt p 0 1) = false)
    (hbusy : m.partBusy (bvAt p 0 1) = false) (hbase : bvAt p 8 8 % 2 ^ 30 = 0) (hsize : bvAt p 16 8 % 2 ^ 30 = 0)
    (hend : bvAt p 16 8 = 0 ∨ bvAt p 8 8 + bvAt p 16 8 ≤ m.slowSize)
    (hapart : ∀ o ∈ m.variant.parts, o ≠ bvAt p 0 1 →
      overlap (bvAt p 8 8) (bvAt p 16 8) (m.partAt o).base (m.partAt o).size = false) :
    Main.setResources p m = ok (m.updPart (bvAt p 0 1)
      (fun y => { y with hostMask := p.extractLsb' 8 4, base := bvAt p 8 8, size := bvAt p 16 8 })) [] := by
  have hbeyond : (bvAt p 16 8 != 0 && decide (m.slowSize < bvAt p 8 8 + bvAt p 16 8)) = false := by
    rcases hend with hzero | hle
    · rw [hzero]; rfl
    · rw [decide_eq_false (Nat.not_lt.2 hle), Bool.and_false]
  have hclear : m.variant.parts.any (fun o => o != bvAt p 0 1 &&
      overlap (bvAt p 8 8) (bvAt p 16 8) (m.partAt o).base (m.partAt o).size) = false := by simpa using hapart
  simp only [Main.setResources, hon, List.contains_iff_mem.2 hpart, hmask, hbusy, hbase, hsize, hbeyond, hclear, bne_self_eq_false,
    Bool.not_true, Bool.or_self, Bool.false_eq_true, if_false]

theorem Main.partStatus_reads (hpart : bvAt p 0 1 ∈ m.variant.parts) :
    Main.partStatus p m = ok m [(0, 1, (m.partAt (bvAt p 0 1)).st.num), (1, 1, (m.partAt (bvAt p 0 1)).sess.isSome.toNat),
      (2, 4, (m.partAt (bvAt p 0 1)).claims.toNat), (6, 1, m.ideA.toNat), (7, 1, m.ideB.toNat)] :=
  if_neg (by simp [hpart])

/-- A done command that changes nothing else appends its response, whose status is 0x00 (R403). -/
theorem Main.done_appends (m : Main) (op : Nat) (h : Hdr) (l : List (Nat × Nat × Nat)) :
    ∃ x : Resp, (m.done op h (m.taken h.src) l).resps = m.resps ++ [x] ∧ x.status = 0 := ⟨_, rfl, rfl⟩

/-- The response of a forced release of a sealed partition waits for the end of the release (R436). -/
theorem Main.forcedRelease_starts (hserves : m.serves 0x0504 h p [(0, 1)] = true) (hpart : bvAt p 0 1 ∈ m.variant.parts) :
    m.forcedRelease h p = if m.sealed (bvAt p 0 1) then
      { m.done 0x0504 h (m.taken h.src) [] with resps := m.resps }.startRelease (bvAt p 0 1) 1
        (m.done 0x0504 h (m.taken h.src) []).resps.getLast?
      else m.done 0x0504 h (m.taken h.src) [] := by
  have hdone := Main.command_done (tcs2 := false) hserves
    (body := fun m => if m.variant.parts.contains (bvAt p 0 1) then ok m [] else reject m 2)
    (if_pos (List.contains_iff_mem.2 hpart))
  obtain ⟨x, hresps, hstatus⟩ := m.done_appends 0x0504 h []
  have hlength : (m.resps ++ [x]).length ≠ m.resps.length := by simp
  simp only [Main.forcedRelease, hdone, hresps, List.getLast?_concat, List.dropLast_concat, hlength, hstatus, bne_self_eq_false,
    decide_false, Bool.or_self, Bool.false_or, Bool.not_eq_true', ← Bool.not_eq_true, ite_not]

section Transfers

variable {q : BitVec 2} (hsrc : h.src = .tenant q)
include hsrc

/-- An import in range ends with the blocks written and the reason it stopped on (R440). -/
theorem Main.sealedImport_runs (hrange : m.xferOk q.toNat (bvAt p 0 8) (bvAt p 8 8) (bvAt p 24 8) (bvAt p 16 4) = true) :
    let t := xferRun (fun m k => m.importBlock q.toNat (bvAt p 0 8) (bvAt p 8 8) (bvAt p 24 8) (bvAt p 20 4) k) m (bvAt p 16 4 / 4096)
    Main.sealedImport h p m =
      (t.1, if t.2.2 != 0 && t.2.1 = 0 then 3 else 0, payload [(0, 1, t.2.2), (4, 4, t.2.1), (12, 4, if t.2.2 = 0 then 0 else t.2.1)]) := by
  simp only [Main.sealedImport, hsrc, hrange, Bool.not_true, Bool.false_eq_true, if_false]

/-- Blocks that a tenant sends out, in range, go under the next stream of its partition (R440). -/
theorem Main.sealedExport_runs (hrange : m.xferOk q.toNat (bvAt p 8 8) (bvAt p 0 8) (bvAt p 24 8) (bvAt p 16 4) = true) :
    let n := (m.partAt q.toNat).stream
    let t := xferRun (fun m k => m.exportBlock q.toNat (bvAt p 8 8) (bvAt p 0 8) (bvAt p 24 8) n.toNat k)
      (m.updPart q.toNat (fun z => { z with stream := z.stream + 1 })) (bvAt p 16 4 / 4096)
    Main.sealedExport h p m =
      (t.1, if t.2.2 != 0 && t.2.1 = 0 then 3 else 0, payload [(0, 1, t.2.2), (4, 4, t.2.1), (8, 4, n.toNat)]) := by
  simp only [Main.sealedExport, hsrc, hrange, Bool.not_true, Bool.false_eq_true, if_false]

end Transfers

/-! ### The debug window -/

section Debug

variable {off : Nat} (w : Option U64) (hoff : off ≠ 0)

/-- What a debug access answers: a value where it reads, nothing where it writes (R444). -/
def Main.debugAnswer (m : Main) (w : Option U64) (v : Nat) : Main := if w.isNone then m.send (.bar0 (BitVec.ofNat 512 v)) else m

theorem Main.debugAccess_control : m.debugAccess 0 w = m.debugAnswer w m.debugCtl := rfl

include hoff

theorem Main.debugAccess_refused (hclosed : m.dstate = 2 ∨ m.dstate = 1 ∧ Config.debugReaches off m.maskBits = true) :
    m.debugAccess off w = Main.debugAnswer (m.logRate 1 0
      { code := 0x7302, cls := .adv, par := p1 ((m.variant.parts.find? m.masked).getD 0) }) w 0 :=
  (if_neg hoff).trans (if_pos (by simpa using hclosed))

theorem Main.debugAccess_open (hopen : m.dstate = 0 ∨ m.dstate = 1 ∧ Config.debugReaches off m.maskBits = false) :
    m.debugAccess off w = m.draw.debugAnswer w (Config.debugRead m.draws off).toNat := by
  refine (if_neg hoff).trans (if_neg ?_)
  rcases hopen with hzero | ⟨hone, hreach⟩
  · simp [hzero]
  · simp [hone, hreach]

end Debug

end Sys2Proof.Machine
end

section
/-! The partition commands. -/

namespace Sys2Proof.Machine

/-- Settles O41: a served command is done, or replies, with what its body answers; a forced release puts its response aside. -/
theorem partitionCommandsComplete : Obligations.PartitionCommandsComplete := by
  refine ⟨?partitioning, ?resources, ?status, ?forcedRelease, ?imports, ?exports, ?ide, ?lock, ?debug⟩
  case partitioning =>
    intro s h p hserves x hmode hquiet
    exact congrArg s.nextMain (Main.command_done hserves (Main.setPartitioning_sets hmode hquiet.1 hquiet.2))
  case resources =>
    intro s h p hserves x q base size hpart hidle hfits hapart
    exact congrArg s.nextMain (Main.command_done hserves
      (Main.setResources_sets hpart.1 hpart.2 hidle.1 hidle.2 hfits.1 hfits.2.1 hfits.2.2 hapart))
  case status =>
    intro s h p hserves x y hpart
    exact congrArg s.nextMain (Main.command_done hserves (Main.partStatus_reads hpart))
  case forcedRelease =>
    intro s h p hserves hpart r
    exact congrArg s.nextMain (Main.forcedRelease_starts hserves hpart)
  case imports =>
    intro s h p q hserves hsrc x len hrange t
    exact congrArg s.nextMain ((Main.command_serves _ _ hserves).trans
      (congrArg (fun r => x.reply 0x0520 h r) (Main.sealedImport_runs hsrc hrange)))
  case exports =>
    intro s h p q hserves hsrc x len hrange n y t
    exact congrArg s.nextMain ((Main.command_serves _ _ hserves).trans
      (congrArg (fun r => x.reply 0x0521 h r) (Main.sealedExport_runs hsrc hrange)))
  case ide =>
    intro s b mem
    refine ⟨rfl, ?_⟩
    intro c hup hmem
    exact congrArg s.nextMain (if_neg (by simpa [c, hup] using hmem))
  case lock =>
    intro s h p hserves x
    exact congrArg s.nextMain (Main.command_done hserves rfl)
  case debug =>
    intro s off w answer
    refine ⟨fun hoff => ?_, fun hoff hclosed => ?_, fun hoff hopen => ?_⟩
    · exact hoff ▸ congrArg s.nextMain (Main.debugAccess_control w)
    · exact congrArg s.nextMain (Main.debugAccess_refused w (fun hz => hoff (BitVec.eq_of_toNat_eq hz)) hclosed)
    · exact congrArg s.nextMain (Main.debugAccess_open w (fun hz => hoff (BitVec.eq_of_toNat_eq hz)) hopen)

end Sys2Proof.Machine
end

section
/-! SUPPORT. What the side-band endpoint does while it answers (R387, R416, R460). -/

namespace Sys2Proof.Machine

variable {m : Main}

theorem Main.sideDo_up (hup : m.sideUp = true) (f : Main → Main) : m.sideDo f = f m := if_pos hup

/-- Outside recovery a type 2 request is carried out (R460). -/
theorem Main.monitor_up (hup : m.sideUp = true) (hstate : m.sup.state ≠ .recovery) (code : Byte) (f : Main → Main) :
    m.monitor code f = f m := by
  have htypes : m.pldmTypes = [0, 2, 5] := if_neg hstate
  exact (Main.sideDo_up hup _).trans (if_pos (by rw [htypes]; rfl))

theorem Main.setEid_sets (sender : Byte) {op eid : Byte} (hop : op ≤ 1) (hzero : eid ≠ 0) (hff : eid ≠ 0xFF) :
    m.setEid sender op eid = (m.updSb (fun x => { x with eid := eid, owner := sender })).send (.mctp [0x01, 0x00, 0, eid, 0]) := by
  refine if_neg ?_
  have hallowed : ¬ 1 < op := BitVec.not_lt.2 hop
  simp only [hallowed, hzero, hff, decide_false, Bool.or_self, Bool.false_eq_true, not_false_eq_true]

/-! ### The update over the side-band -/

/-- With no update in progress a request for one component starts the side-band's update at U1 (R453, R455). -/
theorem Main.requestUpdate_starts (hst : m.fw.st ≠ 1) (hfd : m.fw.fd = 0) :
    m.requestUpdate 1 = (m.updFw (fun f => { f with
      st := 1, step := 1, side := true, man := [], blocks := 0, comp := 0, outp := [], plen := 0, pldm := some [], fd := 1 })).send
        (.pldm 0x10 [5, 0x00]) := by
  have hfree : (decide (m.fw.st = 1) || m.fw.fd != 0) = false := by rw [decide_eq_false hst, hfd]; rfl
  exact (if_neg (Bool.eq_false_iff.1 hfree)).trans (if_neg (by decide))

end Sys2Proof.Machine
end

section
/-! The side-band endpoint. -/

namespace Sys2Proof.Machine

/-- Settles O37: while the endpoint answers, each request is carried out, those of type 2 outside recovery. -/
theorem sidebandManagementComplete : Obligations.SidebandManagementComplete := by
  refine ⟨?entdaa, ?smbus, ?setEid, ?getEid, ?uuid, ?mctpVersion, ?messageTypes, ?vendor, ?tid, ?pldmVersion, ?pldmTypes,
    ?pldmCommands, ?pdr, ?sensor, ?stateSensor, ?receiver, ?poll⟩
  case entdaa =>
    exact fun s a hup => congrArg s.nextMain (Main.sideDo_up hup _)
  case smbus =>
    exact fun s hup => congrArg s.nextMain (Main.sideDo_up hup _)
  case setEid =>
    exact fun s sender op eid hup hop hzero hff =>
      congrArg s.nextMain ((Main.sideDo_up hup _).trans (Main.setEid_sets sender hop hzero hff))
  case getEid =>
    exact fun s hup => congrArg s.nextMain (Main.sideDo_up hup _)
  case uuid =>
    exact fun s hup => congrArg s.nextMain (Main.sideDo_up hup _)
  case mctpVersion =>
    intro s ty hup hty
    exact congrArg s.nextMain ((Main.sideDo_up hup _).trans (if_pos (by simpa using hty)))
  case messageTypes =>
    exact fun s hup => congrArg s.nextMain (Main.sideDo_up hup _)
  case vendor =>
    exact fun s sel hup hsel => congrArg s.nextMain ((Main.sideDo_up hup _).trans (if_pos hsel))
  case tid =>
    exact fun s hup => congrArg s.nextMain (Main.sideDo_up hup _)
  case pldmVersion =>
    exact fun s ty hup hty => congrArg s.nextMain ((Main.sideDo_up hup _).trans (if_pos (List.contains_iff_mem.2 hty)))
  case pldmTypes =>
    exact fun s hup => congrArg s.nextMain (Main.sideDo_up hup _)
  case pldmCommands =>
    exact fun s ty hup hty => congrArg s.nextMain ((Main.sideDo_up hup _).trans (if_pos (List.contains_iff_mem.2 hty)))
  case pdr =>
    intro s record hup hstate
    refine congrArg s.nextMain ((Main.monitor_up hup hstate 0x51 _).trans ?_)
    cases Config.pdr record <;> rfl
  case sensor =>
    intro s id hup hstate
    refine congrArg s.nextMain ((Main.monitor_up hup hstate 0x11 _).trans ?_)
    cases s.main.sensors[Config.sensorPlace id]? <;> rfl
  case stateSensor =>
    intro s id hup hstate
    exact congrArg s.nextMain ((Main.monitor_up hup hstate 0x21 _).trans
      (apply_ite (fun b => s.main.send (.pldm 0x21 b)) _ _ _).symm)
  case receiver =>
    intro s enable eid hup hstate henable
    exact congrArg s.nextMain ((Main.monitor_up hup hstate 0x04 _).trans (if_neg (BitVec.not_lt.2 henable)))
  case poll =>
    intro s r rest hup hstate hevents
    refine congrArg s.nextMain ((Main.monitor_up hup hstate 0x0B _).trans ?_)
    simp only [hevents]
    rfl

/-- Settles O38: while the endpoint answers, each request of the update is carried out in the transfer state that its clause names. -/
theorem sidebandUpdateComplete : Obligations.SidebandUpdateComplete := by
  refine ⟨?identifiers, ?parameters, ?request, ?table, ?component, ?data, ?activate, ?status, ?cancel⟩
  case identifiers =>
    exact fun s hup => congrArg s.nextMain (Main.sideDo_up hup _)
  case parameters =>
    intro s hup f
    exact congrArg s.nextMain (Main.sideDo_up hup _)
  case request =>
    intro s comps hup hst hfd hcomps
    subst hcomps
    exact congrArg s.nextMain ((Main.sideDo_up hup _).trans (Main.requestUpdate_starts hst hfd))
  case table =>
    intro s comp hup hfd
    exact congrArg s.nextMain ((Main.sideDo_up hup _).trans ((if_neg (by simp [hfd])).trans (if_neg (by simp [hfd]))))
  case component =>
    intro s comp size hup hfd
    exact congrArg s.nextMain ((Main.sideDo_up hup _).trans ((if_neg (by simp [hfd])).trans (if_neg (by simp [hfd]))))
  case data =>
    intro s d hup hfd m1 whole m2
    exact congrArg s.nextMain ((Main.sideDo_up hup _).trans ((if_neg (by simp [hfd])).trans (if_congr bne_iff_ne rfl rfl)))
  case activate =>
    exact fun s hup hreason => congrArg s.nextMain ((Main.sideDo_up hup _).trans (if_neg (by simp [hreason])))
  case status =>
    exact fun s hup => congrArg s.nextMain (Main.sideDo_up hup _)
  case cancel =>
    exact fun s hup => congrArg s.nextMain (Main.sideDo_up hup _)

end Sys2Proof.Machine
end

section
/-! SUPPORT. The firmware commands, where their checks pass (R451–R458, R501). -/

namespace Sys2Proof.Machine

variable {m m1 : Main} {h : Hdr} {p : Payload} {b : List Byte}

/-! ### The start of an update -/

/-- A package that meets R451 in all but its signature is accepted where that verifies, and answered with status 9 otherwise. -/
theorem Main.packageCheck_signature {len : Nat} (hfits : manifestFits b = true) (hrest : zeroAt b 1010 3086 = true)
    (hlen : len = packageLen b) (htype : natAt b 16 4 = 2) (hunit : natAt b 21 1 = 1 → natAt b 24 16 = m.serial.toNat)
    (hsec : m.fw.minsec ≤ natAt b 20 1) (hbases : ∀ i < 4, m.baseFits (manEntry b i) = true) :
    m.packageCheck b len = if manifestSigned b = true then (0, 0) else (9, 0) := by
  have hbound : (decide (natAt b 21 1 = 1) && natAt b 24 16 != m.serial.toNat) = false := by simpa using hunit
  have hall : (List.range 4).all (fun i => m.baseFits (manEntry b i)) = true := by simpa using hbases
  simp only [Main.packageCheck, hfits, hrest, hlen, htype, hbound, Nat.not_lt.2 hsec, hall, bne_self_eq_false, Bool.not_true,
    Bool.or_self, Bool.false_eq_true, if_false, Bool.not_eq_true', ← Bool.not_eq_true, ite_not]

/-- With no update running, the package's first 4,096 bytes decide on the start (R453, R454). -/
theorem Main.startUpd_signature (hst : m.fw.st ≠ 1) (hread : m.packageRead (bvAt p 0 8) 4096 = (m1, some b))
    (hcheck : m1.packageCheck b (bvAt p 8 4) = if manifestSigned b = true then (0, 0) else (9, 0)) :
    Main.startUpd h p m = if manifestSigned b = true then
        ok ((m1.updFw (fun f => { f with
          side := Src.isSide h.src, pkg := BitVec.ofNat 56 (bvAt p 0 8), plen := bvAt p 8 4, pldm := none, fd := 0 })).updateRuns
            (b.take 1010)) [(4, 4, natAt b 12 4)]
      else reject m1 9 := by
  cases hsigned : manifestSigned b
  · simp only [Main.startUpd, hst, hread, hcheck, hsigned, Bool.false_eq_true, if_false]
  · simp only [Main.startUpd, hst, hread, hcheck, hsigned, if_false, if_true]

/-! ### Its steps -/

/-- While an update runs and the core answers, its step is done (R454). -/
theorem Main.updateAct_runs (hst : m.fw.st = 1) (hup : m.sideUp = true) :
    m.updateAct = match m.fw.step with
      | 2 => m.updFw (fun f => { f.setBank m.target {} with step := 3 })
      | 3 => m.updateBlock
      | 4 => m.updateHash
      | 5 => m.updateEnds
      | _ => m :=
  (if_neg (by simp [hst, hup])).trans rfl

theorem Main.updateAct_compares (hst : m.fw.st = 1) (hup : m.sideUp = true) (hstep : m.fw.step = 4) : m.updateAct = m.updateHash := by
  rw [Main.updateAct_runs hst hup, hstep]; rfl

/-- An image before the last with its listed hash is passed; one with another hash fails the update with 0x8004 (R454). -/
theorem Main.updateHash_beforeLast (hcomp : m.fw.comp < 3) :
    m.updateHash =
      if Config.shake256 (((m.fw.bank m.target).image.find (natAt (manEntry m.fw.man m.fw.comp) 0 1)).getD []) 64 =
          bytesAt (manEntry m.fw.man m.fw.comp) 32 64 then m.updFw (fun f => { f with comp := f.comp + 1 })
      else m.updateFails 0x8004 (p1 (natAt (manEntry m.fw.man m.fw.comp) 0 1)) := by
  have hmore : m.fw.comp + 1 ≠ 4 := by omega
  split
  case isTrue hsame => exact (if_neg (by simp [hsame])).trans (if_pos (bne_iff_ne.2 hmore))
  case isFalse hdiffers => exact if_pos (bne_iff_ne.2 hdiffers)

/-! ### Activation, resets, cancellation and the security version -/

theorem Main.activateCmd_applies (hvalue : bvAt p 0 1 ≤ 1) (hreason : m.activateReason = 0) :
    Main.activateCmd p m = ok m.activateBank [(1, 1, m.target.toNat)] :=
  (if_neg (Nat.not_lt.2 hvalue)).trans (if_neg (by simp [hreason]))

/-- A forced reset, and one of an idle module, goes ahead (R501). -/
theorem Main.resetCmd_applies (hvalue : bvAt p 0 1 = 1 ∨ bvAt p 0 1 = 0 ∧ m.inUse = false) : Main.resetCmd p m = ok m [] := by
  rcases hvalue with hforced | ⟨hasked, hidle⟩
  · exact (if_neg (by simp [hforced])).trans (if_neg (by simp [hforced]))
  · exact (if_neg (by simp [hasked])).trans (if_neg (by simp [hasked, hidle]))

/-- A running update is aborted by its own requester alone; with none running a cancellation has no effect (R455; log 122). -/
theorem Main.cancelCmd_applies (hside : m.fw.st = 1 → m.fw.side = Src.isSide h.src) :
    Main.cancelCmd h m = ok (if m.fw.st = 1 then m.abortUpdate 0 else m) [] := by
  by_cases hst : m.fw.st = 1
  · rw [if_pos hst]
    exact (if_neg (by simp [hst])).trans (if_neg (by simp [hside hst]))
  · rw [if_neg hst]
    exact if_pos (bne_iff_ne.2 hst)

end Sys2Proof.Machine
end

section
/-! The firmware commands. -/

namespace Sys2Proof.Machine

/-- Settles O42: a served command is done, or answers, with what its body gives; an activation and a module reset then reset the module. -/
theorem firmwareCommandsComplete : Obligations.FirmwareCommandsComplete := by
  refine ⟨?start, ?background, ?compare, ?status, ?activate, ?reset, ?cancel, ?security⟩
  case start =>
    intro s h p m1 b hserves x a len hst hread hpackage hunit hbases m2
    exact congrArg s.nextMain (Main.command_answers hserves (Main.startUpd_signature hst hread
      (Main.packageCheck_signature hpackage.1 hpackage.2.1 hpackage.2.2 hunit.1 hunit.2.1 hunit.2.2 hbases)))
  case background =>
    exact fun s hst hup => congrArg s.nextMain ((Main.updateAct_runs hst hup).trans rfl)
  case compare =>
    intro s hst hup hstep hcomp e img
    exact congrArg s.nextMain ((Main.updateAct_compares hst hup hstep).trans (Main.updateHash_beforeLast hcomp))
  case status =>
    intro s h p hserves x
    exact congrArg s.nextMain (Main.command_done hserves rfl)
  case activate =>
    intro s h p hserves hreason x r
    have hdone := fun hvalue : bvAt p 0 1 ≤ 1 => Main.command_done (tcs2 := false) hserves
      (Main.activateCmd_applies (m := s.main.taken h.src) hvalue hreason)
    refine ⟨fun hname => ?_, fun hreset => ?_⟩
    · exact congrArg s.nextMain ((if_neg (by simp [hname])).trans (hdone (by omega)))
    · exact congrArg s.nextMain ((if_pos hreset).trans
        (congrArg (fun m => s.main.thenReset m 1 (Hdr.requester h)) (hdone (by omega))))
  case reset =>
    intro s h p hserves hvalue
    exact congrArg (fun m => s.nextMain (s.main.thenReset m 0 (Hdr.requester h)))
      (Main.command_done hserves (Main.resetCmd_applies (m := s.main.taken h.src) hvalue))
  case cancel =>
    intro s h p hserves x hside
    exact congrArg s.nextMain (Main.command_done hserves (Main.cancelCmd_applies hside))
  case security =>
    intro s h p hserves x v hconfirmed
    exact congrArg s.nextMain (Main.command_done hserves (if_neg (by simp [hconfirmed, x])))

end Sys2Proof.Machine
end

section
/-! SUPPORT. The degradation map, reinstated ports and checker access, where their checks pass (R483, R488, R489). -/

namespace Sys2Proof.Machine

variable {m : Main} {h : Hdr} {p : Payload}

/-- A served command replies with what its body answers (R402, R403). -/
theorem Main.command_replies {op : Nat} {fields : List (Nat × Nat)} {reads owned high anyState : Bool} {body : Main → Reply} {r : Reply}
    (hserves : m.serves op h p fields reads owned high anyState = true) (hbody : body (m.taken h.src) = r) :
    m.command op h p fields body reads owned false high anyState = (m.taken h.src).reply op h r :=
  (Main.command_serves _ _ hserves).trans (congrArg (fun r => (m.taken h.src).reply op h r) hbody)

/-! ### The degradation map -/

theorem Main.degradation_totals (hsel : bvAt p 0 1 = 0) (ha : bvAt p 1 1 = 0) (hb : bvAt p 2 1 = 0) :
    Main.degradation p m = m.mapTotals := by
  simp only [Main.degradation, hsel, ha, hb, bne_self_eq_false, Bool.or_self, Bool.false_eq_true, if_false]

section Dies

variable (ha : bvAt p 1 1 ≤ 3) (hb : bvAt p 2 1 ≤ 1)
include ha hb

theorem Main.degradation_tiles (hsel : bvAt p 0 1 = 1) :
    Main.degradation p m = (m, 0, mapPart (bvAt p 2 1) (m.tileRetired (bvAt p 1 1))) := by
  simp only [Main.degradation, hsel, Nat.not_lt.2 ha, Nat.not_lt.2 hb, decide_false, Bool.or_self, Bool.false_eq_true, if_false]

theorem Main.degradation_sram (hsel : bvAt p 0 1 = 2) :
    Main.degradation p m = (m, 0, mapPart (bvAt p 2 1) (m.sramAt (bvAt p 1 1)).retired.contains) := by
  simp only [Main.degradation, hsel, Nat.not_lt.2 ha, Nat.not_lt.2 hb, decide_false, Bool.or_self, Bool.false_eq_true, if_false]

end Dies

theorem Main.degradation_channel (hsel : bvAt p 0 1 = 3) (ha : bvAt p 1 1 < m.variant.stacks) (hb : bvAt p 2 1 ≤ 31) :
    Main.degradation p m = m.mapChannel (bvAt p 1 1) (bvAt p 2 1) := by
  simp only [Main.degradation, hsel, Nat.not_le.2 ha, Nat.not_lt.2 hb, decide_false, Bool.or_self, Bool.false_eq_true, if_false]

theorem Main.degradation_port (hsel : bvAt p 0 1 = 4) (ha : bvAt p 1 1 < m.variant.ports) (hb : bvAt p 2 1 = 0) :
    Main.degradation p m =
      ok m [(0, 1, (m.portAt (bvAt p 1 1)).retired.toNat), (1, 1, (m.portAt (bvAt p 1 1)).laneRet.toNat)] := by
  simp only [Main.degradation, hsel, Nat.not_le.2 ha, hb, bne_self_eq_false, decide_false, Bool.or_self, Bool.false_eq_true, if_false]

/-- The named ports lose their retirements, with event 0x510A (R488). -/
theorem Main.reinstate_clears (hmask : bvAt p 0 2 < 2 ^ m.variant.ports) :
    Main.reinstate p m = ok (({ m with fab := { m.fab with port := m.fab.port.map (fun (e : Nat × Port) =>
        if (bvAt p 0 2).testBit e.1 then (e.1, { e.2 with laneRet := 0, laneFail := [], retired := false }) else e) } } : Main).log!
      { code := 0x510A, cls := .rec_, par := p2 (bvAt p 0 2) }) [] := by
  simp only [Main.reinstate, Nat.not_le.2 hmask, if_false, Port.reinstated]

/-! ### Checker access -/

section Checker

variable {t : Bool × Nat} (hk : bvAt p 1 1 ≤ 31) (htarget : m.checkTarget (bvAt p 8 8) = some t)
  (hquiet : (m.checkDies t).all m.quiet = true)
include hk htarget hquiet

/-- A raw word is written, past the tile caches of a memory stack (R483). -/
theorem Main.checker_writesWord (hmode : bvAt p 0 1 = 0) (halign : bvAt p 8 8 % 8 = 0) :
    Main.checker p m = ok (if t.1 then
        (let y := m.flush (m.ownPart (bvAt p 8 8)) (bvAt p 8 8)
         { y with mem := { y.mem with hbm := y.mem.hbm.hbmRaw (t.2 / 8) (p.extractLsb' 128 64) (p.extractLsb' 192 16) } })
      else { m with mem := { m.mem with pin := m.mem.pin.rawPut (t.2 / 8) (p.extractLsb' 128 64) (p.extractLsb' 192 16) } }) [] := by
  simp only [Main.checker, hmode, Nat.not_lt.2 hk, halign, htarget, hquiet, Nat.reduceLT, Nat.reduceLeDiff, if_true,
    bne_self_eq_false, Bool.not_true, decide_false, Bool.or_self, Bool.and_false, Bool.false_eq_true, if_false]
  split <;> rfl

theorem Main.checker_readsWord (hmode : bvAt p 0 1 = 1) (halign : bvAt p 8 8 % 8 = 0) :
    Main.checker p m = m.rawRead (if t.1 then m.mem.hbm else m.mem.pin) (t.2 / 8) := by
  simp only [Main.checker, hmode, Nat.not_lt.2 hk, halign, htarget, hquiet, Nat.reduceLT, Nat.reduceLeDiff, if_true,
    bne_self_eq_false, Bool.not_true, decide_false, Bool.or_self, Bool.and_false, Bool.false_eq_true, if_false]
  split <;> rfl

section Pages

variable (hstack : t.1 = true) (halign : bvAt p 8 8 % 2048 = 0)
include hstack halign

/-- A check byte of a page is written (R476, R483). -/
theorem Main.checker_writesCheckByte (hmode : bvAt p 0 1 = 2) :
    Main.checker p m = ok (let y := m.flush (m.ownPart (bvAt p 8 8)) (bvAt p 8 8)
      { y with mem := { y.mem with hbm := y.mem.hbm.pageXor (pageOf (bvAt p 8 8)) (((y.mem.hbm.checkByte (bvAt p 8 8) (bvAt p 1 1) ^^^
        (p.extractLsb' 192 16).setWidth 8).setWidth 256) <<< (8 * bvAt p 1 1)) } }) [] := by
  simp only [Main.checker, hmode, Nat.not_lt.2 hk, halign, htarget, hquiet, hstack, Nat.reduceLT, Nat.reduceLeDiff,
    bne_self_eq_false, Bool.not_true, decide_false, decide_true, Bool.or_self, Bool.false_and, Bool.false_eq_true, if_false]

theorem Main.checker_readsCheckByte (hmode : bvAt p 0 1 = 3) :
    Main.checker p m = ok m [(16, 2, (m.mem.hbm.checkByte (bvAt p 8 8) (bvAt p 1 1)).toNat)] := by
  simp only [Main.checker, hmode, Nat.not_lt.2 hk, halign, htarget, hquiet, hstack, Nat.reduceLT, Nat.reduceLeDiff,
    bne_self_eq_false, Bool.not_true, decide_false, decide_true, Bool.or_self, Bool.false_and, Bool.false_eq_true, if_false]

end Pages

end Checker

end Sys2Proof.Machine
end

section
/-! SUPPORT. Patrol scrub and the corrected-words advisory (R479, R480). -/

namespace Sys2Proof.Machine

variable {m : Main}

/-- A word of stacked SRAM with one or two bits in error is written back corrected (R478, R479). -/
theorem Main.scrubSram_corrects (w : Nat) :
    m.scrubSram w =
      if (m.mem.pin.decode w).1 = .one ∨ (m.mem.pin.decode w).1 = .two then
        { m.pinTouch w with mem := { (m.pinTouch w).mem with
          pin := (m.pinTouch w).mem.pin.rawPut w (m.mem.pin.decode w).2.1 (cleanSide (m.mem.pin.decode w).2.1 (m.mem.pin.decode w).2.2) } }
      else m.pinTouch w := by
  simp only [Main.scrubSram, Bool.or_eq_true, decide_eq_true_eq]

end Sys2Proof.Machine
end

section
/-! The protection commands. -/

namespace Sys2Proof.Machine

/-- Settles O43: a served command replies with what its body answers; a scrub with its supply and an advisory of a risen count act. -/
theorem protectionCommandsComplete : Obligations.ProtectionCommandsComplete := by
  refine ⟨?map, ?ports, ?checker, ?scrub, ?advisory⟩
  case map =>
    intro s h p hserves x a b
    exact ⟨fun hsel ha hb => congrArg s.nextMain (Main.command_replies hserves (Main.degradation_totals hsel ha hb)),
      fun hsel ha hb => congrArg s.nextMain (Main.command_replies hserves (Main.degradation_tiles ha hb hsel)),
      fun hsel ha hb => congrArg s.nextMain (Main.command_replies hserves (Main.degradation_sram ha hb hsel)),
      fun hsel ha hb => congrArg s.nextMain (Main.command_replies hserves (Main.degradation_channel hsel ha hb)),
      fun hsel ha hb => congrArg s.nextMain (Main.command_done hserves (Main.degradation_port hsel ha hb))⟩
  case ports =>
    intro s h p hserves x mask hmask
    have hbody := Main.reinstate_clears (m := s.main.taken h.src) hmask
    exact congrArg s.nextMain (Main.command_done hserves hbody)
  case checker =>
    intro s h p t hserves x mode k a d side hk htarget hquiet
    subst x mode k a d side
    refine ⟨fun hmode halign => ?_, fun hmode halign => ?_, fun hmode halign hstack => ?_, fun hmode halign hstack => ?_⟩
    · have hbody := Main.checker_writesWord (m := s.main.taken h.src) hk htarget hquiet hmode halign
      exact congrArg s.nextMain (Main.command_done hserves hbody)
    · have hbody := Main.checker_readsWord (m := s.main.taken h.src) hk htarget hquiet hmode halign
      exact congrArg s.nextMain (Main.command_replies hserves hbody)
    · have hbody := Main.checker_writesCheckByte (m := s.main.taken h.src) hk htarget hquiet hstack halign hmode
      exact congrArg s.nextMain (Main.command_done hserves hbody)
    · have hbody := Main.checker_readsCheckByte (m := s.main.taken h.src) hk htarget hquiet hstack halign hmode
      exact congrArg s.nextMain (Main.command_done hserves hbody)
  case scrub =>
    intro s hrails
    have hsupply : ¬ (!s.main.scrubs) = true := by simp [Main.scrubs, hrails]
    refine ⟨fun a hstack hon => ?_, fun a => ?_, fun t a => ?_⟩
    · exact congrArg s.nextMain ((if_neg hsupply).trans (if_pos (by rw [decide_eq_true hstack, hon]; rfl)))
    · exact congrArg s.nextMain ((if_neg hsupply).trans (Main.scrubSram_corrects a.toNat))
    · exact congrArg s.nextMain (if_neg hsupply)
  case advisory =>
    intro s
    refine ⟨fun a k hk hrisen => ?_, fun a k hk hrisen => ?_, fun t a k hk hrisen => ?_⟩
    iterate 3
    · subst hk
      exact congrArg s.nextMain (if_neg hrisen)

end Sys2Proof.Machine
end

section
/-! SUPPORT. The supplies and the stages of start-up, where their conditions hold (R493–R502). -/

namespace Sys2Proof.Machine

variable {m : Main} {r : StageResult}

/-- AUX up without AUX is a cold reset; an update that the power loss cut off leaves its bank invalid, with event 0x800A (R455, R499). -/
theorem Main.auxUp_resets (recov tlock : Bool) (sbaddr : BitVec 3) (haux : m.sup.aux = false) :
    let m1 := m.clearAll.updSup (fun x => { aux := true, main := x.main, recov := recov, tlock := tlock, stage := 1 })
    let m2 : Main := { m1 with us := 0, opsec := m1.opSaved, pcyc := m1.pcyc + 1, cmds := 0, clock := false, sb := { sbaddr := sbaddr } }
    m.auxUp recov tlock sbaddr =
      if m.fw.st = 1 then
        (m2.wearLoad.updFw (fun f => f.setBank (if m.fw.booted then !m.fw.active else !(m.fw.confirmed.getD true)) {})).log!
          { code := 0x800A, cls := .rec_, par := p1 2 }
      else m2.wearLoad :=
  (if_neg (by simp [haux])).trans ((if_congr bne_iff_ne rfl rfl).trans (ite_not _ _ _))

/-- With the rails up, a rail that MAIN feeds is watched, a core rail unless its die has tripped (R494, R495). -/
theorem Main.rail_faults {k : Nat} (hrails : m.sup.rails = true) (haux : k ≠ 0) (hmeter : k ≠ 11)
    (hcore : 7 ≤ k → (m.dieAt (k - 7)).tripped = false) :
    ¬ (!m.sup.rails || decide (k = 0) || decide (k = 11) || (decide (7 ≤ k) && (m.dieAt (k - 7)).tripped)) = true := by
  simpa [hrails, haux, hmeter] using hcore

section Stages

variable (haux : m.sup.aux = true) (hstate : m.sup.state ≠ .recovery)
include haux hstate

/-- With AUX and outside recovery a start-up event is not dropped (R496). -/
theorem Main.startUp_runs : ¬ (!m.sup.aux || decide (m.sup.state = .recovery)) = true := by simp [haux, hstate]

/-- A stage over its bound fails the boot, but for the wait for MAIN and the coolant (R496). -/
theorem Main.stage_bounded (hstage : 1 ≤ m.sup.stage.toNat ∧ m.sup.stage.toNat ≤ 9)
    (hwait : m.sup.stage = 4 → m.sup.state = .starting) :
    ¬ (!m.sup.aux || decide (m.sup.state = .recovery) || decide (m.sup.stage.toNat = 0) || decide (9 < m.sup.stage.toNat) ||
      (decide (m.sup.stage.toNat = 4) && m.sup.state != .starting)) = true := by
  have hcounted : (decide (m.sup.stage.toNat = 4) && m.sup.state != .starting) = false := by
    by_cases hfour : m.sup.stage.toNat = 4
    · rw [hwait (BitVec.eq_of_toNat_eq hfour), bne_self_eq_false, Bool.and_false]
    · rw [decide_eq_false hfour, Bool.false_and]
  simp only [haux, hstate, Nat.one_le_iff_ne_zero.1 hstage.1, Nat.not_lt.2 hstage.2, hcounted, decide_false, Bool.not_true, Bool.or_self,
    Bool.false_eq_true, not_false_eq_true]

end Stages

end Sys2Proof.Machine
end

section
/-! The supplies and start-up. -/

namespace Sys2Proof.Machine

/-- Settles O44: a supply event acts where its guard lets it; a stage that ends runs its arm of the table of stages. -/
theorem suppliesAndStartUpComplete : Obligations.SuppliesAndStartUpComplete := by
  refine ⟨?auxUp, ?auxLoss, ?mainPresent, ?mainLost, ?rail, ?coolant, ?stage1, ?stage2, ?stage3, ?stage4, ?stage5, ?stage6, ?stage7,
    ?stage8, ?stage9, ?overBound⟩
  case auxUp =>
    intro s recov tlock sbaddr haux m1 m2 m3 cut
    exact congrArg s.nextMain (Main.auxUp_resets recov tlock sbaddr haux)
  case auxLoss =>
    intro s haux m1
    exact congrArg s.nextMain (if_neg (by simp [haux]))
  case mainPresent =>
    exact fun s => rfl
  case mainLost =>
    intro s m1
    rfl
  case rail =>
    intro s r hrails hfed hcore
    exact congrArg s.nextMain (if_neg (Main.rail_faults hrails (fun hz => hfed.1 (Fin.ext hz)) (fun hm => hfed.2 (Fin.ext hm)) hcore))
  case coolant =>
    intro s inlet outlet secs bad report m1 m2
    rfl
  case stage1 | stage2 | stage3 | stage5 | stage6 | stage7 | stage8 | stage9 =>
    intro s r haux hstate hstage
    refine congrArg s.nextMain ((if_neg (Main.startUp_runs haux hstate)).trans ?_)
    rw [hstage]
    rfl
  case stage4 =>
    intro s r haux hstate hstage hstarting
    refine congrArg s.nextMain ((if_neg (Main.startUp_runs haux hstate)).trans ?_)
    rw [hstage]
    exact if_pos hstarting
  case overBound =>
    exact fun s haux hstate hstage hwait => congrArg s.nextMain (if_neg (Main.stage_bounded haux hstate hstage hwait))

end Sys2Proof.Machine
end

section
/-! The resets of port A and the controller cores. -/

namespace Sys2Proof.Machine

/-- A matching copy clears the count of mismatches, the first mismatch counts, and the second is logged (R388). -/
theorem Main.copyCheckCore_counts {m : Main} {c : Nat} (same : Bool) (hrun : (m.core.get c).runs = true) :
    m.copyCheckCore c same = if same then { m with core := m.core.put c { m.core.get c with bad := 0 } }
      else if (m.core.get c).bad = 0 then { m with core := m.core.put c { m.core.get c with bad := 1 } }
      else { m with core := m.core.put c { m.core.get c with bad := 0 } }.log! { code := 0xF003, cls := .rec_, par := p1 c } := by
  refine (if_neg (by simp [hrun])).trans ?_
  cases same
  case true => rfl
  case false => simp only [Bool.false_or, decide_eq_true_eq, Bool.false_eq_true, if_false]

/-- Settles O45: each row acts where its guard lets it, and then as its definition says. -/
theorem portResetsAndCoresComplete : Obligations.PortResetsAndCoresComplete := by
  refine ⟨?perst, ?release, ?function, ?miss, ?restarted, ?copyCheck⟩
  case perst =>
    intro s hperst m1
    exact congrArg s.nextMain (if_neg (by simp [hperst]))
  case release =>
    exact fun s refclk => rfl
  case function =>
    intro s m1 m2 doe
    rfl
  case miss =>
    intro s c hrun rs m1 m2 m3 m4
    exact congrArg s.nextMain (if_neg (by simp [hrun]))
  case restarted =>
    intro s c haux hbooted hstopped m1
    refine congrArg s.nextMain ((if_neg (by simp [haux, hbooted, hstopped])).trans ?_)
    rfl
  case copyCheck =>
    intro s c same hrun k
    exact congrArg s.nextMain (Main.copyCheckCore_counts same hrun)

end Sys2Proof.Machine
end
